-- ==== Sys2Proof/Word.lean ====
section
/-! DEFINITION. The word types of the machine and their plainest arithmetic (spec 00 R2, 01 R45). -/

namespace Sys2Proof

/-- One byte of memory (R3). -/
abbrev Byte := BitVec 8
/-- One lane word of a vector register (R27). -/
abbrev Word := BitVec 32
/-- A scalar or system register, an instruction, an address operand (R27, R40). -/
abbrev DWord := BitVec 64
/-- A mask register, bit L for virtual lane L (R19). -/
abbrev Mask := BitVec 1024

/-- `wrap(x, n)` (R45): x mod 2^n as an n-bit word. -/
abbrev wrap (n : Nat) (x : Int) : BitVec n := BitVec.ofInt n x

/-- `sat(x, lo, hi)` (R45). -/
def sat (x lo hi : Int) : Int := if x < lo then lo else if x > hi then hi else x

/-- Bits h down to l of x, as an unsigned number (R2). -/
def field {n : Nat} (x : BitVec n) (h l : Nat) : Nat := (x.toNat >>> l) % 2 ^ (h + 1 - l)

/-- `line(a)` (R45): the 128-byte line of a. -/
abbrev lineOf (a : Nat) : Nat := a / 128

end Sys2Proof
end

