-- ==== Sys2Proof/Config.lean ====
section
/-! DEFINITION. What the spec leaves to the implementation. Each constant has no body, so that no proof can rest on its
value. A meaning reads a free value at the counter `State.free`, which it advances, or at the operands it depends on. -/

namespace Sys2Proof

/-- A free value of w bits, the n-th one read (log 6). -/
opaque Config.freeBits (w n : Nat) : BitVec w

/-- The approximate functions within their bounds, by function (0 frcp, 1 frsq, 2 exp2, 3 log2, 4 sin, 5 cos, 6 tanh),
VR type code and operand bits (R147, R148; log 6). -/
opaque Config.approx (fn ty : Nat) (x : DWord) : DWord

/-- The entry of a cell's footprint predictor that an access at a pc reads and writes (R270; log 9). -/
opaque Config.predictorIndex (die cell pc : Nat) : Nat

/-- The walker that a die gives a walk where several have a slot free (R288; log 14). -/
opaque Config.walkerOf (die page : Nat) : Nat

/-- Bytes of a block's saved context, by its numbers of registers, masks and tiles (R307; log 10). -/
opaque Config.contextBytes (teams granules tiles wides vault : Nat) : Nat

/-- Byte n of a context as a die writes it to its save area (R306; log 10). -/
opaque Config.savedByte (save n : Nat) : Byte

/-- SHA-512 of a byte string (R393, R399; log 11). -/
opaque Config.sha512 (l : List Byte) : BitVec 512

/-- A signature over a byte string checks (R393, R399; log 11). -/
opaque Config.verifies (image : List Byte) : Bool

/-- The version that a die's firmware image carries (R399). -/
opaque Config.imageVersion (image : List Byte) : Nat

/-- Bytes of the identity key's signature over a report body (R401; log 11). -/
opaque Config.signature (body : List Byte) : BitVec 1056

/-- Bytes of the public point and its certificate (R400; log 11). -/
opaque Config.identity : List Byte

/-- The boot ROM, which stage 0 measures (R401; log 11). -/
opaque Config.bootRom : List Byte

end Sys2Proof
end

