-- ==== Sys2Proof/Machine/Floats.lean ====
section
/-! DEFINITION. Floating-point arithmetic (chapter 02): the formats of R51, exact values, the one rounding of R55 to R57
with its flags (R60, R61), integer rounding (R58), and the operations built on them. -/

namespace Sys2Proof.Machine

/-- A floating-point format (R50, R51): exponent and significand widths, bias, largest finite encoding, and whether it has
infinities and NaNs. -/
structure Fmt where
  e    : Nat
  m    : Nat
  bias : Int
  max  : Nat
  inf  : Bool
  nan  : Bool
deriving DecidableEq, Repr

def fmtF64 : Fmt := ⟨11, 52, 1023, 0x7FEFFFFFFFFFFFFF, true, true⟩
def fmtF32 : Fmt := ⟨8, 23, 127, 0x7F7FFFFF, true, true⟩
def fmtF16 : Fmt := ⟨5, 10, 15, 0x7BFF, true, true⟩
def fmtBF16 : Fmt := ⟨8, 7, 127, 0x7F7F, true, true⟩
def fmtE5M2 : Fmt := ⟨5, 2, 15, 0x7B, true, true⟩
def fmtE4M3 : Fmt := ⟨4, 3, 7, 0x7E, false, true⟩
def fmtE3M2 : Fmt := ⟨3, 2, 3, 0x1F, false, false⟩
def fmtE2M3 : Fmt := ⟨2, 3, 1, 0x1F, false, false⟩
def fmtE2M1 : Fmt := ⟨2, 1, 1, 0x7, false, false⟩

/-- Bits of an encoding. -/
def Fmt.bits (f : Fmt) : Nat := f.e + f.m + 1
/-- The sign bit in place. -/
def Fmt.sign (f : Fmt) (s : Bool) : Nat := if s then 2 ^ (f.e + f.m) else 0
/-- The encoding of infinity, without its sign. -/
def Fmt.infBits (f : Fmt) : Nat := (2 ^ f.e - 1) * 2 ^ f.m
/-- The canonical NaN (R51, R52). -/
def Fmt.nanBits (f : Fmt) : Nat := if f.inf then f.infBits + 2 ^ (f.m - 1) else 0x7F

/-- A value: NaN (signalling or not), infinity of a sign, or (−1)^s × m × 2^e exactly. -/
inductive FV where
  | nan (signalling : Bool)
  | inf (s : Bool)
  | fin (s : Bool) (m : Nat) (e : Int)
deriving DecidableEq, Repr

/-- The value of an encoding (R50 to R52). -/
def Fmt.value (f : Fmt) (x : Nat) : FV :=
  let x := x % 2 ^ f.bits
  let s := decide (2 ^ (f.e + f.m) ≤ x)
  let a := x % 2 ^ (f.e + f.m)
  let ef := a / 2 ^ f.m
  let mf := a % 2 ^ f.m
  if f.inf && ef == 2 ^ f.e - 1 then
    if mf = 0 then .inf s else .nan (decide (mf < 2 ^ (f.m - 1)))
  else if f.nan && !f.inf && a == 0x7F then .nan false
  else if ef = 0 then .fin s mf (1 - f.bias - f.m)
  else .fin s (2 ^ f.m + mf) (ef - f.bias - f.m)

/-- FPFLAGS bits (R40, R61). -/
abbrev Fl := BitVec 5
def flNX : Fl := 1
def flUF : Fl := 2
def flOF : Fl := 4
def flDZ : Fl := 8
def flNV : Fl := 16
/-- A flag under a condition. -/
def flIf (b : Bool) (f : Fl) : Fl := if b then f else 0

/-- The member of the integers that a rounding mode selects from q + r, r a remainder of known place: `low` is the discarded
part against one half (below, at, above), `exact` whether nothing is discarded (R54, R55). -/
def roundUp (mode : Nat) (s : Bool) (q : Nat) (exact : Bool) (low : Ordering) : Bool :=
  if exact then false
  else match mode with
    | 0 => low == .gt || (low == .eq && q % 2 == 1)
    | 1 => false
    | 2 => !s
    | _ => s

/-- m × 2^(−sh) rounded to an integer; `st` says that a nonzero amount below the last bit of m was dropped. -/
def roundShift (mode : Nat) (s : Bool) (m sh : Nat) (st : Bool) : Nat × Bool :=
  let q := m / 2 ^ sh
  let r := m % 2 ^ sh
  let exact := r == 0 && !st
  let low := if sh = 0 then Ordering.lt
    else if r < 2 ^ (sh - 1) then .lt else if r = 2 ^ (sh - 1) && !st then .eq else .gt
  (if roundUp mode s q exact low then q + 1 else q, exact)

/-- The significand of m × 2^e at the last place k. -/
def roundAt (mode : Nat) (s : Bool) (m : Nat) (e k : Int) (st : Bool) : Nat × Bool :=
  if e < k then roundShift mode s m (k - e).toNat st else (m * 2 ^ (e - k).toNat, !st)

/-- What overflow writes (R56). -/
def Fmt.overflow (f : Fmt) (mode : Nat) (s : Bool) : Nat :=
  if f.inf && (mode == 0 || (mode == 2 && !s) || (mode == 3 && s)) then f.infBits else f.max

/-- round_to of a value that is not zero (R55, R56) with its flags (R61); `ftz` flushes a subnormal result (R60). -/
def Fmt.roundNZ (f : Fmt) (mode : Nat) (ftz s : Bool) (m : Nat) (e : Int) (st : Bool) : Nat × Fl :=
  let top := e + Nat.log2 m
  let kmin : Int := 1 - f.bias - f.m
  let k0 := top - f.m
  let k := Max.max k0 kmin
  let (q, exact) := roundAt mode s m e k st
  let mag := ((k + f.m + f.bias - 1).toNat) * 2 ^ f.m + q
  let tiny := decide (k0 < kmin) && !(k0 + 1 == kmin && (roundAt mode s m e k0 st).1 == 2 ^ (f.m + 1))
  if f.max < mag then (f.sign s + f.overflow mode s, flOF ||| flNX)
  else if ftz && mag != 0 && decide (mag < 2 ^ f.m) then (f.sign s, flUF ||| flNX)
  else (f.sign s + mag, flIf (!exact) flNX ||| flIf (tiny && !exact) flUF)

/-- round_to of (−1)^s × m × 2^e; an exact zero keeps the sign s. -/
def Fmt.round (f : Fmt) (mode : Nat) (ftz s : Bool) (m : Nat) (e : Int) (st : Bool := false) : Nat × Fl :=
  if m = 0 then (f.sign s, 0) else f.roundNZ mode ftz s m e st

/-- The canonical NaN as a result. -/
def Fmt.nanRes (f : Fmt) (nv : Bool) : Nat × Fl := (f.nanBits, flIf nv flNV)

/-- Write a value into a format (R55 to R59). -/
def Fmt.ofValue (f : Fmt) (mode : Nat) (ftz : Bool) : FV → Nat × Fl
  | .nan sg => if f.nan then f.nanRes sg else (0, flNV)
  | .inf s => if f.inf then (f.sign s + f.infBits, 0) else (f.sign s + f.max, flNV)
  | .fin s m e => f.round mode ftz s m e

/-- Is a signalling NaN. -/
def FV.snan : FV → Bool | .nan b => b | _ => false
def FV.isNan : FV → Bool | .nan _ => true | _ => false
def FV.isInf : FV → Bool | .inf _ => true | _ => false
def FV.isZero : FV → Bool | .fin _ m _ => m == 0 | _ => false
def FV.neg? : FV → Bool | .nan _ => false | .inf s => s | .fin s _ _ => s
/-- Invert the sign. -/
def FV.negate : FV → FV | .nan b => .nan b | .inf s => .inf (!s) | .fin s m e => .fin (!s) m e
/-- |x|. -/
def FV.abs : FV → FV | .nan b => .nan b | .inf _ => .inf false | .fin _ m e => .fin false m e

/-- A subnormal f32 source reads as a zero of its sign under FTZ (R60). -/
def flushIn (f : Fmt) (ftz : Bool) : FV → FV
  | .fin s m e => if ftz && decide (m < 2 ^ f.m) then .fin s 0 e else .fin s m e
  | v => v

/-- The exact signed integer m × 2^(e − b) of a finite value, b at most e. -/
def FV.at (b : Int) : FV → Int
  | .fin s m e => let x : Int := m * 2 ^ (e - b).toNat; if s then -x else x
  | _ => 0

/-- The least exponent of finite values. -/
def minExp (l : List FV) : Int :=
  l.foldl (fun b v => match v with | .fin _ _ e => min b e | _ => b)
    (match l with | (.fin _ _ e) :: _ => e | _ => 0)

/-- The exact product (R61): invalid for 0 × ∞. -/
def mulFV (a b : FV) : FV × Bool :=
  let nv := a.snan || b.snan || (a.isZero && b.isInf) || (a.isInf && b.isZero)
  if a.isNan || b.isNan || (a.isZero && b.isInf) || (a.isInf && b.isZero) then (.nan false, nv)
  else match a, b with
    | .fin s m e, .fin t n g => (.fin (s != t) (m * n) (e + g), nv)
    | _, _ => (.inf (a.neg? != b.neg?), nv)

/-- The exact sum of values (R57, R61): a NaN, an infinity, or a signed dyadic. -/
def sumFV (mode : Nat) (l : List FV) : FV × Bool :=
  let nv := l.any FV.snan || (l.contains (.inf false) && l.contains (.inf true))
  if l.any FV.isNan || (l.contains (.inf false) && l.contains (.inf true)) then (.nan false, nv)
  else if l.contains (.inf false) then (.inf false, nv)
  else if l.contains (.inf true) then (.inf true, nv)
  else
    let b := minExp l
    let x := (l.map (FV.at b)).sum
    if x = 0 then
      (.fin (if l.all (fun v => v.isZero && !v.neg?) then false
             else if l.all (fun v => v.isZero && v.neg?) then true else mode == 3) 0 0, nv)
    else (.fin (decide (x < 0)) x.natAbs b, nv)

/-- The flags of an operation that gave a value and an invalid mark. -/
def finishFV (f : Fmt) (mode : Nat) (ftz : Bool) (r : FV × Bool) : Nat × Fl :=
  let (x, fl) := f.ofValue mode ftz r.1
  (x, fl ||| flIf r.2 flNV)

def fAdd (f : Fmt) (mode : Nat) (ftz : Bool) (a b : FV) : Nat × Fl := finishFV f mode ftz (sumFV mode [a, b])
def fMul (f : Fmt) (mode : Nat) (ftz : Bool) (a b : FV) : Nat × Fl := finishFV f mode ftz (mulFV a b)
/-- a × b + c with one rounding; 0 × ∞ is invalid whatever c is (R144). -/
def fFma (f : Fmt) (mode : Nat) (ftz : Bool) (a b c : FV) : Nat × Fl :=
  let (p, nv) := mulFV a b
  let (r, nv') := sumFV mode [p, c]
  finishFV f mode ftz (r, nv || nv')

/-- a before b in the order with −0 below +0; neither is a NaN (R145). -/
def FV.lt (a b : FV) : Bool :=
  match a, b with
  | .inf s, .inf t => s && !t
  | .inf s, _ => s
  | _, .inf t => !t
  | .fin s m e, .fin t n g =>
    let lo := min e g
    let x := FV.at lo (.fin s m e); let y := FV.at lo (.fin t n g)
    decide (x < y)
  | _, _ => false
/-- Equal in value, zeros of either sign alike (R50). -/
def FV.eqv (a b : FV) : Bool := !a.isNan && !b.isNan && !a.lt b && !b.lt a

/-- The lesser (or greater) of two, as encodings (R145). -/
def fMinMax (f : Fmt) (max : Bool) (x y : Nat) (a b : FV) : Nat × Fl :=
  let nv := flIf (a.snan || b.snan) flNV
  let za := if a.isZero then f.sign a.neg? else x
  let zb := if b.isZero then f.sign b.neg? else y
  if a.isNan && b.isNan then (f.nanBits, nv)
  else if a.isNan then (zb, nv)
  else if b.isNan then (za, nv)
  else
    let less := a.lt b || (a.isZero && b.isZero && a.neg? && !b.neg?)
    (if less != max then za else zb, nv)

/-- The conditions of R146. -/
def fCmp (cc : Nat) (a b : FV) : Bool × Fl :=
  let un := a.isNan || b.isNan
  let r := match cc with
    | 0 => !un && a.eqv b
    | 1 => un || !a.eqv b
    | 2 | 8 => !un && a.lt b
    | 3 | 9 => !un && !b.lt a
    | 4 | 10 => !un && b.lt a
    | 5 | 11 => !un && !a.lt b
    | 6 => un
    | _ => !un
  (r, flIf (if 8 ≤ cc then un else a.snan || b.snan) flNV)

/-- round_to for an integer format of range lo to hi (R58). -/
def toIntFV (mode : Nat) (lo hi : Int) : FV → Int × Fl
  | .nan _ => (0, flNV)
  | .inf s => (if s then lo else hi, flNV)
  | .fin s m e =>
    let (q, exact) := roundAt mode s m e 0 false
    let x : Int := if s then -q else q
    if x < lo then (lo, flNV) else if hi < x then (hi, flNV) else (x, flIf (!exact) flNX)

/-- The greatest integer whose square is at most n, for n below 4^k. -/
def isqrt : Nat → Nat → Nat
  | 0, _ => 0
  | k + 1, n =>
    let r := 2 * isqrt k (n / 4)
    if (r + 1) * (r + 1) ≤ n then r + 1 else r

/-- √a correctly rounded (R147, R149). -/
def fSqrt (f : Fmt) (mode : Nat) (ftz : Bool) : FV → Nat × Fl
  | .nan sg => f.nanRes sg
  | .inf s => if s then f.nanRes true else (f.infBits, 0)
  | .fin s m e =>
    if m = 0 then (f.sign s, 0)
    else if s then f.nanRes true
    else
      let odd := e % 2 != 0
      let m := if odd then 2 * m else m
      let e := if odd then e - 1 else e
      let n := m * 4 ^ (f.m + 3)
      let r := isqrt (f.m * 2 + 8) n
      f.round mode ftz false r (e / 2 - (f.m + 3)) (r * r != n)

/-- Integral value in a's format (R147). -/
def fRnd (f : Fmt) (mode : Nat) (ftz : Bool) (x : Nat) (a : FV) : Nat × Fl :=
  match a with
  | .nan sg => f.nanRes sg
  | .inf _ => (x, 0)
  | .fin s m e =>
    if m = 0 then (f.sign s, 0)
    else if 0 ≤ e then (x, 0)
    else
      let (q, _) := roundAt mode s m e 0 false
      ((f.round mode ftz s q 0).1, 0)

/-- round(a × 2^n) (R150). -/
def fScale (f : Fmt) (mode : Nat) (ftz : Bool) (a : FV) (n : Int) : Nat × Fl :=
  match a with
  | .nan sg => f.nanRes sg
  | .inf s => (f.sign s + f.infBits, 0)
  | .fin s m e =>
    let lim : Int := 5000
    f.round mode ftz s m (e + max (-lim) (min lim n))

/-- The class word (R150). -/
def fClass (f : Fmt) : FV → Nat
  | .nan sg => if sg then 256 else 512
  | .inf s => if s then 1 else 128
  | .fin s m _ =>
    if m = 0 then (if s then 8 else 16)
    else if m < 2 ^ f.m then (if s then 4 else 32) else (if s then 2 else 64)

/-- floor(log2 |a|) within an integer of n bits (R150). -/
def fExp (n : Nat) : FV → Int
  | .fin _ m e => if m = 0 then -(2 ^ (n - 1)) else e + Nat.log2 m
  | _ => 2 ^ (n - 1) - 1

/-- The exact f64 encoding of an f32 word; a NaN gives the canonical NaN (R88). -/
def f32to64 (x : Word) : DWord :=
  BitVec.ofNat 64 (match fmtF32.value x.toNat with
    | .nan _ => fmtF64.nanBits
    | v => (fmtF64.ofValue 0 false v).1)

/-! ## The approximations and their bounds (R147 to R149)

An approximate function gives a free value inside its bound. The bound is decided against a reference value, a dyadic
number whose own error is far below the bound. -/

/-- Fraction bits of the fixed-point references. -/
def fxBits : Nat := 160
def fxOne : Int := 2 ^ fxBits
/-- ln 2 in fixed point. -/
def fxLn2 : Int := 0xb17217f7d1cf79abc9e3b39803f2f6af40f34326
/-- 2π in units of 2^−300. -/
def twoPi300 : Int := 0x6487ed5110b4611a62633145c06e0e68948127044533e63a0105df531d89cd9128a5043cc71a

/-- x · y in fixed point. -/
def fxMul (x y : Int) : Int := x * y / fxOne

/-- Σ x^k / k!: n terms from the term number k − 1. -/
def fxExp (x : Int) : Nat → Nat → Int → Int
  | 0, _, _ => 0
  | n + 1, k, term => term + fxExp x n (k + 1) (fxMul term x / k)

/-- An alternating series in x²: each term is the one before times −x² / (k (k + 1)). -/
def fxAlt (x2 : Int) : Nat → Nat → Int → Int
  | 0, _, _ => 0
  | n + 1, k, term => term + fxAlt x2 n (k + 2) (-(fxMul term x2) / (k * (k + 1)))

/-- Fraction bits of log2 x, x in [1, 2), by repeated squaring. -/
def fxLog : Nat → Int → Int → Int
  | 0, _, acc => acc
  | n + 1, x, acc =>
    let y := fxMul x x
    if 2 * fxOne ≤ y then fxLog n (y / 2) (2 * acc + 1) else fxLog n y (2 * acc)

/-- n squarings. -/
def fxPow2 : Nat → Int → Int
  | 0, x => x
  | n + 1, x => fxPow2 n (fxMul x x)

/-- m × 2^e in fixed point. -/
def toFx (m : Nat) (e : Int) : Int :=
  if 0 ≤ e + fxBits then (m * 2 ^ (e + fxBits).toNat : Nat) else (m / 2 ^ (-(e + fxBits)).toNat : Nat)

/-- The reference of tanh of m × 2^e, m positive: below 2^−50 the value less one part in 2^100, as tanh x lies below x. -/
def refTanh (m : Nat) (e : Int) : Int × Int :=
  let x := toFx m e
  let fx (y : Int) : Int × Int := (y, -fxBits)
  if e + Nat.log2 m < -50 then ((m * 2 ^ 100 - 1 : Nat), e - 100)
  else fx <| if x < fxOne / 1024 then
    let x2 := fxMul x x
    let x3 := fxMul x x2; let x5 := fxMul x3 x2; let x7 := fxMul x5 x2
    x - x3 / 3 + 2 * x5 / 15 - 17 * x7 / 315
  else if 30 * fxOne < x then fxOne - 1
  else
    let y := fxPow2 6 (fxExp (2 * x / 64) 50 1 fxOne)
    (y - fxOne) * fxOne / (y + fxOne)

/-- The reference of function fn (0 frcp, 1 frsq, 2 exp2, 3 log2, 4 sin, 5 cos, 6 tanh) of (−1)^s × m × 2^e, m nonzero:
a signed significand and an exponent. -/
def refValue (fn : Nat) (s : Bool) (m : Nat) (e : Int) : Int × Int :=
  let sg (x : Int) : Int := if s then -x else x
  match fn with
  | 0 =>
    let p := Nat.log2 m + 121
    (sg ((2 ^ p / m : Nat) : Int), -e - p)
  | 1 =>
    let m := if e % 2 != 0 then 2 * m else m
    let e := if e % 2 != 0 then e - 1 else e
    let p := Nat.log2 m + 121
    ((isqrt (p + 2) (2 ^ (2 * p) / m) : Int), -(e / 2) - p)
  | 2 =>
    if 9 ≤ e + Nat.log2 m then (if s then (1, -400) else (1, 400))
    else
      let x := sg (toFx m e)
      (fxExp (fxMul (x % fxOne) fxLn2) 60 1 fxOne, x / fxOne - fxBits)
  | 3 =>
    let k := Nat.log2 m
    let x : Int := (m * 2 ^ fxBits / 2 ^ k : Nat)
    ((e + k) * 2 ^ 120 + fxLog 120 x 0, -120)
  | 4 | 5 =>
    let n : Int := if 0 ≤ e + 300 then (m * 2 ^ (e + 300).toNat : Nat) else (m / 2 ^ (-(e + 300)).toNat : Nat)
    let x := (n % twoPi300) / 2 ^ 140
    let x2 := fxMul x x
    (if fn = 4 then sg (fxAlt x2 60 2 x) else fxAlt x2 60 1 fxOne, -fxBits)
  | _ => let r := refTanh m e; (sg r.1, r.2)

/-- |x × 2^e| ≤ |y × 2^g| (or below it). -/
def dyLe (strict : Bool) (x e y g : Int) : Bool :=
  let b := min e g
  let u := x.natAbs * 2 ^ (e - b).toNat
  let w := y.natAbs * 2 ^ (g - b).toNat
  if strict then u < w else u ≤ w

/-- The difference of two dyadics. -/
def dySub (x e y g : Int) : Int × Int :=
  let b := min e g
  (x * 2 ^ (e - b).toNat - y * 2 ^ (g - b).toNat, b)

/-- The exponent of one ulp of a value whose top bit stands at t (R148). -/
def ulpExp (f : Fmt) (t : Int) : Int := max t (1 - f.bias) - f.m

/-- A delivered finite value v lies within the bound of function fn of a value whose reference is r (R148). -/
def inBound (f : Fmt) (fn : Nat) (inUnit : Bool) (r : Int × Int) (v : Int × Int) : Bool :=
  let d := dySub v.1 v.2 r.1 r.2
  let u := ulpExp f (r.2 + Nat.log2 r.1.natAbs)
  if f.m = 52 then dyLe true d.1 d.2 r.1 (r.2 - 28)
  else match fn with
    | 0 => dyLe false d.1 d.2 1 u
    | 3 => if inUnit then dyLe false d.1 d.2 1 (-22) else dyLe false d.1 d.2 1 (u + 1)
    | 4 | 5 => dyLe false d.1 d.2 1 (-21)
    | _ => dyLe false d.1 d.2 1 (u + 1)

/-- The reference lies so high that the result may be infinite. -/
def mayOverflow (f : Fmt) (r : Int × Int) : Bool :=
  let t := r.2 + Nat.log2 r.1.natAbs
  match f.value f.max with
  | .fin _ m e => !dyLe true (r.1.natAbs + 2 ^ (Nat.log2 r.1.natAbs + 2 - f.m)) r.2 m e && decide (f.bias ≤ t + 1)
  | _ => false

/-- The signed dyadic of a value. -/
def FV.dy : FV → Int × Int
  | .fin s m e => (if s then -(m : Int) else m, e)
  | _ => (0, 0)

/-- The delivered result: the free value x where it lies within the bound, otherwise the reference rounded to nearest. -/
def delivered (f : Fmt) (fn : Nat) (inUnit : Bool) (r : Int × Int) (x : Nat) : Nat :=
  let x := x % 2 ^ f.bits
  let v := f.value x
  let good := match v with
    | .nan _ => false
    | .inf s => mayOverflow f r && s == decide (r.1 < 0)
    | v => inBound f fn inUnit r v.dy && decide (r.2 + Nat.log2 r.1.natAbs ≤ f.bias)
  if good then x else (f.round 0 false (decide (r.1 < 0)) r.1.natAbs r.2).1

/-- Flags of a delivered approximation (R149): NX on a finite one, OF for infinity, UF for a tiny one. -/
def approxFlags (f : Fmt) (x : Nat) : Fl :=
  let a := x % 2 ^ (f.e + f.m)
  if a = f.infBits then flOF ||| flNX else flNX ||| flIf (decide (a < 2 ^ f.m)) flUF

/-- The exact cases of R149: none where the result is an approximation. -/
def exactCase (f : Fmt) (fn : Nat) (a : FV) : Option (Nat × Fl) :=
  let one := (f.round 0 false false 1 0).1
  match a with
  | .nan sg => some (f.nanRes sg)
  | .inf s => match fn with
    | 0 => some (f.sign s, 0)
    | 1 => some (if s then f.nanRes true else (0, 0))
    | 2 => some (if s then 0 else f.infBits, 0)
    | 3 => some (if s then f.nanRes true else (f.infBits, 0))
    | 4 | 5 => some (f.nanRes true)
    | _ => some (f.sign s + one, 0)
  | .fin s m e =>
    if m = 0 then match fn with
      | 0 | 1 => some (f.sign s + f.infBits, flDZ)
      | 2 => some (one, 0)
      | 3 => some (f.sign true + f.infBits, flDZ)
      | 5 => some (one, 0)
      | _ => some (f.sign s, 0)
    else
      let k := Nat.log2 m
      let t := e + k
      let pow := m == 2 ^ k
      match fn with
      | 0 => if pow && decide (1 - f.bias ≤ -t ∧ -t ≤ f.bias) then some (f.round 0 false s 1 (-t)) else none
      | 1 => if s then some (f.nanRes true) else if pow && t % 2 == 0 then some (f.round 0 false false 1 (-(t / 2))) else none
      | 2 =>
        let x := FV.at (min e 0) (.fin s m e)
        let d : Int := 2 ^ (-(min e 0)).toNat
        if x % d == 0 && decide (1 - f.bias - f.m ≤ x / d ∧ x / d ≤ f.bias) then some ((f.round 0 false false 1 (x / d)).1, 0) else none
      | 3 => if s then some (f.nanRes true) else if pow then some ((f.round 0 false (decide (t < 0)) t.natAbs 0).1, 0) else none
      | _ => none

/-- A value of [0.5, 2] (R148). -/
def inUnitRange : FV → Bool
  | .fin _ m e => m != 0 && (let t := e + Nat.log2 m; t == -1 || t == 0 || (t == 1 && m == 2 ^ Nat.log2 m))
  | _ => false

/-- An approximate function in f32 or f64 with the free value x (R147 to R149); `ftz` flushes a subnormal result. -/
def fApprox (f : Fmt) (fn : Nat) (ftz : Bool) (a : FV) (x : Nat) : Nat × Fl :=
  let flush (r : Nat × Fl) : Nat × Fl :=
    let mag := r.1 % 2 ^ (f.e + f.m)
    if ftz && mag != 0 && decide (mag < 2 ^ f.m) then (r.1 - mag, r.2 ||| flUF ||| flNX) else r
  match exactCase f fn a, a with
  | some r, _ => flush r
  | none, .fin s m e =>
    let y := delivered f fn (inUnitRange a) (refValue fn s m e) x
    flush (y, approxFlags f y)
  | none, _ => (f.nanBits, 0)

/-- The same for an element of a packed type: through f32, rounded to nearest in the element's format (R147). -/
def fApproxElem (f : Fmt) (fn : Nat) (a : FV) (x : Nat) : Nat × Fl :=
  let (y, fl) := fApprox fmtF32 fn false a x
  let (z, fl') := f.ofValue 0 false (fmtF32.value y)
  let mag := z % 2 ^ (f.e + f.m)
  (z, fl ||| fl' ||| flIf (fl.getLsbD 0 && decide (mag < 2 ^ f.m)) flUF)

end Sys2Proof.Machine
end

