-- ==== Sys2Proof/Syntax.lean ====
section
/-! DEFINITION. The instructions and the device steps: one constructor for each row of the opcode table. An encoded
instruction holds the fields of its format (R86 to R98), so that no bit of a word is lost; a device step holds what
names the agent or the object that steps. -/

namespace Sys2Proof

/-- A 16-bit source field: register, read-path pattern, parameter (R87). -/
structure Src where
  reg : BitVec 7
  pat : BitVec 3
  k   : BitVec 6
deriving DecidableEq, Repr

/-- The 14-bit third source field of the VF format (R87). -/
structure SrcC where
  reg : BitVec 7
  pat : BitVec 3
  k   : BitVec 4
deriving DecidableEq, Repr

/-- VR format fields (R86). -/
structure VR where
  ty    : BitVec 3
  vd    : BitVec 7
  a     : Src
  b     : Src
  fs    : Bool
  satna : Bool
  nb    : Bool
  pred  : BitVec 3
  mod   : BitVec 4
deriving DecidableEq, Repr

/-- VF format fields below FN (R92). -/
structure VF where
  ty : BitVec 3
  vd : BitVec 7
  a  : Src
  b  : Src
  c  : SrcC
deriving DecidableEq, Repr

/-- SR format fields (R93). -/
structure SR where
  sd  : BitVec 6
  sa  : BitVec 6
  i   : Bool
  sb  : BitVec 6
  rsv : Bool
  imm : BitVec 32
deriving DecidableEq, Repr

/-- BR format fields (R94). -/
structure BR where
  creg  : BitVec 6
  ckind : BitVec 2
  off   : BitVec 44
deriving DecidableEq, Repr

/-- MEM format fields; `ox` and `fs` are function bits 53 and 52 (R95). -/
structure MEM where
  ox     : Bool
  fs     : Bool
  width  : BitVec 3
  vd     : BitVec 7
  base   : BitVec 6
  voff   : BitVec 7
  stream : BitVec 4
  scope  : BitVec 3
  policy : BitVec 2
  disp   : BitVec 20
deriving DecidableEq, Repr

/-- MX format fields (R96). -/
structure MX where
  td  : BitVec 4
  fa  : BitVec 4
  fb  : BitVec 4
  acc : BitVec 3
  fs  : Bool
  spa : Bool
  ns  : BitVec 4
  sa  : BitVec 6
  sb  : BitVec 6
  sc  : BitVec 6
  mod : BitVec 4
  imm : BitVec 9
deriving DecidableEq, Repr

/-- ENG format fields (R97). -/
structure ENG where
  sd     : BitVec 6
  ss     : BitVec 6
  sl     : BitVec 6
  sw     : BitVec 6
  stream : BitVec 4
  scope  : BitVec 3
  fs     : Bool
  mod    : BitVec 4
  imm    : BitVec 16
deriving DecidableEq, Repr

/-- SYS format fields (R98). -/
structure SYS where
  vd   : BitVec 7
  va   : BitVec 7
  vb   : BitVec 7
  sa   : BitVec 6
  sb   : BitVec 6
  fs   : Bool
  mod  : BitVec 4
  pred : BitVec 3
  imm  : BitVec 11
deriving DecidableEq, Repr

/-- The seven widths of `s.ld` in function order (R100, R115). -/
inductive LdW where | b8 | b16 | b32 | b64 | i8 | i16 | i32
deriving DecidableEq, Repr

/-- The four widths of `s.st` in function order (R100, R115). -/
inductive StW where | b8 | b16 | b32 | b64
deriving DecidableEq, Repr

/-- The two widths of `s.ldk` (R117). -/
inductive LdkW where | b32 | b64
deriving DecidableEq, Repr

/-- One constructor per row of the opcode table. -/
inductive Instr where
  /-- Device step R77. -/
  | clauseBegin (t : Nat)
  /-- Device step R301. -/
  | clauseContinue (t : Nat)
  /-- Device step R79. -/
  | longLatencyCompletion (t : Nat) (op : Nat)
  /-- `s.add` (R110). -/
  | sAdd (f : SR)
  /-- `s.sub` (R110). -/
  | sSub (f : SR)
  /-- `s.mul` (R110). -/
  | sMul (f : SR)
  /-- `s.mulh` (R110). -/
  | sMulh (f : SR)
  /-- `s.mulh.u` (R110). -/
  | sMulhU (f : SR)
  /-- `s.div` (R111). -/
  | sDiv (f : SR)
  /-- `s.div.u` (R111). -/
  | sDivU (f : SR)
  /-- `s.rem` (R111). -/
  | sRem (f : SR)
  /-- `s.rem.u` (R111). -/
  | sRemU (f : SR)
  /-- `s.min` (R110). -/
  | sMin (f : SR)
  /-- `s.min.u` (R110). -/
  | sMinU (f : SR)
  /-- `s.max` (R110). -/
  | sMax (f : SR)
  /-- `s.max.u` (R110). -/
  | sMaxU (f : SR)
  /-- `s.and` (R110). -/
  | sAnd (f : SR)
  /-- `s.or` (R110). -/
  | sOr (f : SR)
  /-- `s.xor` (R110). -/
  | sXor (f : SR)
  /-- `s.andn` (R110). -/
  | sAndn (f : SR)
  /-- `s.shl` (R110). -/
  | sShl (f : SR)
  /-- `s.shr` (R110). -/
  | sShr (f : SR)
  /-- `s.sra` (R110). -/
  | sSra (f : SR)
  /-- `s.mov` (R113). -/
  | sMov (f : SR)
  /-- `s.li` (R113). -/
  | sLi (f : SR)
  /-- `s.lih` (R113). -/
  | sLih (f : SR)
  /-- `s.bfe` (R114). -/
  | sBfe (f : SR)
  /-- `s.bfi` (R114). -/
  | sBfi (f : SR)
  /-- `s.clz` (R114). -/
  | sClz (f : SR)
  /-- `s.ctz` (R114). -/
  | sCtz (f : SR)
  /-- `s.popc` (R114). -/
  | sPopc (f : SR)
  /-- `s.cmp.eq` (R112). -/
  | sCmpEq (f : SR)
  /-- `s.cmp.ne` (R112). -/
  | sCmpNe (f : SR)
  /-- `s.cmp.lt` (R112). -/
  | sCmpLt (f : SR)
  /-- `s.cmp.le` (R112). -/
  | sCmpLe (f : SR)
  /-- `s.cmp.gt` (R112). -/
  | sCmpGt (f : SR)
  /-- `s.cmp.ge` (R112). -/
  | sCmpGe (f : SR)
  /-- `s.cmp.lt.u` (R112). -/
  | sCmpLtU (f : SR)
  /-- `s.cmp.le.u` (R112). -/
  | sCmpLeU (f : SR)
  /-- `s.cmp.gt.u` (R112). -/
  | sCmpGtU (f : SR)
  /-- `s.cmp.ge.u` (R112). -/
  | sCmpGeU (f : SR)
  /-- `s.sel` (R112). -/
  | sSel (f : SR)
  /-- `s.ld` (R115). -/
  | sLd (w : LdW) (f : SR)
  /-- `s.st` (R115). -/
  | sSt (w : StW) (f : SR)
  /-- `s.ldk` (R117). -/
  | sLdk (w : LdkW) (f : SR)
  /-- `s.rdsys` (R118). -/
  | sRdsys (f : SR)
  /-- `s.wrsys` (R118). -/
  | sWrsys (f : SR)
  /-- Device step R61. -/
  | fpflags (f : SR)
  /-- Device step R40. -/
  | teamstat (f : SR)
  /-- `br` (R119). -/
  | br (f : BR)
  /-- `brz` (R119). -/
  | brz (f : BR)
  /-- `brnz` (R119). -/
  | brnz (f : BR)
  /-- `bany` (R119). -/
  | bany (f : BR)
  /-- `ball` (R119). -/
  | ball (f : BR)
  /-- `call` (R120). -/
  | call (f : BR)
  /-- `ret` (R120). -/
  | ret (f : BR)
  /-- `jmpi` (R120). -/
  | jmpi (f : BR)
  /-- `exit` (R121). -/
  | exit (f : BR)
  /-- `nop` (R121). -/
  | nop (f : SR)
  /-- `waitf` (R121). -/
  | waitf (f : SR)
  /-- `yield` (R121). -/
  | yield (f : SR)
  /-- `brk` (R122). -/
  | brk (f : SYS)
  /-- `trap` (R122). -/
  | trap (f : SYS)
  /-- `tret` (R122). -/
  | tret (f : SYS)
  /-- `bdiv` (R124). -/
  | bdiv (f : BR)
  /-- `belse` (R124). -/
  | belse (f : BR)
  /-- `bjoin` (R124). -/
  | bjoin (f : BR)
  /-- `bloop` (R126). -/
  | bloop (f : BR)
  /-- `bbrk` (R126). -/
  | bbrk (f : BR)
  /-- `m.and` (R128). -/
  | mAnd (f : SR)
  /-- `m.or` (R128). -/
  | mOr (f : SR)
  /-- `m.xor` (R128). -/
  | mXor (f : SR)
  /-- `m.andn` (R128). -/
  | mAndn (f : SR)
  /-- `m.not` (R128). -/
  | mNot (f : SR)
  /-- `m.mov` (R128). -/
  | mMov (f : SR)
  /-- `m.from` (R129). -/
  | mFrom (f : VR)
  /-- `m.to` (R129). -/
  | mTo (f : VR)
  /-- `m.popc` (R129). -/
  | mPopc (f : SR)
  /-- `m.first` (R129). -/
  | mFirst (f : SR)
  /-- `m.compact` (R130). -/
  | mCompact (f : SR)
  /-- `m.uncompact` (R130). -/
  | mUncompact (f : SR)
  /-- `racq` (R131). -/
  | racq (f : SR)
  /-- Device step R131. -/
  | registerQueueGrant (cell : Nat)
  /-- `rrel` (R132). -/
  | rrel (f : SR)
  /-- `pmark` (R134). -/
  | pmark (f : SR)
  /-- `v.add` (R139). -/
  | vAdd (f : VR)
  /-- `v.sub` (R139). -/
  | vSub (f : VR)
  /-- `v.mul` (R139). -/
  | vMul (f : VR)
  /-- `v.mulh` (R139). -/
  | vMulh (f : VR)
  /-- `v.min` (R139). -/
  | vMin (f : VR)
  /-- `v.max` (R139). -/
  | vMax (f : VR)
  /-- `v.abs` (R139). -/
  | vAbs (f : VR)
  /-- `v.mad` (R139). -/
  | vMad (f : VF)
  /-- `v.and` (R140). -/
  | vAnd (f : VR)
  /-- `v.or` (R140). -/
  | vOr (f : VR)
  /-- `v.xor` (R140). -/
  | vXor (f : VR)
  /-- `v.andn` (R140). -/
  | vAndn (f : VR)
  /-- `v.shl` (R140). -/
  | vShl (f : VR)
  /-- `v.shr` (R140). -/
  | vShr (f : VR)
  /-- `v.sra` (R140). -/
  | vSra (f : VR)
  /-- `v.cmp` (R141). -/
  | vCmp (f : VR)
  /-- `v.sel` (R141). -/
  | vSel (f : VR)
  /-- `v.clz` (R142). -/
  | vClz (f : VR)
  /-- `v.popc` (R142). -/
  | vPopc (f : VR)
  /-- `v.brev` (R142). -/
  | vBrev (f : VR)
  /-- `v.bfe` (R142). -/
  | vBfe (f : VF)
  /-- `v.bfi` (R142). -/
  | vBfi (f : VF)
  /-- `v.mov` (R143). -/
  | vMov (f : VR)
  /-- `v.li` (R143). -/
  | vLi (f : VR)
  /-- `v.lane` (R143). -/
  | vLane (f : VR)
  /-- `v.fadd` (R144). -/
  | vFadd (f : VR)
  /-- `v.fmul` (R144). -/
  | vFmul (f : VR)
  /-- `v.fma` (R144). -/
  | vFma (f : VF)
  /-- `v.fmin` (R145). -/
  | vFmin (f : VR)
  /-- `v.fmax` (R145). -/
  | vFmax (f : VR)
  /-- `v.fcmp` (R146). -/
  | vFcmp (f : VR)
  /-- `v.frnd` (R147). -/
  | vFrnd (f : VR)
  /-- `v.frcp` (R147). -/
  | vFrcp (f : VR)
  /-- `v.frsq` (R147). -/
  | vFrsq (f : VR)
  /-- `v.fsqrt` (R147). -/
  | vFsqrt (f : VR)
  /-- `v.exp2` (R147). -/
  | vExp2 (f : VR)
  /-- `v.log2` (R147). -/
  | vLog2 (f : VR)
  /-- `v.sin` (R147). -/
  | vSin (f : VR)
  /-- `v.cos` (R147). -/
  | vCos (f : VR)
  /-- `v.tanh` (R147). -/
  | vTanh (f : VR)
  /-- `v.fclass` (R150). -/
  | vFclass (f : VR)
  /-- `v.fscale` (R150). -/
  | vFscale (f : VR)
  /-- `v.fexp` (R150). -/
  | vFexp (f : VR)
  /-- `v.cvt` (R151). -/
  | vCvt (f : VR)
  /-- `v.pk` (R152). -/
  | vPk (f : VR)
  /-- `v.dot2` (R152). -/
  | vDot2 (f : VF)
  /-- `v.dot4` (R152). -/
  | vDot4 (f : VF)
  /-- `v.mxq` (R153). -/
  | vMxq (f : VR)
  /-- `v.mxd` (R153). -/
  | vMxd (f : VR)
  /-- `v.bpk` (R154). -/
  | vBpk (f : VR)
  /-- `v.bpu` (R154). -/
  | vBpu (f : VR)
  /-- `v.bpand` (R154). -/
  | vBpand (f : VR)
  /-- `shp.set` (R155). -/
  | shpSet (f : SR)
  /-- `v.tidx` (R156). -/
  | vTidx (f : VR)
  /-- `v.shfl` (R158). -/
  | vShfl (f : VR)
  /-- `v.vote` (R159). -/
  | vVote (f : VR)
  /-- `v.red` (R160). -/
  | vRed (f : VR)
  /-- `v.scan` (R160). -/
  | vScan (f : VR)
  /-- `ld` (R166). -/
  | ld (f : MEM)
  /-- `st` (R166). -/
  | st (f : MEM)
  /-- `prf` (R166). -/
  | prf (f : MEM)
  /-- `lds` (R167). -/
  | lds (f : MEM)
  /-- `sts` (R167). -/
  | sts (f : MEM)
  /-- `ldv` (R168). -/
  | ldv (f : MEM)
  /-- `a.casv` (R168). -/
  | aCasv (f : MEM)
  /-- `valset` (R170). -/
  | valset (f : MEM)
  /-- `a.add` (R173). -/
  | aAdd (f : MEM)
  /-- `a.min` (R173). -/
  | aMin (f : MEM)
  /-- `a.max` (R173). -/
  | aMax (f : MEM)
  /-- `a.and` (R173). -/
  | aAnd (f : MEM)
  /-- `a.or` (R173). -/
  | aOr (f : MEM)
  /-- `a.xor` (R173). -/
  | aXor (f : MEM)
  /-- `a.xchg` (R173). -/
  | aXchg (f : MEM)
  /-- `a.cas` (R173). -/
  | aCas (f : MEM)
  /-- `a.fadd` (R173). -/
  | aFadd (f : MEM)
  /-- `a.inc` (R173). -/
  | aInc (f : MEM)
  /-- `fence` (R176). -/
  | fence (f : MEM)
  /-- `fence.x` (R176). -/
  | fenceX (f : MEM)
  /-- `disc` (R177). -/
  | disc (f : MEM)
  /-- `wb` (R177). -/
  | wb (f : MEM)
  /-- `sw.arm` (R181). -/
  | swArm (f : MEM)
  /-- `sw.add` (R181). -/
  | swAdd (f : MEM)
  /-- `sw.wait` (R181). -/
  | swWait (f : MEM)
  /-- `sw.read` (R181). -/
  | swRead (f : MEM)
  /-- Device step R180. -/
  | syncWordArrival (n : Nat)
  /-- `q.init` (R183). -/
  | qInit (f : MEM)
  /-- `q.push` (R183). -/
  | qPush (f : MEM)
  /-- `q.pop` (R183). -/
  | qPop (f : MEM)
  /-- `bar` (R186). -/
  | bar (f : MEM)
  /-- `bar.arr` (R186). -/
  | barArr (f : MEM)
  /-- `bar.wt` (R186). -/
  | barWt (f : MEM)
  /-- `gbar` (R186). -/
  | gbar (f : MEM)
  /-- Device step R357. -/
  | treeArrival (n : Nat)
  /-- Device step R358. -/
  | gbarRelease (n : Nat)
  /-- `tacq` (R197). -/
  | tacq (f : MX)
  /-- Device step R197. -/
  | wideTileQueueGrant (cell : Nat)
  /-- `trel` (R197). -/
  | trel (f : MX)
  /-- `mx.zero` (R198). -/
  | mxZero (f : MX)
  /-- `mx.ld` (R198). -/
  | mxLd (f : MX)
  /-- `mx.st` (R198). -/
  | mxSt (f : MX)
  /-- `mx.mma` (R200). -/
  | mxMma (f : MX)
  /-- `mx.bpmma` (R200). -/
  | mxBpmma (f : MX)
  /-- `mx.chk` (R215). -/
  | mxChk (f : MX)
  /-- `mx.bnd` (R214). -/
  | mxBnd (f : MX)
  /-- `mx.slice` (R206). -/
  | mxSlice (f : MX)
  /-- `mx.dmma` (R207). -/
  | mxDmma (f : MX)
  /-- `mx.wz` (R212). -/
  | mxWz (f : MX)
  /-- `mx.rc` (R213). -/
  | mxRc (f : MX)
  /-- `cp` (R225). -/
  | cp (f : ENG)
  /-- `cp.2d` (R225). -/
  | cp2d (f : ENG)
  /-- `cp.x` (R226). -/
  | cpX (f : ENG)
  /-- `skim.g` (R225). -/
  | skimG (f : ENG)
  /-- `skim.s` (R225). -/
  | skimS (f : ENG)
  /-- Device step R222. -/
  | engineOperationStart (t : Nat) (op : Nat)
  /-- Device step R218. -/
  | engineOperationComplete (t : Nat) (op : Nat)
  /-- `coll` (R228). -/
  | coll (f : ENG)
  /-- `coll.abort` (R230). -/
  | collAbort (f : ENG)
  /-- Device step R230. -/
  | collectivePacket (n : Nat)
  /-- Device step R230. -/
  | abortToken (n : Nat)
  /-- `enq` (R231). -/
  | enq (f : ENG)
  /-- Device step R231. -/
  | taskQueueAppend (q : Nat)
  /-- `g.vtx` (R233). -/
  | gVtx (f : SYS)
  /-- `g.attr` (R233). -/
  | gAttr (f : SYS)
  /-- `g.prim` (R233). -/
  | gPrim (f : SYS)
  /-- `g.done` (R234). -/
  | gDone (f : SYS)
  /-- `g.out` (R235). -/
  | gOut (f : SYS)
  /-- `g.kill` (R235). -/
  | gKill (f : SYS)
  /-- `g.zq` (R235). -/
  | gZq (f : SYS)
  /-- `tx.smp` (R238). -/
  | txSmp (f : SYS)
  /-- `tx.ld` (R239). -/
  | txLd (f : SYS)
  /-- `tx.dim` (R239). -/
  | txDim (f : SYS)
  /-- `ray.trace` (R242). -/
  | rayTrace (f : SYS)
  /-- `ray.cont` (R242). -/
  | rayCont (f : SYS)
  /-- `ray.hit` (R242). -/
  | rayHit (f : SYS)
  /-- `tlbi` (R246). -/
  | tlbi (f : SYS)
  /-- `cinv` (R246). -/
  | cinv (f : SYS)
  /-- `sleep` (R247). -/
  | sleep (f : SYS)
  /-- Device step R247. -/
  | sleepExpiry (t : Nat)
  /-- `dbgr.rd` (R247). -/
  | dbgrRd (f : SYS)
  /-- `dbgr.wr` (R247). -/
  | dbgrWr (f : SYS)
  /-- Device step R380. -/
  | haltNotice (n : Nat)
  /-- Device step R380. -/
  | halt (die : Nat)
  /-- Device step R285. -/
  | pageWalk (die : Nat)
  /-- Device step R288. -/
  | walkResult (die : Nat)
  /-- Device step R296. -/
  | launchTake (die : Nat) (q : Nat)
  /-- Device step R298. -/
  | clusterOfferRequest (launch : Nat) (cluster : Nat)
  /-- Device step R305. -/
  | teamStop (t : Nat)
  /-- Device step R309. -/
  | blockResume (block : Nat) (cell : Nat)
  /-- Device step R375. -/
  | reRun (block : Nat) (cell : Nat)
  /-- Device step R323. -/
  | drawMark (n : Nat)
  /-- Device step R323. -/
  | blockMark (n : Nat)
  /-- Device step R326. -/
  | endMark (n : Nat)
  /-- Device step R325. -/
  | primitiveRecord (n : Nat)
  /-- Device step R325. -/
  | setupReoffer (n : Nat)
  /-- Device step R324. -/
  | ownerConsume (die : Nat)
  /-- Device step R330. -/
  | pixelBlockStart (die : Nat)
  /-- Device step R332. -/
  | fragmentMerge (die : Nat) (n : Nat)
  /-- Device step R336. -/
  | tileStoreLoad (die : Nat) (line : Nat)
  /-- Device step R178. -/
  | stallingInstructionEffect (t : Nat)
  /-- Device step R380. -/
  | dbgctlHalt (die : Nat)
  /-- Device step R380. -/
  | dbgctlResume (die : Nat)
  /-- Device step R249. -/
  | homeRequest (t : Nat) (op : Nat) (piece : Nat)
  /-- Device step R278. -/
  | gatherPacket (t : Nat) (op : Nat) (piece : Nat)
  /-- Device step R279. -/
  | refreshOperation (site : Nat) (bank : Nat)
  /-- Device step R282. -/
  | patrolScrub (site : Nat) (line : Nat)
  /-- Device step R282. -/
  | scrubWriteBack (site : Nat) (line : Nat)
  /-- Device step R303. -/
  | rotation (die : Nat)
  /-- Device step R305. -/
  | pmarkTimeout (t : Nat)
  /-- Device step R307. -/
  | heldPreemptRetry (block : Nat)
  /-- Device step R265. -/
  | tileStoreWriteOut (die : Nat) (line : Nat)
  /-- Device step R343. -/
  | linkFailure (link : Nat)
  /-- Device step R351. -/
  | dieDrop (die : Nat)
  /-- Device step R354. -/
  | memorySiteLoss (site : Nat)
  /-- Device step R381. -/
  | responseWatchdog (die : Nat) (n : Nat)
  /-- Device step R381. -/
  | barrierWatchdog (launch : Nat)
  /-- Device step R383. -/
  | recordsDropped (source : Nat)
  /-- Device step R386. -/
  | rdmaWrite (qp : Nat) (key : Nat) (va : Nat) (data : List Byte)
  /-- Device step R391. -/
  | rdmaWriteWithImmediate (qp : Nat) (key : Nat) (va : Nat) (imm : Nat) (data : List Byte)
  /-- Device step R386. -/
  | rdmaRead (qp : Nat) (key : Nat) (va : Nat) (n : Nat)
  /-- Device step R384. -/
  | invalidRequest (qp : Nat)
  /-- Device step R401. -/
  | attestation (tag : Nat) (nonce : List Byte)
  /-- Device step R395. -/
  | powerState (tag : Nat) (region : Nat) (st : Nat)
  /-- Device step R396. -/
  | capAndStep (tag : Nat) (region : Nat) (cap : Nat) (window : Nat) (rise : Nat)
  /-- Device step R388. -/
  | readTelemetry (tag : Nat)
  /-- Device step R400. -/
  | readIdentity (tag : Nat)
  /-- Device step R388. -/
  | openConnection (tag : Nat) (qp : Nat)
  /-- Device step R295. -/
  | append (tag : Nat) (die : Nat) (q : Nat) (desc : List Byte)
  /-- Device step R304. -/
  | preEmpt (tag : Nat) (id : Nat) (index : Option Nat)
  /-- Device step R311. -/
  | replay (tag : Nat) (die : Nat) (id : Nat) (index : Nat) (team : Nat)
  /-- Device step R311. -/
  | resume (tag : Nat) (die : Nat) (id : Nat) (index : Nat) (team : Nat)
  /-- Device step R311. -/
  | endLaunch (tag : Nat) (die : Nat) (id : Nat) (index : Nat) (team : Nat)
  /-- Device step R390. -/
  | registerMailbox (tag : Nat) (desc : List Byte)
  /-- Device step R390. -/
  | unregisterMailbox (tag : Nat) (box : Nat)
  /-- Device step R275. -/
  | defineInterleaveSet (tag : Nat) (set_ : Nat) (mask : Nat) (bases : List Nat) (caps : List Nat)
  /-- Device step R283. -/
  | translationRoot (tag : Nat) (root : Nat)
  /-- Device step R306. -/
  | saveArea (tag : Nat) (die : Nat) (base : Nat) (size : Nat)
  /-- Device step R349. -/
  | retireCell (tag : Nat) (die : Nat) (cell : Nat)
  /-- Device step R351. -/
  | dropDie (tag : Nat) (die : Nat)
  /-- Device step R380. -/
  | haltDie (tag : Nat) (die : Nat)
  /-- Device step R380. -/
  | releaseDie (tag : Nat) (die : Nat)
  /-- Device step R281. -/
  | patrolPeriod (tag : Nat) (hours : Nat)
  /-- Device step R393. -/
  | powerGood (east : Bool) (west : Bool)
  /-- Device step R393. -/
  | dieTraining (die : Nat) (good : Bool) (image : List Byte)
  /-- Device step R393. -/
  | stage1End
  /-- Device step R396. -/
  | powerControllerWindow (region : Nat) (draw : Nat)
  /-- Device step R398. -/
  | droopAlarm (region : Nat)
  /-- Device step R398. -/
  | droopRecovery (region : Nat)
  /-- Device step R398. -/
  | voltageRecovery (region : Nat)
  /-- Device step R399. -/
  | firmwareImageVerification (image : List Byte) (version : Nat)
  /-- Device step R384. -/
  | ack (qp : Nat)
  /-- Device step R384. -/
  | congestionNotificationPacket (qp : Nat)
deriving DecidableEq, Repr

end Sys2Proof
end

