-- ==== Sys2Proof/Machine/Checks.lean ====
section
/-! DEFINITION. The checks that an instruction's encoding alone decides (R75, R85 to R99): what each entry reserves,
excludes and aligns, its flag select, and the registers, tiles and patterns that it names. -/

namespace Sys2Proof.Machine

/-- The class set that an instruction belongs to (R75). -/
inductive ClassSet where | any | v | l | x | step
deriving DecidableEq, Repr

/-- What check of R99 each field of one instruction bears on. -/
structure Chk where
  /-- A reserved field is nonzero (check 3). -/
  rsv   : Bool := false
  /-- A field holds an illegal value (check 4). -/
  ill   : Bool := false
  /-- A register is misaligned for its width (check 5). -/
  mis   : Bool := false
  /-- The flag-select bit of a long-latency instruction (R79). -/
  fs    : Option Bool := none
  /-- The entry lists a register, mask or tile destination (R80, check 6). -/
  dest  : Bool := false
  /-- Vector registers named (check 7). -/
  regs  : List Nat := []
  /-- Tiles named (check 8). -/
  tiles : List Nat := []
  /-- Patterns and parameters of the sources (check 9). -/
  pats  : List (Nat × Nat) := []
deriving DecidableEq, Repr

/-- The 16 bits of a source field. -/
def srcVal (s : Src) : Nat := s.reg.toNat * 512 + s.pat.toNat * 64 + s.k.toNat

/-- The VR type codes of R90 by name. -/
def tyInt (t : Nat) : Bool := t == 0 || t == 1 || t == 4 || t == 5
def ty64 (t : Nat) : Bool := t == 3 || t == 4 || t == 5
def tyFloat (t : Nat) : Bool := t == 2 || t == 3 || t == 6 || t == 7
def tySigned (t : Nat) : Bool := t == 0 || t == 4

/-- The VR code of a VF type code (R90). -/
def vfType : Nat → Nat
  | 0 => 2 | 1 => 3 | 2 => 6 | 3 => 7 | 4 => 0 | 5 => 1 | _ => 8

/-- A source field's illegal values: K of identity and mir (R87), REG[6] and K of a scalar broadcast (R89). -/
def srcIll (w64 : Bool) (reg pat k : Nat) : Bool :=
  if pat == 0 || pat == 4 then k != 0
  else if pat == 7 then decide (64 ≤ reg) || (if w64 then k != 0 else decide (2 ≤ k))
  else false

/-- The pattern names a vector register (R29). -/
def patReg (pat : Nat) : Bool := decide (pat < 6)

/-- A 64-bit operand names an odd register (R28, R90). -/
def srcMis (w64 : Bool) (reg pat : Nat) : Bool := w64 && patReg pat && reg % 2 == 1

/-- The vector registers that a source names. -/
def srcRegs (reg pat : Nat) : List Nat := if patReg pat then [reg] else []

/-- Rounding modifiers (R91). -/
def badRound (m : Nat) : Bool := !(m == 0 || (4 ≤ m && m ≤ 7))

/-- A mask field whose upper bits are nonzero (R85, R93). -/
def maskIll (r : Nat) : Bool := decide (8 ≤ r)

/-- The frame of a VR entry: admitted types, use of SRCB, admission of SATNA and NB, a test on MOD, and whether VD is
a vector register or a mask. -/
def chkVR (f : VR) (tys : List Nat) (useB sat nb : Bool) (badMod : Bool) (mask : Bool := false) : Chk :=
  let t := f.ty.toNat
  let w := ty64 t
  let a := f.a; let b := f.b
  { rsv := f.fs || (!sat && f.satna) || (!nb && f.nb) || (!useB && (srcVal b) != 0)
    ill := !tys.contains t || badMod || srcIll w a.reg.toNat a.pat.toNat a.k.toNat
      || (useB && srcIll w b.reg.toNat b.pat.toNat b.k.toNat) || (mask && maskIll f.vd.toNat)
    mis := srcMis w a.reg.toNat a.pat.toNat || (useB && srcMis w b.reg.toNat b.pat.toNat)
      || (!mask && w && f.vd.toNat % 2 == 1)
    regs := (if mask then [] else [f.vd.toNat]) ++ srcRegs a.reg.toNat a.pat.toNat
      ++ (if useB then srcRegs b.reg.toNat b.pat.toNat else [])
    pats := (a.pat.toNat, a.k.toNat) :: (if useB then [(b.pat.toNat, b.k.toNat)] else []) }

/-- The frame of a VF entry (R92). -/
def chkVF (f : VF) (tys : List Nat) : Chk :=
  let t := vfType f.ty.toNat
  let w := ty64 t
  let a := f.a; let b := f.b; let c := f.c
  { ill := !tys.contains t || srcIll w a.reg.toNat a.pat.toNat a.k.toNat || srcIll w b.reg.toNat b.pat.toNat b.k.toNat
      || srcIll w c.reg.toNat c.pat.toNat c.k.toNat
    mis := srcMis w a.reg.toNat a.pat.toNat || srcMis w b.reg.toNat b.pat.toNat || srcMis w c.reg.toNat c.pat.toNat
      || (w && f.vd.toNat % 2 == 1)
    regs := f.vd.toNat :: (srcRegs a.reg.toNat a.pat.toNat ++ srcRegs b.reg.toNat b.pat.toNat ++ srcRegs c.reg.toNat c.pat.toNat)
    pats := [(a.pat.toNat, a.k.toNat), (b.pat.toNat, b.k.toNat), (c.pat.toNat, c.k.toNat)] }

def tysInt : List Nat := [0, 1, 4, 5]
def tysFloat : List Nat := [2, 3, 6, 7]
def tysAll : List Nat := [0, 1, 2, 3, 4, 5, 6, 7]

/-- `v.cvt` (R151): FROM, TO and SEL stand in SRCB. -/
def cvtFrom (f : VR) : Nat := (srcVal f.b) / 4096
def cvtTo (f : VR) : Nat := (srcVal f.b) / 256 % 16
def cvtSel (f : VR) : Nat := (srcVal f.b) / 64 % 4
/-- Width in bits of a conversion format. -/
def cvtBits (c : Nat) : Nat :=
  if c == 3 || c == 4 || c == 5 then 64 else if c == 6 || c == 7 || c == 10 || c == 11 then 16
  else if c == 8 || c == 9 || c == 12 || c == 13 then 8 else 32
/-- The conversion format is a float. -/
def cvtFloat (c : Nat) : Bool := c == 2 || c == 3 || (6 ≤ c && c ≤ 9)

def chkCvt (f : VR) : Chk :=
  let fr := cvtFrom f; let dst := cvtTo f; let sel := cvtSel f
  let ws := cvtBits fr == 64
  let fl := cvtFloat fr || cvtFloat dst
  let a := f.a
  { rsv := f.fs || f.nb || (f.satna && fl)
    ill := f.ty.toNat != 0 || decide (14 ≤ fr) || decide (14 ≤ dst) || (srcVal f.b) % 64 != 0
      || (if fl then badRound f.mod.toNat else f.mod.toNat != 0)
      || (if cvtBits fr == 16 then decide (2 ≤ sel) else if cvtBits fr == 8 then false else sel != 0)
      || srcIll ws a.reg.toNat a.pat.toNat a.k.toNat
    mis := srcMis ws a.reg.toNat a.pat.toNat || (cvtBits dst == 64 && f.vd.toNat % 2 == 1)
    regs := f.vd.toNat :: srcRegs a.reg.toNat a.pat.toNat
    pats := [(a.pat.toNat, a.k.toNat)] }

/-- `v.shfl` (R158): source b is read as n32 whatever TYPE names. -/
def chkShfl (f : VR) : Chk :=
  let w := ty64 f.ty.toNat
  let a := f.a; let b := f.b
  { rsv := f.fs || f.satna || f.nb
    ill := decide (4 ≤ f.mod.toNat) || a.pat.toNat != 0 || a.k.toNat != 0 || srcIll false b.reg.toNat b.pat.toNat b.k.toNat
    mis := w && (f.vd.toNat % 2 == 1 || a.reg.toNat % 2 == 1 || (patReg b.pat.toNat && b.reg.toNat % 2 == 1))
    regs := f.vd.toNat :: a.reg.toNat :: srcRegs b.reg.toNat b.pat.toNat
    pats := [(b.pat.toNat, b.k.toNat)] }

/-- An SR entry with a register or an immediate second source (R93, R110): the one that I does not select is reserved (R85). -/
def chkSR2 (f : SR) : Chk :=
  { rsv := f.rsv || (if f.i then f.sb != 0 else f.imm != 0) }

/-- Mask logic (R128): SB used or not. -/
def chkMask (f : SR) (useB : Bool) : Chk :=
  { rsv := f.rsv || f.imm != 0 || (!useB && f.sb != 0)
    ill := f.i || maskIll f.sd.toNat || maskIll f.sa.toNat || (useB && maskIll f.sb.toNat) }

/-- Every field but OP is reserved (R121, R130). -/
def chkSR0 (f : SR) : Chk :=
  { rsv := f.sd != 0 || f.sa != 0 || f.i || f.sb != 0 || f.rsv || f.imm != 0 }

/-- Access size in bytes of a MEM width code (R95). -/
def memBytes (w : Nat) : Nat :=
  match w with | 0 => 1 | 1 => 2 | 2 => 4 | 3 => 8 | 4 => 16 | 5 => 1 | 6 => 2 | _ => 0

/-- A data register misaligned for a MEM width (R28, R95). -/
def memMis (w vd : Nat) : Bool := (w == 3 && vd % 2 == 1) || (w == 4 && vd % 4 != 0)

/-- The common part of a MEM entry: per-lane form, VOFF and SCOPE. -/
def memVoff (f : MEM) : List Nat := if f.ox then [f.voff.toNat] else []

/-- VOFF is reserved when OX = 0 (R95). -/
def voffRsv (f : MEM) : Bool := !f.ox && f.voff != 0

/-- Loads and stores (R166, R167). -/
def chkLdSt (f : MEM) (wmax : Nat) (vault load : Bool) : Chk :=
  { rsv := voffRsv f
    ill := decide (wmax < f.width.toNat) || decide (6 ≤ f.scope.toNat)
      || (vault && (decide (4 ≤ f.scope.toNat) || f.policy != 0))
    mis := memMis f.width.toNat f.vd.toNat
    fs := some f.fs, dest := load
    regs := f.vd.toNat :: memVoff f }

/-- `prf`, `disc` and `wb`, which name no data register (R166, R177). -/
def chkLine (f : MEM) (prf : Bool) : Chk :=
  { rsv := voffRsv f || f.width != 0 || f.vd != 0 || (!prf && f.policy != 0)
    ill := decide (6 ≤ f.scope.toNat)
    fs := some f.fs, regs := memVoff f }

/-- `ldv` and `a.casv` (R168). -/
def chkVer (f : MEM) (cas : Bool) : Chk :=
  { rsv := voffRsv f || (!cas && f.policy != 0)
    ill := !(f.width.toNat == 2 || f.width.toNat == 3) || decide (6 ≤ f.scope.toNat)
    mis := f.vd.toNat % 4 != 0
    fs := some f.fs, dest := true, regs := f.vd.toNat :: memVoff f }

/-- Atomics (R172): the admitted WIDTH codes and whether two operands are named. -/
def chkAtomic (f : MEM) (ws : List Nat) (two : Bool) : Chk :=
  let w := f.width.toNat
  let n8 := w == 3 || w == 6 || w == 1
  { rsv := voffRsv f
    ill := !ws.contains w || decide (6 ≤ f.scope.toNat)
    mis := if two then (if n8 then f.vd.toNat % 4 != 0 else f.vd.toNat % 2 != 0) else n8 && f.vd.toNat % 2 == 1
    fs := some f.fs, dest := true, regs := f.vd.toNat :: memVoff f }

/-- Sync-word and queue instructions (R181): their WIDTH, whether they stall, whether they name a destination. -/
def chkSync (f : MEM) (w : Nat) (stall dest : Bool) : Chk :=
  { rsv := f.voff != 0 || (stall && f.fs)
    ill := f.width.toNat != w || decide (4 ≤ f.scope.toNat) || f.policy != 0
    mis := memMis w f.vd.toNat
    fs := if stall then none else some f.fs, dest := dest && !stall, regs := [f.vd.toNat] }

/-- Barriers (R186): stalling or not, on the grid or on the block. -/
def chkBar (f : MEM) (stall grid : Bool) : Chk :=
  { rsv := f.base != 0 || f.voff != 0 || f.stream != 0 || f.policy != 0 || (stall && f.fs) || (grid && f.disp != 0)
      || (f.width == 0 && f.vd != 0)
    ill := decide (5 ≤ f.width.toNat) || f.scope.toNat != (if grid then 4 else 1)
      || (!grid && decide (4 ≤ f.disp.toNat))
    mis := f.width != 0 && f.vd.toNat % 2 == 1
    fs := if stall then none else some f.fs
    regs := if f.width == 0 then [] else [f.vd.toNat] }

/-- Tile management (R197, R198): kinds 0 tacq, 1 trel, 2 mx.zero, 3 mx.ld and mx.st. -/
def chkTile (f : MX) (kind : Nat) (dest : Bool) : Chk :=
  { rsv := f.fa != 0 || f.fb != 0 || f.acc != 0 || f.spa || f.ns != 0 || f.sc != 0 || (decide (kind < 2) && f.fs)
      || (kind != 3 && (f.sa != 0 || f.sb != 0)) || (kind != 0 && f.imm != 0)
    ill := decide (10 ≤ f.td.toNat) || (kind == 2 && decide (8 ≤ f.td.toNat))
      || (if kind == 3 then decide (2 ≤ f.mod.toNat) else f.mod != 0) || (kind == 0 && decide (64 ≤ f.imm.toNat))
    fs := if kind < 2 then none else some f.fs, dest := dest
    tiles := if kind == 0 then [] else [f.td.toNat] }

/-- Elements of an `mx.mma` operand: narrow (scaled line), 8 bits, or 6 bits (R96, R199). -/
def fmtLine (c : Nat) : Bool := 6 ≤ c && c ≤ 8
def fmtInt8 (c : Nat) : Bool := c < 2
def fmtFloatPath (c : Nat) : Bool := 2 ≤ c && c ≤ 9

/-- `mx.mma` (R199). -/
def chkMma (f : MX) : Chk :=
  let a := f.fa.toNat; let b := f.fb.toNat; let acc := f.acc.toNat
  let scl := f.imm.toNat / 16 % 4
  let okInt := fmtInt8 a && fmtInt8 b && acc == 0 && scl == 0 && f.mod == 0
  let okFlt := fmtFloatPath a && fmtFloatPath b && (1 ≤ acc && acc ≤ 3) && !badRound f.mod.toNat && !(f.spa && fmtLine a)
  { rsv := f.ns != 0
    ill := decide (8 ≤ f.td.toNat) || decide (64 ≤ f.imm.toNat) || !(okInt || okFlt)
    fs := some f.fs, dest := true, tiles := [f.td.toNat] }

/-- `mx.bpmma` (R199). -/
def chkBpmma (f : MX) : Chk :=
  let pa := f.ns.toNat; let pb := f.imm.toNat / 16 % 16
  { ill := f.spa || decide (8 ≤ f.td.toNat) || f.fa.toNat != 10 || f.fb.toNat != 10 || !(1 ≤ f.acc.toNat && f.acc.toNat ≤ 3)
      || !(2 ≤ pa && pa ≤ 8) || !(2 ≤ pb && pb ≤ 8) || decide (256 ≤ f.imm.toNat) || badRound f.mod.toNat
    fs := some f.fs, dest := true, tiles := [f.td.toNat] }

/-- `mx.slice`, `mx.dmma`, `mx.wz`, `mx.rc`, `mx.bnd`, `mx.chk`: the entry names DETAIL 0x05 for every
field value outside its table, the zero fields included. -/
def chkWide (f : MX) (td fmt fs spa ns sa sb sc md im : Bool) (ill : Bool) (dest : Bool) : Chk :=
  { ill := (!td && f.td != 0) || (!fmt && (f.fa != 0 || f.fb != 0 || f.acc != 0)) || (!fs && f.fs) || (!spa && f.spa)
      || (!ns && f.ns != 0) || (!sa && f.sa != 0) || (!sb && f.sb != 0) || (!sc && f.sc != 0) || (!im && f.imm != 0)
      || (td && !(f.td.toNat == 8 || f.td.toNat == 9)) || (!md && f.mod != 0) || ill
    fs := if fs then some f.fs else none, dest := dest
    tiles := if td then [f.td.toNat] else [] }

/-- Slice and block counts (R206, R207). -/
def badSlice (f : MX) : Bool := !(1 ≤ f.ns.toNat && f.ns.toNat ≤ 8) || decide (16 ≤ f.imm.toNat)

/-- Copy commands (R224): MOD test, uses of SL and IMM16. -/
def chkCopy (f : ENG) (badMod : Bool) (useSl useImm : Bool) (badImm : Bool := false) : Chk :=
  { rsv := (!useSl && f.sl != 0) || (!useImm && f.imm != 0)
    ill := badMod || badImm || decide (6 ≤ f.scope.toNat)
    fs := some f.fs }

/-- Collectives and `enq` (R227, R231). -/
def chkColl (f : ENG) (useSs : Bool) (lo : Nat) : Chk :=
  { rsv := (!useSs && f.ss != 0) || f.sl != 0 || f.imm != 0
    ill := f.mod != 0 || !(lo ≤ f.scope.toNat && f.scope.toNat ≤ 5)
    fs := some f.fs }

/-- A SYS entry: the fields that it uses; unused ones are zero (R98). -/
def chkSYS (f : SYS) (vd va vb sa sb fs pred : Bool) (rsv ill mis : Bool) (dest : Bool) (regs : List Nat) : Chk :=
  { rsv := (!vd && f.vd != 0) || (!va && f.va != 0) || (!vb && f.vb != 0) || (!sa && f.sa != 0) || (!sb && f.sb != 0)
      || (!fs && f.fs) || (!pred && f.pred != 0) || rsv
    ill := ill, mis := mis
    fs := if fs then some f.fs else none, dest := dest, regs := regs }

/-- The registers n to n + k − 1. -/
def regRun (n k : Nat) : List Nat := (List.range k).map (n + ·)

/-- The checks of an encoded instruction in a block of the given stage (R232); a device step has none. -/
def chk (stage : Nat) : Instr → Chk
  | .sAdd f | .sSub f | .sMul f | .sMulh f | .sMulhU f | .sDiv f | .sDivU f | .sRem f | .sRemU f | .sMin f | .sMinU f
  | .sMax f | .sMaxU f | .sAnd f | .sOr f | .sXor f | .sAndn f | .sShl f | .sShr f | .sSra f | .sBfe f | .sBfi f
  | .sCmpEq f | .sCmpNe f | .sCmpLt f | .sCmpLe f | .sCmpGt f | .sCmpGe f | .sCmpLtU f | .sCmpLeU f | .sCmpGtU f
  | .sCmpGeU f => chkSR2 f
  | .sLd _ f | .sSt _ f => chkSR2 f
  | .sMov f => { rsv := f.sb != 0 || f.rsv || f.imm != 0, ill := f.i }
  | .sLi f | .sLih f => { rsv := f.sa != 0 || f.sb != 0 || f.rsv, ill := !f.i }
  | .sSel f => { rsv := f.rsv, ill := f.i || decide (64 ≤ f.imm.toNat) }
  | .sClz f | .sCtz f | .sPopc f => { rsv := f.sb != 0 || f.rsv || f.imm != 0, ill := f.i }
  | .sLdk _ f => { rsv := f.sb != 0 || f.rsv, ill := !f.i }
  | .sRdsys f => { rsv := f.sb != 0 || f.rsv, ill := !f.i || decide (4096 ≤ f.imm.toNat) }
  | .sWrsys f | .fpflags f | .teamstat f =>
    { rsv := f.sd != 0 || f.sb != 0 || f.rsv, ill := !f.i || decide (4096 ≤ f.imm.toNat) }
  | .br f => { rsv := f.creg != 0 || f.ckind != 0 }
  | .brz f | .brnz f => { ill := decide (2 ≤ f.ckind.toNat) }
  | .bany f | .ball f => { ill := decide (2 ≤ f.ckind.toNat) || maskIll f.creg.toNat }
  | .call f | .jmpi f => { rsv := f.ckind != 0 }
  | .ret f => { rsv := f.ckind != 0 || f.off != 0 }
  | .exit f => { rsv := f.creg != 0 || f.ckind != 0 || f.off != 0 }
  | .bdiv f | .bbrk f => { rsv := f.ckind != 0, ill := maskIll f.creg.toNat }
  | .belse f | .bloop f => { rsv := f.creg != 0 || f.ckind != 0 }
  | .bjoin f => { rsv := f.creg != 0 || f.ckind != 0 || f.off != 0 }
  | .nop f | .yield f | .mCompact f | .mUncompact f => chkSR0 f
  | .waitf f => { rsv := f.sd != 0 || f.sa != 0 || f.sb != 0 || f.rsv
                  ill := !f.i || f.imm.toNat / 16 % 16 != 0 || decide (16384 ≤ f.imm.toNat) || decide (12 ≤ f.imm.toNat % 16) }
  | .racq f | .rrel f =>
    { rsv := f.sd != 0 || f.sa != 0 || f.sb != 0 || f.rsv, ill := !f.i || decide (8 ≤ f.imm.toNat) }
  | .pmark f => { rsv := f.sd != 0 || f.sa != 0 || f.sb != 0 || f.rsv, ill := !f.i || decide (1024 ≤ f.imm.toNat)
                  tiles := (List.range 10).filter (fun j => f.imm.getLsbD j) }
  | .shpSet f => { rsv := f.sd != 0 || f.sb != 0 || f.rsv || decide (16 ≤ f.imm.toNat), ill := !f.i }
  | .mAnd f | .mOr f | .mXor f | .mAndn f => chkMask f true
  | .mNot f | .mMov f => chkMask f false
  | .mPopc f | .mFirst f => { rsv := f.i || f.sb != 0 || f.rsv || f.imm != 0, ill := maskIll f.sa.toNat }
  | .mFrom f => chkVR f [0] false false false (f.mod != 0) true
  | .mTo f => { rsv := f.fs || f.satna || f.nb || (srcVal f.b) != 0
                ill := f.ty != 0 || f.mod != 0 || maskIll f.a.reg.toNat || f.a.pat != 0 || f.a.k != 0
                regs := [f.vd.toNat] }
  | .vAdd f | .vSub f | .vMul f => chkVR f tysInt true true false (f.mod != 0)
  | .vMulh f | .vMin f | .vMax f | .vAnd f | .vOr f | .vXor f | .vAndn f | .vShl f | .vShr f | .vSra f =>
    chkVR f tysInt true false false (f.mod != 0)
  | .vAbs f => chkVR f [0, 4] false true false (f.mod != 0)
  | .vCmp f => chkVR f tysInt true false false (decide (6 ≤ f.mod.toNat)) true
  | .vSel f => chkVR f tysAll true false false (decide (8 ≤ f.mod.toNat))
  | .vClz f | .vPopc f | .vBrev f => chkVR f tysInt false false false (f.mod != 0)
  | .vMov f => chkVR f tysAll false (tyFloat f.ty.toNat) false (f.mod != 0)
  | .vLi f => { rsv := f.fs || f.satna || f.nb, ill := f.ty.toNat == 3 || f.mod != 0
                mis := ty64 f.ty.toNat && f.vd.toNat % 2 == 1, regs := [f.vd.toNat] }
  | .vLane f => { rsv := f.fs || f.satna || f.nb || (srcVal f.a) != 0 || (srcVal f.b) != 0
                  ill := decide (2 ≤ f.ty.toNat) || f.mod != 0, regs := [f.vd.toNat] }
  | .vFadd f | .vFmul f => chkVR f tysFloat true true true (badRound f.mod.toNat)
  | .vFmin f | .vFmax f => chkVR f tysFloat true true true (f.mod != 0)
  | .vFcmp f => chkVR f [2, 3] true true true (decide (12 ≤ f.mod.toNat)) true
  | .vFrnd f | .vFsqrt f => chkVR f tysFloat false true false (badRound f.mod.toNat)
  | .vFrcp f | .vFrsq f | .vFclass f | .vFexp f => chkVR f tysFloat false true false (f.mod != 0)
  | .vExp2 f | .vLog2 f | .vSin f | .vCos f | .vTanh f => chkVR f [2, 6, 7] false true false (f.mod != 0)
  | .vFscale f => chkVR f tysFloat true true false (badRound f.mod.toNat)
  | .vCvt f => chkCvt f
  | .vPk f => chkVR f [0] true false false (decide (3 ≤ f.mod.toNat))
  | .vMxq f => chkVR f [2] false false false (decide (8 ≤ f.mod.toNat))
  | .vMxd f => chkVR f [2] true false false false
  | .vBpk f | .vBpu f => chkVR f [0] false false false (!(2 ≤ f.mod.toNat && f.mod.toNat ≤ 8) || f.a.pat != 0)
  | .vBpand f => chkVR f [0] true true true false
  | .vShfl f => chkShfl f
  | .vVote f => chkVR f tysAll false false false (decide (4 ≤ f.mod.toNat))
  | .vRed f => chkVR f tysAll false false false
      (decide (6 ≤ f.mod.toNat) || (decide (3 ≤ f.mod.toNat) && tyFloat f.ty.toNat))
  | .vScan f => chkVR f tysAll false false false
      (decide (6 ≤ f.mod.toNat % 8) || (decide (3 ≤ f.mod.toNat % 8) && tyFloat f.ty.toNat))
  | .vTidx f => chkVR f [1] true false false
      (decide (6 ≤ f.mod.toNat) || f.b.pat.toNat != 6 || decide (16 ≤ f.b.reg.toNat * 64 + f.b.k.toNat))
  | .vFma f => chkVF f tysFloat
  | .vMad f | .vBfe f | .vBfi f | .vDot4 f => chkVF f [0, 1]
  | .vDot2 f => chkVF f [6, 7]
  | .ld f => chkLdSt f 6 false true
  | .st f => chkLdSt f 4 false false
  | .lds f => chkLdSt f 6 true true
  | .sts f => chkLdSt f 4 true false
  | .prf f => chkLine f true
  | .disc f | .wb f => chkLine f false
  | .ldv f => chkVer f false
  | .aCasv f => chkVer f true
  | .valset f => { rsv := f.width != 0 || f.voff != 0 || f.policy != 0, ill := decide (6 ≤ f.scope.toNat)
                   fs := some f.fs, dest := true, regs := [f.vd.toNat] }
  | .aAdd f | .aMin f | .aMax f => chkAtomic f [2, 3, 5, 6] false
  | .aAnd f | .aOr f | .aXor f | .aXchg f | .aInc f => chkAtomic f [2, 3] false
  | .aCas f => chkAtomic f [2, 3] true
  | .aFadd f => chkAtomic f [0, 1] false
  | .fence f => { rsv := f.vd != 0 || f.base != 0 || f.voff != 0 || f.policy != 0 || f.disp != 0
                  ill := decide (3 ≤ f.width.toNat) || decide (6 ≤ f.scope.toNat), fs := some f.fs }
  | .fenceX f => { rsv := f.vd != 0 || f.base != 0 || f.voff != 0 || f.policy != 0 || f.stream != 0
                   ill := decide (3 ≤ f.width.toNat) || decide (6 ≤ f.scope.toNat) || decide (65536 ≤ f.disp.toNat)
                     || f.disp.toNat % 65536 == 0, fs := some f.fs }
  | .swArm f | .swAdd f => chkSync f 2 false false
  | .swWait f => chkSync f 2 true true
  | .swRead f => chkSync f 4 false true
  | .qInit f => chkSync f 3 false false
  | .qPush f => chkSync f 1 true false
  | .qPop f => chkSync f 1 true true
  | .bar f | .barWt f => chkBar f true false
  | .barArr f => chkBar f false false
  | .gbar f => chkBar f true true
  | .tacq f => chkTile f 0 false
  | .trel f => chkTile f 1 false
  | .mxZero f => chkTile f 2 true
  | .mxLd f => chkTile f 3 true
  | .mxSt f => chkTile f 3 false
  | .mxMma f => chkMma f
  | .mxBpmma f => chkBpmma f
  | .mxSlice f => chkWide f false false true true true true true false false true (badSlice f) false
  | .mxDmma f => chkWide f true true true true true true true true false true
      (badSlice f || f.fa.toNat != 11 || f.fb.toNat != 11 || f.acc.toNat != 4 || (!f.spa && f.sc.toNat != 63)) true
  | .mxWz f => chkWide f true false true false false false false false false false false true
  | .mxRc f => chkWide f true false true false false true true false true true
      (badRound f.mod.toNat || decide (2 ≤ f.imm.toNat) || (f.imm == 0 && f.sb != 0)) false
  | .mxBnd f => chkWide f true false true false false false true false false true
      (decide (2 ≤ f.imm.toNat) || (f.imm == 0 && f.sb != 0)) false
  | .mxChk f => chkWide f false false false false false false false true false false false false
  | .cp f => chkCopy f (decide (3 ≤ f.mod.toNat)) true false
  | .cp2d f => chkCopy f (decide (2 ≤ f.mod.toNat)) true true
  | .cpX f => chkCopy f (f.mod != 0) true false
  | .skimG f | .skimS f => chkCopy f (decide (5 ≤ f.mod.toNat)) false true (decide (16384 ≤ f.imm.toNat))
  | .coll f | .collAbort f => chkColl f false 4
  | .enq f => chkColl f true 3
  | .gVtx f => chkSYS f false true true false false false true (f.imm != 0) (f.mod != 0) (f.va.toNat % 4 != 0) false
      (regRun f.va.toNat 4 ++ [f.vb.toNat])
  | .gPrim f => chkSYS f false true true false false false true (f.imm != 0) (f.mod != 0) false false [f.va.toNat, f.vb.toNat]
  | .gDone f => chkSYS f false false false true false true false (f.imm != 0) (f.mod != 0) false false []
  | .gAttr f =>
    let bad := decide (4 ≤ f.mod.toNat) || decide (64 ≤ f.imm.toNat)
    if stage == 3 then chkSYS f true false false false false false true false bad false false (regRun f.vd.toNat (f.mod.toNat % 4 + 1))
    else chkSYS f false true true false false false true false bad false false
        (regRun f.va.toNat (f.mod.toNat % 4 + 1) ++ [f.vb.toNat])
  | .gOut f => chkSYS f false true false false false false true false (f.mod != 0 || decide (4 ≤ f.imm.toNat))
      (f.va.toNat % 4 != 0) false (regRun f.va.toNat 4)
  | .gKill f => chkSYS f false false false false false false true (f.imm != 0) (f.mod != 0) false false []
  | .gZq f => chkSYS f false true false false false false true (f.imm != 0) (f.mod != 0) false false [f.va.toNat]
  | .txSmp f | .txLd f => chkSYS f true true true true false true true (f.imm != 0) (f.mod != 0)
      (f.vd.toNat % 4 != 0 || f.va.toNat % 4 != 0) true [f.vd.toNat, f.va.toNat, f.vb.toNat]
  | .txDim f => chkSYS f true false true true false true true (f.imm != 0) (f.mod != 0) (f.vd.toNat % 4 != 0) true
      [f.vd.toNat, f.vb.toNat]
  | .rayTrace f => chkSYS f true true false true false true true (f.imm != 0) (decide (8 ≤ f.mod.toNat))
      (f.vd.toNat % 4 != 0 || f.va.toNat % 8 != 0) true [f.vd.toNat, f.va.toNat]
  | .rayCont f => chkSYS f true false true false false true true (f.imm != 0) (f.mod != 0) (f.vd.toNat % 4 != 0) true
      [f.vd.toNat, f.vb.toNat]
  | .rayHit f => chkSYS f true false false false false true true (f.imm != 0) (f.mod != 0) (f.vd.toNat % 2 != 0) true [f.vd.toNat]
  | .brk f | .trap f => chkSYS f false false false false false false false false (f.mod != 0 || decide (256 ≤ f.imm.toNat)) false false []
  | .tret f => chkSYS f false false false false false false false false (f.mod != 0 || decide (2 ≤ f.imm.toNat)) false false []
  | .tlbi f =>
    let all := f.mod.toNat == 2 || f.mod.toNat == 4
    chkSYS f false false false true false true false (f.imm != 0 || (all && f.sa != 0)) (decide (5 ≤ f.mod.toNat)) false false []
  | .cinv f => chkSYS f false false false false false true false (f.imm != 0) (decide (4 ≤ f.mod.toNat)) false false []
  | .sleep f => chkSYS f false false false true false false false (f.imm != 0) (f.mod != 0) false false []
  | .dbgrRd f => chkSYS f true false false true false true false (f.imm != 0) (decide (2 ≤ f.mod.toNat)) (f.vd.toNat % 2 == 1) true [f.vd.toNat]
  | .dbgrWr f => chkSYS f false false false true true true false (f.imm != 0) (decide (2 ≤ f.mod.toNat)) false false []
  | _ => {}

/-- The class set of an instruction (R75). -/
def classSet : Instr → ClassSet
  | .mFrom _ | .mTo _ | .vAdd _ | .vSub _ | .vMul _ | .vMulh _ | .vMin _ | .vMax _ | .vAbs _ | .vMad _ | .vAnd _ | .vOr _
  | .vXor _ | .vAndn _ | .vShl _ | .vShr _ | .vSra _ | .vCmp _ | .vSel _ | .vClz _ | .vPopc _ | .vBrev _ | .vBfe _
  | .vBfi _ | .vMov _ | .vLi _ | .vLane _ | .vFadd _ | .vFmul _ | .vFma _ | .vFmin _ | .vFmax _ | .vFcmp _ | .vFrnd _
  | .vFrcp _ | .vFrsq _ | .vFsqrt _ | .vExp2 _ | .vLog2 _ | .vSin _ | .vCos _ | .vTanh _ | .vFclass _ | .vFscale _
  | .vFexp _ | .vCvt _ | .vPk _ | .vDot2 _ | .vDot4 _ | .vMxq _ | .vMxd _ | .vBpk _ | .vBpu _ | .vBpand _ | .shpSet _
  | .vTidx _ | .vShfl _ | .vVote _ | .vRed _ | .vScan _ => .v
  | .ld _ | .st _ | .prf _ | .lds _ | .sts _ | .ldv _ | .aCasv _ | .valset _ | .aAdd _ | .aMin _ | .aMax _ | .aAnd _
  | .aOr _ | .aXor _ | .aXchg _ | .aCas _ | .aFadd _ | .aInc _ | .fence _ | .fenceX _ | .disc _ | .wb _ | .swArm _
  | .swAdd _ | .swWait _ | .swRead _ | .qInit _ | .qPush _ | .qPop _ | .bar _ | .barArr _ | .barWt _ | .gbar _ => .l
  | .tacq _ | .trel _ | .mxZero _ | .mxLd _ | .mxSt _ | .mxMma _ | .mxBpmma _ | .mxChk _ | .mxBnd _ | .mxSlice _
  | .mxDmma _ | .mxWz _ | .mxRc _ | .cp _ | .cp2d _ | .cpX _ | .skimG _ | .skimS _ | .coll _ | .collAbort _ | .enq _
  | .gVtx _ | .gAttr _ | .gPrim _ | .gDone _ | .gOut _ | .gKill _ | .gZq _ | .txSmp _ | .txLd _ | .txDim _
  | .rayTrace _ | .rayCont _ | .rayHit _ | .tlbi _ | .cinv _ | .sleep _ | .dbgrRd _ | .dbgrWr _ => .x
  | .sAdd _ | .sSub _ | .sMul _ | .sMulh _ | .sMulhU _ | .sDiv _ | .sDivU _ | .sRem _ | .sRemU _ | .sMin _ | .sMinU _
  | .sMax _ | .sMaxU _ | .sAnd _ | .sOr _ | .sXor _ | .sAndn _ | .sShl _ | .sShr _ | .sSra _ | .sBfe _ | .sBfi _
  | .sCmpEq _ | .sCmpNe _ | .sCmpLt _ | .sCmpLe _ | .sCmpGt _ | .sCmpGe _ | .sCmpLtU _ | .sCmpLeU _ | .sCmpGtU _
  | .sCmpGeU _ | .sLd _ _ | .sSt _ _ | .sMov _ | .sLi _ | .sLih _ | .sSel _ | .sClz _ | .sCtz _ | .sPopc _ | .sLdk _ _
  | .sRdsys _ | .sWrsys _ | .fpflags _ | .teamstat _ | .br _ | .brz _ | .brnz _ | .bany _ | .ball _ | .call _ | .ret _
  | .jmpi _ | .exit _ | .bdiv _ | .belse _ | .bjoin _ | .bloop _ | .bbrk _ | .nop _ | .waitf _ | .yield _ | .mAnd _
  | .mOr _ | .mXor _ | .mAndn _ | .mNot _ | .mMov _ | .mPopc _ | .mFirst _ | .mCompact _ | .mUncompact _ | .racq _
  | .rrel _ | .pmark _ | .brk _ | .trap _ | .tret _ => .any
  | _ => .step

/-- The instruction is admitted in a clause of class c: 0 V, 1 L, 2 X, 3 C (R75). -/
def admits (c : Nat) (i : Instr) : Bool :=
  match classSet i with
  | .any => true
  | .v => c == 0
  | .l => c == 1
  | .x => c == 2
  | .step => false

/-- The privileged system instructions (R245). -/
def privileged : Instr → Bool
  | .tlbi _ | .cinv _ | .sleep _ | .dbgrRd _ | .dbgrWr _ => true
  | _ => false

/-- The terminators (R76). -/
def terminator : Instr → Bool
  | .br _ | .brz _ | .brnz _ | .bany _ | .ball _ | .call _ | .ret _ | .jmpi _ | .exit _ | .bdiv _ | .belse _ | .bjoin _
  | .bloop _ | .bbrk _ | .trap _ | .tret _ => true
  | _ => false

/-- The DETAIL of the first failing check among 3, 4 and 5 of R99. -/
def staticFault (stage : Nat) (i : Instr) : Option Nat :=
  let k := chk stage i
  if k.rsv then some 2 else if k.ill then some 5 else if k.mis then some 4 else none

/-! ## What an instruction reads -/

/-- The scalar that a source field broadcasts (R89). -/
def bcScalar (reg pat : Nat) : List Nat := if pat == 7 then [reg % 64] else []

/-- The words of a vector operand of a type. -/
def vwords (w64 : Bool) (reg pat : Nat) : List Nat := if patReg pat then (if w64 then [reg, reg + 1] else [reg]) else []

/-- The scalar registers that an instruction reads. -/
def scalarReads : Instr → List Nat
  | .sAdd f | .sSub f | .sMul f | .sMulh f | .sMulhU f | .sDiv f | .sDivU f | .sRem f | .sRemU f | .sMin f | .sMinU f
  | .sMax f | .sMaxU f | .sAnd f | .sOr f | .sXor f | .sAndn f | .sShl f | .sShr f | .sSra f | .sBfe f
  | .sCmpEq f | .sCmpNe f | .sCmpLt f | .sCmpLe f | .sCmpGt f | .sCmpGe f | .sCmpLtU f | .sCmpLeU f | .sCmpGtU f
  | .sCmpGeU f | .sLd _ f => f.sa.toNat :: (if f.i then [] else [f.sb.toNat])
  | .sBfi f | .sSt _ f => f.sd.toNat :: f.sa.toNat :: (if f.i then [] else [f.sb.toNat])
  | .sMov f | .sClz f | .sCtz f | .sPopc f | .sLdk _ f | .sRdsys f | .sWrsys f | .fpflags f | .teamstat f | .shpSet f =>
    [f.sa.toNat]
  | .sLih f => [f.sd.toNat]
  | .sSel f => [f.sa.toNat, f.sb.toNat, f.imm.toNat % 64]
  | .brz f | .brnz f | .ret f | .jmpi f => [f.creg.toNat]
  | .mFrom f | .vAdd f | .vSub f | .vMul f | .vMulh f | .vMin f | .vMax f | .vAbs f | .vAnd f | .vOr f | .vXor f | .vAndn f
  | .vShl f | .vShr f | .vSra f | .vCmp f | .vSel f | .vClz f | .vPopc f | .vBrev f | .vMov f | .vFadd f | .vFmul f
  | .vFmin f | .vFmax f | .vFcmp f | .vFrnd f | .vFrcp f | .vFrsq f | .vFsqrt f | .vExp2 f | .vLog2 f | .vSin f | .vCos f
  | .vTanh f | .vFclass f | .vFscale f | .vFexp f | .vPk f | .vMxq f | .vMxd f | .vBpk f | .vBpu f | .vBpand f | .vShfl f
  | .vVote f | .vRed f | .vScan f | .vTidx f =>
    bcScalar f.a.reg.toNat f.a.pat.toNat ++ bcScalar f.b.reg.toNat f.b.pat.toNat
  | .vCvt f => bcScalar f.a.reg.toNat f.a.pat.toNat
  | .vFma f | .vMad f | .vBfe f | .vBfi f | .vDot2 f | .vDot4 f =>
    bcScalar f.a.reg.toNat f.a.pat.toNat ++ bcScalar f.b.reg.toNat f.b.pat.toNat ++ bcScalar f.c.reg.toNat f.c.pat.toNat
  | .ld f | .st f | .prf f | .lds f | .sts f | .ldv f | .aCasv f | .valset f | .aAdd f | .aMin f | .aMax f | .aAnd f
  | .aOr f | .aXor f | .aXchg f | .aCas f | .aFadd f | .aInc f | .disc f | .wb f | .swArm f | .swAdd f | .swWait f
  | .swRead f | .qInit f | .qPush f | .qPop f => [f.base.toNat]
  | .mxLd f | .mxSt f => [f.sa.toNat, f.sb.toNat]
  | .mxMma f | .mxBpmma f | .mxDmma f => [f.sa.toNat, f.sb.toNat, f.sc.toNat]
  | .mxSlice f | .mxRc f => [f.sa.toNat, f.sb.toNat]
  | .mxBnd f => [f.sb.toNat]
  | .mxChk _ => []
  | .cp f | .cp2d f | .cpX f => [f.sd.toNat, f.ss.toNat, f.sl.toNat, f.sw.toNat]
  | .skimG f | .skimS f | .enq f => [f.sd.toNat, f.ss.toNat, f.sw.toNat]
  | .coll f | .collAbort f => [f.sd.toNat, f.sw.toNat]
  | .gDone f | .txSmp f | .txLd f | .txDim f | .rayTrace f | .tlbi f | .sleep f | .dbgrRd f => [f.sa.toNat]
  | .dbgrWr f => [f.sa.toNat, f.sb.toNat]
  | _ => []

/-- An engine command, which a fence covers (R175, R219). -/
def isEngine : Instr → Bool
  | .cp _ | .cp2d _ | .cpX _ | .skimG _ | .skimS _ | .coll _ | .collAbort _ | .enq _ => true
  | _ => false

/-- The scalar registers that an instruction writes. -/
def scalarWrites : Instr → List Nat
  | .sAdd f | .sSub f | .sMul f | .sMulh f | .sMulhU f | .sDiv f | .sDivU f | .sRem f | .sRemU f | .sMin f | .sMinU f
  | .sMax f | .sMaxU f | .sAnd f | .sOr f | .sXor f | .sAndn f | .sShl f | .sShr f | .sSra f | .sBfe f | .sBfi f
  | .sCmpEq f | .sCmpNe f | .sCmpLt f | .sCmpLe f | .sCmpGt f | .sCmpGe f | .sCmpLtU f | .sCmpLeU f | .sCmpGtU f
  | .sCmpGeU f | .sLd _ f | .sMov f | .sLi f | .sLih f | .sSel f | .sClz f | .sCtz f | .sPopc f | .sLdk _ f | .sRdsys f => [f.sd.toNat]
  | .call f => [f.creg.toNat]
  | .mPopc f | .mFirst f => [f.sd.toNat]
  | .mxChk f => [f.sc.toNat]
  | _ => []

/-- The mask registers that an instruction reads. -/
def maskReads : Instr → List Nat
  | .bany f | .ball f | .bdiv f | .bbrk f => [0, f.creg.toNat % 8]
  | .belse _ | .bjoin _ | .bloop _ | .mCompact _ | .mUncompact _ => [0]
  | .mAnd f | .mOr f | .mXor f | .mAndn f => [f.sa.toNat % 8, f.sb.toNat % 8]
  | .mNot f | .mMov f | .mPopc f | .mFirst f => [f.sa.toNat % 8]
  | .mTo f => [0, f.a.reg.toNat % 8, f.pred.toNat]
  | .vSel f => [0, f.mod.toNat % 8, f.pred.toNat]
  | .mFrom f | .vAdd f | .vSub f | .vMul f | .vMulh f | .vMin f | .vMax f | .vAbs f | .vAnd f | .vOr f | .vXor f | .vAndn f
  | .vShl f | .vShr f | .vSra f | .vCmp f | .vClz f | .vPopc f | .vBrev f | .vMov f | .vLi f | .vLane f | .vFadd f | .vFmul f
  | .vFmin f | .vFmax f | .vFcmp f | .vFrnd f | .vFrcp f | .vFrsq f | .vFsqrt f | .vExp2 f | .vLog2 f | .vSin f | .vCos f
  | .vTanh f | .vFclass f | .vFscale f | .vFexp f | .vCvt f | .vPk f | .vMxq f | .vMxd f | .vBpk f | .vBpu f | .vBpand f
  | .vShfl f | .vVote f | .vRed f | .vScan f | .vTidx f => [0, f.pred.toNat]
  | .gVtx f | .gAttr f | .gPrim f | .gOut f | .gKill f | .gZq f | .txSmp f | .txLd f | .txDim f | .rayTrace f | .rayCont f
  | .rayHit f => [0, f.pred.toNat]
  | .vFma _ | .vMad _ | .vBfe _ | .vBfi _ | .vDot2 _ | .vDot4 _ => [0]
  | i => match classSet i with
    | .l => [0]
    | .x => [0]
    | _ => []

/-- An instruction that reads the divergence stack (R123). -/
def stackReads : Instr → Bool
  | .bdiv _ | .belse _ | .bjoin _ | .bloop _ | .bbrk _ => true
  | _ => false

/-- The trap registers that an instruction reads, from 80 on: TRAPCAUSE, TRAPPC, TRAPADDR, TRAPLANE (R40, R122). -/
def trapReads : Instr → List Nat
  | .sRdsys f => if 0x18 ≤ f.imm.toNat ∧ f.imm.toNat ≤ 0x1B then [f.imm.toNat - 0x18 + 80] else []
  | .tret f => if f.imm.getLsbD 0 then [80] else []
  | _ => []

/-- The keys of the team state that an instruction reads: scalars, masks at 64 + k, the stack at 72, trap registers (R364). -/
def teamReads (i : Instr) : List Nat :=
  (scalarReads i).filter (· != 63) ++ (maskReads i).map (64 + ·) ++ (if stackReads i then [72] else []) ++ trapReads i

/-- Registers of a MEM data operand of a width. -/
def dataRegs (w vd : Nat) : List Nat := regRun vd (if w == 4 then 4 else if w == 3 then 2 else 1)

/-- The vector registers that hold the data operands of an instruction, in a block of a stage (R233, R235). -/
def dataReads (stage : Nat) : Instr → List Nat
  | .mFrom f | .vAdd f | .vSub f | .vMul f | .vMulh f | .vMin f | .vMax f | .vAnd f | .vOr f | .vXor f | .vAndn f | .vShl f
  | .vShr f | .vSra f | .vCmp f | .vSel f | .vFadd f | .vFmul f | .vFmin f | .vFmax f | .vFcmp f | .vFscale f | .vShfl f
  | .vTidx f | .vMxd f =>
    vwords (ty64 f.ty.toNat) f.a.reg.toNat f.a.pat.toNat ++ vwords (ty64 f.ty.toNat) f.b.reg.toNat f.b.pat.toNat
  | .vPk f | .vBpand f => f.vd.toNat :: vwords false f.a.reg.toNat f.a.pat.toNat ++ vwords false f.b.reg.toNat f.b.pat.toNat
  | .vAbs f | .vClz f | .vPopc f | .vBrev f | .vMov f | .vFrnd f | .vFrcp f | .vFrsq f | .vFsqrt f | .vExp2 f | .vLog2 f
  | .vSin f | .vCos f | .vTanh f | .vFclass f | .vFexp f | .vMxq f | .vBpk f | .vBpu f | .vVote f | .vRed f | .vScan f =>
    vwords (ty64 f.ty.toNat) f.a.reg.toNat f.a.pat.toNat
  | .vCvt f => vwords (cvtBits (cvtFrom f) == 64) f.a.reg.toNat f.a.pat.toNat
  | .vFma f | .vMad f | .vBfe f | .vBfi f | .vDot2 f | .vDot4 f =>
    vwords (ty64 (vfType f.ty.toNat)) f.a.reg.toNat f.a.pat.toNat ++ vwords (ty64 (vfType f.ty.toNat)) f.b.reg.toNat f.b.pat.toNat
      ++ vwords (ty64 (vfType f.ty.toNat)) f.c.reg.toNat f.c.pat.toNat
  | .st f | .sts f => dataRegs f.width.toNat f.vd.toNat
  | .aCasv f => regRun f.vd.toNat (if f.width == 3 then 4 else 3)
  | .aAdd f | .aMin f | .aMax f | .aAnd f | .aOr f | .aXor f | .aXchg f | .aFadd f | .aInc f =>
    dataRegs (if f.width == 6 || f.width == 1 then 3 else f.width.toNat) f.vd.toNat
  | .aCas f => regRun f.vd.toNat (if f.width == 3 then 4 else 2)
  | .swArm f | .swAdd f | .qPush f => [f.vd.toNat]
  | .qInit f => regRun f.vd.toNat 2
  | .bar f | .barArr f | .gbar f => if f.width == 0 then [] else [f.vd.toNat]
  | .gVtx f => regRun f.va.toNat 4 ++ [f.vb.toNat]
  | .gPrim f => [f.va.toNat, f.vb.toNat]
  | .gAttr f => if stage == 3 then [] else regRun f.va.toNat (f.mod.toNat % 4 + 1) ++ [f.vb.toNat]
  | .gOut f => regRun f.va.toNat 4
  | .gZq f => [f.va.toNat]
  | .txSmp f | .txLd f => regRun f.va.toNat 4 ++ [f.vb.toNat]
  | .txDim f => [f.vb.toNat]
  | .rayTrace f => regRun f.va.toNat 8
  | .rayCont f => [f.vb.toNat]
  | _ => []

/-- The vector register that holds an access's offsets (R95). -/
def offsetReads : Instr → List Nat
  | .st f | .sts f | .ld f | .prf f | .lds f | .ldv f | .disc f | .wb f | .aCasv f | .aAdd f | .aMin f | .aMax f | .aAnd f | .aOr f
  | .aXor f | .aXchg f | .aFadd f | .aInc f | .aCas f => memVoff f
  | _ => []

/-- The vector registers whose lane words an instruction reads. -/
def vectorReads (stage : Nat) (i : Instr) : List Nat := dataReads stage i ++ offsetReads i

/-- The compared instructions of a protected team (R373). -/
def compared : Instr → Bool
  | .sSt _ _ | .st _ | .sts _ | .aCasv _ | .aAdd _ | .aMin _ | .aMax _ | .aAnd _ | .aOr _ | .aXor _ | .aXchg _ | .aCas _
  | .aFadd _ | .aInc _ | .swArm _ | .swAdd _ | .qInit _ | .qPush _ | .qPop _ | .bar _ | .barArr _ | .gbar _ | .mxSt _
  | .mxRc _ | .mxSlice _ | .cp _ | .cp2d _ | .cpX _ | .skimG _ | .skimS _ | .coll _ | .collAbort _ | .enq _ | .gOut _ => true
  | .mxBnd f => f.imm != 0
  | _ => false

/-- The vector registers that a long-latency instruction writes when it completes (R132). -/
def destRegs : Instr → List Nat
  | .ld f | .lds f => dataRegs f.width.toNat f.vd.toNat
  | .ldv f | .aCasv f => regRun f.vd.toNat (if f.width == 3 then 4 else 3)
  | .valset f => [f.vd.toNat]
  | .aAdd f | .aMin f | .aMax f | .aAnd f | .aOr f | .aXor f | .aXchg f | .aFadd f | .aInc f | .aCas f =>
    dataRegs (if f.width == 6 || f.width == 1 then 3 else f.width.toNat) f.vd.toNat
  | .swRead f => regRun f.vd.toNat 4
  | .txSmp f | .txLd f | .txDim f | .rayTrace f | .rayCont f => regRun f.vd.toNat 4
  | .rayHit f => regRun f.vd.toNat 2
  | .dbgrRd f => regRun f.vd.toNat 2
  | _ => []

end Sys2Proof.Machine
end

