-- ==== Sys2Proof/Machine/Maps.lean ====
section
/-! DEFINITION. Sparse storage in one canonical form: a list of (key, value) pairs with strictly rising keys, which
lists no value equal to what an unlisted key reads as. Registers, masks, memory bytes and tables are kept so. -/

namespace Sys2Proof.Machine

/-- A sparse map from Nat keys. -/
abbrev NMap (α : Type) := List (Nat × α)

variable {α : Type}

/-- The listed value of a key, if any. -/
def NMap.find? : NMap α → Nat → Option α
  | [], _ => none
  | (j, y) :: t, k => if j = k then some y else NMap.find? t k

/-- The value of a key, the default where it is not listed. -/
def NMap.get (d : α) (m : NMap α) (k : Nat) : α := (NMap.find? m k).getD d

/-- List a value at a key, in order. -/
def NMap.put (k : Nat) (x : α) : NMap α → NMap α
  | [] => [(k, x)]
  | (j, y) :: t => if k < j then (k, x) :: (j, y) :: t else if j = k then (k, x) :: t else (j, y) :: NMap.put k x t

/-- Drop a key, wherever it is listed. -/
def NMap.del (k : Nat) (m : NMap α) : NMap α := m.filter (fun e => !(e.1 == k))

/-- Write a value: the default value is not listed. -/
def NMap.set [DecidableEq α] (d : α) (m : NMap α) (k : Nat) (x : α) : NMap α :=
  if x = d then NMap.del k m else NMap.put k x m

/-- Change the value of a key. -/
def NMap.modify [DecidableEq α] (d : α) (m : NMap α) (k : Nat) (f : α → α) : NMap α :=
  NMap.set d m k (f (NMap.get d m k))

/-- Keys rise strictly, all of them above a bound. -/
def NMap.above (b : Nat) : NMap α → Bool
  | [] => true
  | (j, _) :: t => decide (b < j) && NMap.above j t

/-- Keys rise strictly. -/
def NMap.sorted : NMap α → Bool
  | [] => true
  | (j, _) :: t => NMap.above j t

/-- The canonical form: keys rise strictly and no entry equals the default. -/
def NMap.wf [DecidableEq α] (d : α) (m : NMap α) : Bool := NMap.sorted m && m.all (fun e => decide (e.2 ≠ d))

end Sys2Proof.Machine
end

