-- ==== Sys2Proof/Machine/State.lean ====
section
/-! DEFINITION. All the state the spec gives the machine, as plain data: teams, blocks, launches, cells, dies, homes,
vaults, queues, the parlour, the panel, the host link and power; the reasons a step can stop; and the state after
power-on. -/

namespace Sys2Proof.Machine

/-- Why the machine stops with a fault. No meaning of this model needs one: every trap of the device is taken, and a
step that is not enabled leaves the state. The one constructor is raised by nobody. -/
inductive Fault where
  /-- Raised by nobody; safe. -/
  | unused
deriving DecidableEq, Repr

/-- Why an instruction has no meaning. -/
inductive Refusal where
  /-- Raised by an arm of Dispatch whose meaning is not written; safe. -/
  | notModelled (mnemonic : String)
deriving DecidableEq, Repr

/-- An error that a storage array holds and that no access has found yet (R361, R371); `counted` is an uncorrectable one in a copy of a
protected team that has been found and counted and is still there, because the limit of R377 let no re-run replace the copy. -/
inductive Err where | corrected | uncorrectable | counted
deriving DecidableEq, Repr

/-- Kind of a divergence-stack entry (R123). -/
inductive DivKind where | div | loop
deriving DecidableEq, Repr

/-- A divergence-stack entry (R123). -/
structure DivEntry where
  kind    : DivKind
  saved   : Mask
  pending : Mask
deriving DecidableEq, Repr

/-- The layout force of a team (R24, R130). -/
inductive Force where | free | compacted | identity
deriving DecidableEq, Repr

/-- An accumulator tile: owning group's first lane, 16 × 16 elements by key 16·i + j; poisoned and latent rows; the errors of its
elements that nothing has found (R32, R191, R361). -/
structure Tile where
  base : Nat := 0
  el   : NMap Word := []
  pois : NMap Bool := []
  lat  : NMap Bool := []
  bad  : NMap (Option Err) := []
deriving DecidableEq, Repr

/-- A nonnegative bound: 16-bit significand and exponent, value sig · 2^exp (R191, R210). -/
structure Bound where
  sig : Nat := 0
  exp : Int := 0
deriving DecidableEq, Repr

/-- A wide-tile element (R191). -/
structure WElem where
  v      : BitVec 112 := 0
  z      : BitVec 12 := 0
  spec   : BitVec 2 := 0
  sticky : Bool := false
  zneg   : Bool := false
  bound  : Bound := {}
deriving DecidableEq, Repr

/-- The state that the churn keeps for one row of a wide tile (R191). -/
structure WRow where
  lossy     : Nat := 0
  triangle  : Bool := false
  shiftloss : Bool := false
  nonfin    : Bool := false
  ovf       : Bool := false
deriving DecidableEq, Repr

/-- A wide tile (R191): elements by key 16·i + j, rows by i. -/
structure WTile where
  base : Nat := 0
  el   : NMap WElem := []
  row  : NMap WRow := []
  pois : NMap Bool := []
  lat  : NMap Bool := []
  bad  : NMap (Option Err) := []
deriving DecidableEq, Repr

/-- A ray-triangle hit (R243, R244). -/
structure Hit where
  leaf  : Nat := 0
  t     : Word := 0
  u     : Word := 0
  v     : Word := 0
  prim  : Word := 0
  front : Bool := false
  opq   : Bool := false
deriving DecidableEq, Repr

/-- A lane's ray query (R242): the ray, the committed hit, the candidate and the traversal state. -/
structure RayQ where
  ray    : List Word := []
  root   : Nat := 0
  first  : Bool := false
  cullb  : Bool := false
  opq    : Bool := false
  commit : Option Hit := none
  cand   : Option Hit := none
  seen   : List Nat := []
  done   : Bool := true
  res    : List Word := [0, 0, 0, 0]
deriving DecidableEq, Repr

/-- One copy of a team's registers (R27, R372): vector words by key 1024·n + L, their poison, which of it is latent (R367)
and which lay in the cell's own storage (R371), errors not yet found; scalars, masks, divergence stack, tiles. Errors of team state
not yet found stand in sbad: scalars by number, masks at 64 + k, the stack at 72, the remapping table at 73, the trap registers at
80 to 83 (R361, R364). -/
structure Regs where
  v     : NMap Word := []
  vpois : NMap Bool := []
  vlat  : NMap Bool := []
  vown  : NMap Bool := []
  vbad  : NMap (Option Err) := []
  sr    : NMap DWord := []
  sbad  : NMap (Option Err) := []
  msk   : NMap Mask := []
  stack : List DivEntry := []
  tile  : NMap (Option Tile) := []
  wide  : NMap (Option WTile) := []
deriving DecidableEq, Repr

/-- A lane's part of a memory operation: virtual and physical address, memory type, size of the page (R284), data bytes (R161, R162). -/
structure Acc where
  lane : Nat := 0
  va   : Nat := 0
  pa   : Nat := 0
  mt   : Nat := 0
  page : Nat := 65536
  data : List Byte := []
  done : Bool := false
deriving DecidableEq, Repr

/-- A page's translation (R284, R287). -/
structure Leaf where
  vbase : Nat := 0
  size  : Nat := 65536
  pbase : Nat := 0
  mt    : Nat := 0
  priv  : Bool := false
  x     : Bool := false
  w     : Bool := false
  r     : Bool := false
deriving DecidableEq, Repr

/-- A piece of memory that a lane of a texture or ray query has read before the query is performed: its bytes and their poison (R237, R248). -/
structure Held where
  lane : Nat := 0
  va   : Nat := 0
  d    : List (Byte × Bool) := []
deriving DecidableEq, Repr

/-- A long-latency operation that has issued and has not completed (R79, R218), or a scalar access whose memory access is still to come (R115).
`gave` holds the destination words, by lane-word key, that it has delivered before it completes (R81); `walks` the walks that it waited for, by
64 KiB page number (R288); `held` and `reads` the pieces that a query has read and the texels that it reads, by lane and address (R237); `forms`
which vault addresses of an engine operation are of the block's own form: the sync word first, then each range (R35, R219). -/
structure Op where
  id      : Nat := 0
  i       : Instr := .clauseBegin 0
  pc      : Nat := 0
  hdr     : Nat := 0
  flag    : Option Nat := none
  seq     : Nat := 0
  syn     : Bool := false
  stream  : Nat := 0
  scope   : Nat := 0
  rm      : Nat := 0
  mask    : Mask := 0
  sc      : List DWord := []
  arg     : List Nat := []
  acc     : List Acc := []
  started : Bool := false
  kills   : List Nat := []
  killAll : Bool := false
  pois    : List Nat := []
  pown    : List Nat := []
  pseq    : Option Nat := none
  gave    : List Nat := []
  ready   : Option (List (Nat × List Word × Bool)) := none
  walks   : List (Nat × Option Leaf) := []
  held    : List Held := []
  reads   : List (Nat × Nat) := []
  forms   : List Bool := []
deriving DecidableEq, Repr

/-- An access that has been performed before older accesses that precede it for the observers of an extent alone (R252, R253, R256):
its operation, the older operations with the scope of each order, the lines that it touched, whether it wrote. -/
structure Early where
  id    : Nat := 0
  preds : List (Nat × Nat) := []
  lines : List Nat := []
  wr    : Bool := false
deriving DecidableEq, Repr

/-- A deferred fault (R196, R221): the operation that raised it and the trap it takes. -/
structure DFault where
  op     : Op
  cause  : Nat
  detail : Nat
  addr   : Nat
  lane   : Option Nat := none
  replay : Bool := false
deriving DecidableEq, Repr

/-- The three issue pipes of a cell (R300). -/
inductive Pipe where | v | l | x
deriving DecidableEq, Repr

/-- A clause in progress (R72, R73): its header's fields, its words, the position of the next instruction. -/
structure Clause where
  hdr   : Nat := 0
  cls   : Nat := 3
  words : List DWord := []
  idx   : Nat := 0
  seta  : Nat := 15
  setb  : Nat := 15
  syn   : Bool := false
  pipe  : Option Pipe := none
deriving DecidableEq, Repr

/-- How a trap resumes (R83, R196, R221). -/
inductive TrapKind where
  /-- An instruction of a clause in progress. -/
  | instr
  /-- The begin of a clause. -/
  | clause
  /-- A deferred fault of an operation, taken at an observation point. -/
  | deferred (op : Op)
deriving DecidableEq, Repr

/-- The trap state that the hardware keeps (R310): what `tret` restores; `barin` is the phase that a barrier instruction had arrived in where a
deferred fault was taken at its reissue (R189, R196). -/
structure TrapState where
  m0      : Mask
  m0s     : Mask
  stack   : List DivEntry
  stackSh  : List DivEntry
  compact : Bool
  force   : Force
  pc      : Nat
  clause  : Option Clause
  kind    : TrapKind
  barin   : Option Nat := none
deriving DecidableEq, Repr

/-- Whether a team runs. -/
inductive TeamStatus where
  /-- No team stands here. -/
  | absent
  | running
  /-- Stopped for the host with a CODE (R311). -/
  | stopped (code : Nat)
  /-- Stopped at its boundary for a pre-emption or a re-run, its context saved (R305, R375). -/
  | saved
  /-- Held at a compared instruction whose copies differ (R375). -/
  | held
  | ended
deriving DecidableEq, Repr

/-- A team (R12): one program counter, its registers, its operations, its trap state; `redo` is an operation that the host replays when the
team's saved context resumes (R311). -/
structure Team where
  tid     : Nat := 0
  blk     : Nat := 0
  idx     : Nat := 0
  die     : Nat := 0
  cell    : Nat := 0
  pair    : Bool := false
  width   : Nat := 32
  group   : Nat := 32
  prot    : Bool := false
  status  : TeamStatus := .absent
  r       : Regs := {}
  sh      : Option Regs := none
  pc      : Nat := 0
  clause  : Option Clause := none
  stalled : Bool := false
  dead    : Mask := 0
  dying   : NMap (Option Nat) := []
  xblk    : Nat := 0
  compact : Bool := false
  force   : Force := .free
  rm      : BitVec 2 := 0
  ftz     : Bool := false
  fl      : BitVec 5 := 0
  deadsrc : Bool := false
  mxb     : DWord := 0
  mxt     : DWord := 0
  trapcause : DWord := 0
  trappc    : DWord := 0
  trapaddr  : DWord := 0
  traplane  : DWord := 0
  handler : Option TrapState := none
  stop    : Option TrapState := none
  flags   : NMap Nat := []
  issued  : NMap Nat := []
  ops     : List Op := []
  nextOp  : Nat := 0
  deferred : List DFault := []
  rays    : NMap (Option RayQ) := []
  absent  : NMap Bool := []
  savebad : NMap Bool := []
  preempt : Bool := false
  pmark   : Option (Nat × Nat) := none
  timeout : Bool := false
  walks   : List (Nat × Option Leaf) := []
  granted : Option Nat := none
  barin   : Option Nat := none
  slept   : Bool := false
  slotwait : Bool := false
  pseq    : Nat := 0
  stopat  : Option Nat := none
  rerun   : Option Nat := none
  saveobs : Option Bool := none
  treeEnded : Bool := false
  nofrag  : Mask := 0
  early   : List Early := []
  redo    : Option Op := none
deriving DecidableEq, Repr

/-- A team's arrival at a barrier (R186, R187): who, the reduction, the contributions, whether it counts yet. -/
structure Arrival where
  team    : Nat := 0
  red     : Nat := 0
  lanes   : Nat := 0
  value   : Nat := 0
  counted : Bool := false
deriving DecidableEq, Repr

/-- A completed phase (R187, R188): its number, whether the reductions agreed, the result. -/
structure PhaseEnd where
  phase    : Nat := 0
  mismatch : Bool := false
  value    : Nat := 0
deriving DecidableEq, Repr

/-- A barrier (R185): current phase, arrivals in it, completed phases, and each team's last arrival not yet cleared. -/
structure Bar where
  phase : Nat := 0
  arr   : List Arrival := []
  ended : List PhaseEnd := []
  last  : NMap (Option (Nat × Nat)) := []
deriving DecidableEq, Repr

/-- A grid barrier (R185, R357, R358): the apex's phase, arrivals and each team's last arrival, each die's record of the last completed
phase, the teams that have left E, and those that leave it with the open phase. -/
structure Grid where
  bar  : Bar := {}
  done : List (Nat × PhaseEnd) := []
  ended : Nat := 0
  left : Nat := 0
deriving DecidableEq, Repr

/-- A shape-table entry (R155, R156): dimensions, extents, strides, and the reciprocal constants sh and M. -/
structure Shape where
  dims : Nat := 1
  ext  : List Nat := []
  str  : List Int := []
  sh   : List Nat := []
  m    : List Nat := []
deriving DecidableEq, Repr

/-- A meshlet under construction (R233). -/
structure Meshlet where
  pos  : NMap (Option (List Word)) := []
  attr : NMap (Option Word) := []
  slots : Nat := 0
  prim : NMap (Option Word) := []
  done : Bool := false
deriving DecidableEq, Repr

/-- A fragment of a pixel block (R329, R330, R332): `zi` is the interpolated depth, `z` the one that the merger takes. -/
structure Frag where
  draw  : Nat := 0
  prim  : Nat := 0
  x     : Nat := 0
  y     : Nat := 0
  z     : Word := 0
  zi    : Word := 0
  front : Bool := false
  attr  : List Word := []
  outs  : NMap (Option (List Word)) := []
  dead  : Bool := false
deriving DecidableEq, Repr

/-- Where a block stands in its life (R296, R305, R311, R375). -/
inductive BlockStatus where
  | resident
  /-- Saved and waiting for cells. -/
  | waiting
  /-- Ended. -/
  | ended
deriving DecidableEq, Repr

/-- A protected block's held instruction and its two candidate values (R375). -/
structure HeldCmp where
  team : Nat
  seq  : Nat
  p    : List Nat
  h    : List Nat
deriving DecidableEq, Repr

/-- A block (R14): its launch, index, placement, allocation, barriers, shape table, graphics state, re-run state. -/
structure Block where
  bid    : Nat := 0
  lid    : Nat := 0
  index  : Nat := 0
  die    : Nat := 0
  cell   : Nat := 0
  pair   : Bool := false
  vbase  : Nat := 0
  vsize  : Nat := 0
  gang   : Nat := 0
  gmask  : Nat := 0
  gsize  : Nat := 0
  gpos   : Nat := 0
  nteams : Nat := 1
  status : BlockStatus := .resident
  start  : Nat := 0
  draw   : Nat := 0
  prim   : Nat := 0
  pixel  : Bool := false
  bars   : NMap Bar := []
  grid   : Grid := {}
  shapes : NMap (Option Shape) := []
  shbad  : NMap (Option Err) := []
  mesh   : Meshlet := {}
  frags  : List (Option Frag) := []
  preempt : Bool := false
  heldp  : Bool := false
  image  : List Byte := []
  imgpois : NMap Bool := []
  reruns : Nat := 0
  log    : List (Nat × Nat × List (Nat × Nat)) := []
  nlog   : Nat := 0
  held   : Option HeldCmp := none
  wantrun : Bool := false
deriving DecidableEq, Repr

/-- The launch descriptor's fields (R289). -/
structure Desc where
  status  : Nat := 0
  dies    : Nat := 0
  id      : Nat := 0
  draw    : Nat := 0
  wcols   : Nat := 0
  wcol0   : Nat := 0
  wrows   : Nat := 0
  wrow0   : Nat := 0
  fhost   : Bool := false
  stream  : Nat := 0
  prio    : Nat := 0
  priv    : Bool := false
  prot    : Bool := false
  stage   : Nat := 0
  kwords  : Nat := 0
  gangf   : Nat := 0
  gangp   : Nat := 0
  tiles   : Nat := 0
  vunits  : Nat := 0
  xregs   : Nat := 0
  nteams  : Nat := 0
  pair    : Bool := false
  gcode   : Nat := 1
  wcode   : Nat := 0
  dz      : Nat := 1
  dy      : Nat := 1
  dx      : Nat := 1
  pxdesc  : Nat := 0
  edge    : Nat := 0
  kconst  : Nat := 0
  handler : Nat := 0
  kaddr   : Nat := 0
  rsv     : Bool := false
deriving DecidableEq, Repr

/-- What a kernel record gives a launch beside its descriptor (R107): the image of the vault objects, and the offsets of the
`.queue` objects in it. -/
structure KRec where
  image : List Byte := []
  rings : List Nat := []
deriving DecidableEq, Repr

/-- Where a launch stands (R294). -/
inductive LaunchStatus where | active | finished | aborted (code : Nat) | rejected (code : Nat)
deriving DecidableEq, Repr

/-- A launch that a distributor has taken (R292, R294, R296, R298). -/
structure Launch where
  lid     : Nat := 0
  d       : Desc := {}
  home    : Nat := 0
  status  : LaunchStatus := .active
  consts  : List Byte := []
  cbad    : NMap Bool := []
  next    : Nat := 0
  cursor  : NMap Nat := []
  ngangp  : Nat := 0
  ngangf  : Nat := 0
  preempts : Nat := 0
  dead    : Nat := 0
  image   : List Byte := []
  rings   : List Nat := []
  regions : List (Nat × Nat) := []
  grid    : Grid := {}
  pass    : Nat := 0
  pixel   : Bool := false
  pxended : Bool := false
deriving DecidableEq, Repr

/-- A home-slice line (R273): version, state (0 C, 1 D, 2 A), 128 bytes, poisoned 32-byte words,
and errors of its SRAM words not yet found (R361). -/
structure SliceLine where
  line  : Nat := 0
  ver   : BitVec 64 := 0
  st    : Nat := 0
  data  : List Byte := []
  pois  : BitVec 4 := 0
  bad   : NMap (Option Err) := []
deriving DecidableEq, Repr

/-- An L1 allocation block (R270): physical address of its first 16-byte word, its bytes, its retention (R163), the errors of its words
by 16-byte word address (R361). -/
structure L1Block where
  pa   : Nat := 0
  data : List Byte := []
  pol  : Nat := 0
  bad  : NMap (Option Err) := []
deriving DecidableEq, Repr

/-- A cell's structures (R270, R287, R131, R197, R371). The lists are in order of use or arrival; `cause` names the record for
which a drain retires the cell. -/
structure Cell where
  l1    : List L1Block := []
  pred  : NMap (Option Nat) := []
  ic    : List (Nat × List Byte) := []
  icbad : NMap (Option Err) := []
  utlb  : List Leaf := []
  regq  : List (Nat × Nat) := []
  wideq : List (Nat × Nat) := []
  drain : Bool := false
  cause : Nat × Nat := (0xFFFF, 0)
  nue   : Nat := 0
  nce   : Nat := 0
  cew   : NMap Nat := []
  ndeath : Nat := 0
  cyc   : DWord := 0
deriving DecidableEq, Repr

/-- A walk request (R288): the 64 KiB page number, the teams merged into it by cell, and the operations by cell, team and number. -/
structure Walk where
  page : Nat := 0
  by_  : List (Nat × Nat) := []
  ops  : List (Nat × Nat × Nat) := []
deriving DecidableEq, Repr

/-- A walk in progress: its walker and the result it will deliver. -/
structure WalkDone where
  walker : Nat := 0
  page : Nat := 0
  by_  : List (Nat × Nat) := []
  ops  : List (Nat × Nat × Nat) := []
  res  : Option Leaf := none
deriving DecidableEq, Repr

/-- What reading an edge list gives (R293). -/
inductive EdgeRes where
  | good (prods : List Nat) (regions : List (Nat × Nat))
  | unread
  | malformed
deriving DecidableEq, Repr

/-- A task-queue entry (R295, R231): the descriptor's bits, whether a privileged agent appended it, a mailbox's window, and the edge
list once it has been read. -/
structure QEntry where
  bits : BitVec 1024 := 0
  priv : Bool := true
  edge : Option (Nat × Nat) := none
  edgelist : Option EdgeRes := none
deriving DecidableEq, Repr

/-- What a full queue holds (R231, R392): a team's append, or the place of a mailbox whose launch waits for room. -/
structure QHeld where
  entry : QEntry := {}
  team  : Option (Nat × Nat) := none
  box   : Option Nat := none
deriving DecidableEq, Repr

/-- A compute die, with the clusters that rotation keeps for saved blocks as `rota` (R303; R38, R348: the harvest map of a die with no defective column, R44, R287, R288, R295, R296, R306, R380, R381). -/
structure Die where
  live    : Bool := false
  ready   : Bool := false
  failed  : Bool := false
  dropped : Bool := false
  colret  : BitVec 38 := 0x3000000000#38
  cellret : NMap Bool := []
  walkq   : List Walk := []
  walking : List WalkDone := []
  wcache  : NMap (List (Nat × Nat × Nat)) := []
  queues  : NMap (List QEntry) := []
  held    : NMap (List QHeld) := []
  active  : List Nat := []
  savecap : Nat := 0
  rota    : List (Nat × Nat) := []
  savebase : Nat := 0
  halting : Bool := false
  notices : List Nat := []
  acked   : List Nat := []
  haltby  : Option Nat := none
  halted  : Bool := false
  suspby  : List Nat := []
  uecnt   : Nat := 0
  cecnt   : Nat := 0
  attempt : NMap Nat := []
  ncoll   : NMap Nat := []
  pxcount : Nat := 0
  meas    : List Byte := []
deriving DecidableEq, Repr

/-- An interleave set (R275, R276, R353, R354). -/
structure ISet where
  members : List Nat := []
  bases   : List Nat := []
  caps    : List Nat := []
  broken  : Bool := false
deriving DecidableEq, Repr

/-- A memory site (R340, R274, R281, R354): its slice floor, its resident lines in order of use,
the scrub-pending lines with what the scrubber read of each bad word, loss. -/
structure Site where
  lost   : Bool := false
  floor  : BitVec 64 := 0
  lines  : List SliceLine := []
  scrub  : NMap (Option (List (Nat × Bool))) := []
  adopt  : Option Nat := none
  period : Nat := 24
deriving DecidableEq, Repr

/-- All memory: HBM bytes keyed site·2^36 + offset, vault bytes keyed (die·4608 + cell)·2^18 + offset, poison marks of
32-byte HBM words and 16-byte vault words, errors not yet found, and the slices (R267, R273, R361). -/
structure Mem where
  hbm    : List Host.Cell := []
  hpois  : NMap Bool := []
  hbad   : NMap (Option Err) := []
  vault  : List Host.Cell := []
  vpois  : NMap Bool := []
  vbad   : NMap (Option Err) := []
  sites  : NMap Site := []
  sets   : NMap (Option ISet) := []
  root   : Nat := 0
deriving DecidableEq, Repr

/-- A primitive record (R322): sequence, positions, depths, 1/w, attributes, tile rectangle, producing die. -/
structure Rec where
  draw  : Nat := 0
  prim  : Nat := 0
  xy    : List Int := []
  z     : List Word := []
  rw    : List Word := []
  attrs : List Word := []
  nattr : Nat := 0
  face  : Bool := false
  tiles : List Nat := []
  src   : Nat := 0
deriving DecidableEq, Repr

/-- A message under way in the panel. -/
inductive Msg where
  /-- An arrival of m bytes at a sync word of a vault, keyed as vault bytes (R180), with the kick whose payload it counts: its address
  and its immediate (R391). -/
  | arrive (die : Nat) (key : Nat) (m : Nat) (kick : Option (Nat × Nat))
  /-- A count and payload of a team's arrival at its grid barrier (R357): of a launch, or of a pixel block. -/
  | treeUp (grid : Nat) (team : Nat) (a : Arrival)
  /-- A team's end reported up the tree (R357). -/
  | treeEnd (grid : Nat) (team : Nat)
  /-- A release under way to a die (R358). -/
  | treeDown (grid : Nat) (die : Nat) (e : PhaseEnd)
  /-- A collective packet: matched operation, group and attempt, sending rank's contribution (R229, R230). -/
  | coll (lid grp att n : Nat) (src dst : Nat) (key : List Nat) (data : List Byte) (pois : List Nat)
  /-- An abort token (R230). -/
  | token (lid grp att : Nat) (dst : Nat) (team op : Nat)
  /-- A halt notice (R380). -/
  | notice (src dst : Nat)
  /-- A primitive record to an owner (R322). -/
  | record (src dst : Nat) (r : Rec) (blk : Nat)
  /-- A mark to an owner: kind 1 block, 2 draw, 3 end (R323). -/
  | mark (kind : Nat) (src dst : Nat) (draw first count : Nat) (blk : Nat)
deriving DecidableEq, Repr

/-- A draw of the open pass (R312, R317, R326). -/
structure Draw where
  ord   : Nat := 0
  lid   : Nat := 0
  nord  : Nat := 0
  pxlid : Nat := 0
  ended : Bool := false
deriving DecidableEq, Repr

/-- A render-target entry (R315). -/
structure Target where
  base   : Nat := 0
  pitch  : Nat := 0
  fmt    : Nat := 0
  enable : Bool := false
  blend  : Bool := false
  csrc   : Nat := 0
  cdst   : Nat := 0
  asrc   : Nat := 0
  adst   : Nat := 0
  wmask  : Nat := 0
deriving DecidableEq, Repr

/-- The open pass (R314, R317). -/
structure Pass where
  addr    : Nat := 0
  view    : List Word := []
  dpitch  : Nat := 0
  dbase   : Nat := 0
  tot     : List Nat := []
  first   : Nat := 0
  ndraws  : Nat := 0
  height  : Nat := 0
  width   : Nat := 0
  reserve : Nat := 0
  dfunc   : Nat := 0
  dwrite  : Bool := false
  dtest   : Bool := false
  cull    : Nat := 0
  front   : Nat := 0
  targets : List Target := []
  owners  : List Nat := []
  draws   : List Draw := []
deriving DecidableEq, Repr

/-- An owner's reorder buffer, marks, rasterised fragments, merger (R324, R325, R330, R332). -/
structure Owner where
  draw   : Nat := 0
  prim   : Nat := 0
  recs   : List Rec := []
  dmarks : List (Nat × Nat) := []
  bmarks : List (Nat × Nat) := []
  emarks : List Nat := []
  ready  : List Frag := []
  merge  : List Frag := []
deriving DecidableEq, Repr

/-- A tile-store line (R336): its physical line, virtual line, bytes, poisoned 16-byte words. -/
structure TsLine where
  va   : Nat := 0
  pa   : Nat := 0
  mt   : Nat := 0
  data : List Byte := []
  pois : NMap Bool := []
  dirty : Bool := false
deriving DecidableEq, Repr

/-- The parlour (chapter 12): open pass, owners by die, tile stores by die, refused records, resolved draws. -/
structure Parlour where
  pass    : Option Pass := none
  owners  : NMap Owner := []
  stores  : NMap (List TsLine) := []
  refused : List Msg := []
deriving DecidableEq, Repr

/-- An event record (R382). -/
structure Event where
  kind   : Nat := 0
  detail : Nat := 0
  src    : Nat := 0
  seq    : Nat := 0
  launch : Nat := 0
  addr   : Nat := 0
  info   : Nat := 0
  csrc   : Nat := 0xFFFF
  cseq   : Nat := 0
deriving DecidableEq, Repr

/-- A mailbox (R389 to R392). -/
structure Mailbox where
  num     : Nat := 0
  ldesc   : Nat := 0
  wbase   : Nat := 0
  wlen    : Nat := 0
  target  : Nat := 0
  swkey   : Nat := 0
  swdie   : Nat := 0
  queue   : Nat := 0
  expect  : Nat := 0
  pending : Nat := 0
  g0      : Nat := 0
  kicks   : List Nat := []
deriving DecidableEq, Repr

/-- What the device sends to the host (R384 to R388). -/
inductive HostMsg where
  | ack (qp : Nat)
  | nak (qp : Nat) (reason : Nat)
  | data (qp : Nat) (bytes : List Byte)
  | answer (tag code result : Nat) (body : List Byte)
deriving DecidableEq, Repr

/-- A WRITE under way (R386): its lines that are not performed yet (address, bytes, physical address, memory type), its address and
data, the ranges that it has placed, whether a line fell in a lost member, and the immediate that it carries. -/
structure HostWrite where
  pieces : List (Nat × Nat × Nat × Nat) := []
  va     : Nat := 0
  data   : List Byte := []
  put    : List (Nat × Nat) := []
  lost   : Bool := false
  imm    : Option Nat := none
deriving DecidableEq, Repr

/-- A READ under way (R386): its address, its lines that are not performed yet (address, bytes, physical address, memory type), and the bytes
that have come, with their poison. -/
structure HostRead where
  va     : Nat := 0
  pieces : List (Nat × Nat × Nat × Nat) := []
  got    : List (Byte × Bool) := []
deriving DecidableEq, Repr

/-- A queue pair (R384, R388). -/
structure Qp where
  isOpen  : Bool := false
  key     : Nat := 0
  sends   : Nat := 0
  rate    : Nat := 0
  rest    : Option HostWrite := none
  get     : List HostRead := []
deriving DecidableEq, Repr

/-- A power region (R44, R395, R396, R398): P state, S state, CAP, WINDOW, STEP, clock in sixteenths, droop. -/
structure Region where
  pstate : Nat := 0
  sstate : Nat := 0
  cap    : Nat := 2200
  window : Nat := 1000
  step   : Nat := 500
  clock  : Nat := 16
  delay  : Nat := 0
  draw   : Nat := 0
  droop  : Bool := false
  recov  : Bool := false
deriving DecidableEq, Repr

/-- Start-up stage (R393). -/
inductive Stage where
  | off
  | zero
  | refused
  | one
  | two
deriving DecidableEq, Repr

/-- The I/O die, the host link, start-up, power and security (chapter 15); `asks` holds the pre-empt commands not yet
answered, by TAG (R307). -/
structure HostLink where
  stage    : Stage := .off
  booted   : Option Nat := none
  trained  : List Nat := []
  qps      : NMap Qp := []
  out      : List HostMsg := []
  boxes    : NMap (Option Mailbox) := []
  asks     : List (Nat × List Nat) := []
  newkicks : List (Nat × Nat) := []
  regions  : NMap Region := []
  mrom     : List Byte := []
  mfw      : List Byte := []
  fwver    : Nat := 0
  rollback : Nat := 0
deriving DecidableEq, Repr

/-- The fabric (chapter 13): failed links, failed base-die logic, messages under way in order of sending. -/
structure Fabric where
  badlinks : List Nat := []
  badbase  : NMap Bool := []
  msgs     : List Msg := []
  stopped  : Bool := false
deriving DecidableEq, Repr

/-- An uncorrectable error found in a cell's storage whose own record is not out yet (R371): the code word, and for a vault word its
address, the reader's launch and lane. -/
structure Found where
  die   : Nat := 0
  cell  : Nat := 0
  word  : Nat := 0
  vault : Option (Nat × Nat × Nat) := none
deriving DecidableEq, Repr

/-- A write of a launch's status record that is due (R294): STATE, CODE, and the stopped team's fields. -/
structure StatusReq where
  lid    : Nat := 0
  state  : Nat := 0
  code   : Nat := 0
  team   : Nat := 0
  die    : Nat := 0
  index  : Nat := 0
  cause  : DWord := 0
  pc     : DWord := 0
  addr   : DWord := 0
deriving DecidableEq, Repr

/-- One turn of the schedule: a team moves, or a device step happens. -/
inductive Turn where
  | team (tid : Nat)
  | event (i : Instr)
  /-- A SEND of the host on a queue pair, by its bytes (R384, R387). -/
  | send (qp : Nat) (bytes : List Byte)
  /-- A WRITE, with or without immediate, whose lines are performed one by one (R386). -/
  | write (qp key va : Nat) (imm : Option Nat) (data : List Byte)
  /-- The next line of the queue pair's WRITE under way. -/
  | writeLine (qp : Nat)
  /-- A READ whose lines are performed one by one, and the next line of the queue pair's oldest READ under way (R386). -/
  | read (qp key va n : Nat)
  | readLine (qp : Nat)
deriving DecidableEq, Repr

/-- The machine. `cur` is the team whose turn it is, `teams` the others. `sched` and `free` are the model's own: the
moves that the environment has chosen next (log 3), and the counter that a free value is read at (log 6). -/
structure State where
  cur      : Team := {}
  teams    : List Team := []
  blocks   : List Block := []
  launches : List Launch := []
  cells    : NMap Cell := []
  ctlb     : NMap (List Leaf) := []
  dies     : NMap Die := []
  mem      : Mem := {}
  qwait    : List (Nat × Nat × Bool) := []
  fabric   : Fabric := {}
  parlour  : Parlour := {}
  evseq    : NMap Nat := []
  evbuf    : NMap (List Event) := []
  evdrop   : NMap Nat := []
  found    : List Found := []
  host     : HostLink := {}
  statusq  : List StatusReq := []
  records  : NMap (Option KRec) := []
  nextId   : Nat := 1
  sched    : List Turn := []
  free     : Nat := 0
deriving DecidableEq, Repr

/-- Power-on (R7, R393): every unit at its reset value, no team, no launch, memory with nothing listed. -/
def State.reset : State := {}

end Sys2Proof.Machine
end

