-- ==== Sys2Proof/Machine/Team.lean ====
section
/-! DEFINITION. Accessors of the current team's registers, masks and lanes, and of teams, blocks, launches, cells and dies
by their keys. -/

namespace Sys2Proof.Machine

/-! ## Masks and lanes -/

/-- The lanes below w (R19). -/
def lanesBelow (w : Nat) : Mask := BitVec.ofNat 1024 (2 ^ w - 1)

/-- The set bits of a mask below w, ascending. -/
def lanesOf (m : Mask) (w : Nat) : List Nat := (List.range w).filter (fun l => m.getLsbD l)

/-- A mask with the bits of the listed lanes. -/
def maskOf (l : List Nat) : Mask := l.foldl (fun m x => m ||| BitVec.ofNat 1024 (2 ^ x)) 0

/-- The summary word of a mask (R19): bit y is set where row word y is nonzero. -/
def summary (m : Mask) : Word :=
  (List.range 32).foldl (fun x y => if m.extractLsb' (32 * y) 32 = 0 then x else x ||| BitVec.ofNat 32 (2 ^ y)) 0

/-! ## One copy of the registers -/

/-- S(n): s63 reads 0 (R27, R45). -/
def Regs.sget (r : Regs) (n : Nat) : DWord := if n = 63 then 0 else NMap.get 0 r.sr n
/-- Write S(n): writes to s63 are ignored. -/
def Regs.sset (r : Regs) (n : Nat) (x : DWord) : Regs := 
  if n = 63 then r else { r with sr := NMap.set 0 r.sr n x, sbad := NMap.set none r.sbad n none }
/-- M(k). -/
def Regs.mget (r : Regs) (k : Nat) : Mask := NMap.get 0 r.msk k
/-- Write M(k): bits of lanes numbered w or above are discarded (R19). -/
def Regs.mset (r : Regs) (w k : Nat) (x : Mask) : Regs :=
  { r with msk := NMap.set 0 r.msk k (x &&& lanesBelow w), sbad := NMap.set none r.sbad (64 + k) none }
/-- The key of lane word V(L, n). -/
def vkey (n l : Nat) : Nat := 1024 * n + l
/-- V(L, n) (R45). -/
def Regs.vget (r : Regs) (n l : Nat) : Word := NMap.get 0 r.v (vkey n l)
/-- Write V(L, n) whole: the word's poison is cleared (R367). -/
def Regs.vset (r : Regs) (n l : Nat) (x : Word) : Regs :=
  { r with v := NMap.set 0 r.v (vkey n l) x, vpois := NMap.set false r.vpois (vkey n l) false,
           vlat := NMap.set false r.vlat (vkey n l) false, vown := NMap.set false r.vown (vkey n l) false,
           vbad := NMap.set none r.vbad (vkey n l) none }
/-- V64(L, n) (R28). -/
def Regs.vget64 (r : Regs) (n l : Nat) : DWord := r.vget (n + 1) l ++ r.vget n l
/-- Write V64(L, n). -/
def Regs.vset64 (r : Regs) (n l : Nat) (x : DWord) : Regs :=
  (r.vset n l (x.extractLsb' 0 32)).vset (n + 1) l (x.extractLsb' 32 32)
/-- Write poison into V(L, n) (R363); `own` says that its cause lay in the cell's own storage (R371). -/
def Regs.vpoison (r : Regs) (n l : Nat) (own : Bool) : Regs :=
  { r with vpois := NMap.set false r.vpois (vkey n l) true, vlat := NMap.set false r.vlat (vkey n l) false
           vown := NMap.set false r.vown (vkey n l) own }

/-! ## The current team -/

def sreg (t : Team) (n : Nat) : DWord := t.r.sget n
def mreg (t : Team) (k : Nat) : Mask := t.r.mget k
def vreg (t : Team) (n l : Nat) : Word := t.r.vget n l
def vreg64 (t : Team) (n l : Nat) : DWord := t.r.vget64 n l

def setSreg (t : Team) (n : Nat) (x : DWord) : Team := { t with r := t.r.sset n x }
def setMreg (t : Team) (k : Nat) (x : Mask) : Team := { t with r := t.r.mset t.width k x }
def setVreg (t : Team) (n l : Nat) (x : Word) : Team := { t with r := t.r.vset n l x }
def setVreg64 (t : Team) (n l : Nat) (x : DWord) : Team := { t with r := t.r.vset64 n l x }

/-- Do the same to the primary and the shadow copy of a protected team (R372); what is no register comes from the primary. -/
def bothCopies (f : Team → Team) (t : Team) : Team :=
  let u := f t
  match t.sh with
  | none => u
  | some h => { u with sh := some (f { t with r := h, sh := none }).r }

/-- Deliver a value from outside the team to both copies (R372). -/
def deliverRegs (f : Regs → Regs) (t : Team) : Team := { t with r := f t.r, sh := t.sh.map f }

/-- dead(L) (R21). -/
def isDead (t : Team) (l : Nat) : Bool := t.dead.getLsbD l

/-- The lanes of active(m) (R45), as a mask. -/
def activeM (t : Team) (m : Mask) : Mask := m &&& lanesBelow t.width &&& ~~~ t.dead

/-- exec(p) as a mask (R45): p = 0 is m0 alone. -/
def execM (t : Team) (p : Nat) : Mask :=
  activeM t (if p = 0 then mreg t 0 else mreg t 0 &&& mreg t p)

/-- exec(p), ascending. -/
def execL (t : Team) (p : Nat) : List Nat := lanesOf (execM t p) t.width

/-- active(M(0)), ascending. -/
def activeL (t : Team) : List Nat := execL t 0

/-- Every live lane below W. -/
def liveM (t : Team) : Mask := lanesBelow t.width &&& ~~~ t.dead

/-- The row of a lane (R13). -/
def rowOfLane (l : Nat) : Nat := l / 32

/-- The cell that holds a lane's row: the right cell of a pair for the upper half of the rows (R16). -/
def laneCell (t : Team) (l : Nat) : Nat :=
  if t.pair && decide (t.width / 32 / 2 ≤ rowOfLane l) then t.cell + 1 else t.cell

/-! ## Teams, blocks, launches by key -/

/-- Put a team into a list in ascending tid. -/
def insertTeam (x : Team) : List Team → List Team
  | [] => [x]
  | y :: t => if x.tid ≤ y.tid then x :: y :: t else y :: insertTeam x t

/-- The other teams with the current one put back; an empty place is not a team. -/
def allTeams (s : State) : List Team := if s.cur.status = .absent then s.teams else insertTeam s.cur s.teams

/-- Make team tid the current team. -/
def focus (s : State) (tid : Nat) : State :=
  if s.cur.tid == tid && s.cur.status != .absent then s
  else match s.teams.find? (fun t => t.tid == tid) with
    | none => s
    | some t => { s with cur := t, teams := (allTeams s).filter (fun u => u.tid != tid) }

/-- The team tid, if there is one. -/
def team? (s : State) (tid : Nat) : Option Team := (allTeams s).find? (fun t => t.tid == tid)

/-- Change a team by its tid. -/
def modTeam (s : State) (tid : Nat) (f : Team → Team) : State :=
  { s with cur := if s.cur.tid == tid then f s.cur else s.cur
           teams := s.teams.map (fun t => if t.tid == tid then f t else t) }

/-- Change every team. -/
def mapTeams (s : State) (f : Team → Team) : State :=
  { s with cur := if s.cur.status = .absent then s.cur else f s.cur, teams := s.teams.map f }

/-- Change the current team. -/
def modCur (s : State) (f : Team → Team) : State := { s with cur := f s.cur }

def block? (s : State) (bid : Nat) : Option Block := s.blocks.find? (fun b => b.bid == bid)
def blockOf (s : State) (bid : Nat) : Block := (block? s bid).getD {}
def curBlock (s : State) : Block := blockOf s s.cur.blk
def modBlock (s : State) (bid : Nat) (f : Block → Block) : State :=
  { s with blocks := s.blocks.map (fun b => if b.bid == bid then f b else b) }

def launch? (s : State) (lid : Nat) : Option Launch := s.launches.find? (fun l => l.lid == lid)
def launchOf (s : State) (lid : Nat) : Launch := (launch? s lid).getD {}
def curLaunch (s : State) : Launch := launchOf s (curBlock s).lid
def modLaunch (s : State) (lid : Nat) (f : Launch → Launch) : State :=
  { s with launches := s.launches.map (fun l => if l.lid == lid then f l else l) }

/-- The grid of a team: that of its launch; a pixel block is a grid of one block (R313, R338; log 93). -/
def gridKey (s : State) (t : Team) : Nat := if (blockOf s t.blk).pixel then t.blk else (blockOf s t.blk).lid
/-- The launch that a grid's teams run. -/
def gridLaunch? (s : State) (k : Nat) : Option Launch :=
  match launch? s k with
  | some l => some l
  | none => (block? s k).bind (fun b => launch? s b.lid)
/-- The grid barrier of a grid. -/
def grid? (s : State) (k : Nat) : Option Grid :=
  match launch? s k with
  | some l => some l.grid
  | none => (block? s k).map (·.grid)
def modGrid (s : State) (k : Nat) (f : Grid → Grid) : State :=
  if (launch? s k).isSome then modLaunch s k (fun l => { l with grid := f l.grid }) else modBlock s k (fun b => { b with grid := f b.grid })

/-- The teams of a block, in ascending tid. -/
def teamsOf (s : State) (bid : Nat) : List Team := (allTeams s).filter (fun t => t.blk == bid)

/-! ## Cells and dies -/

def ckey (die cell : Nat) : Nat := die * 4608 + cell
def cellOf (s : State) (k : Nat) : Cell := NMap.get {} s.cells k
def modCell (s : State) (k : Nat) (f : Cell → Cell) : State := { s with cells := NMap.modify {} s.cells k f }
def dieOf (s : State) (d : Nat) : Die := NMap.get {} s.dies d
def modDie (s : State) (d : Nat) (f : Die → Die) : State := { s with dies := NMap.modify {} s.dies d f }
def siteOf (s : State) (x : Nat) : Site := NMap.get {} s.mem.sites x
def modSite (s : State) (x : Nat) (f : Site → Site) : State :=
  { s with mem := { s.mem with sites := NMap.modify {} s.mem.sites x f } }

/-- The die of ordinal d is live (R44). -/
def isLive (s : State) (d : Nat) : Bool := decide (d < 144) && (dieOf s d).live

/-- The cluster index of a cell (R39). -/
def clusterOf (cell : Nat) : Nat := cell / 72 / 2 * 36 + cell % 72 / 2
/-- The position of a cell in its cluster (R39). -/
def posOf (cell : Nat) : Nat := 2 * (cell / 72 % 2) + cell % 72 % 2
/-- The cell at a position of a cluster. -/
def cellAt (cluster pos : Nat) : Nat := (cluster / 36 * 2 + pos / 2) * 72 + cluster % 36 * 2 + pos % 2

/-- LPT(c) of a die: the c-th physical cluster-column whose COLRET bit is clear (R348). -/
def lptOf (d : Die) (c : Nat) : Nat := (((List.range 38).filter (fun x => !d.colret.getLsbD x)).getD c 0)

/-- The cell is live: its die is live and it is not retired in service (R36, R44). -/
def cellLive (s : State) (die cell : Nat) : Bool :=
  isLive s die && decide (cell < 4608) && !NMap.get false (dieOf s die).cellret cell

/-- The power region of a compute die (R342). -/
def regionOf (die : Nat) : Nat :=
  let y := die / 12
  4 * (y / 3) + (2 * (die % 12) + y % 2) / 6

/-- The cells of a die begin clauses: no debugger has halted it (R380), and its region is in a P state (R395). -/
def dieRuns (s : State) (die : Nat) : Bool :=
  !(dieOf s die).halted && (NMap.get {} s.host.regions (regionOf die)).sstate == 0

/-- The logic of a die is on: its region is not in S2 (R395). -/
def logicOn (s : State) (die : Nat) : Bool := (NMap.get {} s.host.regions (regionOf die)).sstate != 2

/-- A fresh value for something the spec leaves open: the counter it is read at, and the state after reading it. -/
def tick (s : State) : Nat × State := (s.free, { s with free := s.free + 1 })

/-- A fresh key for a team, block or launch. -/
def freshId (s : State) : Nat × State := (s.nextId, { s with nextId := s.nextId + 1 })

end Sys2Proof.Machine
end

