-- ==== Sys2Proof/Machine/Flags.lean ====
section
/-! DEFINITION. FPMODE and FPFLAGS (R40, R41, R61): the rounding mode of an instruction, flushing, the sticky flags, and the
whole registers as `s.rdsys` shows them. -/

namespace Sys2Proof.Machine

/-- rmode() (R54, R91): MOD = 0 selects FPMODE.RM, 4 + c selects c. -/
def rmode (t : Team) (mod : Nat) : Nat := if mod = 0 then t.rm.toNat else mod % 4

/-- FTZ acts on f32 alone (R60). -/
def ftzOf (t : Team) (f : Fmt) : Bool := t.ftz && f.m == 23

/-- Raise flags: they are sticky (R41). -/
def raise (t : Team) (fl : Fl) : Team := { t with fl := t.fl ||| fl }

/-- The OR of flags. -/
def flAll (l : List Fl) : Fl := l.foldl (· ||| ·) 0

/-- FPMODE (R40). -/
def fpmode (t : Team) : Nat := (if t.ftz then 4 else 0) + t.rm.toNat

/-- Write FPMODE. -/
def setFpmode (t : Team) (x : DWord) : Team := { t with rm := x.extractLsb' 0 2, ftz := x.getLsbD 2 }

/-- Clear the flags written as 1 (R40, R61). -/
def clearFpflags (t : Team) (x : DWord) : Team := { t with fl := t.fl &&& ~~~ x.extractLsb' 0 5 }

/-- The granules and tile rows of the team that hold latent poison, saturating (R40, R367). -/
def latentCount (t : Team) : Nat :=
  let g := (distinct (t.r.vlat.map (fun e => e.1 / 1024 * 32 + e.1 % 1024 / 32))).length
  let a := (t.r.tile.map (fun e => match e.2 with | some x => x.lat.length | none => 0)).sum
  let w := (t.r.wide.map (fun e => match e.2 with | some x => x.lat.length | none => 0)).sum
  min 65535 (g + a + w)
where
  distinct (l : List Nat) : List Nat := (l.foldl (fun m k => NMap.put k () m) ([] : NMap Unit)).map (·.1)

/-- The number of dead lanes. -/
def deadCount (t : Team) : Nat := (lanesOf t.dead t.width).length

/-- TEAMSTAT (R40). -/
def teamstat (t : Team) : Nat :=
  deadCount t * 2 ^ 48 + latentCount t * 2 ^ 32 + t.r.stack.length * 2 ^ 16 + t.xblk * 2 ^ 8
    + (if t.prot then 16 else 0) + (if t.compact then 8 else 0) + (if t.deadsrc then 1 else 0)

end Sys2Proof.Machine
end

