-- ==== Sys2Proof/Machine/Layout.lean ====
section
/-! DEFINITION. Passes and the remapping table (R22 to R25): which row each pass serves in each column, in identity and in compacted layout.
Results never depend on the layout (R25), so no meaning reads these; the table is what m0 and the layout bit of a team determine,
and it is saved with them. -/

namespace Sys2Proof.Machine

/-- The rows of each half that is laid out and swept by itself: one for a team in one cell, two for a paired team (R23). -/
def sweeps (t : Team) : List (List Nat) :=
  let nr := t.width / 32
  if t.pair then [List.range (nr / 2), (List.range (nr - nr / 2)).map (nr / 2 + ·)] else [List.range nr]

/-- Lane (y, c) stands in a mask. -/
def inRow (m : Mask) (y c : Nat) : Bool := m.getLsbD (32 * y + c)

/-- The rows of a half that are not empty, ascending: those whose summary bit is set (R19, R23). -/
def liveRows (m : Mask) (rows : List Nat) : List Nat := rows.filter (fun y => (summary m).getLsbD y)

/-- The rows of a half whose bit is set in a column, ascending (R23). -/
def columnRows (m : Mask) (rows : List Nat) (c : Nat) : List Nat := rows.filter (fun y => inRow m y c)

/-- The row that pass q serves in column c of a half, or none (R23, R24). -/
def passRow (compact : Bool) (m : Mask) (rows : List Nat) (q c : Nat) : Option Nat :=
  if compact then (columnRows m rows c)[q]? else (liveRows m rows)[q]?

/-- How many passes a half takes (R23). -/
def passCount (compact : Bool) (m : Mask) (rows : List Nat) : Nat :=
  if compact then ((List.range 32).map (fun c => (columnRows m rows c).length)).foldl max 0 else (liveRows m rows).length

/-- The remapping table of a team: for each half, passes 0 to 31 and columns 0 to 31, the row served or none (R24). -/
def remapTable (t : Team) : List (List (List (Option Nat))) :=
  (sweeps t).map (fun rows => (List.range 32).map (fun q => (List.range 32).map (passRow t.compact (mreg t 0) rows q)))

/-- The instruction executes in compacted layout: the team is compacted, and no source carries a permutation pattern (R24). -/
def runsCompact (t : Team) (i : Instr) : Bool := t.compact && (chk 0 i).pats.all (fun p => p.1 == 0 || decide (6 ≤ p.1))

/-- The passes of an instruction that acts on lanes under m0 (R22, R23). -/
def passesOf (t : Team) (i : Instr) : List Nat := (sweeps t).map (passCount (runsCompact t i) (mreg t 0))

/-- The instruction's lanes are swept through the remapping table, whose errors are then met (R361, R364). -/
def readsRemap (t : Team) (i : Instr) : Bool := runsCompact t i && (match classSet i with | .v | .l | .x => true | _ => false)

end Sys2Proof.Machine
end

