-- ==== Sys2Proof/Decode.lean ====
section
/-! DEFINITION. The decoder, total on 64-bit words and on bytes, and the encoder, both from the formats of R86 to R98 and
the opcode map of R100. A word whose opcode is unassigned decodes to nothing (R101); every field of an assigned word is
kept, and what a field may hold is checked at issue (R99). -/

namespace Sys2Proof

/-! ## The formats -/

def unpackSrc (x : BitVec 16) : Src := ⟨x.extractLsb' 9 7, x.extractLsb' 6 3, x.extractLsb' 0 6⟩
def packSrc (s : Src) : BitVec 16 := s.reg ++ s.pat ++ s.k
def unpackSrcC (x : BitVec 14) : SrcC := ⟨x.extractLsb' 7 7, x.extractLsb' 4 3, x.extractLsb' 0 4⟩
def packSrcC (s : SrcC) : BitVec 14 := s.reg ++ s.pat ++ s.k

/-- Bits [51:0] of a VR word (R86). -/
def unpackVR (x : BitVec 52) : VR :=
  { ty := x.extractLsb' 49 3, vd := x.extractLsb' 42 7, a := unpackSrc (x.extractLsb' 26 16)
    b := unpackSrc (x.extractLsb' 10 16), fs := x.getLsbD 9, satna := x.getLsbD 8, nb := x.getLsbD 7
    pred := x.extractLsb' 4 3, mod := x.extractLsb' 0 4 }
def packVR (f : VR) : BitVec 52 :=
  f.ty ++ f.vd ++ packSrc f.a ++ packSrc f.b ++ BitVec.ofBool f.fs ++ BitVec.ofBool f.satna ++ BitVec.ofBool f.nb
    ++ f.pred ++ f.mod

/-- Bits [55:0] of a VF word (R92). -/
def unpackVF (x : BitVec 56) : VF :=
  { ty := x.extractLsb' 53 3, vd := x.extractLsb' 46 7, a := unpackSrc (x.extractLsb' 30 16)
    b := unpackSrc (x.extractLsb' 14 16), c := unpackSrcC (x.extractLsb' 0 14) }
def packVF (f : VF) : BitVec 56 := f.ty ++ f.vd ++ packSrc f.a ++ packSrc f.b ++ packSrcC f.c

/-- Bits [51:0] of an SR word (R93). -/
def unpackSR (x : BitVec 52) : SR :=
  { sd := x.extractLsb' 46 6, sa := x.extractLsb' 40 6, i := x.getLsbD 39, sb := x.extractLsb' 33 6
    rsv := x.getLsbD 32, imm := x.extractLsb' 0 32 }
def packSR (f : SR) : BitVec 52 := f.sd ++ f.sa ++ BitVec.ofBool f.i ++ f.sb ++ BitVec.ofBool f.rsv ++ f.imm

/-- Bits [51:0] of a BR word (R94). -/
def unpackBR (x : BitVec 52) : BR :=
  { creg := x.extractLsb' 46 6, ckind := x.extractLsb' 44 2, off := x.extractLsb' 0 44 }
def packBR (f : BR) : BitVec 52 := f.creg ++ f.ckind ++ f.off

/-- Bits [53:0] of a MEM word: OX and FS are function bits 53 and 52 (R95). -/
def unpackMEM (x : BitVec 54) : MEM :=
  { ox := x.getLsbD 53, fs := x.getLsbD 52, width := x.extractLsb' 49 3, vd := x.extractLsb' 42 7
    base := x.extractLsb' 36 6, voff := x.extractLsb' 29 7, stream := x.extractLsb' 25 4, scope := x.extractLsb' 22 3
    policy := x.extractLsb' 20 2, disp := x.extractLsb' 0 20 }
def packMEM (f : MEM) : BitVec 54 :=
  BitVec.ofBool f.ox ++ BitVec.ofBool f.fs ++ f.width ++ f.vd ++ f.base ++ f.voff ++ f.stream ++ f.scope ++ f.policy
    ++ f.disp

/-- Bits [51:0] of an MX word (R96). -/
def unpackMX (x : BitVec 52) : MX :=
  { td := x.extractLsb' 48 4, fa := x.extractLsb' 44 4, fb := x.extractLsb' 40 4, acc := x.extractLsb' 37 3
    fs := x.getLsbD 36, spa := x.getLsbD 35, ns := x.extractLsb' 31 4, sa := x.extractLsb' 25 6
    sb := x.extractLsb' 19 6, sc := x.extractLsb' 13 6, mod := x.extractLsb' 9 4, imm := x.extractLsb' 0 9 }
def packMX (f : MX) : BitVec 52 :=
  f.td ++ f.fa ++ f.fb ++ f.acc ++ BitVec.ofBool f.fs ++ BitVec.ofBool f.spa ++ f.ns ++ f.sa ++ f.sb ++ f.sc ++ f.mod
    ++ f.imm

/-- Bits [51:0] of an ENG word (R97). -/
def unpackENG (x : BitVec 52) : ENG :=
  { sd := x.extractLsb' 46 6, ss := x.extractLsb' 40 6, sl := x.extractLsb' 34 6, sw := x.extractLsb' 28 6
    stream := x.extractLsb' 24 4, scope := x.extractLsb' 21 3, fs := x.getLsbD 20, mod := x.extractLsb' 16 4
    imm := x.extractLsb' 0 16 }
def packENG (f : ENG) : BitVec 52 :=
  f.sd ++ f.ss ++ f.sl ++ f.sw ++ f.stream ++ f.scope ++ BitVec.ofBool f.fs ++ f.mod ++ f.imm

/-- Bits [51:0] of a SYS word (R98). -/
def unpackSYS (x : BitVec 52) : SYS :=
  { vd := x.extractLsb' 45 7, va := x.extractLsb' 38 7, vb := x.extractLsb' 31 7, sa := x.extractLsb' 25 6
    sb := x.extractLsb' 19 6, fs := x.getLsbD 18, mod := x.extractLsb' 14 4, pred := x.extractLsb' 11 3
    imm := x.extractLsb' 0 11 }
def packSYS (f : SYS) : BitVec 52 :=
  f.vd ++ f.va ++ f.vb ++ f.sa ++ f.sb ++ BitVec.ofBool f.fs ++ f.mod ++ f.pred ++ f.imm

/-- NUM of a system-register instruction (R118). -/
def sysNum (f : SR) : Nat := f.imm.toNat % 4096

/-! ## The opcode map (R100) -/

def srOps0 : List (Nat × (SR → Instr)) :=
  [(0x040, .sAdd), (0x041, .sSub), (0x042, .sMul), (0x043, .sMulh),
   (0x044, .sMulhU), (0x045, .sDiv), (0x046, .sDivU), (0x047, .sRem),
   (0x048, .sRemU), (0x049, .sMin), (0x04A, .sMinU), (0x04B, .sMax)]
def srOps1 : List (Nat × (SR → Instr)) :=
  [(0x04C, .sMaxU), (0x080, .sAnd), (0x081, .sOr), (0x082, .sXor),
   (0x083, .sAndn), (0x084, .sShl), (0x085, .sShr), (0x086, .sSra),
   (0x088, .sMov), (0x089, .sLi), (0x08A, .sLih), (0x08C, .sBfe)]
def srOps2 : List (Nat × (SR → Instr)) :=
  [(0x08D, .sBfi), (0x08E, .sClz), (0x08F, .sCtz), (0x090, .sPopc),
   (0x0C0, .sCmpEq), (0x0C1, .sCmpNe), (0x0C2, .sCmpLt), (0x0C3, .sCmpLe),
   (0x0C4, .sCmpGt), (0x0C5, .sCmpGe), (0x0C6, .sCmpLtU), (0x0C7, .sCmpLeU)]
def srOps3 : List (Nat × (SR → Instr)) :=
  [(0x0C8, .sCmpGtU), (0x0C9, .sCmpGeU), (0x0D0, .sSel), (0x100, .sLd .b8),
   (0x101, .sLd .b16), (0x102, .sLd .b32), (0x103, .sLd .b64), (0x104, .sLd .i8),
   (0x105, .sLd .i16), (0x106, .sLd .i32), (0x108, .sSt .b8), (0x109, .sSt .b16)]
def srOps4 : List (Nat × (SR → Instr)) :=
  [(0x10A, .sSt .b32), (0x10B, .sSt .b64), (0x110, .sLdk .b32), (0x111, .sLdk .b64),
   (0x140, .sRdsys), (0x1C0, .nop), (0x1C1, .waitf), (0x1C2, .yield),
   (0x1C8, .mAnd), (0x1C9, .mOr), (0x1CA, .mXor), (0x1CB, .mAndn)]
def srOps5 : List (Nat × (SR → Instr)) :=
  [(0x1CC, .mNot), (0x1CD, .mMov), (0x1D0, .mPopc), (0x1D1, .mFirst),
   (0x1D2, .mCompact), (0x1D3, .mUncompact), (0x1D8, .racq), (0x1D9, .rrel),
   (0x1DA, .pmark), (0x4C1, .shpSet)]
/-- Opcodes of the SR format; `s.wrsys` is split by NUM below. -/
def srOps : List (Nat × (SR → Instr)) := srOps0 ++ srOps1 ++ srOps2 ++ srOps3 ++ srOps4 ++ srOps5

def brOps0 : List (Nat × (BR → Instr)) :=
  [(0x180, .br), (0x181, .brz), (0x182, .brnz), (0x183, .bany),
   (0x184, .ball), (0x185, .call), (0x186, .ret), (0x187, .jmpi),
   (0x188, .exit), (0x190, .bdiv), (0x191, .belse), (0x192, .bjoin)]
def brOps1 : List (Nat × (BR → Instr)) :=
  [(0x193, .bloop), (0x194, .bbrk)]
/-- Opcodes of the BR format. -/
def brOps : List (Nat × (BR → Instr)) := brOps0 ++ brOps1

def vrOps0 : List (Nat × (VR → Instr)) :=
  [(0x1CE, .mFrom), (0x1CF, .mTo), (0x200, .vAdd), (0x201, .vSub),
   (0x202, .vMul), (0x203, .vMulh), (0x205, .vMin), (0x206, .vMax),
   (0x207, .vAbs), (0x240, .vAnd), (0x241, .vOr), (0x242, .vXor)]
def vrOps1 : List (Nat × (VR → Instr)) :=
  [(0x243, .vAndn), (0x244, .vShl), (0x245, .vShr), (0x246, .vSra),
   (0x280, .vCmp), (0x281, .vSel), (0x284, .vClz), (0x285, .vPopc),
   (0x286, .vBrev), (0x2C0, .vMov), (0x2C1, .vLi), (0x2C2, .vLane)]
def vrOps2 : List (Nat × (VR → Instr)) :=
  [(0x300, .vFadd), (0x301, .vFmul), (0x302, .vFmin), (0x303, .vFmax),
   (0x304, .vFcmp), (0x340, .vFrnd), (0x341, .vFrcp), (0x342, .vFrsq),
   (0x343, .vFsqrt), (0x380, .vExp2), (0x381, .vLog2), (0x382, .vSin)]
def vrOps3 : List (Nat × (VR → Instr)) :=
  [(0x383, .vCos), (0x384, .vTanh), (0x3C0, .vFclass), (0x3C1, .vFscale),
   (0x3C2, .vFexp), (0x400, .vCvt), (0x401, .vPk), (0x402, .vMxq),
   (0x403, .vMxd), (0x440, .vBpk), (0x441, .vBpu), (0x442, .vBpand)]
def vrOps4 : List (Nat × (VR → Instr)) :=
  [(0x480, .vShfl), (0x481, .vVote), (0x482, .vRed), (0x483, .vScan),
   (0x4C0, .vTidx)]
/-- Opcodes of the VR format. -/
def vrOps : List (Nat × (VR → Instr)) := vrOps0 ++ vrOps1 ++ vrOps2 ++ vrOps3 ++ vrOps4

def mxOps0 : List (Nat × (MX → Instr)) :=
  [(0x740, .tacq), (0x741, .trel), (0x742, .mxZero), (0x743, .mxLd),
   (0x744, .mxSt), (0x780, .mxMma), (0x781, .mxBpmma), (0x7C0, .mxChk),
   (0x7C1, .mxBnd), (0x800, .mxSlice), (0x801, .mxDmma), (0x802, .mxWz)]
def mxOps1 : List (Nat × (MX → Instr)) :=
  [(0x803, .mxRc)]
/-- Opcodes of the MX format. -/
def mxOps : List (Nat × (MX → Instr)) := mxOps0 ++ mxOps1

def engOps0 : List (Nat × (ENG → Instr)) :=
  [(0x840, .cp), (0x841, .cp2d), (0x842, .cpX), (0x843, .skimG),
   (0x844, .skimS), (0x880, .coll), (0x881, .collAbort), (0x882, .enq)]
/-- Opcodes of the ENG format. -/
def engOps : List (Nat × (ENG → Instr)) := engOps0

def sysOps0 : List (Nat × (SYS → Instr)) :=
  [(0x8C0, .gVtx), (0x8C1, .gPrim), (0x8C2, .gDone), (0x8C3, .gAttr),
   (0x900, .gOut), (0x901, .gKill), (0x902, .gZq), (0x940, .txSmp),
   (0x941, .txLd), (0x942, .txDim), (0x980, .rayTrace), (0x981, .rayCont)]
def sysOps1 : List (Nat × (SYS → Instr)) :=
  [(0x982, .rayHit), (0x9C0, .brk), (0x9C1, .trap), (0x9C2, .tret),
   (0x9C8, .tlbi), (0x9C9, .cinv), (0x9CA, .sleep)]
/-- Opcodes of the SYS format; `dbgr` is split by MOD[0] below. -/
def sysOps : List (Nat × (SYS → Instr)) := sysOps0 ++ sysOps1

def vfOps0 : List (Nat × (VF → Instr)) :=
  [(0x000, .vFma), (0x001, .vMad), (0x002, .vDot2), (0x003, .vDot4),
   (0x004, .vBfe), (0x005, .vBfi)]
/-- Functions of the VF format. -/
def vfOps : List (Nat × (VF → Instr)) := vfOps0

def memOps0 : List (Nat × (MEM → Instr)) :=
  [(0x140, .ld), (0x141, .st), (0x142, .prf), (0x180, .lds),
   (0x181, .sts), (0x182, .swArm), (0x183, .swAdd), (0x184, .swWait),
   (0x185, .swRead), (0x186, .qInit), (0x187, .qPush), (0x188, .qPop)]
def memOps1 : List (Nat × (MEM → Instr)) :=
  [(0x190, .bar), (0x191, .barArr), (0x192, .barWt), (0x193, .gbar),
   (0x1A0, .aAdd), (0x1A1, .aMin), (0x1A2, .aMax), (0x1A3, .aAnd),
   (0x1A4, .aOr), (0x1A5, .aXor), (0x1A6, .aXchg), (0x1A7, .aCas)]
def memOps2 : List (Nat × (MEM → Instr)) :=
  [(0x1A8, .aFadd), (0x1A9, .aInc), (0x1B0, .aCasv), (0x1B1, .ldv),
   (0x1B2, .valset), (0x1C0, .fence), (0x1C1, .fenceX), (0x1C2, .disc),
   (0x1C3, .wb)]
/-- Operations of the MEM format: opcode bits [11:2]. -/
def memOps : List (Nat × (MEM → Instr)) := memOps0 ++ memOps1 ++ memOps2

/-- The MEM operations that have a per-lane-offset form (R100, "OX"). -/
def memOx : List Nat :=
  [0x140, 0x141, 0x142, 0x180, 0x181, 0x1A0, 0x1A1, 0x1A2, 0x1A3, 0x1A4, 0x1A5, 0x1A6, 0x1A7, 0x1A8, 0x1A9, 0x1B0, 0x1B1, 0x1C2, 0x1C3]

/-- The row of a table for a key. -/
def rowOf {α : Type} (t : List (Nat × α)) (k : Nat) : Option α := (t.find? (fun e => e.1 == k)).map (·.2)

/-- Decode an SR word, `s.wrsys` by its register (R61, R118). -/
def decodeSR (op : Nat) (f : SR) : Option Instr :=
  if op == 0x141 then
    some (if sysNum f == 0x011 then .fpflags f else if sysNum f == 0x00A then .teamstat f else .sWrsys f)
  else (rowOf srOps op).map (· f)

/-- Decode a SYS word, `dbgr` by MOD[0] (R247). -/
def decodeSYS (op : Nat) (f : SYS) : Option Instr :=
  if op == 0x9CB then some (if f.mod.getLsbD 0 then .dbgrWr f else .dbgrRd f)
  else (rowOf sysOps op).map (· f)

/-- Decode a MEM word; OX = 1 on an operation with no per-lane form is unassigned (R95). -/
def decodeMEM (op : Nat) (f : MEM) : Option Instr :=
  if f.ox && !memOx.contains (op / 4) then none else (rowOf memOps (op / 4)).map (· f)

/-- Decode one instruction word (R85, R100). Every unassigned opcode gives none (R101). -/
def decode (w : DWord) : Option Instr :=
  let op := (w.extractLsb' 52 12).toNat
  let lo := w.extractLsb' 0 52
  let g := op / 64
  if 0x3C ≤ g then (rowOf vfOps (op / 16 % 16)).map (· (unpackVF (w.extractLsb' 0 56)))
  else if g == 6 then (rowOf brOps op).map (· (unpackBR lo))
  else if 0x14 ≤ g && g ≤ 0x1C then decodeMEM op (unpackMEM (w.extractLsb' 0 54))
  else if 0x1D ≤ g && g ≤ 0x20 then (rowOf mxOps op).map (· (unpackMX lo))
  else if g == 0x21 || g == 0x22 then (rowOf engOps op).map (· (unpackENG lo))
  else if 0x23 ≤ g && g ≤ 0x27 then decodeSYS op (unpackSYS lo)
  else if g ≤ 7 && op != 0x1CE && op != 0x1CF || op == 0x4C1 then decodeSR op (unpackSR lo)
  else (rowOf vrOps op).map (· (unpackVR lo))

/-- Encode a MEM instruction: none for OX = 1 where the operation has no per-lane form. -/
def encMem (op : Nat) (hasOx : Bool) (f : MEM) : Option DWord :=
  if f.ox && !hasOx then none else some (BitVec.ofNat 10 (op / 4) ++ packMEM f)

/-- The word of an instruction; none for a device step, and for a form that no word of its row encodes. -/
def encode : Instr → Option DWord
  | .sAdd f => some ((0x040 : BitVec 12) ++ packSR f)
  | .sSub f => some ((0x041 : BitVec 12) ++ packSR f)
  | .sMul f => some ((0x042 : BitVec 12) ++ packSR f)
  | .sMulh f => some ((0x043 : BitVec 12) ++ packSR f)
  | .sMulhU f => some ((0x044 : BitVec 12) ++ packSR f)
  | .sDiv f => some ((0x045 : BitVec 12) ++ packSR f)
  | .sDivU f => some ((0x046 : BitVec 12) ++ packSR f)
  | .sRem f => some ((0x047 : BitVec 12) ++ packSR f)
  | .sRemU f => some ((0x048 : BitVec 12) ++ packSR f)
  | .sMin f => some ((0x049 : BitVec 12) ++ packSR f)
  | .sMinU f => some ((0x04A : BitVec 12) ++ packSR f)
  | .sMax f => some ((0x04B : BitVec 12) ++ packSR f)
  | .sMaxU f => some ((0x04C : BitVec 12) ++ packSR f)
  | .sAnd f => some ((0x080 : BitVec 12) ++ packSR f)
  | .sOr f => some ((0x081 : BitVec 12) ++ packSR f)
  | .sXor f => some ((0x082 : BitVec 12) ++ packSR f)
  | .sAndn f => some ((0x083 : BitVec 12) ++ packSR f)
  | .sShl f => some ((0x084 : BitVec 12) ++ packSR f)
  | .sShr f => some ((0x085 : BitVec 12) ++ packSR f)
  | .sSra f => some ((0x086 : BitVec 12) ++ packSR f)
  | .sMov f => some ((0x088 : BitVec 12) ++ packSR f)
  | .sLi f => some ((0x089 : BitVec 12) ++ packSR f)
  | .sLih f => some ((0x08A : BitVec 12) ++ packSR f)
  | .sBfe f => some ((0x08C : BitVec 12) ++ packSR f)
  | .sBfi f => some ((0x08D : BitVec 12) ++ packSR f)
  | .sClz f => some ((0x08E : BitVec 12) ++ packSR f)
  | .sCtz f => some ((0x08F : BitVec 12) ++ packSR f)
  | .sPopc f => some ((0x090 : BitVec 12) ++ packSR f)
  | .sCmpEq f => some ((0x0C0 : BitVec 12) ++ packSR f)
  | .sCmpNe f => some ((0x0C1 : BitVec 12) ++ packSR f)
  | .sCmpLt f => some ((0x0C2 : BitVec 12) ++ packSR f)
  | .sCmpLe f => some ((0x0C3 : BitVec 12) ++ packSR f)
  | .sCmpGt f => some ((0x0C4 : BitVec 12) ++ packSR f)
  | .sCmpGe f => some ((0x0C5 : BitVec 12) ++ packSR f)
  | .sCmpLtU f => some ((0x0C6 : BitVec 12) ++ packSR f)
  | .sCmpLeU f => some ((0x0C7 : BitVec 12) ++ packSR f)
  | .sCmpGtU f => some ((0x0C8 : BitVec 12) ++ packSR f)
  | .sCmpGeU f => some ((0x0C9 : BitVec 12) ++ packSR f)
  | .sSel f => some ((0x0D0 : BitVec 12) ++ packSR f)
  | .sRdsys f => some ((0x140 : BitVec 12) ++ packSR f)
  | .br f => some ((0x180 : BitVec 12) ++ packBR f)
  | .brz f => some ((0x181 : BitVec 12) ++ packBR f)
  | .brnz f => some ((0x182 : BitVec 12) ++ packBR f)
  | .bany f => some ((0x183 : BitVec 12) ++ packBR f)
  | .ball f => some ((0x184 : BitVec 12) ++ packBR f)
  | .call f => some ((0x185 : BitVec 12) ++ packBR f)
  | .ret f => some ((0x186 : BitVec 12) ++ packBR f)
  | .jmpi f => some ((0x187 : BitVec 12) ++ packBR f)
  | .exit f => some ((0x188 : BitVec 12) ++ packBR f)
  | .nop f => some ((0x1C0 : BitVec 12) ++ packSR f)
  | .waitf f => some ((0x1C1 : BitVec 12) ++ packSR f)
  | .yield f => some ((0x1C2 : BitVec 12) ++ packSR f)
  | .brk f => some ((0x9C0 : BitVec 12) ++ packSYS f)
  | .trap f => some ((0x9C1 : BitVec 12) ++ packSYS f)
  | .tret f => some ((0x9C2 : BitVec 12) ++ packSYS f)
  | .bdiv f => some ((0x190 : BitVec 12) ++ packBR f)
  | .belse f => some ((0x191 : BitVec 12) ++ packBR f)
  | .bjoin f => some ((0x192 : BitVec 12) ++ packBR f)
  | .bloop f => some ((0x193 : BitVec 12) ++ packBR f)
  | .bbrk f => some ((0x194 : BitVec 12) ++ packBR f)
  | .mAnd f => some ((0x1C8 : BitVec 12) ++ packSR f)
  | .mOr f => some ((0x1C9 : BitVec 12) ++ packSR f)
  | .mXor f => some ((0x1CA : BitVec 12) ++ packSR f)
  | .mAndn f => some ((0x1CB : BitVec 12) ++ packSR f)
  | .mNot f => some ((0x1CC : BitVec 12) ++ packSR f)
  | .mMov f => some ((0x1CD : BitVec 12) ++ packSR f)
  | .mFrom f => some ((0x1CE : BitVec 12) ++ packVR f)
  | .mTo f => some ((0x1CF : BitVec 12) ++ packVR f)
  | .mPopc f => some ((0x1D0 : BitVec 12) ++ packSR f)
  | .mFirst f => some ((0x1D1 : BitVec 12) ++ packSR f)
  | .mCompact f => some ((0x1D2 : BitVec 12) ++ packSR f)
  | .mUncompact f => some ((0x1D3 : BitVec 12) ++ packSR f)
  | .racq f => some ((0x1D8 : BitVec 12) ++ packSR f)
  | .rrel f => some ((0x1D9 : BitVec 12) ++ packSR f)
  | .pmark f => some ((0x1DA : BitVec 12) ++ packSR f)
  | .vAdd f => some ((0x200 : BitVec 12) ++ packVR f)
  | .vSub f => some ((0x201 : BitVec 12) ++ packVR f)
  | .vMul f => some ((0x202 : BitVec 12) ++ packVR f)
  | .vMulh f => some ((0x203 : BitVec 12) ++ packVR f)
  | .vMin f => some ((0x205 : BitVec 12) ++ packVR f)
  | .vMax f => some ((0x206 : BitVec 12) ++ packVR f)
  | .vAbs f => some ((0x207 : BitVec 12) ++ packVR f)
  | .vMad f => some ((15 : BitVec 4) ++ (0x1 : BitVec 4) ++ packVF f)
  | .vAnd f => some ((0x240 : BitVec 12) ++ packVR f)
  | .vOr f => some ((0x241 : BitVec 12) ++ packVR f)
  | .vXor f => some ((0x242 : BitVec 12) ++ packVR f)
  | .vAndn f => some ((0x243 : BitVec 12) ++ packVR f)
  | .vShl f => some ((0x244 : BitVec 12) ++ packVR f)
  | .vShr f => some ((0x245 : BitVec 12) ++ packVR f)
  | .vSra f => some ((0x246 : BitVec 12) ++ packVR f)
  | .vCmp f => some ((0x280 : BitVec 12) ++ packVR f)
  | .vSel f => some ((0x281 : BitVec 12) ++ packVR f)
  | .vClz f => some ((0x284 : BitVec 12) ++ packVR f)
  | .vPopc f => some ((0x285 : BitVec 12) ++ packVR f)
  | .vBrev f => some ((0x286 : BitVec 12) ++ packVR f)
  | .vBfe f => some ((15 : BitVec 4) ++ (0x4 : BitVec 4) ++ packVF f)
  | .vBfi f => some ((15 : BitVec 4) ++ (0x5 : BitVec 4) ++ packVF f)
  | .vMov f => some ((0x2C0 : BitVec 12) ++ packVR f)
  | .vLi f => some ((0x2C1 : BitVec 12) ++ packVR f)
  | .vLane f => some ((0x2C2 : BitVec 12) ++ packVR f)
  | .vFadd f => some ((0x300 : BitVec 12) ++ packVR f)
  | .vFmul f => some ((0x301 : BitVec 12) ++ packVR f)
  | .vFma f => some ((15 : BitVec 4) ++ (0x0 : BitVec 4) ++ packVF f)
  | .vFmin f => some ((0x302 : BitVec 12) ++ packVR f)
  | .vFmax f => some ((0x303 : BitVec 12) ++ packVR f)
  | .vFcmp f => some ((0x304 : BitVec 12) ++ packVR f)
  | .vFrnd f => some ((0x340 : BitVec 12) ++ packVR f)
  | .vFrcp f => some ((0x341 : BitVec 12) ++ packVR f)
  | .vFrsq f => some ((0x342 : BitVec 12) ++ packVR f)
  | .vFsqrt f => some ((0x343 : BitVec 12) ++ packVR f)
  | .vExp2 f => some ((0x380 : BitVec 12) ++ packVR f)
  | .vLog2 f => some ((0x381 : BitVec 12) ++ packVR f)
  | .vSin f => some ((0x382 : BitVec 12) ++ packVR f)
  | .vCos f => some ((0x383 : BitVec 12) ++ packVR f)
  | .vTanh f => some ((0x384 : BitVec 12) ++ packVR f)
  | .vFclass f => some ((0x3C0 : BitVec 12) ++ packVR f)
  | .vFscale f => some ((0x3C1 : BitVec 12) ++ packVR f)
  | .vFexp f => some ((0x3C2 : BitVec 12) ++ packVR f)
  | .vCvt f => some ((0x400 : BitVec 12) ++ packVR f)
  | .vPk f => some ((0x401 : BitVec 12) ++ packVR f)
  | .vDot2 f => some ((15 : BitVec 4) ++ (0x2 : BitVec 4) ++ packVF f)
  | .vDot4 f => some ((15 : BitVec 4) ++ (0x3 : BitVec 4) ++ packVF f)
  | .vMxq f => some ((0x402 : BitVec 12) ++ packVR f)
  | .vMxd f => some ((0x403 : BitVec 12) ++ packVR f)
  | .vBpk f => some ((0x440 : BitVec 12) ++ packVR f)
  | .vBpu f => some ((0x441 : BitVec 12) ++ packVR f)
  | .vBpand f => some ((0x442 : BitVec 12) ++ packVR f)
  | .shpSet f => some ((0x4C1 : BitVec 12) ++ packSR f)
  | .vTidx f => some ((0x4C0 : BitVec 12) ++ packVR f)
  | .vShfl f => some ((0x480 : BitVec 12) ++ packVR f)
  | .vVote f => some ((0x481 : BitVec 12) ++ packVR f)
  | .vRed f => some ((0x482 : BitVec 12) ++ packVR f)
  | .vScan f => some ((0x483 : BitVec 12) ++ packVR f)
  | .ld f => encMem 0x500 true f
  | .st f => encMem 0x504 true f
  | .prf f => encMem 0x508 true f
  | .lds f => encMem 0x600 true f
  | .sts f => encMem 0x604 true f
  | .ldv f => encMem 0x6C4 true f
  | .aCasv f => encMem 0x6C0 true f
  | .valset f => encMem 0x6C8 false f
  | .aAdd f => encMem 0x680 true f
  | .aMin f => encMem 0x684 true f
  | .aMax f => encMem 0x688 true f
  | .aAnd f => encMem 0x68C true f
  | .aOr f => encMem 0x690 true f
  | .aXor f => encMem 0x694 true f
  | .aXchg f => encMem 0x698 true f
  | .aCas f => encMem 0x69C true f
  | .aFadd f => encMem 0x6A0 true f
  | .aInc f => encMem 0x6A4 true f
  | .fence f => encMem 0x700 false f
  | .fenceX f => encMem 0x704 false f
  | .disc f => encMem 0x708 true f
  | .wb f => encMem 0x70C true f
  | .swArm f => encMem 0x608 false f
  | .swAdd f => encMem 0x60C false f
  | .swWait f => encMem 0x610 false f
  | .swRead f => encMem 0x614 false f
  | .qInit f => encMem 0x618 false f
  | .qPush f => encMem 0x61C false f
  | .qPop f => encMem 0x620 false f
  | .bar f => encMem 0x640 false f
  | .barArr f => encMem 0x644 false f
  | .barWt f => encMem 0x648 false f
  | .gbar f => encMem 0x64C false f
  | .tacq f => some ((0x740 : BitVec 12) ++ packMX f)
  | .trel f => some ((0x741 : BitVec 12) ++ packMX f)
  | .mxZero f => some ((0x742 : BitVec 12) ++ packMX f)
  | .mxLd f => some ((0x743 : BitVec 12) ++ packMX f)
  | .mxSt f => some ((0x744 : BitVec 12) ++ packMX f)
  | .mxMma f => some ((0x780 : BitVec 12) ++ packMX f)
  | .mxBpmma f => some ((0x781 : BitVec 12) ++ packMX f)
  | .mxChk f => some ((0x7C0 : BitVec 12) ++ packMX f)
  | .mxBnd f => some ((0x7C1 : BitVec 12) ++ packMX f)
  | .mxSlice f => some ((0x800 : BitVec 12) ++ packMX f)
  | .mxDmma f => some ((0x801 : BitVec 12) ++ packMX f)
  | .mxWz f => some ((0x802 : BitVec 12) ++ packMX f)
  | .mxRc f => some ((0x803 : BitVec 12) ++ packMX f)
  | .cp f => some ((0x840 : BitVec 12) ++ packENG f)
  | .cp2d f => some ((0x841 : BitVec 12) ++ packENG f)
  | .cpX f => some ((0x842 : BitVec 12) ++ packENG f)
  | .skimG f => some ((0x843 : BitVec 12) ++ packENG f)
  | .skimS f => some ((0x844 : BitVec 12) ++ packENG f)
  | .coll f => some ((0x880 : BitVec 12) ++ packENG f)
  | .collAbort f => some ((0x881 : BitVec 12) ++ packENG f)
  | .enq f => some ((0x882 : BitVec 12) ++ packENG f)
  | .gVtx f => some ((0x8C0 : BitVec 12) ++ packSYS f)
  | .gAttr f => some ((0x8C3 : BitVec 12) ++ packSYS f)
  | .gPrim f => some ((0x8C1 : BitVec 12) ++ packSYS f)
  | .gDone f => some ((0x8C2 : BitVec 12) ++ packSYS f)
  | .gOut f => some ((0x900 : BitVec 12) ++ packSYS f)
  | .gKill f => some ((0x901 : BitVec 12) ++ packSYS f)
  | .gZq f => some ((0x902 : BitVec 12) ++ packSYS f)
  | .txSmp f => some ((0x940 : BitVec 12) ++ packSYS f)
  | .txLd f => some ((0x941 : BitVec 12) ++ packSYS f)
  | .txDim f => some ((0x942 : BitVec 12) ++ packSYS f)
  | .rayTrace f => some ((0x980 : BitVec 12) ++ packSYS f)
  | .rayCont f => some ((0x981 : BitVec 12) ++ packSYS f)
  | .rayHit f => some ((0x982 : BitVec 12) ++ packSYS f)
  | .tlbi f => some ((0x9C8 : BitVec 12) ++ packSYS f)
  | .cinv f => some ((0x9C9 : BitVec 12) ++ packSYS f)
  | .sleep f => some ((0x9CA : BitVec 12) ++ packSYS f)
  | .sLd .b8 f => some ((0x100 : BitVec 12) ++ packSR f)
  | .sLd .b16 f => some ((0x101 : BitVec 12) ++ packSR f)
  | .sLd .b32 f => some ((0x102 : BitVec 12) ++ packSR f)
  | .sLd .b64 f => some ((0x103 : BitVec 12) ++ packSR f)
  | .sLd .i8 f => some ((0x104 : BitVec 12) ++ packSR f)
  | .sLd .i16 f => some ((0x105 : BitVec 12) ++ packSR f)
  | .sLd .i32 f => some ((0x106 : BitVec 12) ++ packSR f)
  | .sSt .b8 f => some ((0x108 : BitVec 12) ++ packSR f)
  | .sSt .b16 f => some ((0x109 : BitVec 12) ++ packSR f)
  | .sSt .b32 f => some ((0x10A : BitVec 12) ++ packSR f)
  | .sSt .b64 f => some ((0x10B : BitVec 12) ++ packSR f)
  | .sLdk .b32 f => some ((0x110 : BitVec 12) ++ packSR f)
  | .sLdk .b64 f => some ((0x111 : BitVec 12) ++ packSR f)
  | .sWrsys f => if sysNum f == 0x011 || sysNum f == 0x00A then none else some ((0x141 : BitVec 12) ++ packSR f)
  | .fpflags f => if sysNum f == 0x011 then some ((0x141 : BitVec 12) ++ packSR f) else none
  | .teamstat f => if sysNum f == 0x00A then some ((0x141 : BitVec 12) ++ packSR f) else none
  | .dbgrRd f => if f.mod.getLsbD 0 then none else some ((0x9CB : BitVec 12) ++ packSYS f)
  | .dbgrWr f => if f.mod.getLsbD 0 then some ((0x9CB : BitVec 12) ++ packSYS f) else none
  | _ => none

/-! ## Bytes -/

/-- The little-endian value of bytes (R3). -/
def bytesVal : List Byte → Nat
  | [] => 0
  | b :: t => b.toNat + 256 * bytesVal t

/-- The n bytes of a value, least significant first (R3). -/
def valBytes : Nat → Nat → List Byte
  | 0, _ => []
  | n + 1, x => BitVec.ofNat 8 x :: valBytes n (x / 256)

/-- Decode the first eight bytes and give the rest. -/
def decodeBytes (l : List Byte) : Option (Instr × List Byte) :=
  if l.length < 8 then none
  else (decode (BitVec.ofNat 64 (bytesVal (l.take 8)))).map (·, l.drop 8)

/-- The instruction that the decoder reads from the table word w (one 64-bit word; the table gives no bits). -/
def decodeTableWord (_nbits w : Nat) : Option Instr := (decodeBytes (valBytes 8 w)).map (·.1)

end Sys2Proof
end

