-- ==== Sys2Proof/Machine/Events.lean ====
section
/-! DEFINITION. Event records and the sources that number and buffer them (R382, R383), and the counting of errors and
lane deaths by cell (R371). -/

namespace Sys2Proof.Machine

/-- SRC of a compute die, a base die and the I/O die (R382). -/
def srcDie (d : Nat) : Nat := d * 64
def srcSite (x : Nat) : Nat := 16384 + x * 64
def srcIo : Nat := 32768

/-- The source numbers a record; a full buffer drops it and counts it (R383). -/
def emit (s : State) (src : Nat) (e : Event) : State :=
  let n := NMap.get 0 s.evseq src
  let s := { s with evseq := NMap.set 0 s.evseq src ((n + 1) % 2 ^ 48) }
  let e := { e with src := src, seq := n }
  if (NMap.get [] s.evbuf src).length < 256 then
    { s with evbuf := NMap.modify [] s.evbuf src (· ++ [e]) }
  else { s with evdrop := NMap.modify 0 s.evdrop src (· + 1) }

/-- The sequence number that the source will give next. -/
def nextSeq (s : State) (src : Nat) : Nat := NMap.get 0 s.evseq src

/-- The launch ID of a block's launch. -/
def launchId (s : State) (bid : Nat) : Nat := (launchOf s (blockOf s bid).lid).d.id

/-- A cell is to be drained and retired for the record of a cause: it admits no further block, its blocks are asked to stop (R349). -/
def drainCell (s : State) (die cell : Nat) (cause : Nat × Nat) : State :=
  let s := modCell s (ckey die cell) (fun c => { c with drain := true, cause := cause })
  { s with blocks := s.blocks.map (fun b =>
      if b.die == die && (b.cell == cell || (b.pair && b.cell + 1 == cell)) && b.status == .resident
      then { b with preempt := true } else b) }

/-- The record that a source emitted last. -/
def lastRecord (s : State) (src : Nat) : Nat × Nat := (src, nextSeq s src - 1)

/-- Drain a cell whose counts have reached a threshold (R371). -/
def checkCell (s : State) (die cell : Nat) (hit : Cell → Bool) (cause : Nat × Nat) : State :=
  let c := cellOf s (ckey die cell)
  if c.drain || NMap.get false (dieOf s die).cellret cell then s
  else if hit c then drainCell s die cell cause else s

/-- The number of a code word of a team's registers (R361, R371): the lane word of a copy by its key; scalars, masks, the stack and the other
team state follow, then tile elements. Vault words stand below. -/
def regWord (t : Team) (shadow : Bool) (k : Nat) : Nat := 2 ^ 40 + (2 * t.tid + (if shadow then 1 else 0)) * 2 ^ 20 + k
def teamWord (k : Nat) : Nat := 2 ^ 17 + k
def tileWord (td e : Nat) : Nat := 2 ^ 18 + 256 * td + e
/-- The number of a shape-table entry of a block (R361). -/
def shapeWord (bid slot : Nat) : Nat := 2 ^ 80 + 16 * bid + slot

/-- Count an error found in a cell's own storage, whose record is out (R371, DBGSTAT of R379). -/
def countErr (s : State) (die cell word : Nat) (e : Err) (cause : Nat × Nat) : State :=
  let k := ckey die cell
  let s := match e with
    | .corrected => modDie (modCell s k (fun c => { c with nce := c.nce + 1, cew := NMap.modify 0 c.cew word (· + 1) })) die
        (fun d => { d with cecnt := min 65535 (d.cecnt + 1) })
    | .uncorrectable | .counted => modDie (modCell s k (fun c => { c with nue := c.nue + 1 })) die
        (fun d => { d with uecnt := min 65535 (d.uecnt + 1) })
  checkCell s die cell (fun c => decide (2 ≤ c.nue) || decide (256 ≤ c.nce) || decide (16 ≤ NMap.get 0 c.cew word)) cause

/-- Count a lane death from an error in the cell's own storage, whose record is out (R371). -/
def countDeath (s : State) (die cell : Nat) : State :=
  checkCell (modCell s (ckey die cell) (fun c => { c with ndeath := c.ndeath + 1 })) die cell (fun c => decide (32 ≤ c.ndeath))
    (lastRecord s (srcDie die))

/-- An uncorrectable error is found; the first record of kind 0x02, 0x03 or 0x04 that follows is its own (R371). -/
def noteFound (s : State) (f : Found) : State := { s with found := s.found ++ [f] }

/-- The record just out of a source is that of the first error found. -/
def countFirst (s : State) (src : Nat) : State :=
  match s.found with
  | [] => s
  | f :: t => countErr { s with found := t } f.die f.cell f.word .uncorrectable (lastRecord s src)

/-- The last record out of a source is that of every error found. -/
def countFound (s : State) (src : Nat) : State :=
  s.found.foldl (fun s f => countErr s f.die f.cell f.word .uncorrectable (lastRecord s src)) { s with found := [] }

/-- Errors found that killed no lane at once: one in a vault word has a record of kind 0x03 (R371). -/
def settleFound (s : State) : State :=
  s.found.foldl (fun s f =>
    let src := srcDie f.die
    let s := match f.vault with
      | some (a, l, n) => emit s src { kind := 3, addr := a, launch := l, info := n }
      | none => s
    countErr s f.die f.cell f.word .uncorrectable (lastRecord s src)) { s with found := [] }

end Sys2Proof.Machine
end

