-- ==== Sys2Proof/Machine/Home.lean ====
section
/-! DEFINITION. Memory at its places: interleaving (R276), home slices and versions (R273, R274), HBM bytes, vault bytes,
poison (R361, R362), the L1s (R270, R271). -/

namespace Sys2Proof.Machine

/-- What a byte of memory reads as where nothing is listed: 0 (DESIGN CHOICE, log 1). -/
def emptyByte : Byte := 0

def cellsGet (m : List Host.Cell) (a : Nat) : Byte := NMap.get emptyByte m a
def cellsSet (m : List Host.Cell) (a : Nat) (b : Byte) : List Host.Cell := NMap.set emptyByte m a b

/-- Write bytes at rising addresses. -/
def cellsWrite (m : List Host.Cell) (a : Nat) : List Byte → List Host.Cell
  | [] => m
  | b :: t => cellsWrite (cellsSet m a b) (a + 1) t

/-- n bytes from an address. -/
def cellsRead (m : List Host.Cell) (a n : Nat) : List Byte := (List.range n).map (fun i => cellsGet m (a + i))

/-- The key of a stack byte. -/
def hkey (site off : Nat) : Nat := site * 2 ^ 36 + off
/-- The key of a vault byte: die, logical cell, offset (R35). -/
def vltKey (die cell off : Nat) : Nat := (die * 4608 + cell) * 2 ^ 18 + off

/-! ## Interleaving -/

/-- fold(q) (R276). -/
def foldQ (q : Nat) : Nat := (q % 2 ^ 13) ^^^ (q / 2 ^ 13 % 2 ^ 13) ^^^ (q / 2 ^ 26 % 2 ^ 11)

/-- The member site and stack offset of a physical address (R276); none for a set that is not defined. -/
def locate (s : State) (pa : Nat) : Option (Nat × Nat) :=
  match NMap.get none s.mem.sets (pa / 2 ^ 44) with
  | none => none
  | some st =>
    let k := st.members.length
    if k = 0 then none
    else
      let n := pa % 2 ^ 44 / 128
      let q := n / k
      let m := (n % k + foldQ q) % k
      some (st.members.getD m 0, st.bases.getD m 0 + 128 * q + pa % 128)

/-- The line's member is lost: the site is lost and the set that holds it is still broken (R354). -/
def lostAt (s : State) (pa : Nat) : Bool :=
  match locate s pa with
  | none => true
  | some (site, _) => (siteOf s site).lost

/-! ## The home slice -/

/-- The slice set of a line (R273). -/
def sliceSet (x : Nat) : Nat := (x % 2 ^ 14) ^^^ (x / 2 ^ 14 % 2 ^ 14) ^^^ (x / 2 ^ 28 % 2 ^ 14)

/-- The poison of a line's four HBM words. -/
def hbmPois (s : State) (site x : Nat) : BitVec 4 :=
  (List.range 4).foldl (fun p i =>
    if NMap.get false s.mem.hpois (hkey site (128 * x) / 32 + i) then p ||| BitVec.ofNat 4 (2 ^ i) else p) 0

/-- Find the errors of one HBM word: a corrected one leaves a record, an uncorrectable one poisons it (R362, R371). -/
def findHbm (site : Nat) (s : State) (w : Nat) : State :=
  match NMap.get none s.mem.hbad w with
  | none => s
  | some .corrected => emit s (srcSite site) { kind := 1, addr := w * 32 % 2 ^ 36 }
  | some .uncorrectable | some .counted =>
    emit { s with mem := { s.mem with hpois := NMap.set false s.mem.hpois w true, hbad := NMap.set none s.mem.hbad w none } }
      (srcSite site) { kind := 4, addr := w * 32 % 2 ^ 36 }

def findLine (s : State) (site x : Nat) : State :=
  (List.range 4).foldl (fun s i => findHbm site s (hkey site (128 * x) / 32 + i)) s

/-- Write a line's bytes to HBM; the words' poison is written with them and errors beneath are overwritten (R362). -/
def hbmPutLine (s : State) (site x : Nat) (data : List Byte) (p : BitVec 4) : State :=
  let b := hkey site (128 * x)
  { s with mem := { s.mem with
      hbm := cellsWrite s.mem.hbm b data
      hpois := (List.range 4).foldl (fun m i => NMap.set false m (b / 32 + i) (p.getLsbD i)) s.mem.hpois
      hbad := (List.range 4).foldl (fun m i => NMap.set none m (b / 32 + i) none) s.mem.hbad } }

/-- The resident line of index x, if any. -/
def resident? (s : State) (site x : Nat) : Option SliceLine := (siteOf s site).lines.find? (fun l => l.line == x)

/-- Every write event, allocation, eviction and discard of a line clears scrub-pending (R282). -/
def unscrub (s : State) (site x : Nat) : State :=
  modSite s site (fun st => { st with scrub := NMap.set none st.scrub x none })

/-- Put a line at the recent end of its slice. -/
def putLine (s : State) (site : Nat) (l : SliceLine) : State :=
  modSite s site (fun st => { st with lines := l :: st.lines.filter (fun m => m.line != l.line) })

/-- Find the errors of a line's SRAM words: a corrected one leaves a record, an uncorrectable one poisons its word (R361, R362). -/
def findSlice (s : State) (site : Nat) (l : SliceLine) : SliceLine × State :=
  l.bad.foldl (fun (r : SliceLine × State) e =>
    let addr := 128 * l.line + 32 * e.1
    match e.2 with
    | some .corrected => (r.1, emit r.2 (srcSite site) { kind := 1, addr := addr })
    | some .uncorrectable | some .counted => ({ r.1 with pois := r.1.pois ||| BitVec.ofNat 4 (2 ^ e.1) }, emit r.2 (srcSite site) { kind := 4, addr := addr })
    | none => r) ({ l with bad := l.bad.filter (fun e => e.2 == some .corrected) }, s)

/-- Eviction (R274): a dirty line is written to HBM, the floor rises past its version, the line is removed. -/
def evict (s : State) (site : Nat) (l : SliceLine) : State :=
  let (l, s) := if l.st = 1 then findSlice s site l else (l, s)
  let s := if l.st = 1 then hbmPutLine s site l.line l.data l.pois else s
  modSite (unscrub s site l.line) site (fun st =>
    { st with floor := if st.floor.toNat < l.ver.toNat + 1 then l.ver + 1 else st.floor
              lines := st.lines.filter (fun m => m.line != l.line) })

/-- Make room in the set of line x: with 16 lines resident there the least recently used is evicted (R273). -/
def makeRoom (s : State) (site x : Nat) : State :=
  let same := (siteOf s site).lines.filter (fun l => sliceSet l.line == sliceSet x)
  if same.length < 16 then s else match same.getLast? with | none => s | some l => evict s site l

/-- HBM bytes of a line. -/
def hbmLine (s : State) (site x : Nat) : List Byte := cellsRead s.mem.hbm (hkey site (128 * x)) 128

/-- Bring line x to its home with its data: allocation at the floor, refetch of an absent line (R274). -/
def homeLine (s : State) (site x : Nat) : SliceLine × State :=
  match resident? s site x with
  | some l =>
    if l.st = 2 then
      let s := findLine s site x
      let l := { l with st := 0, data := hbmLine s site x, pois := hbmPois s site x, bad := [] }
      (l, putLine s site l)
    else
      let (l, s) := findSlice s site l
      (l, putLine s site l)
  | none =>
    let s := unscrub (findLine (makeRoom s site x) site x) site x
    let l : SliceLine := { line := x, ver := (siteOf s site).floor, st := 0, data := hbmLine s site x, pois := hbmPois s site x }
    (l, putLine s site l)

/-- The line is resident or is allocated, its data fetched or not (`ver(a)`, R45). -/
def homeVer (s : State) (site x : Nat) : BitVec 64 × State :=
  let (l, s) := homeLine s site x
  (l.ver, s)

/-- A byte with its poison, as it moves (R362). -/
abbrev PByte := Byte × Bool

/-- One home step that reads n bytes at offset o of a line (R249). -/
def readLine (s : State) (site x o n : Nat) : List PByte × State :=
  let (l, s) := homeLine s site x
  ((List.range n).map (fun i => (l.data.getD (o + i) 0, l.pois.getLsbD ((o + i) / 32))), s)

/-- Replace listed bytes of a line's data. -/
def overlay (data : List Byte) (w : List (Nat × PByte)) : List Byte :=
  w.foldl (fun d e => d.set e.1 e.2.1) data

/-- The poison of a word after a write: covered whole it takes the written poison, covered in part it stays or rises (R362). -/
def overlayPois (old : Bool) (lo len : Nat) (w : List (Nat × PByte)) : Bool :=
  let hit := w.filter (fun e => lo ≤ e.1 && e.1 < lo + len)
  let psn := hit.any (fun e => e.2.2)
  let whole := (List.range len).all (fun i => hit.any (fun e => e.1 == lo + i))
  if whole then psn else old || psn

/-- A write event on a line (R165): listed bytes, version raised, state D, scrub-pending cleared. -/
def writeLine (s : State) (site x : Nat) (w : List (Nat × PByte)) : State :=
  let (l, s) := homeLine s site x
  putLine (unscrub s site x) site { l with
    ver := l.ver + 1, st := 1
    data := overlay l.data w
    bad := l.bad.filter (fun e => !(List.range 32).all (fun i => w.any (fun x => x.1 == 32 * e.1 + i)))
    pois := (List.range 4).foldl (fun p i => if overlayPois (l.pois.getLsbD i) (32 * i) 32 w then p ||| BitVec.ofNat 4 (2 ^ i) else p) 0 }

/-! ## Physical accesses, by memory type (R286) -/

/-- The pieces of n bytes at pa that stand in one line each: (address, length). Fuel bounds the number of lines. -/
def pieces : Nat → Nat → Nat → List (Nat × Nat)
  | 0, _, _ => []
  | f + 1, pa, n =>
    if n = 0 then [] else
      let k := min n (128 - pa % 128)
      (pa, k) :: pieces f (pa + k) (n - k)

def piecesOf (pa n : Nat) : List (Nat × Nat) := pieces (n / 128 + 2) pa n

/-- Read within one line. A lost member gives poison (R354); a device register reads zero (R286). -/
def readPiece (s : State) (pa n mt : Nat) : List PByte × State :=
  if mt = 2 then (List.replicate n (0, false), s)
  else match locate s pa with
    | none => (List.replicate n (0, true), s)
    | some (site, off) =>
      if (siteOf s site).lost then (List.replicate n (0, true), s)
      else if mt = 1 then
        let s := findLine s site (off / 128)
        ((List.range n).map (fun i =>
          (cellsGet s.mem.hbm (hkey site (off + i)), NMap.get false s.mem.hpois (hkey site (off + i) / 32))), s)
      else readLine s site (off / 128) (off % 128) n

/-- Read n bytes at a physical address, home-served, line by line (R272). -/
def readPhys (s : State) (pa n mt : Nat) : List PByte × State :=
  (piecesOf pa n).foldl (fun (r : List PByte × State) p =>
    let (d, s) := readPiece r.2 p.1 p.2 mt
    (r.1 ++ d, s)) ([], s)

/-- Write listed bytes (physical address, byte) that stand in one line, as one write event; nothing at a lost member. -/
def writePiece (s : State) (mt : Nat) (w : List (Nat × PByte)) : State :=
  match w with
  | [] => s
  | (pa, _) :: _ =>
    if mt = 2 then s
    else match locate s pa with
      | none => s
      | some (site, off) =>
        if (siteOf s site).lost then s
        else
          let x := off / 128
          if mt = 1 then
            let base := hkey site (128 * x)
            let s := unscrub s site x
            let w := w.map (fun e => (e.1 % 128, e.2))
            let whole (i : Nat) : Bool := (List.range 32).all (fun j => w.any (fun e => e.1 == 32 * i + j))
            { s with mem := { s.mem with
                hbm := w.foldl (fun m e => cellsSet m (base + e.1) e.2.1) s.mem.hbm
                hpois := (List.range 4).foldl (fun m i =>
                  NMap.set false m (base / 32 + i) (overlayPois (NMap.get false m (base / 32 + i)) (32 * i) 32 w)) s.mem.hpois
                hbad := (List.range 4).foldl (fun m i => if whole i then NMap.set none m (base / 32 + i) none else m) s.mem.hbad } }
          else writeLine s site x (w.map (fun e => (e.1 % 128, e.2)))

/-- Distinct numbers in ascending order. -/
def distinct (l : List Nat) : List Nat := (l.foldl (fun m k => NMap.put k () m) ([] : NMap Unit)).map (·.1)

/-! ## The L1s -/

/-- The L1 set of a line address (R270). -/
def l1Set (pa : Nat) : Nat := (pa / 128 % 64) ^^^ (pa / 8192 % 64)

/-- The bytes of n bytes at pa in one L1 block, if the block holds them all. -/
def l1Block? (c : Cell) (pa n : Nat) : Option L1Block :=
  c.l1.find? (fun b => decide (b.pa ≤ pa) && decide (pa + n ≤ b.pa + b.data.length))

/-- A read of n bytes of an L1 block meets a word whose error is not corrected (R361). -/
def l1Fails (b : L1Block) (pa n : Nat) : Bool :=
  (List.range (n / 16 + 2)).any (fun i => decide (16 * (pa / 16 + i) < pa + n) && NMap.get none b.bad (pa / 16 + i) == some .uncorrectable)

/-- Serve a read from the L1 if its words are present; the block becomes the most recent. A copy that fails is dropped, and the read misses
(R361). -/
def l1Read (s : State) (ck pa n : Nat) : Option (List Byte) × State :=
  match l1Block? (cellOf s ck) pa n with
  | none => (none, s)
  | some b =>
    if l1Fails b pa n then (none, modCell s ck (fun c => { c with l1 := c.l1.filter (fun d => d.pa != b.pa) }))
    else (some ((b.data.drop (pa - b.pa)).take n),
      modCell s ck (fun c => { c with l1 := b :: c.l1.filter (fun d => d.pa != b.pa) }))

/-- Bytes of a set's storage that a list of blocks takes. -/
def l1Bytes (l : List L1Block) : Nat := (l.map (fun b => b.data.length)).sum

/-- Drop blocks of a set until a new one fits in 512 bytes and 16 blocks: stream-through blocks first, `.keep` last,
otherwise the least recent (R163, R270). -/
def l1Trim : Nat → Nat → List L1Block → List L1Block
  | 0, _, l => l
  | f + 1, need, l =>
    if l.length < 16 && l1Bytes l + need ≤ 512 then l
    else
      let through : List L1Block := l.filter (fun b => b.pol == 1)
      let usual : List L1Block := l.filter (fun b => b.pol != 2)
      let victim : Option L1Block := through.getLast? <|> usual.getLast? <|> l.getLast?
      match victim with
      | none => l
      | some v => l1Trim f need (l.filter (fun b => b.pa != v.pa))

/-- Drop the least recent `.keep` blocks of a set until what they hold and a new one fit in 256 bytes (R163, R270). -/
def keepTrim : Nat → Nat → List L1Block → List L1Block
  | 0, _, l => l
  | f + 1, need, l =>
    let kept : List L1Block := l.filter (fun b => b.pol == 2)
    match kept.getLast? with
    | none => l
    | some v => if l1Bytes kept + need ≤ 256 then l else keepTrim f need (l.filter (fun b => b.pa != v.pa))

/-- Allocate a block under a policy (R163, R270): overlapping blocks of the line go first. -/
def l1Fill (s : State) (ck : Nat) (b : L1Block) : State :=
  modCell s ck (fun c =>
    let mine := c.l1.filter (fun d => l1Set d.pa == l1Set b.pa && (d.pa + d.data.length ≤ b.pa || b.pa + b.data.length ≤ d.pa))
    let rest := c.l1.filter (fun d => l1Set d.pa != l1Set b.pa)
    let mine := if b.pol = 2 then keepTrim 16 b.data.length mine else mine
    { c with l1 := b :: l1Trim 16 b.data.length mine ++ rest })

/-- Remove a line from one L1. -/
def l1Drop (s : State) (ck line : Nat) : State :=
  modCell s ck (fun c => { c with l1 := c.l1.filter (fun b => b.pa / 128 != line) })

/-- The die's invalidation network removes a line from every L1 of the die (R251, R271). -/
def l1Inval (s : State) (die line : Nat) : State :=
  { s with cells := s.cells.map (fun e =>
      if e.1 / 4608 == die then (e.1, { e.2 with l1 := e.2.l1.filter (fun b => b.pa / 128 != line) }) else e) }

/-- Remove everything from one L1 (R176, R246). -/
def l1Clear (s : State) (ck : Nat) : State := modCell s ck (fun c => { c with l1 := [] })

/-! ## Vaults -/

/-- Find the error of one vault word, counted for its cell (R361, R371), for a reader's launch and lane. -/
def findVault (s : State) (key launch lane : Nat) : State :=
  let w := key / 16
  let ck := key / 2 ^ 18
  let src := srcDie (ck / 4608)
  let off := key % 2 ^ 18 / 16 * 16
  match NMap.get none s.mem.vbad w with
  | none => s
  | some .corrected =>
    let s := emit s src { kind := 1, addr := off }
    countErr s (ck / 4608) (ck % 4608) w .corrected (lastRecord s src)
  | some .uncorrectable | some .counted =>
    noteFound { s with mem := { s.mem with vpois := NMap.set false s.mem.vpois w true, vbad := NMap.set none s.mem.vbad w none } }
      { die := ck / 4608, cell := ck % 4608, word := w, vault := some (2 ^ 31 + ck % 4608 * 2 ^ 18 + off, launch, lane) }

/-- Read n vault bytes from a key, with their poison. -/
def readVault (s : State) (key n : Nat) (launch : Nat := 0) (lane : Nat := 0) : List PByte × State :=
  let s := ((List.range (n / 16 + 2)).map (fun i => key / 16 * 16 + 16 * i)).foldl
    (fun s k => if k < key + n then findVault s k launch lane else s) s
  ((List.range n).map (fun i => (cellsGet s.mem.vault (key + i), NMap.get false s.mem.vpois ((key + i) / 16))), s)

/-- Write vault bytes at a key: the bytes, and each touched word's poison (R362). -/
def writeVault (s : State) (key : Nat) (w : List PByte) : State :=
  let l := (List.range w.length).map (fun i => (key + i, w.getD i (0, false)))
  let words := (List.range (w.length / 16 + 2)).map (fun i => key / 16 + i)
  let touched := words.filter (fun k => 16 * k < key + w.length && key < 16 * k + 16)
  { s with mem := { s.mem with
      vault := cellsWrite s.mem.vault key (w.map (·.1))
      vpois := touched.foldl (fun m k => NMap.set false m k (overlayPois (NMap.get false m k) (16 * k) 16 l)) s.mem.vpois
      vbad := touched.foldl (fun m k => if key ≤ 16 * k && 16 * k + 16 ≤ key + w.length then NMap.set none m k none else m) s.mem.vbad } }

/-- The bytes without their poison. -/
def plain (l : List PByte) : List Byte := l.map (·.1)
/-- Some byte is poisoned. -/
def anyPois (l : List PByte) : Bool := l.any (·.2)
/-- Bytes with no poison. -/
def clean (l : List Byte) : List PByte := l.map (fun b => (b, false))

/-- The byte at the home (R249): the slice's data where the line is resident with data, otherwise HBM's. -/
def homeByte (s : State) (site off : Nat) : Byte :=
  match resident? s site (off / 128) with
  | some l => if l.st = 2 then cellsGet s.mem.hbm (hkey site off) else l.data.getD (off % 128) 0
  | none => cellsGet s.mem.hbm (hkey site off)

/-- The byte of global memory at a physical address, as a home-served read gives it. -/
def globalByte (s : State) (pa : Nat) : Byte :=
  match locate s pa with
  | none => 0
  | some (site, off) => homeByte s site off

/-- The byte of a vault. -/
def vaultByte (s : State) (key : Nat) : Byte := cellsGet s.mem.vault key

end Sys2Proof.Machine
end

