-- ==== Sys2Proof/Machine/Translate.lean ====
section
/-! DEFINITION. Translation: table walks (R283 to R285), micro-TLBs, cluster TLBs and walk caches (R287), the walk queues
(R288), the permission checks of a leaf, and `tlbi` (R246). -/

namespace Sys2Proof.Machine

/-- What an access asks of a leaf (R285). -/
inductive Want where | read | write | atomic | fetch
deriving DecidableEq, Repr

/-- The capacity of a set over all its members: its lines fill the members evenly (R276), as far as the least capacity of one (R275, R285;
log 13). -/
def setCap (s : State) (set : Nat) : Option Nat :=
  (NMap.get none s.mem.sets set).map (fun x => match x.caps with
    | [] => 0
    | c :: t => t.foldl min c * x.members.length)

/-- A range lies inside its set's capacity. -/
def inCap (s : State) (pa n : Nat) : Bool :=
  match setCap s (pa / 2 ^ 44) with
  | none => false
  | some c => pa % 2 ^ 44 + n ≤ c

/-- One table entry, read home-served; none where the read meets a poisoned word or a lost member (R285). -/
def readPte (s : State) (pa : Nat) : Option Nat × State :=
  let (d, s) := readPhys s pa 8 0
  (if anyPois d then none else some (bytesVal (plain d)), s)

/-- The index of a virtual address at a level: 3 root, 2, 1, 0 (R283). -/
def vaIndex (level va : Nat) : Nat :=
  match level with
  | 3 => va / 2 ^ 51 % 32
  | 2 => va / 2 ^ 38 % 8192
  | 1 => va / 2 ^ 25 % 8192
  | _ => va / 2 ^ 16 % 512

/-- Size in bytes of the table below a level (R283). -/
def tableSize : Nat → Nat
  | 1 => 4096
  | _ => 65536

/-- ADDR of an entry (R284). -/
def pteAddr (e : Nat) : Nat := e % 2 ^ 52 / 4096 * 4096
def pteBit (e i : Nat) : Bool := e.testBit i

/-- What an entry says at a level: another table, a leaf, or a failure (R285). -/
inductive PteRes where | table (pa : Nat) | leaf (l : Leaf) | bad
deriving DecidableEq, Repr

/-- The checks of one entry (R284, R285). -/
def checkPte (s : State) (level va e : Nat) : PteRes :=
  let kind := e / 2 % 4
  let pa := pteAddr e
  let rsv := e / 2 ^ 52 != 0 || e / 1024 % 4 != 0 || pteBit e 6
  if !pteBit e 0 || rsv || kind > 1 then .bad
  else if kind = 0 then
    if level = 0 || e / 8 % 8 != 0 || pteBit e 7 || e / 256 % 4 != 0 || pa % tableSize level != 0
      || pa / 2 ^ 44 = 255 || !inCap s pa (tableSize level) then .bad
    else .table pa
  else if level > 1 then .bad
  else
    let size := if level = 1 then 2 ^ 25 else 2 ^ 16
    let mt := e / 256 % 4
    if mt = 3 || pa % size != 0 then .bad
    else if (if pa / 2 ^ 44 = 255 then mt != 2 else !inCap s pa size) then .bad
    else .leaf { vbase := va / size * size, size := size, pbase := pa, mt := mt, priv := pteBit e 7,
                 x := pteBit e 5, w := pteBit e 4, r := pteBit e 3 }

/-- A walk from a level downward; the table entries it reads are given back for the walk cache (R285, R287). -/
def walkFrom : Nat → State → Nat → Nat → List (Nat × Nat × Nat) → Option Leaf × List (Nat × Nat × Nat) × State
  | 0, s, va, tab, seen =>
    let (e, s) := readPte s (tab + 8 * vaIndex 0 va)
    match e with
    | none => (none, seen, s)
    | some e => match checkPte s 0 va e with
      | .leaf l => (some l, seen, s)
      | _ => (none, seen, s)
  | level + 1, s, va, tab, seen =>
    let (e, s) := readPte s (tab + 8 * vaIndex (level + 1) va)
    match e with
    | none => (none, seen, s)
    | some e => match checkPte s (level + 1) va e with
      | .leaf l => (some l, seen, s)
      | .table pa => walkFrom level s va pa ((level, va / 2 ^ (match level with | 2 => 51 | 1 => 38 | _ => 25), pa) :: seen)
      | .bad => (none, seen, s)

/-- A cached table of a level that covers the address (R287). -/
def cached (c : List (Nat × Nat × Nat)) (level va : Nat) : Option Nat :=
  (c.find? (fun e => e.1 == level && e.2.1 == va / 2 ^ (match level with | 2 => 51 | 1 => 38 | _ => 25))).map (·.2.2)

/-- A walk by one walker of a die: it starts below the deepest entry that the walker has cached, and a success puts its table entries into
the walker's cache of 64 (R287). -/
def walk (s : State) (die k va : Nat) : Option Leaf × State :=
  let c := NMap.get [] (dieOf s die).wcache k
  let (r, seen, s) := match cached c 0 va with
    | some t => walkFrom 0 s va t []
    | none => match cached c 1 va with
      | some t => walkFrom 1 s va t []
      | none => match cached c 2 va with
        | some t => walkFrom 2 s va t []
        | none => walkFrom 3 s va s.mem.root []
  match r with
  | none => (none, s)
  | some l => (some l, modDie s die (fun d => { d with wcache := NMap.modify [] d.wcache k (fun c => (seen ++ c.filter (fun e => !seen.contains e)).take 64) }))

/-- A walk that reads the tables alone, for agents outside the cells (R385, R291). -/
def walkPlain (s : State) (va : Nat) : Option Leaf × State :=
  if va / 2 ^ 56 != 0 then (none, s)
  else
    let (r, _, s) := walkFrom 3 s va s.mem.root []
    (r, s)

/-- The leaf maps the address. -/
def covers (l : Leaf) (va : Nat) : Bool := l.vbase ≤ va && va < l.vbase + l.size

/-- The physical address of a virtual one under a leaf. -/
def leafPa (l : Leaf) (va : Nat) : Nat := l.pbase + (va - l.vbase)

/-- The first missing permission (R285): DETAIL of the Permission Fault. -/
def permFault (l : Leaf) (w : Want) (priv : Bool) : Option Nat :=
  let bits := match w with
    | .read => if l.r then none else some 1
    | .write => if l.w then none else some 2
    | .atomic => if !l.r then some 1 else if !l.w then some 2 else none
    | .fetch => if l.x && l.mt == 0 then none else some 2
  match bits with
  | some d => some d
  | none => if l.priv && !priv then some 4 else none

/-- What translation gives an instruction: a leaf, a failed walk, or a walk still to come. -/
inductive TRes where | hit (l : Leaf) | fail | miss
deriving DecidableEq, Repr

/-- Consult the walks that were delivered to an access, the cell's micro-TLB, then its cluster's TLB (R288). -/
def translBy (got : List (Nat × Option Leaf)) (s : State) (ck va : Nat) : TRes :=
  match got.find? (fun e => e.1 == va / 65536 || (match e.2 with | some l => covers l va | none => false)) with
  | some (_, some l) => .hit l
  | some (_, none) => .fail
  | none =>
    match (cellOf s ck).utlb.find? (fun l => covers l va) with
    | some l => .hit l
    | none => match (NMap.get [] s.ctlb (ck / 4608 * 1152 + clusterOf (ck % 4608))).find? (fun l => covers l va) with
      | some l => .hit l
      | none => .miss

/-- The same for an instruction of the current team, and for an operation of it that translates as it is performed. -/
def transl (s : State) (ck va : Nat) : TRes := translBy s.cur.walks s ck va
def opTransl (s : State) (id ck va : Nat) : TRes :=
  translBy (((s.cur.ops.find? (fun o => o.id == id)).map (·.walks)).getD []) s ck va

/-- A walk request can be sent: the cell waits for a walk of the page already, or it has fewer than 32 distinct walks, and the page is
walked or queued or the queue holds fewer than 4,096 (R288; the full queue, log 88). -/
def walkSlot (d : Die) (cell page : Nat) : Bool :=
  let by_ : List (Nat × List Nat) := d.walking.map (fun w => (w.page, w.by_.map (·.1) ++ w.ops.map (·.1)))
    ++ d.walkq.map (fun w => (w.page, w.by_.map (·.1) ++ w.ops.map (·.1)))
  let mine := by_.filter (fun w => w.2.contains cell)
  mine.any (fun w => w.1 == page)
    || (decide (mine.length < 32) && (by_.any (fun w => w.1 == page) || decide (d.walkq.length < 4096)))

/-- Put requests into the walk of a page that is in progress or queued, or into a new one at the end of the queue (R288). -/
def joinWalk (page : Nat) (by_ : List (Nat × Nat)) (ops : List (Nat × Nat × Nat)) (d : Die) : Die :=
  let more {α : Type} [BEq α] (w l : List α) : List α := w ++ l.filter (fun x => !w.contains x)
  if d.walking.any (fun w => w.page == page) then
    { d with walking := d.walking.map (fun w => if w.page == page then { w with by_ := more w.by_ by_, ops := more w.ops ops } else w) }
  else if d.walkq.any (fun w => w.page == page) then
    { d with walkq := d.walkq.map (fun w => if w.page == page then { w with by_ := more w.by_ by_, ops := more w.ops ops } else w) }
  else { d with walkq := d.walkq ++ [{ page := page, by_ := by_, ops := ops }] }

/-- Send a walk request (R288): it joins a walk of its page or enters the queue; without a slot the access is held. -/
def requestWalk (s : State) (ck tid va : Nat) : State :=
  if !walkSlot (dieOf s (ck / 4608)) (ck % 4608) (va / 65536) then modTeam s tid (fun t => { t with slotwait := true })
  else modDie s (ck / 4608) (joinWalk (va / 65536) [(ck % 4608, tid)] [])

/-- The same for an operation of the current team; without a slot it asks again later. -/
def requestOpWalk (s : State) (ck id va : Nat) : State :=
  if !walkSlot (dieOf s (ck / 4608)) (ck % 4608) (va / 65536) then s
  else modDie s (ck / 4608) (joinWalk (va / 65536) [] [(ck % 4608, s.cur.tid, id)])

/-- Hold a translation: 32 in the micro-TLB, 512 in the cluster's; the oldest goes (R287; log 14). -/
def fillTlb (s : State) (ck : Nat) (l : Leaf) : State :=
  let s := modCell s ck (fun c => { c with utlb := (l :: c.utlb.filter (fun m => m != l)).take 32 })
  { s with ctlb := NMap.modify [] s.ctlb (ck / 4608 * 1152 + clusterOf (ck % 4608)) (fun t => (l :: t.filter (fun m => m != l)).take 512) }

/-- The walker that takes a walk: one of 16 with fewer than 64 walks in progress (R288; which one, log 14). -/
def freeWalker (d : Die) (die page : Nat) : Option Nat :=
  ((List.range 16).map (fun i => (Config.walkerOf die page + i) % 16)).find? (fun k =>
    decide ((d.walking.filter (fun w => w.walker == k)).length < 64))

/-- Accesses of a die held at a full walk queue ask again once it is full no longer (log 88). -/
def freeQueue (die : Nat) (s0 s : State) : State :=
  if 4096 ≤ (dieOf s0 die).walkq.length && decide ((dieOf s die).walkq.length < 4096) then
    mapTeams s (fun t => if t.die == die then { t with slotwait := false } else t)
  else s

/-- A walker takes the head of the die's walk queue and reads its entries (R285, R288). -/
def pageWalk (s : State) (die : Nat) : State :=
  let d := dieOf s die
  match d.walkq with
  | [] => s
  | w :: rest =>
    match freeWalker d die w.page with
    | none => s
    | some k =>
      let (r, u) := walk s die k (w.page * 65536)
      freeQueue die s (modDie u die (fun d => { d with
        walkq := rest, walking := d.walking ++ [{ walker := k, page := w.page, by_ := w.by_, ops := w.ops, res := r }] }))

/-- A success is held in the TLBs, a failure nowhere (R287). -/
def holdLeaf (die cell : Nat) (r : Option Leaf) (s : State) : State :=
  match r with
  | some l => fillTlb s (ckey die cell) l
  | none => s

/-- A result joins those that an access holds. -/
def addWalk (page : Nat) (r : Option Leaf) (l : List (Nat × Option Leaf)) : List (Nat × Option Leaf) := (page, r) :: l.filter (fun e => e.1 != page)

/-- Deliver a result to one request: of a team's instruction, or of an operation (R288). -/
def deliver (die page : Nat) (r : Option Leaf) (s : State) (b : Nat × Nat) : State :=
  modTeam (holdLeaf die b.1 r s) b.2 (fun t => { t with walks := addWalk page r t.walks })
def deliverOp (die page : Nat) (r : Option Leaf) (s : State) (b : Nat × Nat × Nat) : State :=
  modTeam (holdLeaf die b.1 r s) b.2.1 (fun t =>
    { t with ops := t.ops.map (fun o => if o.id == b.2.2 then { o with walks := addWalk page r o.walks } else o) })

/-- An access held for want of a walk slot is held no longer once one of its cell's walks has ended (R288). -/
def endHolds (s : State) (die cell : Nat) : State :=
  mapTeams s (fun t => if t.die == die && (t.cell == cell || (t.pair && t.cell + 1 == cell)) then { t with slotwait := false } else t)

/-- The oldest walk of a die delivers its result to every request merged into it; a 32 MiB leaf also completes the
requests queued or in progress within its page (R288). -/
def walkResult (s : State) (die : Nat) : State :=
  let d := dieOf s die
  match d.walking with
  | [] => s
  | w :: rest =>
    let inside (p : Nat) : Bool := match w.res with
      | some l => l.size == 2 ^ 25 && covers l (p * 65536)
      | none => false
    let more : List Walk := (rest.filter (fun x => inside x.page)).map (fun x => { page := x.page, by_ := x.by_, ops := x.ops })
      ++ d.walkq.filter (fun x => inside x.page)
    let u := modDie s die (fun d => { d with walking := rest.filter (fun x => !inside x.page)
                                             walkq := d.walkq.filter (fun x => !inside x.page) })
    let ends : List Walk := { page := w.page, by_ := w.by_, ops := w.ops } :: more
    let u := ends.foldl (fun s e => e.ops.foldl (deliverOp die e.page w.res) (e.by_.foldl (deliver die e.page w.res) s)) (freeQueue die s u)
    (distinct (ends.flatMap (fun e => e.by_.map (·.1) ++ e.ops.map (·.1)))).foldl (fun s c => endHolds s die c) u

/-- Drop translations (R246): `which` says which leaves go, `path` which walk-cache entries; a walk in progress goes back
to its queue, so that none that began before delivers. -/
def dropTlb (s : State) (inCell : Nat → Bool) (inCluster : Nat → Bool) (inDie : Nat → Bool) (which : Leaf → Bool)
    (path : Nat × Nat × Nat → Bool) : State :=
  let s := { s with
    cells := s.cells.map (fun e => if inCell e.1 then (e.1, { e.2 with utlb := e.2.utlb.filter (fun l => !which l) }) else e)
    ctlb := s.ctlb.map (fun e => if inCluster e.1 then (e.1, e.2.filter (fun l => !which l)) else e)
    dies := s.dies.map (fun e => if inDie e.1 then
      (e.1, { e.2 with wcache := (e.2.wcache.map (fun w => (w.1, w.2.filter (fun x => !path x)))).filter (fun w => !w.2.isEmpty)
                       walkq := e.2.walking.map (fun w => { page := w.page, by_ := w.by_, ops := w.ops }) ++ e.2.walkq
                       walking := [] }) else e) }
  let stay (l : List (Nat × Option Leaf)) : List (Nat × Option Leaf) := l.filter (fun e => match e.2 with | some l => !which l | none => true)
  mapTeams s (fun t => if inCell (ckey t.die t.cell) then
    { t with walks := stay t.walks, ops := t.ops.map (fun o => if o.walks.isEmpty then o else { o with walks := stay o.walks }) } else t)

end Sys2Proof.Machine
end

