-- ==== Sys2Proof/Machine/Ops.lean ====
section
/-! DEFINITION. The shared operations of every instruction: issue with the checks of R99, taking a trap and returning from
one (R43, R83, R310, R311), lane death (R363 to R367), completion flags and long-latency operations (R79 to R84), the
sources of an operand (R46, R87 to R89). -/

namespace Sys2Proof.Machine

/-! ## Traps -/

/-- A trap to take: CAUSE, DETAIL, TRAPADDR, the lowest lane that raised it or none for the team, REPLAY (R43). -/
structure TrapInfo where
  cause  : Nat
  detail : Nat := 0
  addr   : Nat := 0
  lane   : Option Nat := none
  replay : Bool := false
deriving DecidableEq, Repr

/-- What an instruction does. -/
inductive Res where
  /-- Its effect is whole; the next instruction follows. -/
  | done (s : State)
  /-- Its effect is whole; the clause ends and the next header stands at pc. -/
  | goto (s : State) (pc : Nat)
  /-- It takes a trap, with no effect on its destinations. -/
  | trap (s : State) (x : TrapInfo)
  /-- It waits; the state holds what waiting records. -/
  | stall (s : State)
  /-- The team issues nothing more here. -/
  | leave (s : State)

/-- Address of the instruction at a clause's position (R72). -/
def instrPc (c : Clause) : Nat := c.hdr + 8 * (c.idx + 1)

/-- `next` (R108): the header that follows the clause. -/
def nextHdr (c : Clause) : Nat := c.hdr + 8 * (c.words.length + 1)

/-- The trap registers (R43). -/
def setTrapRegs (t : Team) (pc : Nat) (x : TrapInfo) : Team :=
  { t with
    trapcause := BitVec.ofNat 64 ((if x.replay then 65536 else 0) + x.detail % 256 * 256 + x.cause % 256)
    trappc := BitVec.ofNat 64 pc
    trapaddr := BitVec.ofNat 64 x.addr
    traplane := match x.lane with
      | some l => BitVec.ofNat 64 l
      | none => BitVec.ofNat 64 (2 ^ 31) }

/-- The state that a trap keeps (R310). -/
def trapState (t : Team) (k : TrapKind) : TrapState :=
  { m0 := t.r.mget 0, m0s := (t.sh.getD {}).mget 0, stack := t.r.stack, stackSh := (t.sh.getD {}).stack
    compact := t.compact, force := t.force, pc := t.pc, clause := t.clause, kind := k, barin := t.barin }

/-- The team stops for the host with a CODE; the status record is due (R294, R311). -/
def stopForHost (s : State) (code : Nat) (k : TrapKind) : State :=
  let t := s.cur
  let b := curBlock s
  { s with
    cur := { t with stop := some (trapState t k), status := .stopped code, clause := none, stalled := false, barin := none }
    statusq := s.statusq ++ [{ lid := b.lid, state := 2, code := code, team := t.idx, die := t.die, index := b.index,
                               cause := t.trapcause, pc := t.trappc, addr := t.trapaddr }] }

/-- Enter the handler (R310): trap state kept, m0 every live lane, the stack empty, identity layout with no force. -/
def enterHandler (s : State) (h : Nat) (k : TrapKind) : State :=
  modCur s (fun t =>
    { t with
      handler := some (trapState t k)
      r := { t.r.mset t.width 0 (liveM t) with stack := [] }
      sh := t.sh.map (fun r => { r.mset t.width 0 (liveM t) with stack := [] })
      compact := false, force := .free, clause := none, stalled := false, walks := [], barin := none, pc := h })

/-- The trap registers are written whole, so errors beneath them are gone (R361). -/
def dropTrapErrs (r : Regs) : Regs := if r.sbad.isEmpty then r else { r with sbad := r.sbad.filter (fun e => decide (e.1 < 80)) }

/-- The team as a trap leaves it before it is stopped or enters its handler: the trap registers are written and the marks of a stall are gone; a
barrier arrival whose wait a deferred fault cut short goes with the trap state (R189, R196). -/
def trapped (t : Team) (pc : Nat) (x : TrapInfo) (k : TrapKind) : Team :=
  { setTrapRegs t pc x with
    r := dropTrapErrs t.r, sh := t.sh.map dropTrapErrs, walks := [], granted := none, slept := false, slotwait := false
    barin := match k with | .deferred _ => t.barin | _ => none }

/-- Take a trap (R43, R310, R311): the trap registers, then the handler, or a stop for the host where there is none, under
FHOST, or inside the handler. -/
def takeTrap (s : State) (pc : Nat) (x : TrapInfo) (k : TrapKind) : State :=
  let s := modCur s (fun t => trapped t pc x k)
  let d := (curLaunch s).d
  if s.cur.handler.isSome then stopForHost s 0x22 k
  else if d.fhost && (x.cause == 9 || x.cause == 10) then stopForHost s 0x21 k
  else if d.handler = 0 then stopForHost s 0x20 k
  else enterHandler s d.handler k

/-! ## The clause's progress -/

/-- The stall marks of an instruction that has taken effect are cleared. -/
def clearWait (t : Team) : Team := { t with stalled := false, walks := [], granted := none, barin := none, slept := false, slotwait := false }

/-- The next instruction of the clause, or the clause's end (R72). -/
def advance (t : Team) : Team :=
  match t.clause with
  | none => t
  | some c =>
    if c.idx + 1 < c.words.length then { clearWait t with clause := some { c with idx := c.idx + 1 } }
    else { clearWait t with clause := none, pc := nextHdr c % 2 ^ 64 }

/-- The clause ends and the team's next header is x. -/
def jumpTo (t : Team) (x : Nat) : Team := { clearWait t with clause := none, pc := x % 2 ^ 64 }

/-- A stalled instruction releases its pipe (R301). -/
def stallTeam (t : Team) : Team := { t with stalled := true, clause := t.clause.map (fun c => { c with pipe := none }) }

/-- Return from a trap (R83, R122, R196, R221): m0, the stack and the layout come back, without the lanes that have died;
the clause continues at the instruction or after it, a deferred fault's observation point is met again. `redo` reissues a
deferred operation. -/
def restoreTrap (s : State) (x : TrapState) (replay : Bool) (redo : State → Op → State) : State :=
  let live (m : Mask) (t : Team) : Mask := m &&& ~~~ t.dead
  let fix (t : Team) (l : List DivEntry) : List DivEntry :=
    l.map (fun e => { e with saved := live e.saved t, pending := live e.pending t })
  let s := modCur s (fun t =>
    { t with
      r := { t.r.mset t.width 0 (live x.m0 t) with stack := fix t x.stack }
      sh := t.sh.map (fun r => { r.mset t.width 0 (live x.m0s t) with stack := fix t x.stackSh })
      compact := x.compact, force := x.force, pc := x.pc, status := .running, stalled := false, barin := x.barin
      clause := x.clause.map (fun c => { c with pipe := none }) })
  match x.kind with
  | .instr => if replay then s else modCur s advance
  | .clause => if replay then s else modCur s (fun t => { t with pc := (t.pc + 8) % 2 ^ 64 })
  | .deferred op => if replay then redo s op else s

/-! ## Lane death -/

/-- Clear lanes from m0 and from every stacked mask of a copy (R21). -/
def Regs.dropLanes (r : Regs) (w : Nat) (m : Mask) : Regs :=
  { r.mset w 0 (r.mget 0 &&& ~~~ m) with
    stack := r.stack.map (fun e => { e with saved := e.saved &&& ~~~ m, pending := e.pending &&& ~~~ m }) }

/-- Lanes of the current team die at an instruction (R21, R363, R366): one record of kind 0x02 for each. `own` holds the
lanes whose cause lay in the cell's own storage (R371). -/
def killLanes (s : State) (m : Mask) (pc : Nat) (own : Mask) : State :=
  let t := s.cur
  let new := m &&& liveM t
  let ls := lanesOf new t.width
  let s := modCur s (fun t =>
    { t with dead := t.dead ||| new, r := t.r.dropLanes t.width new, sh := t.sh.map (fun r => r.dropLanes t.width new)
             handler := t.handler.map (fun x => { x with m0 := x.m0 &&& ~~~ new
                                                         stack := x.stack.map (fun e => { e with saved := e.saved &&& ~~~ new, pending := e.pending &&& ~~~ new }) }) })
  let id := launchId s t.blk
  let s := modLaunch s (blockOf s t.blk).lid (fun l => { l with dead := min (2 ^ 32 - 1) (l.dead + ls.length) })
  let s := ls.foldl (fun s l =>
    let s := countFirst (emit s (srcDie t.die) { kind := 2, addr := pc, launch := id, info := l }) (srcDie t.die)
    if own.getLsbD l then countDeath s t.die (laneCell t l) else s) s
  if ls.isEmpty then s else countFound s (srcDie t.die)

/-- The live lanes that a cell runs: those whose death counts where the cause lay in that cell's storage (R371). -/
def lanesIn (t : Team) (ck : Nat) : Mask := maskOf ((lanesOf (liveM t) t.width).filter (fun l => ckey t.die (laneCell t l) == ck))

/-- Every live lane of the team dies (R364); `own` holds the lanes whose cause lay in their cell's own storage (R371). -/
def killTeam (s : State) (pc : Nat) (own : Mask := 0) : State := killLanes s (liveM s.cur) pc own

/-- Poison in a vault word that the team reads kills it: the deaths of the lanes in the word's own cell count there (R364, R371). -/
def killBy (s : State) (pc key : Nat) : State := killTeam s pc (lanesIn s.cur (key / 2 ^ 18))

/-! ## Errors of team state (R361, R364) -/

/-- The error of a word of team state is gone from a copy. -/
def healTeamWord (sh : Bool) (k : Nat) (t : Team) : Team :=
  let heal (r : Regs) : Regs := { r with sbad := NMap.set none r.sbad k none }
  if sh then { t with sh := t.sh.map heal } else { t with r := heal t.r }

/-- Whether an error of a word of team state is met in a copy, and the state after counting it: a corrected one leaves its record (R371). -/
def meetTeamWord (sh : Bool) (r : State × Bool) (k : Nat) : State × Bool :=
  let s := r.1
  match NMap.get none (if sh then (s.cur.sh.getD {}).sbad else s.cur.r.sbad) k with
  | none => r
  | some .corrected =>
    let s := emit (modCur s (healTeamWord sh k)) (srcDie s.cur.die) { kind := 1 }
    (countErr s s.cur.die s.cur.cell (regWord s.cur sh (teamWord k)) .corrected (lastRecord s (srcDie s.cur.die)), r.2)
  | some .uncorrectable =>
    (noteFound (modCur s (healTeamWord sh k)) { die := s.cur.die, cell := s.cur.cell, word := regWord s.cur sh (teamWord k) }, true)
  | some .counted => (modCur s (healTeamWord sh k), true)

/-- Team state is read: an uncorrectable word kills every live lane of the team (R364). None where nothing kills. -/
def readTeamState (s : State) (ks : List Nat) (pc : Nat) : State × Bool :=
  let (s, hit) := ks.foldl (meetTeamWord false) (s, false)
  if hit then (killTeam s pc (lanesIn s.cur (ckey s.cur.die s.cur.cell)), true) else (s, false)

/-- A shape-table entry is read: an uncorrectable one kills every live lane of the team (R361, R364). -/
def readShapeState (s : State) (k pc : Nat) : State × Bool :=
  let b := curBlock s
  match NMap.get none b.shbad k with
  | none => (s, false)
  | some e =>
    let s := modBlock s b.bid (fun b => { b with shbad := NMap.set none b.shbad k none })
    match e with
    | .corrected =>
      let s := emit s (srcDie b.die) { kind := 1 }
      (countErr s b.die b.cell (shapeWord b.bid k) .corrected (lastRecord s (srcDie b.die)), false)
    | .uncorrectable | .counted =>
      (killTeam (noteFound s { die := b.die, cell := b.cell, word := shapeWord b.bid k }) pc (lanesIn s.cur (ckey b.die b.cell)), true)

/-! ## Operand sources (R46, R87 to R89) -/

/-- A source field, of either width, with the number of bits of its inline constant. -/
structure SrcF where
  reg : Nat
  pat : Nat
  k   : Nat
  n   : Nat
deriving DecidableEq, Repr

def srcF (s : Src) : SrcF := ⟨s.reg.toNat, s.pat.toNat, s.k.toNat, 13⟩
def srcFC (s : SrcC) : SrcF := ⟨s.reg.toNat, s.pat.toNat, s.k.toNat, 11⟩

/-- The lane that lane l reads through a pattern in groups of g; none past the end of `sh` (R46). -/
def srcLane (g l : Nat) (f : SrcF) : Option Nat :=
  let b := l - l % g
  let i := l % g
  match f.pat with
  | 1 => some (b + (i + f.k) % g)
  | 2 => some (b + f.k)
  | 3 => some (b + (i ^^^ f.k))
  | 4 => some (b + (g - 1 - i))
  | 5 => if g ≤ i + f.k then none else some (b + (i + f.k))
  | _ => some l

/-- The inline constant c (R88). -/
def inlineC (f : SrcF) : Nat := if f.n = 13 then f.reg * 64 + f.k else f.reg * 16 + f.k

/-- The inline constant as a 32-bit word, by VR type code (R88). -/
def inline32 (ty : Nat) (f : SrcF) : Word :=
  let c := inlineC f
  if ty = 2 || ty = 3 then BitVec.ofNat 32 (c * 2 ^ (32 - f.n))
  else if ty = 6 || ty = 7 then let h := BitVec.ofNat 16 (c * 2 ^ (16 - f.n)); h ++ h
  else (BitVec.ofNat f.n c).signExtend 32

/-- The word that lane l reads for a 32-bit operand (R46, R88, R89). -/
def readOp32 (t : Team) (ty : Nat) (f : SrcF) (l : Nat) : Word :=
  if f.pat = 6 then inline32 ty f
  else if f.pat = 7 then (sreg t (f.reg % 64)).extractLsb' (if f.k % 2 = 1 then 32 else 0) 32
  else match srcLane t.group l f with
    | none => 0
    | some j => if isDead t j then 0 else vreg t f.reg j

/-- A read of lane l through a pattern meets a dead lane (R46). -/
def readsDead (t : Team) (f : SrcF) (l : Nat) : Bool :=
  decide (f.pat < 6) && (match srcLane t.group l f with | none => false | some j => isDead t j)

/-- DEADSRC after lanes read a source (R46). -/
def noteDead (t : Team) (ls : List Nat) (f : SrcF) : Team :=
  if ls.any (readsDead t f) then { t with deadsrc := true } else t

/-! ## Long-latency operations -/

/-- The flag that a flag-select bit selects in the clause in progress: 12 and above mean none (R79, R80). -/
def selFlag (s : State) (fs : Bool) : Nat :=
  match s.cur.clause with
  | none => 15
  | some c => if fs then c.setb else c.seta

/-- The counter of a flag. -/
def flagCount (t : Team) (f : Nat) : Nat := NMap.get 0 t.flags f

/-- An access that a short-latency instruction leaves to come joins the team's list: no flag counts it and no S bit waits for it (R78, R115). -/
def addAccess (s : State) (o : Op) : State :=
  let c := s.cur.clause.getD {}
  modCur s (fun t => { t with ops := t.ops ++ [{ o with id := t.nextOp, pc := instrPc c, hdr := c.hdr }], nextOp := t.nextOp + 1 })

/-- Issue an operation: it joins the team's list and raises its flag by one (R79). -/
def addOp (s : State) (fs : Bool) (o : Op) : State :=
  let f := selFlag s fs
  let c := s.cur.clause.getD {}
  modCur s (fun t =>
    let n := NMap.get 0 t.issued f + 1
    { t with
      ops := t.ops ++ [{ o with id := t.nextOp, pc := instrPc c, hdr := c.hdr, syn := c.syn, rm := t.rm.toNat
                                flag := if f < 12 then some f else none, seq := n
                                pseq := if t.sh.isSome then some (t.pseq - 1) else none }]
      nextOp := t.nextOp + 1
      flags := if f < 12 then NMap.modify 0 t.flags f (· + 1) else t.flags
      issued := if f < 12 then NMap.set 0 t.issued f n else t.issued })

/-- An operation completes: its flag falls by one and it leaves the list (R79). -/
def retireOp (t : Team) (o : Op) : Team :=
  { t with ops := t.ops.filter (fun p => p.id != o.id)
           flags := match o.flag with
             | some f => NMap.modify 0 t.flags f (· - 1)
             | none => t.flags }

/-- Change one operation of the current team. -/
def modOp (t : Team) (id : Nat) (f : Op → Op) : Team := { t with ops := t.ops.map (fun o => if o.id == id then f o else o) }

/-- The accesses with which an operation of these instructions issues: they mark a lane of a texture or ray operation, and nothing of an engine
operation. -/
def freshAcc (o : Op) : List Acc := if isEngine o.i then [] else o.acc

/-- Reissue a deferred operation with its captured operands; it keeps its place in the count of its flag, so that the observation point covers
it, and its walks read the tables anew (R221, R287). -/
def reissueIn (t : Team) (o : Op) : Team :=
  { t with
    ops := t.ops ++ [{ o with id := t.nextOp, started := false, kills := [], killAll := false, pois := [], pown := [], gave := [], walks := []
                              held := [], acc := freshAcc o }]
    nextOp := t.nextOp + 1
    flags := match o.flag with | some f => NMap.modify 0 t.flags f (· + 1) | none => t.flags }
def reissueOp (s : State) (o : Op) : State := modCur s (fun t => reissueIn t o)

/-- The engine operations of a cell's blocks that have not completed. -/
def cellEngines (s : State) (die cell : Nat) : Nat :=
  (((allTeams s).filter (fun t => t.die == die && t.cell == cell)).map (fun t => (t.ops.filter (fun o => isEngine o.i)).length)).sum

/-- The reissue of a deferred operation must wait: its flag stands at 63, or its cell's scoreboard is full (R79, R221, R222). -/
def replayFull (s : State) (o : Op) : Bool :=
  (match o.flag with | some f => decide (63 ≤ flagCount s.cur f) | none => false)
    || (isEngine o.i && decide (32 ≤ cellEngines s s.cur.die s.cur.cell))

/-- An own-form vault address (R35). -/
def ownForm (a : Nat) : Bool := decide (a < 2 ^ 31)

/-- A vault key of the block's own form moves with its block, from one cell to another (R35, R309). -/
def moveKey (old new : Nat) (own : Bool) (k : Nat) : Nat := if own then k + new * 2 ^ 18 - old * 2 ^ 18 else k

/-- The same for the ranges that an engine operation holds. -/
def moveRanges (old new : Nat) : List Bool → List Nat → List Nat
  | f :: fs, w :: k :: n :: t => w :: moveKey old new f k :: n :: moveRanges old new fs t
  | _, l => l

/-- An operation that has not been reissued yet, in the cell to which its block has moved: what it names by the block's own form lies there. -/
def moveOp (old new : Nat) (o : Op) : Op :=
  match o.forms, o.arg with
  | f :: fs, n :: sw :: a :: b :: held =>
    { o with arg := n :: (if sw = 0 then 0 else moveKey old new f sw) :: moveKey old new (fs.getD 0 false) a :: moveKey old new (fs.getD 1 false) b
                      :: moveRanges old new fs held }
  | _, _ => o

/-- A wait on flag f down to n covers an operation (R81): n is at most the count of operations issued on the flag after it. -/
def waitCovers (t : Team) (f n : Nat) (o : Op) : Bool := o.flag == some f && decide (n + o.seq ≤ NMap.get 0 t.issued f)

/-- A deferred fault: the operation releases its flag and the trap stays pending (R196, R221). -/
def deferFault (s : State) (o : Op) (cause detail addr : Nat) (lane : Option Nat) (replay : Bool) : State :=
  modCur s (fun t => { retireOp t o with
    deferred := t.deferred ++ [{ op := o, cause := cause, detail := detail, addr := addr, lane := lane, replay := replay }] })

/-- The pending deferred fault of earliest issue among those that an observation point covers (R196). -/
def firstDeferred (t : Team) (cov : Op → Bool) : Option DFault :=
  (t.deferred.filter (fun d => cov d.op)).foldl (fun m d =>
    match m with
    | none => some d
    | some e => if d.op.id < e.op.id then some d else some e) none

/-- Take a deferred fault at an observation point (R196, R221). -/
def takeDeferred (s : State) (d : DFault) : State :=
  let s := modCur s (fun t => { t with deferred := t.deferred.filter (fun e => e.op.id != d.op.id) })
  takeTrap s d.op.pc { cause := d.cause, detail := d.detail, addr := d.addr, lane := d.lane, replay := d.replay } (.deferred d.op)

/-! ## Register storage: absent granules, errors, poison -/

/-- The key of granule (register, row). -/
def gkey (n y : Nat) : Nat := n * 32 + y

/-- Poison the 32 lane words of a granule of a copy. -/
def poisonRow (n y : Nat) (r : Regs) : Regs := (List.range 32).foldl (fun r c => r.vpoison n (32 * y + c) true) r

/-- Fill an absent granule from the save area; an uncorrectable error there poisons its 32 lane words, in both copies (R33, R368). -/
def fillGranule (s : State) (g : Nat) : State :=
  if !NMap.get false s.cur.absent g then s
  else
    let bad := NMap.get false s.cur.savebad g
    let n := g / 32; let y := g % 32
    let s := modCur s (fun t =>
      { t with absent := NMap.set false t.absent g false, savebad := NMap.set false t.savebad g false
               r := if bad then poisonRow n y t.r else t.r
               sh := if bad then t.sh.map (poisonRow n y) else t.sh })
    if bad then noteFound s { die := s.cur.die, cell := laneCell s.cur (32 * y), word := regWord s.cur false (vkey n (32 * y)) } else s

/-- Find the error of one lane word of a copy (R361, R367, R371). -/
def findWord (r : Regs) (k : Nat) : Regs × Option Err :=
  match NMap.get none r.vbad k with
  | none => (r, none)
  | some e => ({ r with
      vbad := NMap.set none r.vbad k none
      vpois := if e = .corrected then r.vpois else NMap.set false r.vpois k true
      vown := if e = .corrected then r.vown else NMap.set false r.vown k true }, some e)

/-- Count an error found in a lane word; a corrected one leaves its record (R371). -/
def foundWord (s : State) (shadow : Bool) (k : Nat) : Option Err → State
  | none | some .counted => s
  | some .corrected =>
    let s := emit s (srcDie s.cur.die) { kind := 1 }
    countErr s s.cur.die (laneCell s.cur (k % 1024)) (regWord s.cur shadow k) .corrected (lastRecord s (srcDie s.cur.die))
  | some .uncorrectable => noteFound s { die := s.cur.die, cell := laneCell s.cur (k % 1024), word := regWord s.cur shadow k }

/-- Read a granule of both copies: errors in its lane words are found, and an uncorrectable one poisons its word (R361, R367). -/
def readGranule (s : State) (g : Nat) : State :=
  let s := fillGranule s g
  if s.cur.r.vbad.isEmpty && (s.cur.sh.getD {}).vbad.isEmpty then s
  else (List.range 32).foldl (fun s c =>
    let k := vkey (g / 32) (32 * (g % 32) + c)
    let (r, e) := findWord s.cur.r k
    let s := foundWord (modCur s (fun t => { t with r := r })) false k e
    match s.cur.sh with
    | none => s
    | some h =>
      let (h, e) := findWord h k
      foundWord (modCur s (fun t => { t with sh := some h })) true k e) s

/-- The lane words (receiving lane, register, source lane) that a source gives the lanes of a list. -/
def readsOf (t : Team) (ls : List Nat) (f : SrcF) (w64 : Bool) : List (Nat × Nat × Nat) :=
  if 6 ≤ f.pat then []
  else ls.flatMap (fun l => match srcLane t.group l f with
    | none => []
    | some j => if isDead t j then [] else if w64 then [(l, f.reg, j), (l, f.reg + 1, j)] else [(l, f.reg, j)])

/-- The same for a register read at the lane itself, n to n + k − 1. -/
def readsOwn (ls : List Nat) (n k : Nat) : List (Nat × Nat × Nat) :=
  ls.flatMap (fun l => (List.range k).map (fun i => (l, n + i, l)))

/-- Records of kind 0x03 for words that became latent (R367). -/
def noteLatent (s : State) (before : NMap Bool) (got : List Nat) : State :=
  let new := s.cur.r.vpois.filter (fun e => NMap.get false s.cur.r.vpois e.1 && !NMap.get false before e.1 && !got.contains e.1)
  new.foldl (fun s e =>
    countFirst (emit (modCur s (fun t => { t with r := { t.r with vlat := NMap.set false t.r.vlat e.1 true } }))
      (srcDie s.cur.die) { kind := 3, launch := launchId s s.cur.blk, info := e.1 % 1024 }) (srcDie s.cur.die)) s

/-- What reading the lane words gave: the lanes that consume poison, and those of them whose poison lay in the cell's own
storage (R363, R371). -/
structure Eaten where
  lanes : Mask
  own   : Mask
deriving DecidableEq, Repr

/-- Read lane words, each for the lane it names: absent granules are filled, errors are found, words that no lane receives
become latent, and the lanes that receive a poisoned word consume it (R33, R363, R367). -/
def consume (s : State) (rd : List (Nat × Nat × Nat)) : Eaten × State :=
  let t := s.cur
  if t.r.vpois.isEmpty && t.r.vbad.isEmpty && t.absent.isEmpty && (t.sh.getD {}).vbad.isEmpty then (⟨0, 0⟩, s)
  else
    let before := t.r.vpois
    let s := (distinct (rd.map (fun x => gkey x.2.1 (x.2.2 / 32)))).foldl readGranule s
    let s := noteLatent s before (rd.map (fun x => vkey x.2.1 x.2.2))
    let hit := rd.filter (fun x => NMap.get false s.cur.r.vpois (vkey x.2.1 x.2.2))
    (⟨maskOf (hit.map (·.1)),
      maskOf ((hit.filter (fun x => NMap.get false s.cur.r.vown (vkey x.2.1 x.2.2))).map (·.1))⟩, s)

/-! ## Ends of blocks and launches -/

/-- A team leaves its place: its queue entries go, and its cell's resources with it (R121). -/
def dropTeam (s : State) (tid : Nat) : State :=
  { s with
    cur := if s.cur.tid == tid then {} else s.cur
    teams := s.teams.filter (fun t => t.tid != tid)
    qwait := s.qwait.filter (fun q => q.2.1 != tid)
    cells := s.cells.map (fun e => (e.1, { e.2 with regq := e.2.regq.filter (fun q => q.1 != tid)
                                                    wideq := e.2.wideq.filter (fun q => q.1 != tid) })) }

/-- A block and its teams are gone. -/
def removeBlock (s : State) (bid : Nat) : State :=
  let s := (teamsOf s bid).foldl (fun s t => dropTeam s t.tid) s
  { s with blocks := s.blocks.filter (fun b => b.bid != bid) }

/-- A launch stops being one of its dies' active launches (R296). -/
def deactivate (s : State) (lid : Nat) : State :=
  { s with dies := s.dies.map (fun e => (e.1, { e.2 with active := e.2.active.filter (· != lid) })) }

/-- The launch aborts (R294, R311): every block of it is discarded, and the status record is due. -/
def abortLaunch (s : State) (lid code : Nat) : State :=
  match launch? s lid with
  | none => s
  | some l =>
    if l.status != .active then s
    else
      let s := (s.blocks.filter (fun b => b.lid == lid)).foldl (fun s b => removeBlock s b.bid) s
      let s := deactivate (modLaunch s lid (fun l => { l with status := .aborted code })) lid
      { s with statusq := s.statusq ++ [{ lid := lid, state := 3, code := code }] }

end Sys2Proof.Machine
end

