-- ==== Sys2Proof/Machine/Operands.lean ====
section
/-! DEFINITION. Operand forms: 64-bit and float sources (R87 to R90), sign inversion (R86), the addresses of MEM
instructions (R161). -/

namespace Sys2Proof.Machine

/-- The 64-bit inline constant of a type (R88). -/
def inline64 (ty : Nat) (f : SrcF) : DWord :=
  if ty = 3 then f32to64 (inline32 2 f) else (BitVec.ofNat f.n (inlineC f)).signExtend 64

/-- The value that lane l reads for a 64-bit operand (R28, R46, R88, R89). -/
def readOp64 (t : Team) (ty : Nat) (f : SrcF) (l : Nat) : DWord :=
  if f.pat = 6 then inline64 ty f
  else if f.pat = 7 then sreg t (f.reg % 64)
  else match srcLane t.group l f with
    | none => 0
    | some j => if isDead t j then 0 else vreg64 t f.reg j

/-- The bits that lane l reads for an operand of a VR type, at the type's width. -/
def readOp (t : Team) (ty : Nat) (f : SrcF) (l : Nat) : DWord :=
  if ty64 ty then readOp64 t ty f l else (readOp32 t ty f l).setWidth 64

/-- Width in bits of a VR type's element: 16 for the packed types. -/
def tyBits (ty : Nat) : Nat := if ty64 ty then 64 else 32

/-- The integer that bits of a type stand for, by its signedness (R139). -/
def intVal (ty : Nat) (x : DWord) : Int :=
  if ty64 ty then (if tySigned ty then x.toInt else x.toNat)
  else (if tySigned ty then (x.setWidth 32).toInt else (x.setWidth 32).toNat)

/-- The range of an integer type. -/
def tyLo (ty : Nat) : Int := if tySigned ty then -(2 ^ (tyBits ty - 1)) else 0
def tyHi (ty : Nat) : Int := if tySigned ty then 2 ^ (tyBits ty - 1) - 1 else 2 ^ tyBits ty - 1

/-- The float format of a VR type. -/
def tyFmt (ty : Nat) : Fmt := if ty = 2 then fmtF32 else if ty = 3 then fmtF64 else if ty = 6 then fmtF16 else fmtBF16

/-- The element encodings of a float type: one, or two of 16 bits (R53). -/
def elems (ty : Nat) (x : DWord) : List Nat :=
  if ty = 3 then [x.toNat] else if ty = 2 then [x.toNat % 2 ^ 32] else [x.toNat % 65536, x.toNat / 65536 % 65536]

/-- Put element results back. -/
def packElems (l : List Nat) : DWord :=
  match l with
  | [a] => BitVec.ofNat 64 a
  | [a, b] => BitVec.ofNat 64 (b % 65536 * 65536 + a % 65536)
  | _ => 0

/-- Flip the sign bit of each element (R86). -/
def invertSign (ty : Nat) (x : DWord) : DWord :=
  if ty = 3 then x ^^^ BitVec.ofNat 64 (2 ^ 63) else if ty = 2 then x ^^^ 0x80000000 else x ^^^ 0x80008000

/-- Write a result of a type into lane l: the pair for a 64-bit type. -/
def writeTy (t : Team) (ty : Nat) (vd l : Nat) (x : DWord) : Team :=
  if ty64 ty then setVreg64 t vd l x else setVreg t vd l (x.setWidth 32)

/-! ## Addresses -/

/-- The signed displacement. -/
def dispOf (f : MEM) : Int := f.disp.toInt

/-- a(L) of a global access of n bytes (R161). -/
def laneAddr (t : Team) (f : MEM) (n l : Nat) : Nat :=
  ((wrap 64 ((sreg t f.base.toNat).toNat
    + (if f.ox then (vreg t f.voff.toNat l).toInt else ((n * l : Nat) : Int)) + dispOf f)).toNat)

/-- a(L) of a vault access of n bytes: the base's low 32 bits, wrapped to 32 (R161). -/
def laneVaddr (t : Team) (f : MEM) (n l : Nat) : Nat :=
  ((wrap 32 (((sreg t f.base.toNat).setWidth 32).toNat
    + (if f.ox then (vreg t f.voff.toNat l).toInt else ((n * l : Nat) : Int)) + dispOf f)).toNat)

/-- The team's own address of a global access (R161). -/
def teamAddr (t : Team) (f : MEM) : Nat := ((wrap 64 ((sreg t f.base.toNat).toNat + dispOf f)).toNat)

/-- The team's own address of a vault access. -/
def teamVaddr (t : Team) (f : MEM) : Nat := ((wrap 32 (((sreg t f.base.toNat).setWidth 32).toNat + dispOf f)).toNat)

/-! ## Vault addresses (R35, R36) -/

/-- The logical cell stands on a cluster-column that the die still has (R36, R348). -/
def cellPresent (s : State) (die cell : Nat) : Bool :=
  cellLive s die cell && decide (cell % 72 / 2 < ((List.range 38).filter (fun x => !(dieOf s die).colret.getLsbD x)).length)

/-- The key of n vault bytes at a vault address, for an access by a block from a cell; none: Vault Range (R36). -/
def vaultKey (s : State) (b : Block) (die cell a n : Nat) : Option Nat :=
  if a < 2 ^ 31 then
    if 256 * b.vbase ≤ a ∧ a + n ≤ 256 * (b.vbase + b.vsize) ∧ a + n ≤ 196608 then some (vltKey die cell a) else none
  else
    let c := a / 2 ^ 18 % 2 ^ 13
    let o := a % 2 ^ 18
    if cellPresent s die c ∧ o + n ≤ 196608 then some (vltKey die c o) else none

/-- The same for the current team as a whole: the left cell's vault (R36). -/
def teamVault (s : State) (a n : Nat) : Option Nat := vaultKey s (curBlock s) s.cur.die s.cur.cell a n

/-- The same for a lane: the vault beneath the cell that runs it. -/
def laneVault (s : State) (l a n : Nat) : Option Nat := vaultKey s (curBlock s) s.cur.die (laneCell s.cur l) a n

end Sys2Proof.Machine
end

