-- ==== Sys2Proof/Machine/Protect.lean ====
section
/-! DEFINITION. Protected mode (R372 to R378): what the two copies of a compared instruction are compared on, a mismatch,
the re-run log, suppression during a re-run, and errors found in one copy only. -/

namespace Sys2Proof.Machine

/-- The predicate field of an instruction that has one. -/
def predField : Instr → Nat
  | .gOut f => f.pred.toNat
  | _ => 0

/-- First lane of the group that owns a tile: 0–7 accumulator, 8–9 wide. -/
def tileBase (t : Team) (td : Nat) : Nat :=
  if td < 8 then ((NMap.get none t.r.tile td).getD {}).base else ((NMap.get none t.r.wide (td - 8)).getD {}).base

/-- The rows of a tile whose owning lane is in a mask and lives (R192), and in a pixel block carries a fragment (R338). -/
def rowSet (t : Team) (base : Nat) (m : Mask) : List Nat :=
  (List.range 16).filter (fun i => m.getLsbD (base + i) && decide (base + i < t.width) && !isDead t (base + i) && !t.nofrag.getLsbD (base + i))

/-- The address of a lane's access, or 0 where the instruction has none (R373, R377). -/
def cmpAddr (i : Instr) (t : Team) (l : Nat) : Nat :=
  match i with
  | .st f => laneAddr t f (memBytes f.width.toNat) l
  | .sts f => laneVaddr t f (memBytes f.width.toNat) l
  | .aAdd f | .aMin f | .aMax f | .aAnd f | .aOr f | .aXor f | .aXchg f | .aInc f | .aCas f | .aCasv f | .aFadd f =>
    laneAddr t f (if f.width == 3 || f.width == 6 || f.width == 1 then 8 else 4) l
  | _ => 0

/-- The data or operand of a lane (R373): of a store the bytes that it stores, of an instruction that acts once for the team those of L0. -/
def cmpData (i : Instr) (t : Team) (l : Nat) : List Nat :=
  let words := (dataReads 0 i).map (fun n => (vreg t n l).toNat)
  let first := (lanesOf (execM t 0) t.width).head? == some l
  match i with
  | .st f | .sts f => match f.width.toNat with
    | 0 => words.map (· % 2 ^ 8)
    | 1 => words.map (· % 2 ^ 16)
    | _ => words
  | .swArm _ | .swAdd _ | .qInit _ => if first then words else []
  | .qPush _ => if first then words.map (· % 2 ^ 16) else []
  | _ => words

/-- The values of a copy that a compared instruction is compared on (R373), for the team and for one lane: the lane's active bit, and its address
and data where the copy has it active. -/
def cmpTeam (i : Instr) (t : Team) : List Nat :=
  ((encode i).getD 0).toNat :: (execM t (predField i)).toNat :: (scalarReads i).map (fun n => (sreg t n).toNat)
def cmpLane (i : Instr) (t : Team) (l : Nat) : List Nat :=
  if (execM t (predField i)).getLsbD l then 1 :: cmpAddr i t l :: cmpData i t l else [0]
/-- The tile elements of a compared tile instruction: those of its row set. -/
def cmpTiles (i : Instr) (t : Team) : List Nat :=
  match i with
  | .mxSt f | .mxRc f | .mxBnd f =>
    let rows := rowSet t (tileBase t f.td.toNat) (mreg t 0)
    if f.td.toNat < 8 then match NMap.get none t.r.tile f.td.toNat with
      | some x => (x.el.filter (fun e => rows.contains (e.1 / 16))).flatMap (fun e => [e.1, e.2.toNat])
      | none => []
    else match NMap.get none t.r.wide (f.td.toNat - 8) with
      | some x => (x.el.filter (fun e => rows.contains (e.1 / 16))).flatMap (fun e =>
          [e.1, e.2.v.toNat, e.2.z.toNat, e.2.spec.toNat, if e.2.sticky then 1 else 0, if e.2.zneg then 1 else 0, e.2.bound.sig, e.2.bound.exp.toNat,
            (-e.2.bound.exp).toNat])
      | none => []
  | _ => []

/-- All that one copy shows, over every visible lane, so that two candidates have one layout whichever lanes are active (R373, R375). -/
def cmpAll (i : Instr) (t : Team) : List Nat := cmpTeam i t ++ (List.range t.width).flatMap (cmpLane i t) ++ cmpTiles i t

/-- The shadow copy as a team. -/
def shadow (t : Team) (h : Regs) : Team := { t with r := h, sh := none }

/-- The effect of a compared instruction lies inside the block's own vault allocation or its own barriers (R375). -/
def insideOwn (i : Instr) (t : Team) : Bool :=
  let v (n : Nat) : Bool := ownForm ((sreg t n).toNat % 2 ^ 32)
  let sw (n : Nat) : Bool := n == 63 || v n
  match i with
  | .sts f => (lanesOf (execM t 0) t.width).all (fun l => ownForm (laneVaddr t f (memBytes f.width.toNat) l))
  | .swArm f | .swAdd f | .qInit f | .qPush f | .qPop f => ownForm (teamVaddr t f)
  | .bar _ | .barArr _ => true
  | .cp f => f.mod != 1 && v f.sd.toNat && sw f.sw.toNat
  | .cp2d f => f.mod == 0 && v f.sd.toNat && sw f.sw.toNat
  | .skimG f => v f.sd.toNat && sw f.sw.toNat
  | .mxSt f => f.mod == 1 && v f.sa.toNat
  | .mxRc f => v f.sa.toNat && (f.imm == 0 || v f.sb.toNat)
  | .mxBnd f => f.imm == 0 || v f.sb.toNat
  | .mxSlice f => v f.sb.toNat
  | _ => false

/-- The blocks that re-run with a block: those of its gang (R375). -/
def gangOf (s : State) (bid : Nat) : List Nat :=
  let b := blockOf s bid
  (s.blocks.filter (fun c => c.lid == b.lid && c.gang == b.gang)).map (·.bid)

/-- The re-run log takes at most this many entries (R374). -/
def logLimit : Nat := 16384

/-- A mismatch of the current team (R375 to R377): the block stops for a re-run, or the team takes Protected Mismatch. -/
def mismatch (s : State) (h : Option HeldCmp) (lane : Option Nat) (addr : Nat) : Res :=
  let b := curBlock s
  let s := emit s (srcDie s.cur.die) { kind := 8, launch := launchId s s.cur.blk }
  if logLimit ≤ b.nlog then .trap s { cause := 0x13, detail := 1, addr := addr, lane := lane }
  else if 3 ≤ b.reruns then .trap s { cause := 0x13, detail := 2, addr := addr, lane := lane }
  else
    let gang := gangOf s b.bid
    let s := { s with blocks := s.blocks.map (fun c =>
      if gang.contains c.bid then { c with wantrun := true, held := if c.bid = b.bid then (c.held <|> h) else c.held } else c) }
    .leave (modCur s (fun t => { stallTeam t with status := .held }))

/-- A protected block is uncorrectable (R375): its launch aborts with CODE 0x11. -/
def uncorrectable (s : State) : Res :=
  let s := emit s (srcDie s.cur.die) { kind := 9, launch := launchId s s.cur.blk }
  .leave (abortLaunch s (curBlock s).lid 0x11)

/-- The result that the log holds for a suppressed instruction is delivered to both copies (R374, R375). -/
def fromLog (s : State) (n : Nat) : State :=
  match ((curBlock s).log.find? (fun e => e.1 == s.cur.idx && e.2.1 == n)) with
  | none => s
  | some (_, _, ws) =>
    modCur s (deliverRegs (fun r => ws.foldl (fun r w =>
      if w.2 < 2 ^ 32 then r.vset (w.1 / 1024) (w.1 % 1024) (BitVec.ofNat 32 w.2) else r.vpoison (w.1 / 1024) (w.1 % 1024) false) r))

/-- Log what a compared instruction delivered (R374). -/
def toLog (s : State) (n : Nat) (ws : List (Nat × Nat)) (lanes : Nat) : State :=
  modBlock s s.cur.blk (fun b =>
    if b.log.any (fun e => e.1 == s.cur.idx && e.2.1 == n) then b
    else { b with log := if b.nlog + lanes ≤ logLimit then b.log ++ [(s.cur.idx, n, ws)] else b.log
                  nlog := min logLimit (b.nlog + lanes) })

/-- Run a compared instruction (R373 to R375): hold it, suppress it, or let it take effect. The candidates of a held one stay until its effect is
whole, so that one that stalls or traps is compared with them again when it is reissued. -/
def protect (i : Instr) (s : State) (eff : State → Res) : Res :=
  match s.cur.sh with
  | none => eff s
  | some h =>
    let t := s.cur
    let u := shadow t h
    let p := cmpAll i t
    let q := cmpAll i u
    let b := curBlock s
    let here := match b.held with
      | some c => c.team == t.idx && c.seq == t.pseq
      | none => false
    if p != q then
      if here then uncorrectable s
      else
        let lane := ((List.range t.width).filter (fun l => cmpLane i t l != cmpLane i u l)).head?
        mismatch s (some { team := t.idx, seq := t.pseq, p := p, h := q }) lane (match lane with | some l => cmpAddr i t l | none => 0)
    else if here && !(match b.held with | some c => c.p == p || c.h == p | none => true) then uncorrectable s
    else
      let passed (s : State) : State := if here then modBlock s t.blk (fun b => { b with held := none }) else s
      let n := t.pseq
      let s := modCur s (fun t => { t with pseq := n + 1 })
      if !here && (match t.rerun with | some k => decide (n < k) | none => false) && !insideOwn i t then .done (fromLog s n)
      else match eff s with
        | .stall s' => .stall (modCur s' (fun t => { t with pseq := n }))
        | .trap s' x => .trap (modCur s' (fun t => { t with pseq := n })) x
        | .done s' => .done (passed s')
        | .goto s' x => .goto (passed s') x
        | .leave s' => .leave (passed s')

/-- The rows that a read of a register for lanes may touch: those of the lanes' groups (R46). -/
def rowsRead (t : Team) (m : Mask) : List Nat :=
  (distinct ((lanesOf m t.width).flatMap (fun l =>
    let b := l - l % t.group
    [b / 32, (b + t.group - 1) / 32])))

/-- The errors of a tile's elements: an accumulator tile below 8, else a wide tile. -/
def tileErrs (r : Regs) (td : Nat) : NMap (Option Err) :=
  if td < 8 then ((NMap.get none r.tile td).getD {}).bad else ((NMap.get none r.wide (td - 8)).getD {}).bad

/-- The keys of team state that an instruction of a team reads, the remapping table among them (R24, R364). -/
def stateReads (t : Team) (i : Instr) : List Nat := teamReads i ++ (if readsRemap t i then [73] else [])

/-- An uncorrectable error met in a copy of a protected team: its cell, its code word, and whether it is met for the first time (R371). -/
structure FoundErr where
  cell : Nat
  word : Nat
  new  : Bool
deriving DecidableEq, Repr

/-- The uncorrectable errors of a map, with whether each is still uncounted. -/
def lostIn (m : NMap (Option Err)) : List (Nat × Bool) :=
  m.filterMap (fun e => match e.2 with
    | some .uncorrectable => some (e.1, true)
    | some .counted => some (e.1, false)
    | _ => none)

/-- The code words with an uncorrectable error that an instruction reads in one copy of a team of a stage (R361, R376). -/
def errorsIn (stage : Nat) (i : Instr) (t : Team) (sh : Bool) : List FoundErr :=
  let ks := stateReads t i
  let vs := (vectorReads stage i).flatMap (fun n => (rowsRead t (execM t 0)).flatMap (fun y => (List.range 32).map (fun c => vkey n (32 * y + c))))
  ((lostIn t.r.sbad).filter (fun e => ks.contains e.1)).map (fun e => ⟨t.cell, regWord t sh (teamWord e.1), e.2⟩)
  ++ (chk stage i).tiles.flatMap (fun td => (lostIn (tileErrs t.r td)).map (fun e =>
      ⟨laneCell t (tileBase t td), regWord t sh (tileWord td e.1), e.2⟩))
  ++ (if t.r.vbad.isEmpty then [] else ((lostIn t.r.vbad).filter (fun e => vs.contains e.1)).map (fun e =>
      ⟨laneCell t (e.1 % 1024), regWord t sh e.1, e.2⟩))

/-- The listed code words of a copy have been counted. -/
def markCounted (t : Team) (sh : Bool) (ws : List Nat) (r : Regs) : Regs :=
  let mark (word : Nat → Nat) (m : NMap (Option Err)) : NMap (Option Err) :=
    m.map (fun e => if e.2 = some .uncorrectable ∧ ws.contains (regWord t sh (word e.1)) then (e.1, some .counted) else e)
  { r with sbad := mark teamWord r.sbad, vbad := mark id r.vbad
           tile := r.tile.map (fun x => (x.1, x.2.map (fun y => { y with bad := mark (tileWord x.1) y.bad })))
           wide := r.wide.map (fun x => (x.1, x.2.map (fun y => { y with bad := mark (tileWord (8 + x.1)) y.bad }))) }

/-- Errors of one copy of a protected team are found (R376): each counts once, by the record of the mismatch (R371), and the block re-runs with
nothing held. Where the team takes Protected Mismatch instead, the errors stay where they are. -/
def mismatchErrs (s : State) (l : List FoundErr) : Res :=
  let count (s : State) : State :=
    (l.filter (·.new)).foldl (fun s e => countErr s s.cur.die e.cell e.word .uncorrectable (lastRecord s (srcDie s.cur.die))) s
  let ws := l.map (·.word)
  match mismatch s none none 0 with
  | .trap s x => .trap (count (modCur s (fun t => { t with r := markCounted t false ws t.r, sh := t.sh.map (markCounted t true ws) }))) x
  | .leave s => .leave (count s)
  | r => r

end Sys2Proof.Machine
end

