-- ==== Sys2Proof/Machine/Issue.lean ====
section
/-! DEFINITION. Issuing an instruction: the checks of R99 in order, then the effect, then the clause's progress. -/

namespace Sys2Proof.Machine

/-- Illegal Instruction with the encoding in TRAPADDR (R43, R99). -/
def illegal (detail : Nat) (w : DWord) : TrapInfo := { cause := 1, detail := detail, addr := w.toNat }

/-- The DETAIL of checks 2 to 6 of R99, in order: class, privilege (R245; the class first, log 86), reserved, illegal, misaligned, no flag (R80). -/
def issueIllegal (s : State) (i : Instr) (c : Clause) : Option Nat :=
  let stage := (curLaunch s).d.stage
  let k := chk stage i
  if !admits c.cls i then some 3
  else if privileged i && !(curLaunch s).d.priv then some 7
  else match staticFault stage i with
    | some d => some d
    | none => match k.fs with
      | some fs => if k.dest && decide (12 ≤ (if fs then c.setb else c.seta)) then some 6 else none
      | none => none

/-- The team holds tile t: 0–7 accumulator, 8–9 wide (R32). -/
def holdsTile (t : Team) (n : Nat) : Bool :=
  if n < 8 then (NMap.get none t.r.tile n).isSome else (NMap.get none t.r.wide (n - 8)).isSome

/-- Checks 7 to 9 of R99 that the named registers, tiles and patterns decide (R29, R32, R87); a pattern comes before the other
causes of check 9 (log 87). -/
def issueOther (t : Team) (k : Chk) : Option TrapInfo :=
  if k.regs.any (fun n => decide (t.xblk < n / 16)) then some { cause := 4 }
  else if k.tiles.any (fun n => !holdsTile t n) then some { cause := 0xF, detail := 1 }
  else if k.pats.any (fun p => (p.1 == 2 || p.1 == 3 || p.1 == 5) && decide (t.group ≤ p.2)) then some { cause := 3, detail := 5 }
  else none

/-- Every lane of the team is dead: it issues nothing more and ends as by `exit` (R127). -/
def allDead (t : Team) : Bool := t.dead != 0 && liveM t == 0

/-- The team runs, a lane of it lives, and a clause is in progress. -/
def running (s : State) : Option Clause := if s.cur.status = .running ∧ allDead s.cur = false then s.cur.clause else none

/-- At a clause boundary the lanes that a lost member has doomed die (R365). -/
def boundary (s : State) : State :=
  if s.cur.clause.isSome || s.cur.dying.isEmpty then s
  else
    let d := s.cur.dying
    d.foldl (fun s e => killLanes s (maskOf [e.1]) (e.2.getD 0) 0) (modCur s (fun t => { t with dying := [] }))

/-- Put an instruction's outcome into the machine. -/
def finish (c : Clause) : Res → State
  | .done s => boundary (modCur s advance)
  | .goto s x => boundary (modCur s (fun t => jumpTo t x))
  | .trap s x => takeTrap s (instrPc c) x .instr
  | .stall s => modCur s stallTeam
  | .leave s => s

/-- The effect of an instruction that the checks let through. Team state that is found uncorrectable kills every live lane of
the team (R364), in a protected team it is a mismatch (R376); a compared instruction of a protected team is compared (R373). -/
def perform (i : Instr) (s : State) (eff : State → Res) : Res :=
  match s.cur.sh with
  | none =>
    if s.cur.r.sbad.isEmpty then eff s
    else
      let (s, dead) := readTeamState s (stateReads s.cur i) (instrPc (s.cur.clause.getD {}))
      if dead then .done s else eff s
  | some h =>
    let stage := (curLaunch s).d.stage
    let l := errorsIn stage i s.cur false ++ errorsIn stage i (shadow s.cur h) true
    if !l.isEmpty then mismatchErrs s l
    else
      let ks := stateReads s.cur i
      let s := if s.cur.r.sbad.isEmpty && h.sbad.isEmpty then s
        else (ks.foldl (meetTeamWord true) (ks.foldl (meetTeamWord false) (s, false))).1
      if compared i then protect i s eff else eff s

/-- The instruction reads or writes a scalar register whose `s.ld` has not brought its value yet (R78, R301). -/
def interlocked (t : Team) (i : Instr) : Bool :=
  t.ops.any (fun o => match o.i with
    | .sLd _ f => f.sd != 63 && (scalarReads i ++ scalarWrites i).contains f.sd.toNat
    | _ => false)

/-- Issue an instruction of the current team: the checks of R99 in their order, the interlock on the result of an `s.ld`, then its effect. A team
that does not run, or has no clause in progress, issues nothing. -/
def issue (i : Instr) (s : State) (eff : State → Res) : State :=
  match running s with
  | none => s
  | some c =>
    match issueIllegal s i c with
    | some d => takeTrap s (instrPc c) (illegal d ((encode i).getD 0)) .instr
    | none =>
      let k := chk (curLaunch s).d.stage i
      match issueOther s.cur k with
      | some x => takeTrap s (instrPc c) x .instr
      | none =>
        if interlocked s.cur i then modCur s stallTeam
        else match k.fs with
        | some fs =>
          if selFlag s fs < 12 && decide (63 ≤ flagCount s.cur (selFlag s fs)) then modCur s stallTeam
          else finish c (perform i s eff)
        | none => finish c (perform i s eff)

/-- The clause in progress, or an empty one. -/
def clauseOf (s : State) : Clause := s.cur.clause.getD {}

/-- Give a meaning's next state. -/
abbrev ok (s : State) : Host.Outcome State Fault Refusal := .next s


end Sys2Proof.Machine
end

