-- ==== Sys2Proof/Machine/Resources.lean ====
section
/-! DEFINITION. The resources of a cell: granules (R30), tiles (R190), resident teams; the register queue (R131, R132). -/

namespace Sys2Proof.Machine

/-- A block that occupies its cells (R296, R306): resident, with its teams running, stopped or ended. -/
def blockIn (b : Block) (die cell : Nat) : Bool :=
  b.status == .resident && b.die == die && (b.cell == cell || (b.pair && b.cell + 1 == cell))

/-- The teams of the blocks resident in a cell, ended ones included: the base blocks of a block's teams return with the block. -/
def teamsIn (s : State) (die cell : Nat) : List Team :=
  (allTeams s).filter (fun t => s.blocks.any (fun b => b.bid == t.blk && blockIn b die cell))

/-- Granules of one register block of a team in each cell that it occupies (R18, R30). -/
def granulesPer (t : Team) : Nat :=
  let nr := (if t.prot then 2 * t.width else t.width) / 32
  if t.pair then 8 * nr else 16 * nr

/-- Granules that base blocks take in a cell. -/
def baseGranules (s : State) (die cell : Nat) : Nat := ((teamsIn s die cell).map granulesPer).sum

/-- Granules in use in a cell. -/
def usedGranules (s : State) (die cell : Nat) : Nat :=
  ((teamsIn s die cell).map (fun t => granulesPer t * (1 + t.xblk))).sum

/-- The cells that a team occupies. -/
def cellsOf (t : Team) : List Nat := if t.pair then [t.cell, t.cell + 1] else [t.cell]

/-- A team's request for n blocks could never fit (R30). -/
def neverFits (s : State) (t : Team) (n : Nat) : Bool :=
  (cellsOf t).any (fun c => decide (512 < baseGranules s t.die c + n * granulesPer t))

/-- A team's request for n blocks fits now (R131). -/
def fitsNow (s : State) (t : Team) (n : Nat) : Bool :=
  (cellsOf t).all (fun c => decide (usedGranules s t.die c + (n - t.xblk) * granulesPer t ≤ 512))

/-- The team stands at the head of the register queue of every cell it occupies. -/
def headOfReg (s : State) (t : Team) : Bool :=
  (cellsOf t).all (fun c => match (cellOf s (ckey t.die c)).regq with
    | [] => false
    | q :: _ => q.1 == t.tid)

/-- The team leaves the register queues. -/
def leaveRegq (s : State) (t : Team) : State :=
  (cellsOf t).foldl (fun s c => modCell s (ckey t.die c) (fun k => { k with regq := k.regq.filter (fun q => q.1 != t.tid) })) s

/-- Grant the head of a cell's register queue if it fits (R131): XBLK rises and its new registers read zero. -/
def grantReg (s : State) (ck : Nat) : State :=
  match (cellOf s ck).regq with
  | [] => s
  | (tid, n) :: _ => match team? s tid with
    | none => modCell s ck (fun c => { c with regq := c.regq.filter (fun q => q.1 != tid) })
    | some t => if headOfReg s t && fitsNow s t n then modTeam (leaveRegq s t) tid (fun t => { t with xblk := n }) else s

/-- Offer freed granules until the head no longer fits (R132). -/
def offerGranules (s : State) (die : Nat) (cells : List Nat) : State :=
  (List.range 16).foldl (fun s _ => cells.foldl (fun s c => grantReg s (ckey die c)) s) s

/-- Drop registers that a predicate names from a copy: they read zero when they are held again (R31). -/
def Regs.dropRegs (r : Regs) (p : Nat → Bool) : Regs :=
  { r with v := r.v.filter (fun e => !p (e.1 / 1024)), vpois := r.vpois.filter (fun e => !p (e.1 / 1024))
           vlat := r.vlat.filter (fun e => !p (e.1 / 1024)), vown := r.vown.filter (fun e => !p (e.1 / 1024))
           vbad := r.vbad.filter (fun e => !p (e.1 / 1024)) }

/-- Free the extended blocks above n (R132). -/
def freeBlocks (t : Team) (n : Nat) : Team :=
  let p (v : Nat) : Bool := decide (n < v / 16)
  { t with xblk := n, r := t.r.dropRegs p, sh := t.sh.map (fun r => r.dropRegs p)
           absent := t.absent.filter (fun e => !p (e.1 / 32)), savebad := t.savebad.filter (fun e => !p (e.1 / 32)) }

/-- A team ends (R121): its tiles, wide tiles and extended blocks return to the cell, and the queues are offered them; its end
goes up the panel tree (R357). -/
def endTeam (s : State) : State :=
  let t := s.cur
  let s := leaveRegq s t
  let s := if t.treeEnded then s else { s with fabric := { s.fabric with msgs := s.fabric.msgs ++ [.treeEnd (gridKey s t) t.tid] } }
  let s := modCur s (fun t => { freeBlocks t 0 with
    status := .ended, treeEnded := true, saveobs := none, clause := none, stalled := false, r := {}, sh := t.sh.map (fun _ => {}), ops := [], deferred := [],
    handler := none, stop := none, rays := [], absent := [], savebad := [], walks := [] })
  offerGranules s t.die (cellsOf t)

end Sys2Proof.Machine
end

