-- ==== Sys2Proof/Machine/Scalar.lean ====
section
/-! DEFINITION. The scalar unit: ALU, compares, moves, bit fields, launch constants, system registers (R108 to R118). -/

namespace Sys2Proof.Machine

/-- src2 (R108): S(SB), or IMM32 sign-extended. -/
def src2 (t : Team) (f : SR) : DWord := if f.i then f.imm.signExtend 64 else sreg t f.sb.toNat

/-- Write g of each copy into S(n) (R372). -/
def putScalar (n : Nat) (g : Team → DWord) (s : State) : Res := .done (modCur s (bothCopies (fun t => setSreg t n (g t))))

/-- S(SD) := f(S(SA), src2) (R110). -/
def scalarOp (f : SR) (op : DWord → DWord → DWord) (s : State) : Res :=
  putScalar f.sd.toNat (fun t => op (sreg t f.sa.toNat) (src2 t f)) s

/-- S(SD) := 1 if the condition holds, 0 otherwise (R112). -/
def scalarCmp (f : SR) (cc : DWord → DWord → Bool) (s : State) : Res :=
  scalarOp f (fun a b => if cc a b then 1 else 0) s

/-- Signed division, truncated, with the results of R111. -/
def divS (a b : DWord) : DWord := if b = 0 then -1 else wrap 64 (a.toInt.tdiv b.toInt)
def divU (a b : DWord) : DWord := if b = 0 then -1 else BitVec.ofNat 64 (a.toNat / b.toNat)
def remS (a b : DWord) : DWord := if b = 0 then a else wrap 64 (a.toInt - b.toInt * a.toInt.tdiv b.toInt)
def remU (a b : DWord) : DWord := if b = 0 then a else BitVec.ofNat 64 (a.toNat % b.toNat)

def execSAdd (f : SR) (s : State) : Host.Outcome State Fault Refusal := ok (issue (.sAdd f) s (scalarOp f (fun a b => a + b)))
def execSSub (f : SR) (s : State) : Host.Outcome State Fault Refusal := ok (issue (.sSub f) s (scalarOp f (fun a b => a - b)))
def execSMul (f : SR) (s : State) : Host.Outcome State Fault Refusal := ok (issue (.sMul f) s (scalarOp f (fun a b => a * b)))
def execSMulh (f : SR) (s : State) : Host.Outcome State Fault Refusal :=
  ok (issue (.sMulh f) s (scalarOp f (fun a b => wrap 64 (a.toInt * b.toInt / 2 ^ 64))))
def execSMulhU (f : SR) (s : State) : Host.Outcome State Fault Refusal :=
  ok (issue (.sMulhU f) s (scalarOp f (fun a b => BitVec.ofNat 64 (a.toNat * b.toNat / 2 ^ 64))))
def execSDiv (f : SR) (s : State) : Host.Outcome State Fault Refusal := ok (issue (.sDiv f) s (scalarOp f divS))
def execSDivU (f : SR) (s : State) : Host.Outcome State Fault Refusal := ok (issue (.sDivU f) s (scalarOp f divU))
def execSRem (f : SR) (s : State) : Host.Outcome State Fault Refusal := ok (issue (.sRem f) s (scalarOp f remS))
def execSRemU (f : SR) (s : State) : Host.Outcome State Fault Refusal := ok (issue (.sRemU f) s (scalarOp f remU))
def execSMin (f : SR) (s : State) : Host.Outcome State Fault Refusal :=
  ok (issue (.sMin f) s (scalarOp f (fun a b => if b.slt a then b else a)))
def execSMinU (f : SR) (s : State) : Host.Outcome State Fault Refusal :=
  ok (issue (.sMinU f) s (scalarOp f (fun a b => if b.ult a then b else a)))
def execSMax (f : SR) (s : State) : Host.Outcome State Fault Refusal :=
  ok (issue (.sMax f) s (scalarOp f (fun a b => if a.slt b then b else a)))
def execSMaxU (f : SR) (s : State) : Host.Outcome State Fault Refusal :=
  ok (issue (.sMaxU f) s (scalarOp f (fun a b => if a.ult b then b else a)))
def execSAnd (f : SR) (s : State) : Host.Outcome State Fault Refusal := ok (issue (.sAnd f) s (scalarOp f (fun a b => a &&& b)))
def execSOr (f : SR) (s : State) : Host.Outcome State Fault Refusal := ok (issue (.sOr f) s (scalarOp f (fun a b => a ||| b)))
def execSXor (f : SR) (s : State) : Host.Outcome State Fault Refusal := ok (issue (.sXor f) s (scalarOp f (fun a b => a ^^^ b)))
def execSAndn (f : SR) (s : State) : Host.Outcome State Fault Refusal :=
  ok (issue (.sAndn f) s (scalarOp f (fun a b => a &&& ~~~ b)))
def execSShl (f : SR) (s : State) : Host.Outcome State Fault Refusal :=
  ok (issue (.sShl f) s (scalarOp f (fun a b => a <<< (b.toNat % 64))))
def execSShr (f : SR) (s : State) : Host.Outcome State Fault Refusal :=
  ok (issue (.sShr f) s (scalarOp f (fun a b => a >>> (b.toNat % 64))))
def execSSra (f : SR) (s : State) : Host.Outcome State Fault Refusal :=
  ok (issue (.sSra f) s (scalarOp f (fun a b => a.sshiftRight (b.toNat % 64))))

/-! ## Moves, bit fields, counts (R113, R114) -/

def execSMov (f : SR) (s : State) : Host.Outcome State Fault Refusal :=
  ok (issue (.sMov f) s (putScalar f.sd.toNat (fun t => sreg t f.sa.toNat)))
def execSLi (f : SR) (s : State) : Host.Outcome State Fault Refusal :=
  ok (issue (.sLi f) s (putScalar f.sd.toNat (fun _ => f.imm.signExtend 64)))
def execSLih (f : SR) (s : State) : Host.Outcome State Fault Refusal :=
  ok (issue (.sLih f) s (putScalar f.sd.toNat (fun t => f.imm ++ (sreg t f.sd.toNat).extractLsb' 0 32)))

/-- Offset, width and sign flag of a control value (R114). -/
def bfOff (c : DWord) : Nat := c.toNat % 64
def bfWidth (c : DWord) : Nat := let w := min (c.toNat / 256 % 128) 64; if 64 < bfOff c + w then 64 - bfOff c else w
/-- IMM32 is read unextended as a control value. -/
def bfCtl (t : Team) (f : SR) : DWord := if f.i then f.imm.setWidth 64 else sreg t f.sb.toNat

/-- `s.bfe` (R114). -/
def bfExtract (a c : DWord) : DWord :=
  let w := bfWidth c
  let x := a.toNat / 2 ^ bfOff c % 2 ^ w
  if c.getLsbD 15 && decide (0 < w) && decide (2 ^ (w - 1) ≤ x) then wrap 64 ((x : Int) - 2 ^ w) else BitVec.ofNat 64 x

/-- `s.bfi` (R114). -/
def bfInsert (d a c : DWord) : DWord :=
  let mk : DWord := BitVec.ofNat 64 ((2 ^ bfWidth c - 1) * 2 ^ bfOff c)
  (d &&& ~~~ mk) ||| ((a <<< bfOff c) &&& mk)

/-- Leading zeros, trailing zeros and 1 bits of an n-bit value. -/
def clzBits (n x : Nat) : Nat := if x = 0 then n else n - 1 - Nat.log2 x
def ctzBits (n x : Nat) : Nat := ((List.range n).find? (fun i => x.testBit i)).getD n
def popBits (n x : Nat) : Nat := ((List.range n).filter (fun i => x.testBit i)).length

def execSBfe (f : SR) (s : State) : Host.Outcome State Fault Refusal :=
  ok (issue (.sBfe f) s (putScalar f.sd.toNat (fun t => bfExtract (sreg t f.sa.toNat) (bfCtl t f))))
def execSBfi (f : SR) (s : State) : Host.Outcome State Fault Refusal :=
  ok (issue (.sBfi f) s (putScalar f.sd.toNat (fun t => bfInsert (sreg t f.sd.toNat) (sreg t f.sa.toNat) (bfCtl t f))))
def execSClz (f : SR) (s : State) : Host.Outcome State Fault Refusal :=
  ok (issue (.sClz f) s (putScalar f.sd.toNat (fun t => BitVec.ofNat 64 (clzBits 64 (sreg t f.sa.toNat).toNat))))
def execSCtz (f : SR) (s : State) : Host.Outcome State Fault Refusal :=
  ok (issue (.sCtz f) s (putScalar f.sd.toNat (fun t => BitVec.ofNat 64 (ctzBits 64 (sreg t f.sa.toNat).toNat))))
def execSPopc (f : SR) (s : State) : Host.Outcome State Fault Refusal :=
  ok (issue (.sPopc f) s (putScalar f.sd.toNat (fun t => BitVec.ofNat 64 (popBits 64 (sreg t f.sa.toNat).toNat))))

/-! ## Compare and select (R112) -/

def execSCmpEq (f : SR) (s : State) : Host.Outcome State Fault Refusal := ok (issue (.sCmpEq f) s (scalarCmp f (fun a b => a == b)))
def execSCmpNe (f : SR) (s : State) : Host.Outcome State Fault Refusal := ok (issue (.sCmpNe f) s (scalarCmp f (fun a b => a != b)))
def execSCmpLt (f : SR) (s : State) : Host.Outcome State Fault Refusal := ok (issue (.sCmpLt f) s (scalarCmp f (fun a b => a.slt b)))
def execSCmpLe (f : SR) (s : State) : Host.Outcome State Fault Refusal := ok (issue (.sCmpLe f) s (scalarCmp f (fun a b => a.sle b)))
def execSCmpGt (f : SR) (s : State) : Host.Outcome State Fault Refusal := ok (issue (.sCmpGt f) s (scalarCmp f (fun a b => b.slt a)))
def execSCmpGe (f : SR) (s : State) : Host.Outcome State Fault Refusal := ok (issue (.sCmpGe f) s (scalarCmp f (fun a b => b.sle a)))
def execSCmpLtU (f : SR) (s : State) : Host.Outcome State Fault Refusal := ok (issue (.sCmpLtU f) s (scalarCmp f (fun a b => a.ult b)))
def execSCmpLeU (f : SR) (s : State) : Host.Outcome State Fault Refusal := ok (issue (.sCmpLeU f) s (scalarCmp f (fun a b => a.ule b)))
def execSCmpGtU (f : SR) (s : State) : Host.Outcome State Fault Refusal := ok (issue (.sCmpGtU f) s (scalarCmp f (fun a b => b.ult a)))
def execSCmpGeU (f : SR) (s : State) : Host.Outcome State Fault Refusal := ok (issue (.sCmpGeU f) s (scalarCmp f (fun a b => b.ule a)))
def execSSel (f : SR) (s : State) : Host.Outcome State Fault Refusal :=
  ok (issue (.sSel f) s (putScalar f.sd.toNat (fun t =>
    if sreg t (f.imm.toNat % 64) ≠ 0 then sreg t f.sa.toNat else sreg t f.sb.toNat)))

/-! ## Launch constants (R117) -/

/-- `s.ldk`: an offset of the launch constants. A poisoned constant kills the team (R364). Log 67: the sum S(SA) + imm wraps to 64 bits
and is read signed in the test o < 0. Misaligned Access comes before Illegal Operand (log 85). -/
def loadConst (f : SR) (n : Nat) (s : State) : Res :=
  let o := sreg s.cur f.sa.toNat + f.imm.signExtend 64
  let l := curLaunch s
  if o.toNat % n ≠ 0 then .trap s { cause := 7, addr := o.toNat }
  else if o.toInt < 0 ∨ 8 * l.d.kwords < o.toNat + n then .trap s { cause := 3, detail := 1, addr := o.toNat }
  else if (List.range n).any (fun i => NMap.get false l.cbad ((o.toNat + i) / 8)) then .done (killTeam s (instrPc (clauseOf s)))
  else
    let x := bytesVal ((l.consts.drop o.toNat).take n)
    .done (modCur s (deliverRegs (fun r => r.sset f.sd.toNat (BitVec.ofNat 64 x))))

def execSLdk (w : LdkW) (f : SR) (s : State) : Host.Outcome State Fault Refusal :=
  ok (issue (.sLdk w f) s (loadConst f (match w with | .b32 => 4 | .b64 => 8)))

/-! ## System registers (R40 to R44, R118) -/

/-- The mask of a cluster's cells not retired in service (R40, CLUSTER.LIVE). -/
def clusterLive (s : State) (die cluster : Nat) : Nat :=
  ((List.range 4).map (fun p => if NMap.get false (dieOf s die).cellret (cellAt cluster p) then 0 else 2 ^ p)).sum

/-- DIELIVE word k, CELLRET word w of a die (R44). -/
def dieliveWord (s : State) (k : Nat) : Nat :=
  ((List.range 64).map (fun j => if isLive s (64 * k + j) then 2 ^ j else 0)).sum
def cellretWord (s : State) (die w : Nat) : Nat :=
  ((List.range 64).map (fun j => if NMap.get false (dieOf s die).cellret (64 * w + j) then 2 ^ j else 0)).sum

/-- The number names a system register (R40). -/
def sysKnown (n : Nat) : Bool :=
  n ≤ 0x00B || (0x010 ≤ n && n ≤ 0x013) || (0x018 ≤ n && n ≤ 0x01B) || (0x020 ≤ n && n ≤ 0x025)

/-- The register takes an index (R40). -/
def sysIndexed (n : Nat) : Bool := 0x020 ≤ n && n ≤ 0x025

/-- An index in range (R40, R44). -/
def sysIndexOk (n x : Nat) : Bool :=
  match n with
  | 0x020 => x ≤ 2
  | 0x021 => x ≤ 143
  | 0x022 => x / 128 ≤ 143 && x % 128 ≤ 71
  | 0x023 => x / 64 ≤ 143 && x % 64 ≤ 35
  | _ => x ≤ 15

/-- The clocks of a cell at a read of CYCLE: a free number of them have passed (R42, log 7). -/
def readCycle (s : State) : Nat × State :=
  let (n, s) := tick s
  let k := ckey s.cur.die s.cur.cell
  let c := (cellOf s k).cyc + Config.freeBits 64 n
  (c.toNat, modCell s k (fun x => { x with cyc := c }))

/-- The value of a system register (R40 to R44). -/
def sysValue (s : State) (n x : Nat) : Nat × State :=
  let t := s.cur
  let b := curBlock s
  let l := curLaunch s
  let d := l.d
  let r : Nat := match n with
    | 0x000 => (if t.pair then 2 ^ 16 else 0) + (b.nteams - 1) * 2 ^ 12 + t.idx
    | 0x001 => b.vsize * 2 ^ 54 + b.vbase * 2 ^ 44 + b.gmask * 2 ^ 40 + b.gsize * 2 ^ 38 + b.gpos * 2 ^ 36 + b.index
    | 0x002 => d.dz * 2 ^ 48 + d.dy * 2 ^ 32 + d.dx
    | 0x003 => (2 * lptOf (dieOf s t.die) (t.cell % 72 / 2) + t.cell % 2) * 2 ^ 19 + t.cell / 72 * 2 ^ 13 + t.cell
    | 0x004 => clusterLive s t.die (clusterOf t.cell) * 2 ^ 16 + clusterOf t.cell
    | 0x005 => t.die * 2 ^ 16 + t.die / 12 * 2 ^ 12 + t.die % 12 * 2 ^ 8 + (2 * (t.die % 12) + t.die / 12 % 2)
    | 0x006 => t.width
    | 0x007 => t.group
    | 0x008 => (if d.prot then 2 ^ 44 else 0) + d.stream * 2 ^ 40 + d.prio * 2 ^ 37 + d.id
    | 0x009 => b.draw * 2 ^ 40 + b.prim
    | 0x00A => teamstat t
    | 0x010 => fpmode t
    | 0x011 => t.fl.toNat
    | 0x012 => t.mxb.toNat
    | 0x013 => t.mxt.toNat
    | 0x018 => t.trapcause.toNat
    | 0x019 => t.trappc.toNat
    | 0x01A => t.trapaddr.toNat
    | 0x01B => t.traplane.toNat
    | 0x020 => dieliveWord s x
    | 0x021 => (dieOf s x).colret.toNat
    | 0x022 => cellretWord s (x / 128) (x % 128)
    | 0x023 => lptOf (dieOf s (x / 64)) (x % 64)
    | 0x024 => let g := NMap.get {} s.host.regions x; g.pstate * 2 ^ 16 + g.cap
    | _ => let g := NMap.get {} s.host.regions x; g.window * 2 ^ 16 + g.step
  if n = 0x00B then readCycle s else (r, s)

/-- Illegal Operand of a system-register access: TRAPADDR holds NUM (R118). -/
def badSys (n : Nat) : TrapInfo := { cause := 3, detail := 2, addr := n }

/-- `s.rdsys` (R118): one value for both copies (R372). -/
def readSys (f : SR) (s : State) : Res :=
  let n := sysNum f
  let x := (sreg s.cur f.sa.toNat).toNat
  if !sysKnown n then .trap s (badSys n)
  else if sysIndexed n && !sysIndexOk n x then .trap s (badSys n)
  else if !sysIndexed n && f.sa.toNat != 63 then .trap s (badSys n)
  else
    let (v, s) := sysValue s n x
    .done (modCur s (deliverRegs (fun r => r.sset f.sd.toNat (BitVec.ofNat 64 v))))

/-- `s.wrsys` of a register that neither FPFLAGS nor TEAMSTAT is: FPMODE is written, a read-only register ignores the
write (R7, R118). -/
def writeSys (f : SR) (s : State) : Res :=
  let n := sysNum f
  if !sysKnown n then .trap s (badSys n)
  else if n = 0x010 then .done (modCur s (fun t => setFpmode t (sreg t f.sa.toNat)))
  else .done s

def execSRdsys (f : SR) (s : State) : Host.Outcome State Fault Refusal := ok (issue (.sRdsys f) s (readSys f))
def execSWrsys (f : SR) (s : State) : Host.Outcome State Fault Refusal := ok (issue (.sWrsys f) s (writeSys f))
/-- A write to FPFLAGS (R61). -/
def execFpflags (f : SR) (s : State) : Host.Outcome State Fault Refusal :=
  ok (issue (.fpflags f) s (fun s => .done (modCur s (fun t => clearFpflags t (sreg t f.sa.toNat)))))
/-- A write to TEAMSTAT clears DEADSRC where it is written as 1 (R40). -/
def execTeamstat (f : SR) (s : State) : Host.Outcome State Fault Refusal :=
  ok (issue (.teamstat f) s (fun s => .done (modCur s (fun t =>
    { t with deadsrc := t.deadsrc && !(sreg t f.sa.toNat).getLsbD 0 }))))

end Sys2Proof.Machine
end

