-- ==== Sys2Proof/Machine/Control.lean ====
section
/-! DEFINITION. Branches, calls, exit, waits, traps, divergence, register blocks, pmark (R119 to R134). -/

namespace Sys2Proof.Machine

/-- `target` (R108). -/
def branchTarget (c : Clause) (off : BitVec 44) : Nat := (wrap 64 ((c.hdr : Int) + 8 * off.toInt)).toNat

/-! ## Branches and calls (R119, R120) -/

/-- Go to the target if the condition holds, to `next` if not. -/
def branch (f : BR) (cond : Team → Bool) (s : State) : Res :=
  let c := clauseOf s
  .goto s (if cond s.cur then branchTarget c f.off else nextHdr c)

/-- The value that `brz` and `brnz` test. -/
def zeroTest (f : BR) (t : Team) : Bool :=
  let x := sreg t f.creg.toNat
  if f.ckind = 1 then x.extractLsb' 0 32 == 0 else x == 0

/-- The lanes L of `bany` and `ball`. -/
def testLanes (f : BR) (t : Team) : Mask := if f.ckind = 1 then liveM t else execM t 0

def execBr (f : BR) (s : State) : Host.Outcome State Fault Refusal := ok (issue (.br f) s (branch f (fun _ => true)))
def execBrz (f : BR) (s : State) : Host.Outcome State Fault Refusal := ok (issue (.brz f) s (branch f (zeroTest f)))
def execBrnz (f : BR) (s : State) : Host.Outcome State Fault Refusal := ok (issue (.brnz f) s (branch f (fun t => !zeroTest f t)))
def execBany (f : BR) (s : State) : Host.Outcome State Fault Refusal :=
  ok (issue (.bany f) s (branch f (fun t => testLanes f t &&& mreg t (f.creg.toNat % 8) != 0)))
def execBall (f : BR) (s : State) : Host.Outcome State Fault Refusal :=
  ok (issue (.ball f) s (branch f (fun t => testLanes f t &&& ~~~ mreg t (f.creg.toNat % 8) == 0)))

def execCall (f : BR) (s : State) : Host.Outcome State Fault Refusal :=
  ok (issue (.call f) s (fun s =>
    let c := clauseOf s
    .goto (modCur s (bothCopies (fun t => setSreg t f.creg.toNat (BitVec.ofNat 64 (nextHdr c))))) (branchTarget c f.off)))

/-- check(x) and the jump (R120); Translation Fault comes first where both fail (log 90). -/
def jumpChecked (x : Nat) (s : State) : Res :=
  if 2 ^ 56 ≤ x then .trap s { cause := 9, detail := 1, addr := x }
  else if x % 8 ≠ 0 then .trap s { cause := 7, addr := x }
  else .goto s x

def execRet (f : BR) (s : State) : Host.Outcome State Fault Refusal :=
  ok (issue (.ret f) s (fun s => jumpChecked (sreg s.cur f.creg.toNat).toNat s))
def execJmpi (f : BR) (s : State) : Host.Outcome State Fault Refusal :=
  ok (issue (.jmpi f) s (fun s => jumpChecked (wrap 64 ((sreg s.cur f.creg.toNat).toNat + 8 * f.off.toInt)).toNat s))

/-! ## exit, nop, waitf, yield (R121) -/

/-- Observe completions: a pending deferred fault that the point covers is taken there (R196, R221). -/
def observe (cov : Op → Bool) (s : State) (k : State → Res) : Res :=
  match firstDeferred s.cur cov with
  | some d => .leave (takeDeferred s d)
  | none => k s

/-- Every flag is clear and no operation is outstanding (R84). -/
def quiet (t : Team) : Bool := t.ops.isEmpty && t.flags.isEmpty

def execExit (f : BR) (s : State) : Host.Outcome State Fault Refusal :=
  ok (issue (.exit f) s (fun s =>
    if quiet s.cur then observe (fun _ => true) s (fun s => .leave (endTeam s)) else .stall s))
def execNop (f : SR) (s : State) : Host.Outcome State Fault Refusal := ok (issue (.nop f) s .done)
/-- `yield` changes no program-visible state; the choice among teams is the schedule's (log 3). -/
def execYield (f : SR) (s : State) : Host.Outcome State Fault Refusal := ok (issue (.yield f) s .done)
/-- The condition of `waitf f, n`: the counter is n or less (R79), and every operation that the wait covers has completed (R81, log 66). -/
def waitMet (t : Team) (f n : Nat) : Bool := decide (flagCount t f ≤ n) && !t.ops.any (waitCovers t f n)

/-- `waitf` (R79, R81). -/
def execWaitf (f : SR) (s : State) : Host.Outcome State Fault Refusal :=
  ok (issue (.waitf f) s (fun s =>
    let fl := f.imm.toNat % 16
    let n := f.imm.toNat / 256 % 64
    if waitMet s.cur fl n then observe (waitCovers s.cur fl n) s .done else .stall s))

/-! ## Traps (R122) -/

def execBrk (f : SYS) (s : State) : Host.Outcome State Fault Refusal :=
  ok (issue (.brk f) s (fun s => .trap s { cause := 0x12, detail := f.imm.toNat % 256 }))
def execTrap (f : SYS) (s : State) : Host.Outcome State Fault Refusal :=
  ok (issue (.trap f) s (fun s => .trap s { cause := 0x11, detail := f.imm.toNat % 256 }))
/-- A replay of a deferred fault must wait for the room that its operation needs. -/
def replayWaits (s : State) (k : TrapKind) : Bool :=
  match k with
  | .deferred o => replayFull s o
  | _ => false

def execTret (f : SYS) (s : State) : Host.Outcome State Fault Refusal :=
  ok (issue (.tret f) s (fun s =>
    let replay := f.imm.getLsbD 0
    match s.cur.handler with
    | none => .trap s { cause := 3, detail := 3 }
    | some x =>
      if replay && !s.cur.trapcause.getLsbD 16 then .trap s { cause := 3, detail := 3 }
      else if replay && replayWaits s x.kind then .stall s
      else .leave (restoreTrap (modCur s (fun t => { clearWait t with handler := none })) x replay reissueOp)))

/-! ## Divergence (R123 to R127) -/

/-- The layout after a divergence instruction: free, unless a force is in effect (R24, log 8). -/
def chooseLayout (s : State) : State :=
  if s.cur.force = .free then
    let (n, s) := tick s
    modCur s (fun t => { t with compact := Config.freeBits 1 n == 1#1 })
  else s

/-- Change m0 and the stack of each copy; the layout is chosen anew. -/
def diverge (s : State) (g : Nat → Regs → Regs) : State :=
  chooseLayout (modCur s (fun t => { t with r := g t.width t.r, sh := t.sh.map (g t.width) }))

/-- Divergence Depth (R123). -/
def depthTrap (s : State) (detail : Nat) : Res := .trap s { cause := 6, detail := detail }

/-- The top entry of a kind, or the trap (R123). -/
def requireTop (s : State) (k : DivKind) (go : DivEntry → Res) : Res :=
  match s.cur.r.stack with
  | [] => depthTrap s 2
  | e :: _ => if e.kind = k then go e else depthTrap s 3

/-- Push an entry of a kind with a PENDING mask. -/
def Regs.pushDiv (r : Regs) (k : DivKind) (pend : Mask) : Regs :=
  { r with stack := { kind := k, saved := r.mget 0, pending := pend } :: r.stack }

/-- M(0) := top.SAVED, pop. -/
def Regs.popSaved (r : Regs) (w : Nat) : Regs :=
  match r.stack with
  | [] => r
  | e :: rest => { r.mset w 0 e.saved with stack := rest }

/-- M(0) := top.PENDING, top.PENDING := 0. -/
def Regs.takePending (r : Regs) (w : Nat) : Regs :=
  match r.stack with
  | [] => r
  | e :: rest => { r.mset w 0 e.pending with stack := { e with pending := 0 } :: rest }

/-- `bdiv` on one copy, `other` saying that the then path is empty. -/
def bdivRegs (k : Nat) (other : Bool) (w : Nat) (r : Regs) : Regs :=
  let m := r.mget 0
  let x := r.pushDiv .div (m &&& ~~~ r.mget k)
  if other then x.takePending w else x.mset w 0 (m &&& r.mget k)

def execBdiv (f : BR) (s : State) : Host.Outcome State Fault Refusal :=
  ok (issue (.bdiv f) s (fun s =>
    let t := s.cur
    let k := f.creg.toNat % 8
    let c := clauseOf s
    if 32 ≤ t.r.stack.length then depthTrap s 1
    else
      let other := activeM t (mreg t 0 &&& mreg t k) == 0
      .goto (diverge s (bdivRegs k other)) (if other then branchTarget c f.off else nextHdr c)))

def execBelse (f : BR) (s : State) : Host.Outcome State Fault Refusal :=
  ok (issue (.belse f) s (fun s => requireTop s .div (fun e =>
    let c := clauseOf s
    if activeM s.cur e.pending != 0 then .goto (diverge s (fun w r => r.takePending w)) (nextHdr c)
    else .goto (diverge s (fun w r => r.popSaved w)) (branchTarget c f.off))))

def execBjoin (f : BR) (s : State) : Host.Outcome State Fault Refusal :=
  ok (issue (.bjoin f) s (fun s => requireTop s .div (fun _ =>
    .goto (diverge s (fun w r => r.popSaved w)) (nextHdr (clauseOf s)))))

def execBloop (f : BR) (s : State) : Host.Outcome State Fault Refusal :=
  ok (issue (.bloop f) s (fun s =>
    if 32 ≤ s.cur.r.stack.length then depthTrap s 1
    else .goto (diverge s (fun _ r => r.pushDiv .loop 0)) (branchTarget (clauseOf s) f.off)))

/-- `bbrk` changes m0 but chooses no layout (R24). -/
def execBbrk (f : BR) (s : State) : Host.Outcome State Fault Refusal :=
  ok (issue (.bbrk f) s (fun s => requireTop s .loop (fun _ =>
    let k := f.creg.toNat % 8
    let c := clauseOf s
    let empty := activeM s.cur (mreg s.cur 0 &&& ~~~ mreg s.cur k) == 0
    let g (w : Nat) (r : Regs) : Regs := if empty then r.popSaved w else r.mset w 0 (r.mget 0 &&& ~~~ r.mget k)
    .goto (modCur s (fun t => { t with r := g t.width t.r, sh := t.sh.map (g t.width) }))
      (if empty then branchTarget c f.off else nextHdr c))))

/-! ## Layout (R130) -/

def execMCompact (f : SR) (s : State) : Host.Outcome State Fault Refusal :=
  ok (issue (.mCompact f) s (fun s => .done (modCur s (fun t => { t with compact := true, force := .compacted }))))
def execMUncompact (f : SR) (s : State) : Host.Outcome State Fault Refusal :=
  ok (issue (.mUncompact f) s (fun s => .done (modCur s (fun t => { t with compact := false, force := .identity }))))

/-! ## Register blocks (R131 to R133) -/

/-- The team waits in the register queue of its cell. -/
def inRegq (s : State) (t : Team) : Bool := (cellOf s (ckey t.die t.cell)).regq.any (fun q => q.1 == t.tid)

/-- `racq n` (R131): at the request it traps where it could never fit, is granted where nothing waits before it and it fits (log 23),
and queues otherwise; a request in the queue waits for its grant. -/
def acquireRegs (n : Nat) (s : State) : Res :=
  let t := s.cur
  let queued := inRegq s t
  if n ≤ t.xblk then .done (leaveRegq s t)
  else if !queued && neverFits s t n then .trap s { cause := 5 }
  else
    let s := if queued then s else
      (cellsOf t).foldl (fun s c => modCell s (ckey t.die c) (fun k => { k with regq := k.regq ++ [(t.tid, n)] })) s
    if headOfReg s t && fitsNow s t n then .done (modCur (leaveRegq s t) (fun t => { t with xblk := n }))
    else .stall s

def execRacq (f : SR) (s : State) : Host.Outcome State Fault Refusal :=
  ok (issue (.racq f) s (acquireRegs (f.imm.toNat % 8)))

/-- The head of a cell's register queue is granted where it fits (R131). -/
def execRegisterQueueGrant (cell : Nat) (s : State) : Host.Outcome State Fault Refusal := ok (grantReg s cell)

/-- An outstanding operation has a destination in an extended block above n (R132). -/
def releaseBusy (t : Team) (n : Nat) : Bool := t.ops.any (fun o => (destRegs o.i).any (fun v => decide (n < v / 16)))

/-- `rrel n` (R132). -/
def releaseRegs (n : Nat) (s : State) : Res :=
  let t := s.cur
  if t.xblk ≤ n then .done s
  else if releaseBusy t n then .stall s
  else .done (offerGranules (modCur s (fun t => freeBlocks t n)) t.die (cellsOf t))

def execRrel (f : SR) (s : State) : Host.Outcome State Fault Refusal :=
  ok (issue (.rrel f) s (releaseRegs (f.imm.toNat % 8)))

/-! ## pmark (R134) -/

def execPmark (f : SR) (s : State) : Host.Outcome State Fault Refusal :=
  ok (issue (.pmark f) s (fun s =>
    .done (modCur s (fun t => if t.preempt then { t with pmark := some (f.imm.toNat % 256, f.imm.toNat / 256 % 4) } else t))))

end Sys2Proof.Machine
end

