-- ==== Sys2Proof/Machine/Vector.lean ====
section
/-! DEFINITION. Lane-wise vector instructions and the prologue that every vector instruction shares: integer arithmetic,
logic, shifts, compares, selects, bit fields, moves (R135 to R143), mask transfer (R128, R129). -/

namespace Sys2Proof.Machine

/-! ## The shared prologue -/

/-- Destination registers of a short-latency instruction: a granule that is absent is filled first, unless the instruction
writes its whole row (R33); words that such a fill poisons in other lanes become latent (R368). -/
def prepDest (s : State) (regs : List Nat) (m : Mask) : State :=
  if s.cur.absent.isEmpty then s
  else
    let before := s.cur.r.vpois
    let rows := (List.range 32).filter (fun y => m.extractLsb' (32 * y) 32 != 0)
    let s := (regs.flatMap (fun n => rows.map (fun y => (n, y)))).foldl (fun s e =>
      let g := gkey e.1 e.2
      if m.extractLsb' (32 * e.2) 32 == BitVec.allOnes 32 then
        modCur s (fun t => { t with absent := NMap.set false t.absent g false, savebad := NMap.set false t.savebad g false })
      else fillGranule s g) s
    noteLatent s before (regs.flatMap (fun n => (lanesOf m s.cur.width).map (vkey n)))

/-- Lanes that consume poison die at the instruction, after it has acted without them (R363). -/
def dieOff (s : State) (e : Eaten) (pc : Nat) : State := if e.lanes = 0 then s else killLanes s e.lanes pc e.own

/-- A vector instruction over the lanes that `m` gives for each copy's own masks (R135, R372): the reads, the granules of its
destinations, what it does to a copy for the lanes that consume no poison, DEADSRC, the deaths. -/
def vecRun (m : Team → Mask) (rd : List (Nat × Nat × Nat)) (dest : List Nat) (srcs : List SrcF) (g : Mask → Team → Team)
    (s : State) : Res :=
  let (e, s) := consume s rd
  let act := m s.cur &&& ~~~ e.lanes
  let s := prepDest s dest act
  let ls := lanesOf act s.cur.width
  let s := modCur s (fun t => srcs.foldl (fun u f => if ls.any (readsDead t f) then { u with deadsrc := true } else u)
    (bothCopies (fun u => g (m u &&& ~~~ e.lanes) u) t))
  .done (dieOff s e (instrPc (clauseOf s)))

/-- The lanes that a predicate field gives a copy. -/
def byPred (p : Nat) (t : Team) : Mask := execM t p

/-- Registers of a destination of a type. -/
def destTy (ty vd : Nat) : List Nat := if ty64 ty then [vd, vd + 1] else [vd]

/-- Write h of each lane, every source read before any destination is written (R22). -/
def eachLane (ty vd : Nat) (h : Team → Nat → DWord) (act : Mask) (t : Team) : Team :=
  (lanesOf act t.width).foldl (fun u l => writeTy u ty vd l (h t l)) t

/-- Write h of each lane and raise its flags. -/
def eachLaneFl (ty vd : Nat) (h : Team → Nat → DWord × Fl) (act : Mask) (t : Team) : Team :=
  raise (eachLane ty vd (fun t l => (h t l).1) act t) (flAll ((lanesOf act t.width).map (fun l => (h t l).2)))

/-- A VR instruction that writes h of each lane; `b` says whether its results depend on source b, and then on both words of a pair (R363). -/
def vrRun (f : VR) (rty dty : Nat) (b : Option Bool) (h : Team → Nat → DWord × Fl) (s : State) : Res :=
  let ls := lanesOf (execM s.cur f.pred.toNat) s.cur.width
  let rb := match b with | none => [] | some w => readsOf s.cur ls (srcF f.b) w
  vecRun (byPred f.pred.toNat) (readsOf s.cur ls (srcF f.a) (ty64 rty) ++ rb) (destTy dty f.vd.toNat)
    (srcF f.a :: (if b.isSome then [srcF f.b] else [])) (eachLaneFl dty f.vd.toNat h) s

/-- The same where source b, if it is read, has the type of source a. -/
def vrLanes (f : VR) (rty dty : Nat) (useB : Bool) (h : Team → Nat → DWord × Fl) (s : State) : Res :=
  vrRun f rty dty (if useB then some (ty64 rty) else none) h s

/-- A VF instruction that writes h of each lane (R92). -/
def vfLanes (f : VF) (h : Team → Nat → DWord × Fl) (s : State) : Res :=
  let ty := vfType f.ty.toNat
  let ls := lanesOf (execM s.cur 0) s.cur.width
  let srcs := [srcF f.a, srcF f.b, srcFC f.c]
  vecRun (byPred 0) (srcs.flatMap (fun x => readsOf s.cur ls x (ty64 ty))) (destTy ty f.vd.toNat) srcs (eachLaneFl ty f.vd.toNat h) s

/-- A VR instruction that sets a mask bit for each lane (R141, R146); m0 is no destination (R20). -/
def vrMask (f : VR) (useB : Bool) (h : Team → Nat → Bool × Fl) (s : State) : Res :=
  let d := f.vd.toNat % 8
  if d = 0 then .trap s { cause := 3, detail := 4 }
  else
    let ls := lanesOf (execM s.cur f.pred.toNat) s.cur.width
    let srcs := srcF f.a :: (if useB then [srcF f.b] else [])
    vecRun (byPred f.pred.toNat) (srcs.flatMap (fun x => readsOf s.cur ls x (ty64 f.ty.toNat))) [] srcs
      (fun act t =>
        let l := lanesOf act t.width
        let set := maskOf (l.filter (fun x => (h t x).1))
        raise (setMreg t d ((mreg t d &&& ~~~ act) ||| set)) (flAll (l.map (fun x => (h t x).2)))) s

/-! ## Integer arithmetic (R139) -/

/-- wrap or, with `.sat`, saturate (R48). -/
def intRes (ty : Nat) (satur : Bool) (x : Int) : DWord := wrap 64 (if satur then sat x (tyLo ty) (tyHi ty) else x)

def intBin (f : VR) (op : Int → Int → Int) (s : State) : Res :=
  let ty := f.ty.toNat
  vrLanes f ty ty true (fun t l =>
    (intRes ty f.satna (op (intVal ty (readOp t ty (srcF f.a) l)) (intVal ty (readOp t ty (srcF f.b) l))), 0)) s

def execVAdd (f : VR) (s : State) : Host.Outcome State Fault Refusal := ok (issue (.vAdd f) s (intBin f (· + ·)))
def execVSub (f : VR) (s : State) : Host.Outcome State Fault Refusal := ok (issue (.vSub f) s (intBin f (· - ·)))
def execVMul (f : VR) (s : State) : Host.Outcome State Fault Refusal := ok (issue (.vMul f) s (intBin f (· * ·)))
def execVMulh (f : VR) (s : State) : Host.Outcome State Fault Refusal :=
  ok (issue (.vMulh f) s (intBin f (fun a b => a * b / 2 ^ tyBits f.ty.toNat)))
def execVMin (f : VR) (s : State) : Host.Outcome State Fault Refusal := ok (issue (.vMin f) s (intBin f (fun a b => if b < a then b else a)))
def execVMax (f : VR) (s : State) : Host.Outcome State Fault Refusal := ok (issue (.vMax f) s (intBin f (fun a b => if a < b then b else a)))
def execVAbs (f : VR) (s : State) : Host.Outcome State Fault Refusal :=
  ok (issue (.vAbs f) s (vrLanes f f.ty.toNat f.ty.toNat false (fun t l =>
    (intRes f.ty.toNat f.satna (intVal f.ty.toNat (readOp t f.ty.toNat (srcF f.a) l)).natAbs, 0))))

/-- A three-source integer operation on the raw words. -/
def vfInt (f : VF) (op : Word → Word → Word → Word) (s : State) : Res :=
  let ty := vfType f.ty.toNat
  vfLanes f (fun t l => ((op (readOp32 t ty (srcF f.a) l) (readOp32 t ty (srcF f.b) l) (readOp32 t ty (srcFC f.c) l)).setWidth 64, 0)) s

def execVMad (f : VF) (s : State) : Host.Outcome State Fault Refusal := ok (issue (.vMad f) s (vfInt f (fun a b c => a * b + c)))

/-! ## Logic and shifts (R140) -/

/-- A raw operation on the bits of a type. -/
def rawBin (f : VR) (op : Nat → DWord → DWord → DWord) (s : State) : Res :=
  let ty := f.ty.toNat
  vrLanes f ty ty true (fun t l => (op (tyBits ty) (readOp t ty (srcF f.a) l) (readOp t ty (srcF f.b) l), 0)) s

/-- A shift: h is taken from the even register of b alone (R140). -/
def shiftOp (f : VR) (op : Nat → DWord → Nat → DWord) (s : State) : Res :=
  let ty := f.ty.toNat
  vrRun f ty ty (some false) (fun t l => (op (tyBits ty) (readOp t ty (srcF f.a) l) ((readOp t ty (srcF f.b) l).toNat % tyBits ty), 0)) s

/-- The value sign-extended from n bits. -/
def sext (n : Nat) (x : DWord) : DWord := if n = 32 then (x.setWidth 32).signExtend 64 else x

def execVAnd (f : VR) (s : State) : Host.Outcome State Fault Refusal := ok (issue (.vAnd f) s (rawBin f (fun _ a b => a &&& b)))
def execVOr (f : VR) (s : State) : Host.Outcome State Fault Refusal := ok (issue (.vOr f) s (rawBin f (fun _ a b => a ||| b)))
def execVXor (f : VR) (s : State) : Host.Outcome State Fault Refusal := ok (issue (.vXor f) s (rawBin f (fun _ a b => a ^^^ b)))
def execVAndn (f : VR) (s : State) : Host.Outcome State Fault Refusal := ok (issue (.vAndn f) s (rawBin f (fun _ a b => a &&& ~~~ b)))
def execVShl (f : VR) (s : State) : Host.Outcome State Fault Refusal :=
  ok (issue (.vShl f) s (shiftOp f (fun _ a h => a <<< h)))
def execVShr (f : VR) (s : State) : Host.Outcome State Fault Refusal :=
  ok (issue (.vShr f) s (shiftOp f (fun _ a h => a >>> h)))
def execVSra (f : VR) (s : State) : Host.Outcome State Fault Refusal :=
  ok (issue (.vSra f) s (shiftOp f (fun n a h => (sext n a).sshiftRight h)))

/-! ## Compare and select (R141) -/

/-- The six relations, by MOD. -/
def intCmp (cc : Nat) (a b : Int) : Bool :=
  match cc with
  | 0 => a == b | 1 => a != b | 2 => decide (a < b) | 3 => decide (a ≤ b) | 4 => decide (b < a) | _ => decide (b ≤ a)

def execVCmp (f : VR) (s : State) : Host.Outcome State Fault Refusal :=
  ok (issue (.vCmp f) s (vrMask f true (fun t l =>
    let ty := f.ty.toNat
    (intCmp f.mod.toNat (intVal ty (readOp t ty (srcF f.a) l)) (intVal ty (readOp t ty (srcF f.b) l)), 0))))

/-- `v.sel`: the operand that a lane selects is the one its result depends on (R141, R363). -/
def vecSelect (f : VR) (s : State) : Res :=
  let ty := f.ty.toNat
  let m := execM s.cur f.pred.toNat
  let k := mreg s.cur (f.mod.toNat % 8)
  let la := lanesOf (m &&& k) s.cur.width
  let lb := lanesOf (m &&& ~~~ k) s.cur.width
  vecRun (byPred f.pred.toNat) (readsOf s.cur la (srcF f.a) (ty64 ty) ++ readsOf s.cur lb (srcF f.b) (ty64 ty)) (destTy ty f.vd.toNat)
    [srcF f.a, srcF f.b]
    (eachLane ty f.vd.toNat (fun t l =>
      if (mreg t (f.mod.toNat % 8)).getLsbD l then readOp t ty (srcF f.a) l else readOp t ty (srcF f.b) l)) s

def execVSel (f : VR) (s : State) : Host.Outcome State Fault Refusal := ok (issue (.vSel f) s (vecSelect f))

/-! ## Bit fields and counts (R142) -/

def rawUn (f : VR) (op : Nat → DWord → DWord) (s : State) : Res :=
  let ty := f.ty.toNat
  vrLanes f ty ty false (fun t l => (op (tyBits ty) (readOp t ty (srcF f.a) l), 0)) s

/-- a with its n bits reversed. -/
def brevBits (n : Nat) (x : DWord) : DWord :=
  BitVec.ofNat 64 (((List.range n).map (fun i => if x.getLsbD i then 2 ^ (n - 1 - i) else 0)).sum)

def execVClz (f : VR) (s : State) : Host.Outcome State Fault Refusal :=
  ok (issue (.vClz f) s (rawUn f (fun n a => BitVec.ofNat 64 (clzBits n a.toNat))))
def execVPopc (f : VR) (s : State) : Host.Outcome State Fault Refusal :=
  ok (issue (.vPopc f) s (rawUn f (fun n a => BitVec.ofNat 64 (popBits n a.toNat))))
def execVBrev (f : VR) (s : State) : Host.Outcome State Fault Refusal := ok (issue (.vBrev f) s (rawUn f brevBits))

/-- Width of a field: min(w, 32), reduced to fit. -/
def field32 (o w : Nat) : Nat := let w := min w 32; if 32 < o + w then 32 - o else w

/-- `v.bfe`. -/
def vecBfe (signed : Bool) (a b c : Word) : Word :=
  let o := b.toNat % 32
  let w := field32 o (c.toNat % 64)
  let x := a.toNat / 2 ^ o % 2 ^ w
  if signed && decide (0 < w) && decide (2 ^ (w - 1) ≤ x) then wrap 32 ((x : Int) - 2 ^ w) else BitVec.ofNat 32 x
/-- `v.bfi`. -/
def vecBfi (a b c : Word) : Word :=
  let o := c.toNat % 32
  let w := field32 o (c.toNat / 256 % 64)
  let mk : Word := BitVec.ofNat 32 ((2 ^ w - 1) * 2 ^ o)
  (b &&& ~~~ mk) ||| ((a <<< o) &&& mk)

def execVBfe (f : VF) (s : State) : Host.Outcome State Fault Refusal :=
  ok (issue (.vBfe f) s (vfInt f (vecBfe (f.ty.toNat == 4))))
def execVBfi (f : VF) (s : State) : Host.Outcome State Fault Refusal := ok (issue (.vBfi f) s (vfInt f vecBfi))

/-! ## Moves (R143) -/

def execVMov (f : VR) (s : State) : Host.Outcome State Fault Refusal :=
  ok (issue (.vMov f) s (rawUn f (fun _ a => if f.satna then invertSign f.ty.toNat a else a)))

/-- The immediate of `v.li`: bits [41:10]. -/
def liImm (f : VR) : Word := BitVec.ofNat 32 (srcVal f.a * 65536 + srcVal f.b)

def execVLi (f : VR) (s : State) : Host.Outcome State Fault Refusal :=
  ok (issue (.vLi f) s (fun s =>
    let ty := f.ty.toNat
    vecRun (byPred f.pred.toNat) [] (destTy ty f.vd.toNat) []
      (eachLane ty f.vd.toNat (fun _ _ => if ty = 4 then (liImm f).signExtend 64 else (liImm f).setWidth 64)) s))
def execVLane (f : VR) (s : State) : Host.Outcome State Fault Refusal :=
  ok (issue (.vLane f) s (fun s =>
    vecRun (byPred f.pred.toNat) [] [f.vd.toNat] [] (eachLane 0 f.vd.toNat (fun _ l => BitVec.ofNat 64 l)) s))

/-! ## Mask registers (R128, R129) -/

/-- Mask logic on every lane below W (R128). -/
def maskOp (f : SR) (op : Mask → Mask → Mask) (s : State) : Res :=
  let d := f.sd.toNat % 8
  if d = 0 then .trap s { cause := 3, detail := 4 }
  else .done (modCur s (bothCopies (fun t => setMreg t d (op (mreg t (f.sa.toNat % 8)) (mreg t (f.sb.toNat % 8))))))

def execMAnd (f : SR) (s : State) : Host.Outcome State Fault Refusal := ok (issue (.mAnd f) s (maskOp f (fun a b => a &&& b)))
def execMOr (f : SR) (s : State) : Host.Outcome State Fault Refusal := ok (issue (.mOr f) s (maskOp f (fun a b => a ||| b)))
def execMXor (f : SR) (s : State) : Host.Outcome State Fault Refusal := ok (issue (.mXor f) s (maskOp f (fun a b => a ^^^ b)))
def execMAndn (f : SR) (s : State) : Host.Outcome State Fault Refusal := ok (issue (.mAndn f) s (maskOp f (fun a b => a &&& ~~~ b)))
def execMNot (f : SR) (s : State) : Host.Outcome State Fault Refusal := ok (issue (.mNot f) s (maskOp f (fun a _ => ~~~ a)))
def execMMov (f : SR) (s : State) : Host.Outcome State Fault Refusal := ok (issue (.mMov f) s (maskOp f (fun a _ => a)))

def execMFrom (f : VR) (s : State) : Host.Outcome State Fault Refusal :=
  ok (issue (.mFrom f) s (vrMask f false (fun t l => (readOp32 t 0 (srcF f.a) l != 0, 0))))
def execMTo (f : VR) (s : State) : Host.Outcome State Fault Refusal :=
  ok (issue (.mTo f) s (fun s =>
    vecRun (byPred f.pred.toNat) [] [f.vd.toNat] [] (eachLane 0 f.vd.toNat (fun t l =>
      if (mreg t (f.a.reg.toNat % 8)).getLsbD l then 1 else 0)) s))
def execMPopc (f : SR) (s : State) : Host.Outcome State Fault Refusal :=
  ok (issue (.mPopc f) s (putScalar f.sd.toNat (fun t =>
    BitVec.ofNat 64 (lanesOf (activeM t (mreg t (f.sa.toNat % 8))) t.width).length)))
def execMFirst (f : SR) (s : State) : Host.Outcome State Fault Refusal :=
  ok (issue (.mFirst f) s (putScalar f.sd.toNat (fun t =>
    match lanesOf (activeM t (mreg t (f.sa.toNat % 8))) t.width with
    | l :: _ => BitVec.ofNat 64 l
    | [] => -1)))

end Sys2Proof.Machine
end

