-- ==== Sys2Proof/Machine/Access.lean ====
section
/-! DEFINITION. Memory accesses as long-latency operations: the checks of R162, what one issues, the order in which
accesses may be performed (R176, R250, R253), reads through the L1 (R163, R270 to R272), write events (R165, R251). -/

namespace Sys2Proof.Machine

/-! ## Running a step for a team -/

/-- Do something as team tid and give the turn back; nothing where there is no such team or it gives none. -/
def inTeam (s : State) (tid : Nat) (f : State → Option State) : State :=
  let s' := focus s tid
  if s'.cur.tid != tid || s'.cur.status == .absent then s
  else match f s' with
    | none => s
    | some u => focus u s.cur.tid

/-! ## Checking addresses (R162) -/

/-- What the checks give one address. -/
inductive AddrRes where
  | good (pa mt : Nat)
  | miss
  | bad (x : TrapInfo)
deriving DecidableEq, Repr

/-- The checks of a global access by a cell: `cached` is the DETAIL of Atomic Memory Type where normal cached memory is
required. -/
def checkGlobal (s : State) (ck : Nat) (w : Want) (align : Nat) (cached : Option Nat) (lane : Option Nat) (va : Nat) : AddrRes :=
  if 2 ^ 56 ≤ va then .bad { cause := 9, detail := 1, addr := va, lane := lane, replay := true }
  else if va % align ≠ 0 then .bad { cause := 7, addr := va, lane := lane }
  else match transl s ck va with
    | .miss => .miss
    | .fail => .bad { cause := 9, detail := (if w = .read then 3 else 4), addr := va, lane := lane, replay := true }
    | .hit l => match permFault l w (curLaunch s).d.priv with
      | some d => .bad { cause := 10, detail := d, addr := va, lane := lane, replay := true }
      | none => match cached with
        | some d => if l.mt ≠ 0 then .bad { cause := 0xB, detail := d, addr := va, lane := lane } else .good (leafPa l va) 0
        | none => .good (leafPa l va) l.mt

/-- The memory type that marks a vault access in an operation. -/
def vaultMt : Nat := 4

/-- The checks of a vault access (R36, R162). -/
def checkVault (key : Option Nat) (align : Nat) (lane : Option Nat) (va : Nat) : AddrRes :=
  if va % align ≠ 0 then .bad { cause := 7, addr := va, lane := lane }
  else match key with
    | none => .bad { cause := 8, addr := va, lane := lane }
    | some k => .good k vaultMt

/-- What checking the lanes of an instruction gives: their accesses, the first trap, or the walks to ask for. -/
inductive Checked where
  | all (l : List Acc)
  | trap (x : TrapInfo)
  | miss (l : List (Nat × Nat))

/-- Check lanes in ascending order: each gives its cell key, its address and what its checks say. A trap is taken once no
lower lane still waits for a walk. -/
def checkAll (f : Nat → Nat × Nat × AddrRes) : List Nat → List Acc → List (Nat × Nat) → Checked
  | [], acc, [] => .all acc.reverse
  | [], _, q => .miss q
  | l :: t, acc, q =>
    let (ck, va, r) := f l
    match r with
    | .good pa mt => checkAll f t ({ lane := l, va := va, pa := pa, mt := mt } :: acc) q
    | .miss => checkAll f t acc ((ck, va) :: q)
    | .bad x => match q with
      | [] => .trap x
      | _ => .miss q

/-- Ask for the walks that lanes wait for (R288). -/
def askWalks (s : State) (q : List (Nat × Nat)) : State := q.foldl (fun s e => requestWalk s e.1 s.cur.tid e.2) s

/-- The size of the page that a cell's translation of an address names. -/
def pageSize (s : State) (ck va : Nat) : Nat := match transl s ck va with | .hit l => l.size | _ => 65536

/-- A lane's global access of n bytes. -/
def laneGlobal (s : State) (f : MEM) (n : Nat) (w : Want) (cached : Option Nat) (l : Nat) : Nat × Nat × AddrRes :=
  let ck := ckey s.cur.die (laneCell s.cur l)
  let va := laneAddr s.cur f n l
  (ck, va, checkGlobal s ck w n cached (some l) va)

/-- A lane's vault access of n bytes. -/
def laneVaultRes (s : State) (f : MEM) (n l : Nat) : Nat × Nat × AddrRes :=
  let va := laneVaddr s.cur f n l
  (0, va, checkVault (laneVault s l va n) n (some l) va)

/-! ## Data of registers -/

/-- The k registers from vd of a lane as one number. -/
def regsVal (t : Team) (vd k l : Nat) : Nat :=
  (List.range k).foldr (fun j x => (vreg t (vd + j) l).toNat + 2 ^ 32 * x) 0

/-- Registers that n bytes take. -/
def regsFor (n : Nat) : Nat := (n + 3) / 4

/-- Write a number over the k registers from vd of a lane. -/
def putRegs (vd k l : Nat) (x : Nat) (r : Regs) : Regs :=
  (List.range k).foldl (fun r j => r.vset (vd + j) l (BitVec.ofNat 32 (x / 2 ^ (32 * j)))) r

/-- Poison the k registers from vd of a lane (R363). -/
def poisonRegs (vd k l : Nat) (own : Bool) (r : Regs) : Regs :=
  (List.range k).foldl (fun r j => r.vpoison (vd + j) l own) r

/-! ## Issue -/

/-- The size of the page of an access: a per-lane-offset access goes out by page (R277). -/
def lanePage (s : State) (f : MEM) (a : Acc) : Nat :=
  if f.ox && a.mt != vaultMt then pageSize s (ckey s.cur.die (laneCell s.cur a.lane)) a.va else a.page

/-- Issue a per-lane access: the lanes that consume poison are left out and die, the others' addresses are checked before any
access leaves the cell (R162, R363); `data` is what a lane sends, `pre` and `post` stand around it in the order of issue. -/
def issueLanes (f : MEM) (o : Op) (regs : List Nat) (chk : State → Nat → Nat × Nat × AddrRes) (data : Team → Nat → List Byte)
    (s : State) (pre post : State → State := id) : Res :=
  let m := execM s.cur 0
  let ls := lanesOf m s.cur.width
  let (e, s) := consume s (ls.flatMap (fun l => regs.map (fun r => (l, r, l))))
  let act := m &&& ~~~ e.lanes
  match checkAll (chk s) (lanesOf act s.cur.width) [] [] with
  | .trap x => .trap s x
  | .miss q => .stall (askWalks s q)
  | .all l =>
    let l := l.map (fun a => { a with data := data s.cur a.lane, page := lanePage s f a })
    .done (dieOff (post (addOp (pre s) f.fs { o with stream := f.stream.toNat, scope := f.scope.toNat, mask := act, acc := l }))
      e (instrPc (clauseOf s)))

/-! ## Ordering -/

/-- The operation reads memory as a load, atomic or `ldv` (R248, R253). -/
def readsMem : Instr → Bool
  | .ld _ | .lds _ | .ldv _ | .aCasv _ | .aAdd _ | .aMin _ | .aMax _ | .aAnd _ | .aOr _ | .aXor _ | .aXchg _ | .aCas _ | .aFadd _
  | .aInc _ | .swRead _ | .swWait _ | .qPush _ | .qPop _ | .valset _ | .sLd _ _ => true
  | .txSmp _ | .txLd _ | .rayTrace _ | .rayCont _ => true
  | .mxLd f => f.mod == 0
  | _ => false

/-- The operation writes memory. -/
def writesMem : Instr → Bool
  | .st _ | .sts _ | .aCasv _ | .aAdd _ | .aMin _ | .aMax _ | .aAnd _ | .aOr _ | .aXor _ | .aXchg _ | .aCas _ | .aFadd _ | .aInc _
  | .disc _ | .wb _ | .swArm _ | .swAdd _ | .qInit _ | .qPush _ | .qPop _ | .sSt _ _ | .mxSt _ | .mxSlice _ | .mxRc _ => true
  | .mxBnd f => f.imm != 0
  | _ => false

/-- The kind of an operation that orders others: 0 acquire, 1 release, 2 both; and the streams that it covers. `enq` acts as a
release until it reads its descriptor (R231). -/
def fenceOf (o : Op) : Option (Nat × Nat) :=
  match o.i, o.arg with
  | .fence _, k :: ss :: _ => some (k, ss)
  | .fenceX _, k :: ss :: _ => some (k, ss)
  | .barArr _, k :: ss :: _ => some (k, ss)
  | .enq _, _ => if o.started then none else some (1, 2 ^ o.stream)
  | _, _ => none

def inStreams (ss n : Nat) : Bool := ss.testBit n

/-- A matrix, texture or ray instruction, whose accesses are performed as it completes (R193, R237). -/
def isMatrix : Instr → Bool
  | .mxLd _ | .mxSt _ | .mxSlice _ | .mxRc _ | .mxBnd _ | .txSmp _ | .txLd _ | .rayTrace _ | .rayCont _ => true
  | _ => false

/-- Every part of the access has taken its step; of a texture or ray operation, all that it reads has been read. -/
def opPerformed (o : Op) : Bool := !isEngine o.i && (if isMatrix o.i then o.ready.isSome else o.acc.all (·.done))

/-- The lines within their pages of the global memory that an operation touches; none where they are not known before it is performed, as those of
a ray operation (log 78). -/
def pageLines (o : Op) : Option (List Nat) :=
  match o.i with
  | .rayTrace _ | .rayCont _ => none
  | .txSmp _ | .txLd _ => some (o.reads.map (fun r => r.2 % 65536 / 128))
  | _ => some ((o.acc.filter (fun a => !a.done && a.mt != vaultMt)).map (fun a => a.va % 65536 / 128))

/-- The texels or nodes of a query are read as it is performed, at pages that are translated then. -/
def isQuery : Instr → Bool
  | .txSmp _ | .txLd _ | .rayTrace _ | .rayCont _ => true
  | _ => false

/-- Two operations touch a common line of memory; of a query and another, a common line within a page. -/
def shareLine (a b : Op) : Bool :=
  if isQuery a.i || isQuery b.i then (match pageLines a, pageLines b with
    | some l, some m => l.any m.contains
    | none, some m => !m.isEmpty
    | some l, none => !l.isEmpty
    | none, none => true)
  else a.acc.any (fun x => !x.done && b.acc.any (fun y => (x.mt == vaultMt) == (y.mt == vaultMt) && x.pa / 128 == y.pa / 128))

/-- An engine command that reads global memory: its reads are ordered as an `ld` of its stream and scope would be (R219). -/
def engReads : Instr → Bool
  | .cp f => f.mod.toNat % 4 == 0
  | .cp2d f => f.mod.toNat % 4 == 0
  | .skimG _ => true
  | _ => false

/-- An access counts as a read, as a write, in die order (R253). -/
def dieRead (i : Instr) : Bool := readsMem i
def dieWrite (i : Instr) : Bool := writesMem i || (match i with | .ldv _ => true | _ => false)

/-- The extent in which an earlier operation e of the team orders operation o after it, as a scope code (R252): that of a fence which has not
completed (R176, R255; an acquire orders every later access of its streams), the die for the die order (R253), and every observer for two reads
of one line on one stream (R250), two accesses in die order that touch one line, or an `s.ld` after an `s.st` of one line (R78, log 5); none where
nothing orders them. -/
def orderScope (e o : Op) : Option Nat :=
  let fence : Option Nat := match fenceOf e with
    | some (k, ss) => if inStreams ss o.stream && (writesMem o.i || isEngine o.i || (k != 1 && readsMem o.i)) then some (if isEngine e.i then 5 else e.scope) else none
    | none => none
  let pending := !opPerformed e && e.stream == o.stream && (readsMem e.i || writesMem e.i)
  let lines : Option Nat := if pending && readsMem e.i && readsMem o.i && shareLine e o then some 5 else none
  let own : Option Nat := match e.i, o.i with
    | .sSt _ _, .sLd _ _ => if pending && shareLine e o then some 5 else none
    | _, _ => none
  let die : Option Nat :=
    if pending && decide (3 ≤ e.scope) && decide (3 ≤ o.scope) &&
        ((dieWrite e.i && dieWrite o.i) || (dieRead e.i && (dieRead o.i || dieWrite o.i || engReads o.i)))
    then some (if shareLine e o then 5 else 3) else none
  [fence, lines, own, die].foldl (fun m x => match m, x with | some a, some b => some (max a b) | some a, none => some a | none, y => y) none

/-- The operations that are yet to be ordered before o, each with the scope of its order. -/
def ordersOf (t : Team) (o : Op) : List (Nat × Nat) :=
  t.ops.filterMap (fun e => if e.id < o.id then (orderScope e o).map (fun x => (e.id, x)) else none)

/-- Another team stands inside the extent of a scope around a team (R252). -/
def inExtent (t u : Team) (x : Nat) : Bool :=
  match x with
  | 0 => t.tid == u.tid
  | 1 => t.blk == u.blk
  | 2 => t.die == u.die && clusterOf t.cell == clusterOf u.cell
  | 3 => t.die == u.die
  | _ => true

/-- An older operation that an access ran ahead of is still to come. -/
def stillOwed (t : Team) (p : Nat × Nat) : Bool := t.ops.any (fun q => q.id == p.1 && ((fenceOf q).isSome || !opPerformed q))

/-- A line of an access, vault and global lines apart. -/
def lineCode (a : Acc) : Nat := 2 * (a.pa / 128) + (if a.mt = vaultMt then 1 else 0)

/-- An access and one that ran ahead touch a line that one of them writes; an engine or matrix operation may touch any. -/
def touches (e : Early) (o : Op) : Bool :=
  isEngine o.i || isMatrix o.i || ((e.wr || writesMem o.i) && o.acc.any (fun a => !a.done && e.lines.contains (lineCode a)))

/-- An access of team t that ran ahead keeps an operation of team u waiting: u is an observer of an order that is still owed (R252, R253, R256).
Of t itself only later operations wait. -/
def keepsWaiting (t u : Team) (o : Op) (e : Early) : Bool :=
  touches e o && (if t.tid == u.tid then decide (e.id < o.id) && e.preds.any (stillOwed t)
    else e.preds.any (fun p => inExtent t u p.2 && stillOwed t p))

/-- Nothing that ran ahead keeps an operation of the current team waiting. -/
def unobserved (s : State) (o : Op) : Bool := (allTeams s).all (fun t => !t.early.any (keepsWaiting t s.cur o))

/-- The same for an operation of any team, which its team and number name. -/
def unseen (s : State) (e : Nat × Nat) : Bool :=
  let u := focus s e.1
  (u.cur.ops.filter (fun o => o.id == e.2)).all (unobserved u)

/-- The last operation that an access of a team which ran ahead still waits for, plus one; 0 where there is none. -/
def owedBelow (t : Team) : Nat := ((t.early.flatMap (fun e => (e.preds.filter (stillOwed t)).map (fun p => p.1 + 1)))).foldl max 0

/-- An operation meets one that another team's early access waits for, which must not wait for it in turn. -/
def meetsOwed (o p : Op) : Bool := isEngine p.i || isMatrix p.i || ((writesMem p.i || writesMem o.i) && shareLine p o)

/-- An operation may be performed before older ones that precede it only for observers inside an extent narrower than the device: no other team's
early access waits for an operation that would have to wait for this one (log 5). -/
def mayGoEarly (s : State) (o : Op) : Bool :=
  !isEngine o.i && !isMatrix o.i && (ordersOf s.cur o).all (fun p => decide (p.2 < 4))
    && !s.cur.ops.any (fun q => decide (q.id < o.id) && (isEngine q.i || isMatrix q.i))
    && (allTeams s).all (fun u => u.tid == s.cur.tid || u.die != s.cur.die || !u.ops.any (fun p => decide (p.id < owedBelow u) && meetsOwed o p))

/-- An operation of the current team may be performed: what it would be seen by allows it, and every older operation that precedes it has been
performed or may be run ahead of. -/
def gateOpen (s : State) (o : Op) : Bool := unobserved s o && ((ordersOf s.cur o).isEmpty || mayGoEarly s o)

/-- What an operation runs ahead of as it is performed is noted (R252, R253). -/
def noteEarly (s : State) (o : Op) : State :=
  let p := ordersOf s.cur o
  if p.isEmpty then s
  else modCur s (fun t => { t with early := { id := o.id, preds := p, lines := distinct (o.acc.map lineCode), wr := writesMem o.i }
                                              :: t.early.filter (fun e => e.id != o.id && e.preds.any (stillOwed t)) })

/-- The same for an access that the team performs at issue, which takes a number of its own then. -/
def noteNow (s : State) (o : Op) : State :=
  if (ordersOf s.cur o).isEmpty then s else modCur (noteEarly s o) (fun t => { t with nextOp := t.nextOp + 1 })

/-- An arrival at a vault key may take its step: no access that ran ahead on the die waits at its line. -/
def arrivalOpen (s : State) (key : Nat) : Bool :=
  (allTeams s).all (fun t => t.die != key / 2 ^ 18 / 4608 || !t.early.any (fun e => e.lines.contains (2 * (key / 128) + 1) && e.preds.any (stillOwed t)))

/-- A fence's condition (R176): the covered accesses issued before it are performed, or have returned. -/
def fenceMet (t : Team) (o : Op) (k ss : Nat) : Bool :=
  t.ops.all (fun e => !(decide (e.id < o.id) && inStreams ss e.stream)
    || ((k == 0 || opPerformed e || !(readsMem e.i || writesMem e.i || isEngine e.i)) && (k == 1 || !readsMem e.i)))

/-- The cells of the team drop every line of their L1s (R176). -/
def clearL1s (s : State) : State := (cellsOf s.cur).foldl (fun s c => l1Clear s (ckey s.cur.die c)) s
where
  cellsOf (t : Team) : List Nat := if t.pair then [t.cell, t.cell + 1] else [t.cell]

/-- The acquire part of a fence at a scope (R176). -/
def acquireAt (s : State) (k scope : Nat) : State := if k ≠ 1 ∧ 2 ≤ scope then clearL1s s else s

/-- Add a fence that no flag counts: the ordering part of an atomic (R174), of `enq`, or of a barrier's end (R189). -/
def addFence (s : State) (k scope ss : Nat) : State :=
  let c := clauseOf s
  modCur (acquireAt s k scope) (fun t =>
    { t with ops := t.ops ++ [{ id := t.nextOp, i := .fence ⟨false, false, 0, 0, 0, 0, 0, 0, 0, 0⟩, pc := instrPc c, hdr := c.hdr,
                                syn := c.syn, scope := scope, arg := [k, ss] }]
             nextOp := t.nextOp + 1 })

/-! ## Reads -/

/-- The cell of a lane, as a key. -/
def laneCk (t : Team) (l : Nat) : Nat := ckey t.die (laneCell t l)

/-- The 16-byte words of a line that n bytes at pa touch, as bits. -/
def lineWords (pa n : Nat) : Nat := ((List.range 8).filter (fun w => decide (16 * w < pa % 128 + n) && decide (pa % 128 < 16 * w + 16))).foldl (fun x w => x ||| 2 ^ w) 0

/-- The run of words that covers a set of words of a line: its first word and its length. -/
def wordRun (x : Nat) : Nat × Nat :=
  let l := (List.range 8).filter (fun w => x.testBit w)
  match l.head?, l.getLast? with
  | some a, some b => (a, b + 1 - a)
  | _, _ => (0, 8)

/-- After a miss, one block that covers the missed words and the predicted ones is allocated (R163, R270); a line that holds
a poisoned word is not kept (R361). -/
def allocate (s : State) (ck pc line missed pol mt : Nat) : State :=
  if pol = 3 ∨ mt ≠ 0 ∨ missed = 0 then s
  else
    let e := Config.predictorIndex (ck / 4608) (ck % 4608) pc % 256
    let want := match NMap.get none (cellOf s ck).pred e with
      | none => 255
      | some w => w ||| missed
    let (a, n) := wordRun want
    let pa := 128 * line + 16 * a
    let (d, s) := readPiece s pa (16 * n) mt
    let s := modCell s ck (fun c => { c with pred := NMap.set none c.pred e (some missed) })
    if anyPois d then s else l1Fill s ck { pa := pa, data := plain d, pol := pol }

/-- A home-served read of a lane leaves no older copy of its line in the lane's L1: the lane's later reads return no older write event (R250,
log 69). -/
def homeServed (s : State) (ck pa n mt : Nat) : List PByte × State := readPhys (l1Drop s ck (pa / 128)) pa n mt

/-- A load's part: from the L1 where its words are present, else from the home (R163, R272). -/
def readThrough (s : State) (ck pa n pol mt : Nat) : List PByte × Bool × State :=
  if pol = 3 ∨ mt ≠ 0 then
    let (d, s) := homeServed s ck pa n mt
    (d, true, s)
  else match l1Read s ck pa n with
    | (some d, s) => (clean d, false, s)
    | (none, s) =>
      let (d, s) := readPhys s pa n mt
      (d, true, s)

/-- What performing a part of an operation gives: its accesses, lanes doomed by a lost member, lanes that receive poison, and
of these the ones whose poison lay in the cell's own storage. -/
structure Got where
  acc   : List Acc
  kills : List Nat := []
  pois  : List Nat := []
  pown  : List Nat := []
  team  : Bool := false
deriving DecidableEq, Repr

/-- Loads of the lanes of one line: each from its cell's L1 or the home, then one block for each cell that missed. -/
def readGroup (s : State) (pc n pol : Nat) (g : List Acc) : State × Got :=
  let (s, acc, ms) := g.foldl (fun (r : State × List (Acc × Bool) × List (Nat × Nat)) a =>
    let (s, l, ms) := r
    let ck := laneCk s.cur a.lane
    let (d, missed, s) := readThrough s ck a.pa n pol a.mt
    (s, l ++ [({ a with data := plain d, done := true }, anyPois d)], if missed then ms ++ [(ck, lineWords a.pa n)] else ms)) (s, [], [])
  let line := match g with | [] => 0 | a :: _ => a.pa / 128
  let mt := match g with | [] => 0 | a :: _ => a.mt
  let s := (distinct (ms.map (·.1))).foldl (fun s ck =>
    allocate s ck pc line ((ms.filter (fun e => e.1 == ck)).foldl (fun x e => x ||| e.2) 0) pol mt) s
  (s, { acc := acc.map (·.1), pois := (acc.filter (·.2)).map (fun e => e.1.lane) })

/-- A lane's read of a vault. -/
def vaultPart (s : State) (a : Acc) (n : Nat) : State × Got :=
  let (d, s) := readVault s a.pa n (launchId s s.cur.blk) a.lane
  let bad := anyPois d
  let own := a.pa / 2 ^ 18 == laneCk s.cur a.lane
  (s, { acc := [{ a with data := plain d, done := true }], pois := if bad then [a.lane] else [], pown := if bad && own then [a.lane] else [] })

/-! ## Write events -/

/-- A write event of the die removes its line from every L1 of the die before it is performed (R251). -/
def dieWriteEvent (s : State) (die line : Nat) : State := l1Inval s die line

/-- A store's write of listed bytes to one line: every L1 of the die loses the line, the issuing cell's own updated copy included, before the
write event is performed (R163, R251, R271; log 51). -/
def storeLine (s : State) (mt : Nat) (w : List (Nat × PByte)) : State :=
  match w with
  | [] => s
  | (pa, _) :: _ => writePiece (dieWriteEvent s s.cur.die (pa / 128)) mt w

/-- The bytes of an access at rising addresses. -/
def bytesAt (pa : Nat) (d : List Byte) : List (Nat × PByte) := (List.range d.length).map (fun i => (pa + i, (d.getD i 0, false)))

/-- Stores of the lanes of one line: one write event, ascending lanes (R164, R165); nothing at a lost member (R365). -/
def writeGroup (s : State) (g : List Acc) : State × Got :=
  let acc := g.map (fun a => { a with done := true })
  match g with
  | [] => (s, { acc := [] })
  | a :: _ =>
    if a.mt != 2 && lostAt s a.pa then (s, { acc := acc, kills := g.map (·.lane) })
    else (storeLine s a.mt (g.flatMap (fun b => bytesAt b.pa b.data)), { acc := acc })

/-- A lane's write to a vault. -/
def vaultWrite (s : State) (a : Acc) : State × Got :=
  (writeVault s a.pa (clean a.data), { acc := [{ a with done := true }] })

/-! ## Atomics (R173) -/

/-- An atomic of a lane at its home, or nothing where the member is lost. `f` gives the bytes to write, if any. -/
def atomicPart (s : State) (a : Acc) (n : Nat) (f : Nat → Nat → Option Nat) : State × Got :=
  if lostAt s a.pa then (s, { acc := [{ a with data := [], done := true }], kills := [a.lane] })
  else
    let (d, s) := homeServed s (laneCk s.cur a.lane) a.pa n a.mt
    if anyPois d then (s, { acc := [{ a with done := true }], pois := [a.lane] })
    else
      let old := bytesVal (plain d)
      let acc := [{ a with data := plain d, done := true }]
      match f old (bytesVal a.data) with
      | none => (s, { acc := acc })
      | some new => (writePiece (dieWriteEvent s s.cur.die (a.pa / 128)) a.mt (bytesAt a.pa (valBytes n new)), { acc := acc })

/-- The version of a line at its home. -/
def versionAt (s : State) (pa : Nat) : Nat × State :=
  match locate s pa with
  | none => (0, s)
  | some (site, off) =>
    let (v, s) := homeVer s site (off / 128)
    (v.toNat, s)

/-- `ldv` of a lane: the version and the data together (R168). -/
def versionedPart (s : State) (a : Acc) (n : Nat) : State × Got :=
  if lostAt s a.pa then (s, { acc := [{ a with done := true }], pois := [a.lane] })
  else
    let (v, s) := versionAt s a.pa
    let (d, s) := homeServed s (laneCk s.cur a.lane) a.pa n a.mt
    (s, { acc := [{ a with data := valBytes 8 v ++ plain d, done := true }], pois := if anyPois d then [a.lane] else [] })

/-- `a.casv` of a lane: its data hold the expected version and the new value (R168). -/
def casvPart (s : State) (a : Acc) (n : Nat) : State × Got :=
  if lostAt s a.pa then (s, { acc := [{ a with data := [], done := true }], kills := [a.lane] })
  else
    let (v, s) := versionAt s a.pa
    let (d, s) := homeServed s (laneCk s.cur a.lane) a.pa n a.mt
    if anyPois d then (s, { acc := [{ a with done := true }], pois := [a.lane] })
    else
      let acc := [{ a with data := valBytes 8 v ++ plain d, done := true }]
      if v = bytesVal (a.data.take 8) then
        (writePiece (dieWriteEvent s s.cur.die (a.pa / 128)) a.mt (bytesAt a.pa ((a.data.drop 8).take n)), { acc := acc })
      else (s, { acc := acc })

/-! ## Lines: `prf`, `disc`, `wb` (R166, R177) -/

/-- Drop the slice's copy of a line and raise its version (R177, R274). -/
def discLine (s : State) (site x : Nat) : State :=
  let (l, s) := homeLine s site x
  putLine (unscrub s site x) site { l with ver := l.ver + 1, st := 2, data := [], pois := 0 }

/-- Write a dirty line to HBM; it stays valid, at its version (R177). -/
def wbLine (s : State) (site x : Nat) : State :=
  match resident? s site x with
  | none => s
  | some l =>
    if l.st = 1 then
      let (l, s) := findSlice s site l
      putLine (hbmPutLine s site x l.data l.pois) site { l with st := 0 }
    else s

def discPart (s : State) (a : Acc) : State × Got :=
  match locate s a.pa with
  | none => (s, { acc := [{ a with done := true }], kills := [a.lane] })
  | some (site, off) =>
    if (siteOf s site).lost then (s, { acc := [{ a with done := true }], kills := [a.lane] })
    else (discLine (dieWriteEvent s s.cur.die (a.pa / 128)) site (off / 128), { acc := [{ a with done := true }] })

def wbPart (s : State) (a : Acc) : State × Got :=
  match locate s a.pa with
  | none => (s, { acc := [{ a with done := true }], kills := [a.lane] })
  | some (site, off) =>
    if (siteOf s site).lost then (s, { acc := [{ a with done := true }], kills := [a.lane] })
    else (wbLine s site (off / 128), { acc := [{ a with done := true }] })

/-- A prefetched line comes to its home, and to the L1 unless the policy is no-allocate. -/
def prfPart (s : State) (a : Acc) (pol : Nat) : State × Got :=
  let got : Got := { acc := [{ a with done := true }] }
  if a.mt ≠ 0 || lostAt s a.pa then (s, got)
  else
    let (d, s) := readPiece s (a.pa / 128 * 128) 128 0
    if pol = 3 || anyPois d then (s, got)
    else (l1Fill s (laneCk s.cur a.lane) { pa := a.pa / 128 * 128, data := plain d, pol := pol }, got)

end Sys2Proof.Machine
end

