-- ==== Sys2Proof/Machine/Memory.lean ====
section
/-! DEFINITION. Loads, stores and prefetch, versioned accesses, `valset`, atomics, fences, `disc` and `wb` (R161 to R177),
and the scalar load and store (R115, R116): what each issues, and what each part of it does where it is performed. -/

namespace Sys2Proof.Machine

/-! ## Loads and stores (R166, R167) -/

/-- The value that a load of a width code writes, extended (R166): its number of registers and the number. -/
def extendLoad (w x : Nat) : Nat :=
  match w with
  | 5 => ((BitVec.ofNat 8 x).signExtend 32).toNat
  | 6 => ((BitVec.ofNat 16 x).signExtend 32).toNat
  | _ => x

def execLd (f : MEM) (s : State) : Host.Outcome State Fault Refusal :=
  ok (issue (.ld f) s (issueLanes f { i := .ld f } (memVoff f)
    (fun s => laneGlobal s f (memBytes f.width.toNat) .read none) (fun _ _ => [])))

/-- The bytes that a store of a lane sends. -/
def storeBytes (f : MEM) (t : Team) (l : Nat) : List Byte :=
  let n := memBytes f.width.toNat
  valBytes n (regsVal t f.vd.toNat (regsFor n) l)

def execSt (f : MEM) (s : State) : Host.Outcome State Fault Refusal :=
  ok (issue (.st f) s (issueLanes f { i := .st f } (dataRegs f.width.toNat f.vd.toNat ++ memVoff f)
    (fun s => laneGlobal s f (memBytes f.width.toNat) .write none) (storeBytes f)))

def execLds (f : MEM) (s : State) : Host.Outcome State Fault Refusal :=
  ok (issue (.lds f) s (issueLanes f { i := .lds f } (memVoff f)
    (fun s => laneVaultRes s f (memBytes f.width.toNat)) (fun _ _ => [])))

def execSts (f : MEM) (s : State) : Host.Outcome State Fault Refusal :=
  ok (issue (.sts f) s (issueLanes f { i := .sts f } (dataRegs f.width.toNat f.vd.toNat ++ memVoff f)
    (fun s => laneVaultRes s f (memBytes f.width.toNat)) (storeBytes f)))

/-! ## Accesses that act on lines: once for the team, or per lane (R161) -/

/-- Issue `prf`, `disc` or `wb`: `drop` drops what fails a check. -/
def issueLines (f : MEM) (o : Op) (w : Want) (cached : Option Nat) (drop : Bool) (s : State) : Res :=
  let t := s.cur
  let m := execM t 0
  let ls := if f.ox then lanesOf m t.width else []
  let (e, s) := consume s (if f.ox then ls.map (fun l => (l, f.voff.toNat, l)) else [])
  let act := m &&& ~~~ e.lanes
  let o := { o with stream := f.stream.toNat, scope := f.scope.toNat, mask := act, arg := [if f.ox then 1 else 0] }
  let at_ (s : State) (l : Nat) : Nat × Nat × AddrRes :=
    let lane := if f.ox then some l else none
    let va := if f.ox then laneAddr s.cur f 0 l else teamAddr s.cur f
    let ck := ckey s.cur.die (if f.ox then laneCell s.cur l else s.cur.cell)
    let r := checkGlobal s ck w 1 cached lane va
    (ck, va, match r with | .bad _ => if drop then .good (2 ^ 60) 3 else r | r => r)
  let todo := if f.ox then lanesOf act t.width else if m = 0 then [] else [0]
  match checkAll (at_ s) todo [] [] with
  | .trap x => .trap s x
  | .miss q => .stall (askWalks s q)
  | .all l => .done (dieOff (addOp s f.fs { o with acc := (l.filter (fun a => a.mt != 3)).map (fun a => { a with page := lanePage s f a }) }) e (instrPc (clauseOf s)))

def execPrf (f : MEM) (s : State) : Host.Outcome State Fault Refusal :=
  ok (issue (.prf f) s (issueLines f { i := .prf f } .read none true))
def execDisc (f : MEM) (s : State) : Host.Outcome State Fault Refusal :=
  ok (issue (.disc f) s (issueLines f { i := .disc f } .write (some 2) false))
def execWb (f : MEM) (s : State) : Host.Outcome State Fault Refusal :=
  ok (issue (.wb f) s (issueLines f { i := .wb f } .read (some 2) false))

/-! ## Versions (R168 to R171) -/

def verBytes (f : MEM) : Nat := memBytes f.width.toNat

def execLdv (f : MEM) (s : State) : Host.Outcome State Fault Refusal :=
  ok (issue (.ldv f) s (issueLanes f { i := .ldv f } (memVoff f)
    (fun s => laneGlobal s f (verBytes f) .read (some 1)) (fun _ _ => [])))

/-- Issue an atomic with its ordering (R174): a release before it, an acquire after it, on its own stream. -/
def issueAtomic (f : MEM) (i : Instr) (n : Nat) (regs : List Nat) (data : Team → Nat → List Byte) (s : State) : Res :=
  let ord := f.policy.toNat
  let fence (k : Nat) (s : State) : State := addFence s k f.scope.toNat (2 ^ f.stream.toNat)
  issueLanes f { i := i } (regs ++ memVoff f) (fun s => laneGlobal s f n .atomic (some 1)) data s
    (if 2 ≤ ord then fence 1 else id) (if ord % 2 = 1 then fence 0 else id)

def execACasv (f : MEM) (s : State) : Host.Outcome State Fault Refusal :=
  ok (issue (.aCasv f) s (issueAtomic f (.aCasv f) (verBytes f) (regRun f.vd.toNat (if f.width.toNat = 3 then 4 else 3))
    (fun t l => valBytes 8 (regsVal t f.vd.toNat 2 l) ++ valBytes (verBytes f) (regsVal t (f.vd.toNat + 2) 2 l))))

/-- The first byte of a vault range that fails R36. -/
def firstBad (s : State) (a n : Nat) : Nat := ((List.range n).find? (fun i => (teamVault s (a + i) 1).isNone)).getD 0 + a

/-- An `ldv` of the team has not completed (R170). -/
def versionsPending (t : Team) : Bool := t.ops.any (fun o => match o.i with | .ldv _ => true | _ => false)

/-- `valset`: the table is read and checked once every earlier `ldv` has completed (R170). -/
def issueValset (f : MEM) (s : State) : Res :=
  let a := teamVaddr s.cur f
  let act := execM s.cur 0
  let o : Op := { i := .valset f, stream := f.stream.toNat, scope := f.scope.toNat, mask := act }
  if versionsPending s.cur then .stall s
  else if a % 16 ≠ 0 then .trap s { cause := 7, addr := a }
  else match teamVault s a 16 with
    | none => .trap s { cause := 8, addr := a }
    | some k =>
      let (h, s) := readVault s k 16
      if anyPois h then .done (killBy s (instrPc (clauseOf s)) k)
      else
        let n := bytesVal (plain h)
        if n = 0 ∨ 32 < n then .trap s { cause := 3, detail := 7 }
        else match teamVault s a (16 + 16 * n) with
          | none => .trap s { cause := 8, addr := firstBad s a (16 + 16 * n) }
          | some k =>
            let (d, s) := readVault s (k + 16) (16 * n)
            if anyPois d then .done (killBy s (instrPc (clauseOf s)) k)
            else
              let ent (i : Nat) : Nat := bytesVal ((plain d).drop (16 * i) |>.take 16)
              let ck := ckey s.cur.die s.cur.cell
              let look (i : Nat) : Nat × Nat × AddrRes :=
                (ck, ent i % 2 ^ 64, checkGlobal s ck .read 1 (some 1) none (ent i % 2 ^ 64))
              match checkAll look (List.range n) [] [] with
              | .trap x => .trap s x
              | .miss q => .stall (askWalks s q)
              | .all l => .done (addOp s f.fs { o with acc := l.map (fun a => { a with data := valBytes 8 (ent a.lane / 2 ^ 64) }) })

def execValset (f : MEM) (s : State) : Host.Outcome State Fault Refusal := ok (issue (.valset f) s (issueValset f))

/-! ## Atomics (R172, R173) -/

/-- Bytes of an atomic type. -/
def atomBytes (w : Nat) : Nat := if w = 3 ∨ w = 6 ∨ w = 1 then 8 else 4

def plainAtomic (i : Instr) (f : MEM) (s : State) : Res :=
  let n := atomBytes f.width.toNat
  issueAtomic f i n (regRun f.vd.toNat (n / 4)) (fun t l => valBytes n (regsVal t f.vd.toNat (n / 4) l)) s

def execAAdd (f : MEM) (s : State) : Host.Outcome State Fault Refusal := ok (issue (.aAdd f) s (plainAtomic (.aAdd f) f))
def execAMin (f : MEM) (s : State) : Host.Outcome State Fault Refusal := ok (issue (.aMin f) s (plainAtomic (.aMin f) f))
def execAMax (f : MEM) (s : State) : Host.Outcome State Fault Refusal := ok (issue (.aMax f) s (plainAtomic (.aMax f) f))
def execAAnd (f : MEM) (s : State) : Host.Outcome State Fault Refusal := ok (issue (.aAnd f) s (plainAtomic (.aAnd f) f))
def execAOr (f : MEM) (s : State) : Host.Outcome State Fault Refusal := ok (issue (.aOr f) s (plainAtomic (.aOr f) f))
def execAXor (f : MEM) (s : State) : Host.Outcome State Fault Refusal := ok (issue (.aXor f) s (plainAtomic (.aXor f) f))
def execAXchg (f : MEM) (s : State) : Host.Outcome State Fault Refusal := ok (issue (.aXchg f) s (plainAtomic (.aXchg f) f))
def execAInc (f : MEM) (s : State) : Host.Outcome State Fault Refusal := ok (issue (.aInc f) s (plainAtomic (.aInc f) f))
def execAFadd (f : MEM) (s : State) : Host.Outcome State Fault Refusal := ok (issue (.aFadd f) s (plainAtomic (.aFadd f) f))
/-- The compare value, then the new value. -/
def execACas (f : MEM) (s : State) : Host.Outcome State Fault Refusal :=
  let n := atomBytes f.width.toNat
  ok (issue (.aCas f) s (issueAtomic f (.aCas f) n (regRun f.vd.toNat (n / 2))
    (fun t l => valBytes (2 * n) (regsVal t f.vd.toNat (n / 2) l))))

/-- Signed reading of a value of n bytes. -/
def sgn (n x : Nat) : Int := if x < 2 ^ (8 * n - 1) then x else (x : Int) - 2 ^ (8 * n)

/-- `new` (R173) from the old value and the operand; none: no write. -/
def atomNew (i : Instr) (n old x : Nat) : Option Nat :=
  match i with
  | .aAdd _ => some ((old + x) % 2 ^ (8 * n))
  | .aMin f => some (if f.width.toNat ≥ 5 then (if sgn n old ≤ sgn n x then old else x) else min old x)
  | .aMax f => some (if f.width.toNat ≥ 5 then (if sgn n old ≤ sgn n x then x else old) else max old x)
  | .aAnd _ => some (old &&& x)
  | .aOr _ => some (old ||| x)
  | .aXor _ => some (old ^^^ x)
  | .aXchg _ => some x
  | .aCas _ => if old = x % 2 ^ (8 * n) then some (x / 2 ^ (8 * n)) else none
  | .aFadd _ => 
    let fm := if n = 8 then fmtF64 else fmtF32
    some (fAdd fm 0 false (fm.value old) (fm.value x)).1
  | .aInc _ => some (if x ≤ old then 0 else old + 1)
  | _ => none

/-! ## Fences (R175, R176) -/

/-- Issue a fence of a kind on a set of streams; an acquire clears the cell's L1 at cluster scope or wider. -/
def issueFence (f : MEM) (i : Instr) (ss : Nat) (s : State) : Res :=
  let k := f.width.toNat
  .done (acquireAt (addOp s f.fs { i := i, stream := f.stream.toNat, scope := f.scope.toNat, mask := execM s.cur 0, arg := [k, ss] })
    k f.scope.toNat)

def execFence (f : MEM) (s : State) : Host.Outcome State Fault Refusal :=
  ok (issue (.fence f) s (issueFence f (.fence f) (2 ^ f.stream.toNat)))
def execFenceX (f : MEM) (s : State) : Host.Outcome State Fault Refusal :=
  ok (issue (.fenceX f) s (issueFence f (.fenceX f) (f.disp.toNat % 65536)))

/-! ## Scalar loads and stores (R115, R116) -/

/-- The address of a scalar access and its checks; each trap is replayable. -/
def scalarAddr (f : SR) (n : Nat) (w : Want) (s : State) : Nat × AddrRes :=
  let a := (sreg s.cur f.sa.toNat + (if f.i then f.imm.signExtend 64 else sreg s.cur f.sb.toNat)).toNat
  (a, match checkGlobal s (ckey s.cur.die s.cur.cell) w n none none a with
    | .bad x => .bad { x with replay := true }
    | r => r)

/-- A scalar access to come: on the launch's stream at device scope, of the team (R115). -/
def scalarOpOf (i : Instr) (va pa mt : Nat) (d : List Byte) (s : State) : Op :=
  { i := i, stream := (curLaunch s).d.stream, scope := 4, arg := [0], acc := [{ va := va, pa := pa, mt := mt, data := d }] }

/-- A scalar access: its address is checked as it issues, and its memory access is performed as any access of its stream is (R115, R116). -/
def scalarAccess (i : Instr) (f : SR) (n : Nat) (w : Want) (d : List Byte) (s : State) : Res :=
  match scalarAddr f n w s with
  | (_, .bad x) => .trap s x
  | (a, .miss) => .stall (requestWalk s (ckey s.cur.die s.cur.cell) s.cur.tid a)
  | (a, .good pa mt) => .done (addAccess s (scalarOpOf i a pa mt d s))

/-- Sign or zero extension of `s.ld`. -/
def extendScalar (w : LdW) (x : Nat) : DWord :=
  match w with
  | .i8 => (BitVec.ofNat 8 x).signExtend 64
  | .i16 => (BitVec.ofNat 16 x).signExtend 64
  | .i32 => (BitVec.ofNat 32 x).signExtend 64
  | _ => BitVec.ofNat 64 x

def ldBytes : LdW → Nat | .b8 | .i8 => 1 | .b16 | .i16 => 2 | .b32 | .i32 => 4 | .b64 => 8
def stBytes : StW → Nat | .b8 => 1 | .b16 => 2 | .b32 => 4 | .b64 => 8

/-- Every live lane is doomed at the next clause boundary (R365). -/
def doom (s : State) (ls : List Nat) (pc : Nat) : State :=
  modCur s (fun t => { t with dying := ls.foldl (fun m l => NMap.set none m l (some pc)) t.dying })

def execSLd (w : LdW) (f : SR) (s : State) : Host.Outcome State Fault Refusal :=
  ok (issue (.sLd w f) s (scalarAccess (.sLd w f) f (ldBytes w) .read (List.replicate (ldBytes w) 0)))
def execSSt (w : StW) (f : SR) (s : State) : Host.Outcome State Fault Refusal :=
  ok (issue (.sSt w f) s (fun s => scalarAccess (.sSt w f) f (stBytes w) .write (valBytes (stBytes w) (sreg s.cur f.sd.toNat).toNat) s))

/-- The read of an `s.ld`, by the team's cell with normal policy; poisoned data is team state (R115, R364). -/
def scalarRead (s : State) (o : Op) (a : Acc) : State × Got :=
  let ck := ckey s.cur.die s.cur.cell
  let (d, missed, s) := readThrough s ck a.pa a.data.length 0 a.mt
  let s := if missed then allocate s ck o.pc (a.pa / 128) (lineWords a.pa a.data.length) 0 a.mt else s
  (s, { acc := [{ a with data := plain d, done := true }], team := anyPois d })

/-! ## Parts -/

/-- One lane's part, where the lanes of a line need not be taken together. -/
def onePart (s : State) (o : Op) (a : Acc) : State × Got :=
  match o.i with
  | .lds f => vaultPart s a (memBytes f.width.toNat)
  | .sts _ => vaultWrite s a
  | .ldv f => versionedPart s a (verBytes f)
  | .aCasv f => casvPart s a (verBytes f)
  | .prf f => prfPart s a f.policy.toNat
  | .sLd _ _ => scalarRead s o a
  | .sSt _ _ => writeGroup s [a]
  | .disc _ => discPart s a
  | .wb _ => wbPart s a
  | .valset _ =>
    if lostAt s a.pa then (s, { acc := [{ a with done := true }], team := true })
    else
      let (v, s) := versionAt s a.pa
      (s, { acc := [{ a with data := [if v = bytesVal a.data then 0 else 1], done := true }] })
  | .aAdd f | .aMin f | .aMax f | .aAnd f | .aOr f | .aXor f | .aXchg f | .aCas f | .aFadd f | .aInc f =>
    let n := atomBytes f.width.toNat
    atomicPart s a n (atomNew o.i n)
  | _ => (s, { acc := [{ a with done := true }] })

/-- Put two parts together. -/
def Got.add (x y : Got) : Got :=
  { acc := x.acc ++ y.acc, kills := x.kills ++ y.kills, pois := x.pois ++ y.pois, pown := x.pown ++ y.pown, team := x.team || y.team }

/-- A group of accesses of one operation to one line. -/
def memPart (s : State) (o : Op) (g : List Acc) : State × Got :=
  match o.i with
  | .ld f => readGroup s o.pc (memBytes f.width.toNat) f.policy.toNat g
  | .st _ => writeGroup s g
  | _ => g.foldl (fun (r : State × Got) a => let (s, x) := onePart r.1 o a; (s, r.2.add x)) (s, { acc := [] })

/-- The first destination register of an access, the registers that it writes for each lane, and what it makes of a lane's data (R163, R166, R168,
R173). -/
def memDest (i : Instr) : Nat × Nat × (Nat → Nat) :=
  match i with
  | .ld f | .lds f => (f.vd.toNat, regsFor (memBytes f.width.toNat), extendLoad f.width.toNat)
  | .ldv f | .aCasv f => (f.vd.toNat, 2 + verBytes f / 4, id)
  | .aAdd f | .aMin f | .aMax f | .aAnd f | .aOr f | .aXor f | .aXchg f | .aCas f | .aFadd f | .aInc f =>
    (f.vd.toNat, atomBytes f.width.toNat / 4, id)
  | _ => (0, 0, id)

/-- A destination word of a lane as an operation delivers it: its value or poison (R363). -/
structure Give where
  lane : Nat
  reg  : Nat
  val  : Nat
  pois : Bool := false
  own  : Bool := false
deriving DecidableEq, Repr

def Give.key (w : Give) : Nat := vkey w.reg w.lane
def Give.put (r : Regs) (w : Give) : Regs := if w.pois then r.vpoison w.reg w.lane w.own else r.vset w.reg w.lane (BitVec.ofNat 32 w.val)

/-- The destination words of the lanes whose data have come. -/
def memWords (o : Op) : List Give :=
  let (vd, k, g) := memDest o.i
  (o.acc.filter (fun a => a.done && !o.kills.contains a.lane)).flatMap (fun a => (List.range k).map (fun j =>
    { lane := a.lane, reg := vd + j, val := g (bytesVal a.data) / 2 ^ (32 * j) % 2 ^ 32, pois := o.pois.contains a.lane, own := o.pown.contains a.lane }))

/-- The destinations of a completed access: for each lane, its data or poison, but for the words delivered before (R81). -/
def deliverMem (s : State) (o : Op) : State :=
  let (vd, k, g) := memDest o.i
  let acc := o.acc.filter (fun a => !o.kills.contains a.lane)
  let s := prepDest s (regRun vd k) (maskOf (acc.map (·.lane)))
  if o.gave.isEmpty then
    modCur s (deliverRegs (fun r => acc.foldl (fun r a =>
      if o.pois.contains a.lane then poisonRegs vd k a.lane (o.pown.contains a.lane) r
      else putRegs vd k a.lane (g (bytesVal a.data)) r) r))
  else modCur s (deliverRegs (fun r => ((memWords o).filter (fun w => !o.gave.contains w.key)).foldl Give.put r))

/-- The result of `valset` (R170): 0, or 1 + the first entry whose version differs. -/
def valsetResult (o : Op) : Nat := match o.acc.find? (fun a => a.data != [0]) with | none => 0 | some a => a.lane + 1

/-- The lanes for which an operation issued that still live. -/
def opLanes (s : State) (o : Op) : List Nat := lanesOf (o.mask &&& ~~~ s.cur.dead) s.cur.width

/-- The destination words that an operation could deliver now, and has not (R81): those of lanes whose data have come, and the result of `valset`
or `sw.read` once it is known. -/
def readyWords (s : State) (o : Op) : List Give :=
  let all : List Give := match o.i with
    | .valset f => if o.acc.all (·.done) && !o.killAll then (opLanes s o).map (fun l => { lane := l, reg := f.vd.toNat, val := valsetResult o }) else []
    | .swRead f => match o.acc with
      | [a] => if a.done && !o.killAll then (opLanes s o).flatMap (fun l => (List.range 4).map (fun j =>
          { lane := l, reg := f.vd.toNat + j, val := bytesVal a.data / 2 ^ (32 * j) % 2 ^ 32 })) else []
      | _ => []
    | _ => memWords o
  all.filter (fun w => !o.gave.contains w.key)

/-- One destination word is delivered before the operation completes (R81). -/
def giveWord (o : Op) (w : Give) (s : State) : State :=
  let s := prepDest s [w.reg] (maskOf [w.lane])
  modCur (modCur s (deliverRegs (fun r => Give.put r w))) (fun t => modOp t o.id (fun o => { o with gave := w.key :: o.gave }))

end Sys2Proof.Machine
end

