-- ==== Sys2Proof/Machine/Sync.lean ====
section
/-! DEFINITION. Sync words (R179 to R181) and scratchpad queues (R182 to R184). -/

namespace Sys2Proof.Machine

/-! ## Sync words -/

/-- Fields of a sync word as a number (R179). -/
def swTarget (x : Nat) : Nat := x % 2 ^ 32
def swCount (x : Nat) : Nat := x / 2 ^ 32 % 2 ^ 32
def swGen (x : Nat) : Nat := x / 2 ^ 64 % 2 ^ 32
def swRest (x : Nat) : Nat := x / 2 ^ 96

/-- A sync word from its fields; `rest` holds OVF and the reserved bits. -/
def swMake (target count gen rest : Nat) : Nat :=
  target % 2 ^ 32 + count % 2 ^ 32 * 2 ^ 32 + gen % 2 ^ 32 * 2 ^ 64 + rest * 2 ^ 96

/-- An arrival of m bytes (R180). -/
def swArrive (x m : Nat) : Nat :=
  let tg := swTarget x
  if tg = 0 then swMake 0 (swCount x + m) (swGen x) (swRest x)
  else
    let c := swCount x + m
    if tg ≤ c then swMake tg (c % tg) (swGen x + c / tg) (if tg < c then swRest x ||| 1 else swRest x)
    else swMake tg c (swGen x) (swRest x)

/-- TARGET is set, COUNT and OVF cleared (R181). -/
def swArmed (x m : Nat) : Nat := swMake m 0 (swGen x) (swRest x / 2 * 2)

/-- Change the 16 bytes at a vault key in one step; their poison stays. -/
def vaultUpdate (s : State) (key : Nat) (f : Nat → Nat) : State :=
  let (d, s) := readVault s key 16
  writeVault s key ((valBytes 16 (f (bytesVal (plain d)))).map (fun b => (b, anyPois d)))

/-- An arrival at a sync word (R180). -/
def arriveAt (s : State) (key m : Nat) : State := vaultUpdate s key (fun x => swArrive x m)

/-- The object of a sync-word or queue instruction: its checks (R181). -/
def syncAddr (s : State) (f : MEM) : AddrRes :=
  let a := teamVaddr s.cur f
  checkVault (teamVault s a 16) 16 none a

/-- L0, the lowest active lane. -/
def lane0 (s : State) : Option Nat := (activeL s.cur).head?

/-- Issue a long-latency sync-word instruction: `ops` names the operand registers of L0, whose n bytes go with it. -/
def issueSync (f : MEM) (i : Instr) (ops : List Nat) (n : Nat) (s : State) : Res :=
  let o : Op := { i := i, stream := f.stream.toNat, scope := f.scope.toNat, mask := execM s.cur 0 }
  match syncAddr s f with
  | .bad x => .trap s x
  | .miss => .stall s
  | .good k mt =>
    match lane0 s with
    | none => .done (addOp s f.fs o)
    | some l =>
      let (e, s) := consume s (ops.map (fun r => (l, r, l)))
      let acc : List Acc := if e.lanes = 0 then
        [{ lane := l, va := teamVaddr s.cur f, pa := k, mt := mt, data := valBytes n (regsVal s.cur f.vd.toNat (regsFor n) l) }] else []
      .done (dieOff (addOp s f.fs { o with acc := acc }) e (instrPc (clauseOf s)))

def execSwArm (f : MEM) (s : State) : Host.Outcome State Fault Refusal := ok (issue (.swArm f) s (issueSync f (.swArm f) [f.vd.toNat] 4))
def execSwAdd (f : MEM) (s : State) : Host.Outcome State Fault Refusal := ok (issue (.swAdd f) s (issueSync f (.swAdd f) [f.vd.toNat] 4))
def execSwRead (f : MEM) (s : State) : Host.Outcome State Fault Refusal := ok (issue (.swRead f) s (issueSync f (.swRead f) [] 0))

/-- The part of a sync-word operation at its vault. A poisoned object kills the team (R364). -/
def syncPart (s : State) (o : Op) (a : Acc) : State × Got :=
  let (d, s) := readVault s a.pa 16
  if anyPois d then (s, { acc := [{ a with done := true }], team := true })
  else match o.i with
    | .swArm _ => (vaultUpdate s a.pa (fun x => swArmed x (bytesVal a.data)), { acc := [{ a with done := true }] })
    | .swAdd _ => (arriveAt s a.pa (bytesVal a.data), { acc := [{ a with done := true }] })
    | _ => (s, { acc := [{ a with data := plain d, done := true }] })

/-- A stalling access of the team to vault keys as an operation that would issue now. -/
def stallOp (i : Instr) (f : MEM) (ks : List Nat) (s : State) : Op :=
  { id := s.cur.nextOp, i := i, stream := f.stream.toNat, scope := f.scope.toNat, acc := ks.map (fun k => { pa := k, mt := vaultMt }) }

/-- Write one 32-bit value to register d of lanes, in both copies. -/
def putLanes (s : State) (vd k : Nat) (ls : List Nat) (x : Nat) : State :=
  modCur (prepDest s (regRun vd k) (maskOf ls)) (deliverRegs (fun r => ls.foldl (fun r l => putRegs vd k l x r) r))

/-- `sw.wait` (R181): with no active lane it takes no effect (R178). -/
def waitSync (f : MEM) (s : State) : Res :=
  match lane0 s with
  | none => .done s
  | some l =>
    match syncAddr s f with
    | .bad x => .trap s x
    | .miss => .stall s
    | .good k _ =>
      let (e, s) := consume s [(l, f.vd.toNat, l)]
      if e.lanes ≠ 0 then .done (dieOff s e (instrPc (clauseOf s)))
      else if !gateOpen s (stallOp (.swWait f) f [k] s) then .stall s
      else
        let (d, s) := readVault s k 16
        if anyPois d then .done (killBy s (instrPc (clauseOf s)) k)
        else
          let g := swGen (bytesVal (plain d))
          if g = (vreg s.cur f.vd.toNat l).toNat then .stall s
          else .done (putLanes (noteNow s (stallOp (.swWait f) f [k] s)) f.vd.toNat 1 (activeL s.cur) g)

def execSwWait (f : MEM) (s : State) : Host.Outcome State Fault Refusal := ok (issue (.swWait f) s (waitSync f))

/-- The die that an arrival under way goes to. -/
def arriveDie : Msg → Option Nat
  | .arrive die _ _ _ => some die
  | _ => none

/-- The n-th message is an arrival that none before it from the I/O die to its die precedes (R346). -/
def arrivalNext (s : State) (n die : Nat) : Bool := !(s.fabric.msgs.take n).any (fun m => arriveDie m == some die)

/-- The kick of a payload that counts in this step is tested after it (R391). -/
def kickAfter (s : State) (k : Option (Nat × Nat)) : State :=
  match k with
  | none => s
  | some x => { s with host := { s.host with newkicks := s.host.newkicks ++ [x] } }

/-- The n-th message under way is an arrival at a sync word: it takes its step there (R180). -/
def execSyncWordArrival (n : Nat) (s : State) : Host.Outcome State Fault Refusal :=
  ok (match s.fabric.msgs[n]? with
    | some (.arrive die key m k) =>
      if !arrivalOpen s key || !arrivalNext s n die then s
      else arriveAt (kickAfter { s with fabric := { s.fabric with msgs := s.fabric.msgs.eraseIdx n } } k) key m
    | _ => s)

/-! ## Queues -/

/-- Fields of a queue descriptor as a number (R182). -/
def qRing (x : Nat) : Nat := x / 2 ^ 96
def qSlots (x : Nat) : Nat := x / 2 ^ 80 % 2 ^ 16
def qHead (x : Nat) : Nat := x / 2 ^ 64 % 2 ^ 16
def qTail (x : Nat) : Nat := x / 2 ^ 48 % 2 ^ 16
def qCount (x : Nat) : Nat := x / 2 ^ 32 % 2 ^ 16
def qAllow (x : Nat) : Nat := x / 2 ^ 16 % 2 ^ 16
/-- VALID is 1 and the reserved bits are 0. -/
def qValid (x : Nat) : Bool := x % 2 ^ 16 == 1

def qMake (ring slots head tail count allow : Nat) : Nat :=
  1 + allow % 2 ^ 16 * 2 ^ 16 + count % 2 ^ 16 * 2 ^ 32 + tail % 2 ^ 16 * 2 ^ 48 + head % 2 ^ 16 * 2 ^ 64
    + slots % 2 ^ 16 * 2 ^ 80 + ring * 2 ^ 96

/-- `q.init` (R183): the operand's checks, in the order that R183 names its parts. -/
def initQueue (f : MEM) (s : State) : Res :=
  match syncAddr s f with
  | .bad x => .trap s x
  | .miss => .stall s
  | .good k mt =>
    let o : Op := { i := .qInit f, stream := f.stream.toNat, scope := f.scope.toNat, mask := execM s.cur 0 }
    match lane0 s with
    | none => .done (addOp s f.fs o)
    | some l =>
      let (e, s) := consume s [(l, f.vd.toNat, l), (l, f.vd.toNat + 1, l)]
      if e.lanes ≠ 0 then .done (dieOff (addOp s f.fs o) e (instrPc (clauseOf s)))
      else
        let x := regsVal s.cur f.vd.toNat 2 l
        let n := x % 65536; let al := x / 65536 % 65536; let rg := x / 2 ^ 32
        let bad : Res := .trap s { cause := 0xD, detail := 2 }
        if n = 0 ∨ 32768 < n ∨ al = 0 ∨ n < al ∨ rg % 2 ≠ 0 then bad
        else match teamVault s rg (2 * n) with
          | none => .trap s { cause := 8, addr := firstBad s rg (2 * n) }
          | some r =>
            if r / 2 ^ 18 ≠ k / 2 ^ 18 ∨ (r < k + 16 ∧ k < r + 2 * n) then bad
            else .done (addOp s f.fs { o with acc := [{ lane := l, va := teamVaddr s.cur f, pa := k, mt := mt,
                                                        data := valBytes 16 (qMake rg n 0 0 0 al) }] })

def execQInit (f : MEM) (s : State) : Host.Outcome State Fault Refusal := ok (issue (.qInit f) s (initQueue f))

/-- The block whose allocation bounds an own-form RING (R36): the team's own where it named the descriptor by its own form; reached by its die
form, the resident block whose allocation holds the descriptor (log 71). -/
def ringBlock (s : State) (own : Bool) (dk : Nat) : Option Block :=
  if own then some (curBlock s)
  else
    let ck := dk / 2 ^ 18
    let o := dk % 2 ^ 18
    s.blocks.find? (fun b => blockIn b (ck / 4608) (ck % 4608) && decide (256 * b.vbase ≤ o) && decide (o < 256 * (b.vbase + b.vsize)))

/-- An own-form ring entry lies in the allocation that bounds it, if any does. -/
def ringInside (b : Option Block) (a : Nat) : Bool :=
  match b with
  | none => true
  | some b => decide (256 * b.vbase ≤ a) && decide (a + 2 ≤ 256 * (b.vbase + b.vsize))

/-- The key of a ring entry (R182, R184): in the vault that holds the descriptor; the address that RING names must pass R36. -/
def ringKey (s : State) (own : Bool) (dk ring slot : Nat) : Option Nat :=
  let a := ring + 2 * slot
  if ring < 2 ^ 31 then
    if a + 2 ≤ 196608 && ringInside (ringBlock s own dk) a then some (dk / 2 ^ 18 * 2 ^ 18 + a) else none
  else match teamVault s (a % 2 ^ 32) 2 with
    | some r => if r / 2 ^ 18 = dk / 2 ^ 18 then some r else none
    | none => none

/-- The 16-bit value x, or a free one where the spec states none (log 45). -/
def stated16 (s : State) (ok : Bool) (x : Nat) : Nat × State :=
  if ok then (x, s) else let (n, s) := tick s; ((Config.freeBits 16 n).toNat, s)

/-- The entry after a slot: (slot + 1) mod SLOTS, which is not stated where SLOTS is 0. -/
def ringNext (s : State) (slots slot : Nat) : Nat × State := stated16 s (slots != 0) ((slot + 1) % slots)
/-- A count one higher, which is not stated where it leaves its 16 bits. -/
def countUp (s : State) (x : Nat) : Nat × State := stated16 s (x < 65535) (x + 1)

/-- The team's place among those that wait on a queue: first, or with none before it. -/
def firstInQueue (s : State) (k : Nat) (push : Bool) : Bool :=
  match s.qwait.find? (fun q => q.1 == k && q.2.2 == push) with
  | none => true
  | some q => q.2.1 == s.cur.tid

/-- The team waits at a queue, and stops waiting. -/
def joinWait (s : State) (k : Nat) (push : Bool) : State :=
  if s.qwait.any (fun q => q.2.1 == s.cur.tid) then s else { s with qwait := s.qwait ++ [(k, s.cur.tid, push)] }
def leaveWait (s : State) : State := { s with qwait := s.qwait.filter (fun q => q.2.1 != s.cur.tid) }

/-- `q.push` and `q.pop` (R183): one step at the vault, in the order in which the waiting teams reached it; the step touches the descriptor's line
and the ring slot's, and waits for what holds back either (R253). -/
def queueStep (f : MEM) (push : Bool) (s : State) : Res :=
  match lane0 s with
  | none => .done s
  | some l =>
    match syncAddr s f with
    | .bad x => .trap (leaveWait s) x
    | .miss => .stall s
    | .good k _ =>
      let pc := instrPc (clauseOf s)
      let (e, s) := consume s (if push then [(l, f.vd.toNat, l)] else [])
      if e.lanes ≠ 0 then .done (dieOff (leaveWait s) e pc)
      else if !gateOpen s (stallOp (if push then .qPush f else .qPop f) f [k] s) then .stall s
      else
        let (d, s) := readVault s k 16
        let x := bytesVal (plain d)
        if anyPois d then .done (killBy (leaveWait s) pc k)
        else if !qValid x then .trap (leaveWait s) { cause := 0xD, detail := 1 }
        else if (if push then qAllow x else qCount x) = 0 || !firstInQueue s k push then .stall (joinWait s k push)
        else
          let slot := if push then qTail x else qHead x
          match ringKey s (teamVaddr s.cur f < 2 ^ 31) k (qRing x) slot with
          | none => .trap (leaveWait s) { cause := 8, addr := (qRing x + 2 * slot) % 2 ^ 32 }
          | some r =>
            let o := stallOp (if push then .qPush f else .qPop f) f [k, r] s
            if !gateOpen s o then .stall s
            else
            let (next, s) := ringNext (leaveWait (noteNow s o)) (qSlots x) slot
            if push then
              let s := writeVault s r (clean (valBytes 2 (vreg s.cur f.vd.toNat l).toNat))
              let (n, s) := countUp s (qCount x)
              .done (vaultUpdate s k (fun _ => qMake (qRing x) (qSlots x) (qHead x) next n (qAllow x - 1)))
            else
              let (h, s) := readVault s r 2
              if anyPois h then .done (killBy s pc r)
              else
                let (n, s) := countUp s (qAllow x)
                let s := vaultUpdate s k (fun _ => qMake (qRing x) (qSlots x) next (qTail x) (qCount x - 1) n)
                let v := bytesVal (plain h)
                let ls := activeL s.cur
                let s := match s.cur.sh with
                  | none => s
                  | some _ => toLog s (s.cur.pseq - 1) (ls.map (fun l => (vkey f.vd.toNat l, v))) ls.length
                .done (putLanes s f.vd.toNat 1 ls v)

def execQPush (f : MEM) (s : State) : Host.Outcome State Fault Refusal := ok (issue (.qPush f) s (queueStep f true))
def execQPop (f : MEM) (s : State) : Host.Outcome State Fault Refusal := ok (issue (.qPop f) s (queueStep f false))

/-- The part of `q.init` at its vault. -/
def queuePart (s : State) (a : Acc) : State × Got :=
  (writeVault s a.pa (clean a.data), { acc := [{ a with done := true }] })

end Sys2Proof.Machine
end

