-- ==== Sys2Proof/Machine/Barrier.lean ====
section
/-! DEFINITION. Block barriers and the grid barrier (R185 to R189), and the panel tree that carries the grid barrier (R356
to R358). -/

namespace Sys2Proof.Machine

/-- The reduction of payloads (R187): 1 and, 2 or, 3 add, 4 popc. -/
def redIdent (red : Nat) : Nat := if red = 1 then 2 ^ 32 - 1 else 0
def redJoin (red x y : Nat) : Nat :=
  match red with
  | 1 => x &&& y
  | 2 => x ||| y
  | _ => (x + y) % 2 ^ 64
/-- One team's part: popc counts its nonzero payloads. -/
def redPart (red : Nat) (l : List Nat) : Nat :=
  if red = 4 then (l.filter (· != 0)).length else l.foldl (redJoin red) (redIdent red)

/-- The end of a phase from its arrivals (R187, R188). -/
def phaseEnd (phase : Nat) (arr : List Arrival) : PhaseEnd :=
  match arr with
  | [] => { phase := phase }
  | a :: _ => { phase := phase, mismatch := arr.any (fun b => b.red != a.red)
                value := arr.foldl (fun x b => redJoin a.red x b.value) (redIdent a.red) }

/-- A block barrier's phase completes when every team of the block has arrived in it or has ended (R185). -/
def checkBar (s : State) (bid id : Nat) : State :=
  let b := NMap.get {} (blockOf s bid).bars id
  let done := !b.arr.isEmpty && b.arr.all (·.counted)
    && (teamsOf s bid).all (fun t => t.status == .ended || b.arr.any (fun a => a.team == t.tid))
  let c : Bar := { b with phase := b.phase + 1, arr := [], ended := [phaseEnd b.phase b.arr] }
  if !done then s else modBlock s bid (fun k => { k with bars := NMap.set {} k.bars id c })

/-- Change one barrier of the current team's block. -/
def modBar (s : State) (id : Nat) (f : Bar → Bar) : State :=
  modBlock s s.cur.blk (fun k => { k with bars := NMap.modify {} k.bars id f })

/-- The payload of a barrier instruction: the lanes that consume poison, and what the others contribute (R187). -/
def payload (f : MEM) (s : State) : Eaten × Nat × Nat × State :=
  let red := f.width.toNat
  if red = 0 then (⟨0, 0⟩, 0, 0, s)
  else
    let m := execM s.cur 0
    let (e, s) := consume s ((lanesOf m s.cur.width).map (fun l => (l, f.vd.toNat, l)))
    let ls := lanesOf (m &&& ~~~ e.lanes) s.cur.width
    (e, ls.length, redPart red (ls.map (fun l => (vreg s.cur f.vd.toNat l).toNat)), s)

/-- Every stream. -/
def allStreams : Nat := 65535

/-- The release of an arrival is met: every access of the team issued before it is performed (R189). -/
def releaseMet (t : Team) (id : Nat) : Bool := fenceMet t { id := id } 1 allStreams

/-- A wait ends: the result is written, its acquire is set up, and a protected team logs it (R187, R189, R374). -/
def waitEnd (f : MEM) (scope : Nat) (logged : Bool) (e : PhaseEnd) (s : State) : Res :=
  if e.mismatch then .trap s { cause := 0xC, detail := 1 }
  else
    let s := addFence s 0 scope allStreams
    if f.width = 0 then .done s
    else
      let vd := f.vd.toNat
      let ls := activeL s.cur
      let s := if logged && s.cur.sh.isSome then
        toLog s (s.cur.pseq - 1) (ls.flatMap (fun l => [(vkey vd l, e.value % 2 ^ 32), (vkey (vd + 1) l, e.value / 2 ^ 32)])) ls.length else s
      .done (putLanes s vd 2 ls e.value)

/-- The wait on a block barrier (R186, R188): the arrival is cleared as the wait ends. -/
def barWait (f : MEM) (logged : Bool) (s : State) : Res :=
  let id := f.disp.toNat % 4
  let b := NMap.get {} (curBlock s).bars id
  match NMap.get none b.last s.cur.tid with
  | none => .trap s { cause := 0xC, detail := 2 }
  | some (p, red) =>
    if b.phase ≤ p then .stall s
    else
      let s := modBar s id (fun b => { b with last := NMap.set none b.last s.cur.tid none })
      let e := (b.ended.find? (fun e => e.phase == p)).getD { phase := p }
      waitEnd f 1 logged { e with mismatch := e.mismatch || red != f.width.toNat } s

/-- An arrival at a block barrier. -/
def barArrive (f : MEM) (counted : Bool) (lanes value : Nat) (s : State) : State :=
  let id := f.disp.toNat % 4
  let t := s.cur
  modBar s id (fun b =>
    { b with arr := b.arr ++ [{ team := t.tid, red := f.width.toNat, lanes := lanes, value := value, counted := counted }]
             last := NMap.set none b.last t.tid (some (b.phase, f.width.toNat)) })

/-- The team has an arrival at the barrier that no wait has cleared. -/
def hasArrival (f : MEM) (s : State) : Bool :=
  (NMap.get none (NMap.get {} (curBlock s).bars (f.disp.toNat % 4)).last s.cur.tid).isSome

/-- `bar.arr` (R186): long-latency; it counts, and completes, once its release is met. -/
def execBarArr (f : MEM) (s : State) : Host.Outcome State Fault Refusal :=
  ok (issue (.barArr f) s (fun s =>
    if hasArrival f s then .trap s { cause := 0xC, detail := 3 }
    else
      let (e, n, v, s) := payload f s
      let s := barArrive f false n v s
      .done (dieOff (addOp s f.fs { i := .barArr f, scope := 1, mask := execM s.cur 0, arg := [1, allStreams] }) e
        (instrPc (clauseOf s)))))

/-- The arrival of a `bar.arr` counts. -/
def countArrival (s : State) (f : MEM) : State :=
  let t := s.cur
  let id := f.disp.toNat % 4
  checkBar (modBar s id (fun b => { b with arr := b.arr.map (fun a => if a.team == t.tid then { a with counted := true } else a) })) t.blk id

def execBarWt (f : MEM) (s : State) : Host.Outcome State Fault Refusal := ok (issue (.barWt f) s (barWait f false))

/-- `bar` (R186, R189): it arrives once its release is met, then waits; a reissue finds the arrival and acts as the wait. -/
def execBar (f : MEM) (s : State) : Host.Outcome State Fault Refusal :=
  ok (issue (.bar f) s (fun s =>
    let id := f.disp.toNat % 4
    if s.cur.barin = some id then barWait f true s
    else if hasArrival f s then .trap s { cause := 0xC, detail := 3 }
    else if !releaseMet s.cur s.cur.nextOp then .stall s
    else
      let (e, n, v, s) := payload f s
      let s := dieOff (barArrive f true n v s) e (instrPc (clauseOf s))
      barWait f true (checkBar (modCur s (fun t => { t with barin := some id })) s.cur.blk id)))

/-! ## The grid barrier -/

/-- The phase's record on the team's die (R358). -/
def gridDone (g : Grid) (die p : Nat) : Option PhaseEnd := (g.done.find? (fun e => e.1 == die && e.2.phase == p)).map (·.2)

/-- The wait on the grid barrier: the arrival's phase is known once the apex has counted it. -/
def gridWait (f : MEM) (s : State) : Res :=
  let k := gridKey s s.cur
  let g := (grid? s k).getD {}
  match NMap.get none g.bar.last s.cur.tid with
  | none => .stall s
  | some (p, red) => match gridDone g s.cur.die p with
    | none => .stall s
    | some e =>
      let s := modGrid s k (fun g => { g with bar := { g.bar with last := NMap.set none g.bar.last s.cur.tid none } })
      waitEnd f 4 true { e with mismatch := e.mismatch || red != f.width.toNat } s

/-- `gbar`: the arrival goes up the panel tree (R357). A re-run that comes to the `gbar` at which its team had arrived does not
arrive again (R375). -/
def execGbar (f : MEM) (s : State) : Host.Outcome State Fault Refusal :=
  ok (issue (.gbar f) s (fun s =>
    if s.cur.barin = some 4 || (s.cur.sh.isSome && s.cur.stopat == some (s.cur.pseq - 1)) then
      gridWait f (modCur s (fun t => { t with barin := some 4 }))
    else if !releaseMet s.cur s.cur.nextOp then .stall s
    else
      let (e, n, v, s) := payload f s
      let a : Arrival := { team := s.cur.tid, red := f.width.toNat, lanes := n, value := v, counted := true }
      let s := { s with fabric := { s.fabric with msgs := s.fabric.msgs ++ [.treeUp (gridKey s s.cur) s.cur.tid a] } }
      .stall (modCur (dieOff s e (instrPc (clauseOf s))) (fun t => { t with barin := some 4 }))))

/-- The number of teams of a launch's grid, or of a pixel block, whose launch's dimensions are 1. -/
def gridTeams (l : Launch) : Nat := l.d.dx * l.d.dy * l.d.dz * l.d.nteams

/-- The dies that a grid's release goes to: the live dies of the launch's DIES; a pixel block's own die. -/
def gridDies (s : State) (k : Nat) (l : Launch) : List Nat :=
  if l.lid = k then (List.range 144).filter (fun d => l.d.dies.testBit d && isLive s d) else [(blockOf s k).die].filter (isLive s)

/-- The apex completes the phase when the arrivals in it equal E, and sends the release down to every live die of DIES
(R357, R358). -/
def checkGrid (s : State) (k : Nat) : State :=
  match gridLaunch? s k, grid? s k with
  | some l, some g =>
    if g.bar.arr.isEmpty || g.bar.arr.length + g.ended < gridTeams l then s
    else
      let e := phaseEnd g.bar.phase g.bar.arr
      let dies := gridDies s k l
      let s := modGrid s k (fun g => { g with bar := { g.bar with phase := g.bar.phase + 1, arr := [] }, ended := g.ended + g.left, left := 0 })
      { s with fabric := { s.fabric with msgs := s.fabric.msgs ++ dies.map (fun d => .treeDown k d e) } }
  | _, _ => s

/-- A count or a team's end reaches the apex (R357). A team's end follows its own arrival. -/
def treeArrive (s : State) (n : Nat) : State :=
  let rest := { s with fabric := { s.fabric with msgs := s.fabric.msgs.eraseIdx n } }
  match s.fabric.msgs[n]? with
  | some (.treeUp k tid a) =>
    checkGrid (modGrid rest k (fun g => { g with bar := { g.bar with
      arr := g.bar.arr ++ [a], last := NMap.set none g.bar.last tid (some (g.bar.phase, a.red)) } })) k
  | some (.treeEnd k tid) =>
    if rest.fabric.msgs.any (fun m => match m with | .treeUp _ t _ => t == tid | _ => false) then s
    else checkGrid (modGrid rest k (fun g =>
      if g.bar.arr.any (fun a => a.team == tid) then { g with left := g.left + 1 } else { g with ended := g.ended + 1 })) k
  | _ => s

def execTreeArrival (n : Nat) (s : State) : Host.Outcome State Fault Refusal := ok (treeArrive s n)

/-- The grid and die of a release under way. -/
def releaseTo : Msg → Option (Nat × Nat)
  | .treeDown k die _ => some (k, die)
  | _ => none

/-- A release reaches a die node, which records the phase as completed (R358); those of a grid reach a node in the order of its phases. -/
def gbarRelease (s : State) (n : Nat) : State :=
  match s.fabric.msgs[n]? with
  | some (.treeDown k die e) =>
    if (s.fabric.msgs.take n).any (fun m => releaseTo m == some (k, die)) then s
    else modGrid { s with fabric := { s.fabric with msgs := s.fabric.msgs.eraseIdx n } } k (fun g =>
      { g with done := (die, e) :: g.done.filter (fun x => x.1 != die) })
  | _ => s

def execGbarRelease (n : Nat) (s : State) : Host.Outcome State Fault Refusal := ok (gbarRelease s n)

end Sys2Proof.Machine
end

