-- ==== Sys2Proof/Machine/VecFloat.lean ====
section
/-! DEFINITION. Floating-point vector instructions, conversion, packing, microscaling and bit planes (R144 to R154). -/

namespace Sys2Proof.Machine

/-- A float operand of a lane: its encodings, the sign inverted where the bit selects it (R86, R135). -/
def fElems (t : Team) (ty : Nat) (f : SrcF) (inv : Bool) (l : Nat) : List Nat :=
  let x := readOp t ty f l
  elems ty (if inv then invertSign ty x else x)

/-- The value of an encoding as a source: flushed under FTZ (R60). -/
def srcFV (t : Team) (f : Fmt) (x : Nat) : FV := flushIn f (ftzOf t f) (f.value x)

/-- Pack element results and OR their flags (R53). -/
def packRes (l : List (Nat × Fl)) : DWord × Fl := (packElems (l.map (·.1)), flAll (l.map (·.2)))

/-- A two-source float instruction, element by element. -/
def fBin (f : VR) (op : Fmt → Nat → Bool → Nat → Nat → FV → FV → Nat × Fl) (s : State) : Res :=
  let ty := f.ty.toNat
  let F := tyFmt ty
  vrLanes f ty ty true (fun t l =>
    packRes ((fElems t ty (srcF f.a) f.satna l).zipWith
      (fun x y => op F (rmode t f.mod.toNat) (ftzOf t F) x y (srcFV t F x) (srcFV t F y)) (fElems t ty (srcF f.b) f.nb l))) s

/-- A one-source float instruction. -/
def fUn (f : VR) (op : Fmt → Nat → Bool → Nat → FV → Nat × Fl) (s : State) : Res :=
  let ty := f.ty.toNat
  let F := tyFmt ty
  vrLanes f ty ty false (fun t l =>
    packRes ((fElems t ty (srcF f.a) f.satna l).map (fun x => op F (rmode t f.mod.toNat) (ftzOf t F) x (srcFV t F x)))) s

def execVFadd (f : VR) (s : State) : Host.Outcome State Fault Refusal :=
  ok (issue (.vFadd f) s (fBin f (fun F m z _ _ a b => fAdd F m z a b)))
def execVFmul (f : VR) (s : State) : Host.Outcome State Fault Refusal :=
  ok (issue (.vFmul f) s (fBin f (fun F m z _ _ a b => fMul F m z a b)))
def execVFmin (f : VR) (s : State) : Host.Outcome State Fault Refusal :=
  ok (issue (.vFmin f) s (fBin f (fun F _ _ x y a b => fMinMax F false x y a b)))
def execVFmax (f : VR) (s : State) : Host.Outcome State Fault Refusal :=
  ok (issue (.vFmax f) s (fBin f (fun F _ _ x y a b => fMinMax F true x y a b)))
def execVFma (f : VF) (s : State) : Host.Outcome State Fault Refusal :=
  ok (issue (.vFma f) s (fun s =>
    let ty := vfType f.ty.toNat
    let F := tyFmt ty
    vfLanes f (fun t l =>
      let a := fElems t ty (srcF f.a) false l
      let b := fElems t ty (srcF f.b) false l
      let c := fElems t ty (srcFC f.c) false l
      packRes ((List.range a.length).map (fun i =>
        fFma F t.rm.toNat (ftzOf t F) (srcFV t F (a.getD i 0)) (srcFV t F (b.getD i 0)) (srcFV t F (c.getD i 0))))) s))

def execVFcmp (f : VR) (s : State) : Host.Outcome State Fault Refusal :=
  ok (issue (.vFcmp f) s (vrMask f true (fun t l =>
    let ty := f.ty.toNat
    let F := tyFmt ty
    fCmp f.mod.toNat (srcFV t F ((fElems t ty (srcF f.a) f.satna l).getD 0 0)) (srcFV t F ((fElems t ty (srcF f.b) f.nb l).getD 0 0)))))

def execVFrnd (f : VR) (s : State) : Host.Outcome State Fault Refusal :=
  ok (issue (.vFrnd f) s (fUn f (fun F m z x a => fRnd F m z x a)))
def execVFsqrt (f : VR) (s : State) : Host.Outcome State Fault Refusal :=
  ok (issue (.vFsqrt f) s (fUn f (fun F m z _ a => fSqrt F m z a)))

/-- An approximate function on one element; a packed element goes through f32 (R147). -/
def approxElem (fn : Nat) (F : Fmt) (z : Bool) (x : Nat) (a : FV) : Nat × Fl :=
  if F.bits = 16 then
    let y := (fmtF32.ofValue 0 false a).1
    fApproxElem F fn a (Config.approx fn 2 (BitVec.ofNat 64 y)).toNat
  else fApprox F fn z a (Config.approx fn (if F.m = 52 then 3 else 2) (BitVec.ofNat 64 x)).toNat

def execVFrcp (f : VR) (s : State) : Host.Outcome State Fault Refusal :=
  ok (issue (.vFrcp f) s (fUn f (fun F _ z x a => approxElem 0 F z x a)))
def execVFrsq (f : VR) (s : State) : Host.Outcome State Fault Refusal :=
  ok (issue (.vFrsq f) s (fUn f (fun F _ z x a => approxElem 1 F z x a)))
def execVExp2 (f : VR) (s : State) : Host.Outcome State Fault Refusal :=
  ok (issue (.vExp2 f) s (fUn f (fun F _ z x a => approxElem 2 F z x a)))
def execVLog2 (f : VR) (s : State) : Host.Outcome State Fault Refusal :=
  ok (issue (.vLog2 f) s (fUn f (fun F _ z x a => approxElem 3 F z x a)))
def execVSin (f : VR) (s : State) : Host.Outcome State Fault Refusal :=
  ok (issue (.vSin f) s (fUn f (fun F _ z x a => approxElem 4 F z x a)))
def execVCos (f : VR) (s : State) : Host.Outcome State Fault Refusal :=
  ok (issue (.vCos f) s (fUn f (fun F _ z x a => approxElem 5 F z x a)))
def execVTanh (f : VR) (s : State) : Host.Outcome State Fault Refusal :=
  ok (issue (.vTanh f) s (fUn f (fun F _ z x a => approxElem 6 F z x a)))

/-! ## Inspection and scaling (R150) -/

def execVFclass (f : VR) (s : State) : Host.Outcome State Fault Refusal :=
  ok (issue (.vFclass f) s (fUn f (fun F _ _ _ a => (fClass F a, 0))))
def execVFexp (f : VR) (s : State) : Host.Outcome State Fault Refusal :=
  ok (issue (.vFexp f) s (fUn f (fun F _ _ _ a => ((wrap F.bits (fExp F.bits a)).toNat, 0))))
def execVFscale (f : VR) (s : State) : Host.Outcome State Fault Refusal :=
  ok (issue (.vFscale f) s (fun s =>
    let ty := f.ty.toNat
    let F := tyFmt ty
    vrRun f ty ty (some false) (fun t l =>
      let b := readOp t ty (srcF f.b) l
      let n (i : Nat) : Int := if F.bits = 16 then (b.extractLsb' (16 * i) 16).toInt else (b.extractLsb' 0 32).toInt
      let x := fElems t ty (srcF f.a) f.satna l
      packRes ((List.range x.length).map (fun i =>
        fScale F (rmode t f.mod.toNat) (ftzOf t F) (srcFV t F (x.getD i 0)) (n i)))) s))

/-! ## Conversion (R151) -/

/-- The VR type under which a conversion reads its source. -/
def cvtReadTy (c : Nat) : Nat := match c with | 2 => 2 | 3 => 3 | 4 => 4 | 5 => 4 | 6 => 6 | 7 => 7 | _ => 0
/-- The float format of a conversion code. -/
def cvtFmt (c : Nat) : Fmt :=
  match c with | 2 => fmtF32 | 3 => fmtF64 | 6 => fmtF16 | 7 => fmtBF16 | 8 => fmtE4M3 | _ => fmtE5M2
/-- The integer format is signed. -/
def cvtSigned (c : Nat) : Bool := c == 0 || c == 4 || c == 10 || c == 12
/-- The range of an integer format. -/
def cvtLo (c : Nat) : Int := if cvtSigned c then -(2 ^ (cvtBits c - 1)) else 0
def cvtHi (c : Nat) : Int := if cvtSigned c then 2 ^ (cvtBits c - 1) - 1 else 2 ^ cvtBits c - 1
/-- The integer of bits in a format. -/
def cvtInt (c x : Nat) : Int := let n := cvtBits c; if cvtSigned c && decide (2 ^ (n - 1) ≤ x) then (x : Int) - 2 ^ n else x

/-- The value conversions (R58, R59, R151). -/
def convert (fr dst mode : Nat) (ftz satur : Bool) (x : Nat) : Nat × Fl :=
  let x := x % 2 ^ cvtBits fr
  let n := cvtBits dst
  if cvtFloat fr then
    let v := flushIn (cvtFmt fr) (ftz && fr == 2) ((cvtFmt fr).value x)
    if cvtFloat dst then (cvtFmt dst).ofValue mode (ftz && dst == 2) v
    else
      let (y, fl) := toIntFV mode (cvtLo dst) (cvtHi dst) v
      ((wrap n y).toNat, fl)
  else
    let i := cvtInt fr x
    if cvtFloat dst then (cvtFmt dst).round mode (ftz && dst == 2) (decide (i < 0)) i.natAbs 0
    else ((wrap n (if satur then sat i (cvtLo dst) (cvtHi dst) else i)).toNat, 0)

def execVCvt (f : VR) (s : State) : Host.Outcome State Fault Refusal :=
  ok (issue (.vCvt f) s (fun s =>
    let fr := cvtFrom f; let dst := cvtTo f
    let rty := cvtReadTy fr
    vrLanes f rty (if cvtBits dst = 64 then 4 else 0) false (fun t l =>
      let x := (readOp t rty (srcF f.a) l).toNat / 2 ^ (cvtSel f * cvtBits fr)
      let (y, fl) := convert fr dst (rmode t f.mod.toNat) t.ftz f.satna x
      (BitVec.ofNat 64 y, fl)) s))

/-! ## Packing and packed dot products (R152) -/

def execVPk (f : VR) (s : State) : Host.Outcome State Fault Refusal :=
  ok (issue (.vPk f) s (fun s =>
    let m := execM s.cur f.pred.toNat
    let ls := lanesOf m s.cur.width
    let old := if f.mod = 0 then [] else readsOwn ls f.vd.toNat 1
    vecRun (byPred f.pred.toNat) (readsOf s.cur ls (srcF f.a) false ++ readsOf s.cur ls (srcF f.b) false ++ old) [f.vd.toNat] [srcF f.a, srcF f.b]
      (eachLane 0 f.vd.toNat (fun t l =>
        let a := readOp32 t 0 (srcF f.a) l
        let b := readOp32 t 0 (srcF f.b) l
        let d := vreg t f.vd.toNat l
        let x : Word := match f.mod.toNat with
          | 0 => b.extractLsb' 0 16 ++ a.extractLsb' 0 16
          | 1 => d.extractLsb' 16 16 ++ b.extractLsb' 0 8 ++ a.extractLsb' 0 8
          | _ => b.extractLsb' 0 8 ++ a.extractLsb' 0 8 ++ d.extractLsb' 0 16
        x.setWidth 64)) s))

/-- a0 × b0 + a1 × b1 + c, rounded once to f32 (R152). -/
def dot2 (F : Fmt) (mode : Nat) (a b : List Nat) (c : Nat) : Nat × Fl :=
  let p := a.zipWith (fun x y => mulFV (F.value x) (F.value y)) b
  let (r, nv) := sumFV mode (p.map (·.1) ++ [fmtF32.value c])
  finishFV fmtF32 mode false (r, nv || p.any (·.2))

/-- `v.dot2`: source c is f32 whatever TYPE names, an inline constant included (R88, R152). -/
def execVDot2 (f : VF) (s : State) : Host.Outcome State Fault Refusal :=
  ok (issue (.vDot2 f) s (fun s =>
    let ty := vfType f.ty.toNat
    vfLanes f (fun t l =>
      let (x, fl) := dot2 (tyFmt ty) t.rm.toNat (fElems t ty (srcF f.a) false l) (fElems t ty (srcF f.b) false l)
        (readOp32 t 2 (srcFC f.c) l).toNat
      (BitVec.ofNat 64 x, fl)) s))

/-- c + Σ a_k × b_k over the four bytes. -/
def dot4 (signed : Bool) (a b c : Word) : Word :=
  let byte (x : Word) (k : Nat) : Int := let y := x.extractLsb' (8 * k) 8; if signed then y.toInt else y.toNat
  wrap 32 ((c.toNat : Int) + ((List.range 4).map (fun k => byte a k * byte b k)).sum)

def execVDot4 (f : VF) (s : State) : Host.Outcome State Fault Refusal :=
  ok (issue (.vDot4 f) s (vfInt f (dot4 (f.ty.toNat == 4))))

/-! ## Microscaling (R62 to R65, R153) -/

/-- Element formats of `v.mxq` and `v.mxd`: the float format, or an integer of w bits with f fraction bits; and emax. -/
inductive MxElem where
  | flt (f : Fmt) (emax : Int)
  | int (w f : Nat) (emax : Int)
deriving DecidableEq, Repr

def mxElem (c : Nat) : MxElem :=
  match c with
  | 0 => .int 8 6 0
  | 1 => .flt fmtE4M3 8
  | 2 => .flt fmtE5M2 15
  | 3 => .flt fmtE3M2 4
  | 4 => .flt fmtE2M3 2
  | 5 => .flt fmtE2M1 2
  | 6 => .int 4 2 0
  | _ => .int 2 1 (-1)

def MxElem.emax : MxElem → Int | .flt _ e => e | .int _ _ e => e
/-- Bits of a code. -/
def MxElem.bits : MxElem → Nat | .flt f _ => f.bits | .int w _ _ => w

/-- The value of a code. -/
def MxElem.value : MxElem → Nat → FV
  | .flt f _, x => f.value x
  | .int w fr _, x =>
    let x := x % 2 ^ w
    let i : Int := if 2 ^ (w - 1) ≤ x then (x : Int) - 2 ^ w else x
    .fin (decide (i < 0)) i.natAbs (-(fr : Int))

/-- A scale byte as a factor: none for the NaN scale, otherwise significand and exponent (R62, R63). -/
def scaleVal (e4m3 : Bool) (x : Nat) : Option (Nat × Int) :=
  if e4m3 then
    if x % 128 = 0x7F then none
    else match fmtE4M3.value (x % 128) with | .fin _ m e => some (m, e) | _ => none
  else if x = 255 then none else some (1, (x : Int) - 127)

/-- An element under a scale (R64): the value and whether the product was invalid. -/
def scaled (v : FV) (sc : Option (Nat × Int)) : FV × Bool :=
  match sc with
  | none => (.nan false, v.snan)
  | some (m, e) => match v with
    | .nan sg => (.nan false, sg)
    | .inf s => if m = 0 then (.nan false, true) else (.inf s, false)
    | .fin s n g => (.fin s (n * m) (g + e), false)

/-- The code of y = x / 2^(X − 127), and whether its value differs from y (R153). -/
def mxCode (el : MxElem) (v : FV) (X : Int) : Nat × Bool :=
  match v with
  | .fin s m e =>
    let e := e - (X - 127)
    match el with
    | .flt f _ =>
      let (c, fl) := f.round 0 false s m e
      if fl.getLsbD 2 then (f.sign s + f.max, true) else (c, fl.getLsbD 0)
    | .int w fr _ =>
      let (q, exact) := roundAt 0 s m (e + fr) 0 false
      let i : Int := if s then -q else q
      let j := sat i (-(2 ^ (w - 1))) (2 ^ (w - 1) - 1)
      ((wrap w j).toNat, !exact || i != j)
  | _ => (0, false)

/-- floor(log2 |v|) of a nonzero value. -/
def fvTop : FV → Int | .fin _ m e => e + Nat.log2 m | _ => 0

/-- The greatest magnitude, by comparison. -/
def fvMax (l : List FV) : FV := l.foldl (fun a b => if a.abs.lt b.abs then b.abs else a) (.fin false 0 0)

/-- One row of `v.mxq`: the result words of its participants and the flags (R153). -/
def mxqRow (el : MxElem) (xs : List FV) : List Nat × Fl :=
  let nv := flIf (xs.any FV.snan) flNV
  if xs.any (fun v => v.isNan || v.isInf) then (xs.map (fun _ => 255 * 256), nv)
  else
    let amax := fvMax xs
    let X : Int := if amax.isZero then 0 else sat (fvTop amax - el.emax + 127) 0 254
    let cs := xs.map (fun v => mxCode el v X)
    (cs.map (fun c => X.toNat * 256 + c.1), nv ||| flIf (cs.any (·.2)) flNX)

/-- `v.mxq`: each row of 32 lanes is one block; every participant of a row depends on every one's word (R153, R363). -/
def mxQuant (f : VR) (s : State) : Res :=
  if s.cur.group < 32 then .trap s { cause := 3, detail := 6 }
  else
    let m := execM s.cur f.pred.toNat
    let ls := lanesOf m s.cur.width
    let el := mxElem f.mod.toNat
    let rd := readsOf s.cur ls (srcF f.a) false
    let rd := rd.flatMap (fun x => (ls.filter (fun l => l / 32 == x.1 / 32)).map (fun l => (l, x.2.1, x.2.2)))
    vecRun (byPred f.pred.toNat) rd [f.vd.toNat] [srcF f.a] (fun act t =>
      let ls := lanesOf act t.width
      let rows := distinct (ls.map (· / 32))
      rows.foldl (fun u y =>
        let p := ls.filter (fun l => l / 32 == y)
        let (ws, fl) := mxqRow el (p.map (fun l => srcFV t fmtF32 (fElems t 2 (srcF f.a) false l |>.getD 0 0)))
        raise ((p.zip ws).foldl (fun u e => setVreg u f.vd.toNat e.1 (BitVec.ofNat 32 e.2)) u) fl) t) s

def execVMxq (f : VR) (s : State) : Host.Outcome State Fault Refusal := ok (issue (.vMxq f) s (mxQuant f))

def execVMxd (f : VR) (s : State) : Host.Outcome State Fault Refusal :=
  ok (issue (.vMxd f) s (vrLanes f 2 2 true (fun t l =>
    let el := mxElem (f.mod.toNat % 8)
    let a := (readOp32 t 2 (srcF f.a) l).toNat
    let b := (readOp32 t 2 (srcF f.b) l).toNat % 256
    let (v, nv) := scaled (el.value (a % 2 ^ el.bits)) (scaleVal (f.mod.getLsbD 3) b)
    let (x, fl) := fmtF32.ofValue t.rm.toNat t.ftz v
    (BitVec.ofNat 64 x, fl ||| flIf nv flNV))))

/-! ## Bit planes (R69, R154) -/

/-- The words that a bit-plane instruction reads from all 64 lanes of a group. -/
def groupWords (t : Team) (f : SrcF) (b : Nat) : List Word := (List.range 64).map (fun j => readOp32 t 0 f (b + j))

/-- w(k): bit j is bit P − 1 − k of e(j). -/
def planeWord (p k : Nat) (e : List Word) : Nat :=
  ((List.range 64).map (fun j => if (e.getD j 0).getLsbD (p - 1 - k) then 2 ^ j else 0)).sum

/-- The reads of a bit-plane instruction: which active lanes depend on which words (R363). -/
def planeReads (t : Team) (f : VR) (ls : List Nat) (pack : Bool) : List (Nat × Nat × Nat) :=
  let p := f.mod.toNat
  ls.flatMap (fun l =>
    let b := l - l % 64
    if pack then (if l - b < 2 * p then (List.range 64) else []).flatMap (fun j => (readsOf t [b + j] (srcF f.a) false).map (fun x => (l, x.2.1, x.2.2)))
    else (List.range (2 * p)).flatMap (fun j => (readsOf t [b + j] (srcF f.a) false).map (fun x => (l, x.2.1, x.2.2))))

/-- The lanes whose words are read, for DEADSRC: a dead one reads zero. -/
def planeDead (t : Team) (ls : List Nat) (n : Nat) : Bool :=
  ls.any (fun l => (List.range n).any (fun j => isDead t (l - l % 64 + j)))

/-- `v.bpk` and `v.bpu` (R154): G must be 64. -/
def planeOp (f : VR) (pack : Bool) (h : List Word → Nat → Word) (s : State) : Res :=
  if s.cur.group ≠ 64 then .trap s { cause := 3, detail := 6 }
  else
    let m := execM s.cur f.pred.toNat
    let ls := lanesOf m s.cur.width
    let dead := planeDead s.cur ls (if pack then 64 else 2 * f.mod.toNat)
    vecRun (byPred f.pred.toNat) (planeReads s.cur f ls pack) [f.vd.toNat] [] (fun act t =>
      let ls := lanesOf act t.width
      let u := ls.foldl (fun u l => setVreg u f.vd.toNat l (h (groupWords t (srcF f.a) (l - l % 64)) (l % 64))) t
      { u with deadsrc := u.deadsrc || dead }) s

def execVBpk (f : VR) (s : State) : Host.Outcome State Fault Refusal :=
  ok (issue (.vBpk f) s (planeOp f true (fun e i =>
    let p := f.mod.toNat
    if i < 2 * p then BitVec.ofNat 32 (planeWord p (i / 2) e / 2 ^ (32 * (i % 2))) else 0)))

/-- Plane words that lanes supply in halves. -/
def suppliedPlane (e : List Word) (k i : Nat) : Bool := (e.getD (2 * k + i / 32) 0).getLsbD (i % 32)

def execVBpu (f : VR) (s : State) : Host.Outcome State Fault Refusal :=
  ok (issue (.vBpu f) s (planeOp f false (fun e i =>
    let p := f.mod.toNat
    let x : Int := ((List.range p).map (fun k => if suppliedPlane e k i then (2 : Int) ^ (p - 1 - k) else 0)).sum
    wrap 32 (x - (if suppliedPlane e 0 i then 2 ^ p else 0)))))

def execVBpand (f : VR) (s : State) : Host.Outcome State Fault Refusal :=
  ok (issue (.vBpand f) s (fun s =>
    let m := execM s.cur f.pred.toNat
    let ls := lanesOf m s.cur.width
    vecRun (byPred f.pred.toNat) (readsOf s.cur ls (srcF f.a) false ++ readsOf s.cur ls (srcF f.b) false ++ readsOwn ls f.vd.toNat 1)
      [f.vd.toNat] [srcF f.a, srcF f.b] (eachLane 0 f.vd.toNat (fun t l =>
        let n : Int := popBits 32 (readOp32 t 0 (srcF f.a) l &&& readOp32 t 0 (srcF f.b) l).toNat * 2 ^ f.mod.toNat
        let x := (vreg t f.vd.toNat l).toInt + (if f.nb then -n else n)
        wrap 64 (if f.satna then sat x (-(2 ^ 31)) (2 ^ 31 - 1) else x))) s))

end Sys2Proof.Machine
end

