-- ==== Sys2Proof/Machine/Cross.lean ====
section
/-! DEFINITION. Tensor indexing (R155 to R157) and the cross-lane instructions (R158 to R160). -/

namespace Sys2Proof.Machine

/-! ## The shape table -/

/-- The 32-bit word i of an image. -/
def imgWord (d : List Byte) (i : Nat) : Nat := bytesVal ((d.drop (4 * i)).take 4)

/-- ceil(log2 x). -/
def clog2 (x : Nat) : Nat := if x ≤ 1 then 0 else Nat.log2 (x - 1) + 1

/-- The checks of a shape image and the entry it gives (R155, R156). -/
def shapeOf (d : List Byte) : Except Nat Shape :=
  let dm := imgWord d 0 % 4 + 1
  let es := (List.range 4).map (fun i => imgWord d (2 + i))
  let ss := (List.range 4).map (fun i => imgWord d (6 + i))
  if imgWord d 0 / 4 != 0 || imgWord d 1 != 0 || (d.drop 40).any (· != 0) then .error 2
  else if (es.take dm).any (· == 0) || (es.drop dm).any (· != 0) || (ss.drop dm).any (· != 0) then .error 3
  else
    let sh := (es.take (dm - 1)).map clog2
    .ok { dims := dm, ext := es, str := ss.map (fun x => (BitVec.ofNat 32 x).toInt), sh := sh
          m := (es.take (dm - 1)).map (fun e => (2 ^ (32 + clog2 e) + e - 1) / e) }

/-- `shp.set` (R155): the image is team-wide data, so poison in it kills the team (R364). Its bytes are read in one step (log 91). -/
def setShape (f : SR) (s : State) : Res :=
  let a := (sreg s.cur f.sa.toNat).toNat % 2 ^ 32
  if a % 16 ≠ 0 then .trap s { cause := 7, addr := a }
  else match teamVault s a 64 with
    | none => .trap s { cause := 8, addr := a }
    | some k =>
      let (d, s) := readVault s k 64
      if anyPois d then .done (killBy s (instrPc (clauseOf s)) k)
      else match shapeOf (plain d) with
        | .error e => .trap s { cause := 0xE, detail := e }
        | .ok sh => .done (modBlock s s.cur.blk (fun b => { b with shapes := NMap.set none b.shapes (f.imm.toNat % 16) (some sh)
                                                                   shbad := NMap.set none b.shbad (f.imm.toNat % 16) none }))

def execShpSet (f : SR) (s : State) : Host.Outcome State Fault Refusal := ok (issue (.shpSet f) s (setShape f))

/-- The coordinates c0 to c(D − 1) of a linear index (R156). -/
def coords : List (Nat × Nat × Nat) → Nat → List Nat
  | [], x => [x]
  | (e, sh, m) :: r, x => let q := x * m / 2 ^ (32 + sh); (x - q * e) :: coords r q

/-- What `v.tidx` writes (R156). -/
def tensorIndex (sh : Shape) (sel x : Nat) : Word :=
  let c := coords ((List.range (sh.dims - 1)).map (fun i => (sh.ext.getD i 1, sh.sh.getD i 0, sh.m.getD i 0))) x
  match sel with
  | 0 => wrap 32 (((List.range sh.dims).map (fun i => (c.getD i 0 : Int) * sh.str.getD i 0)).sum)
  | 5 => if c.getD (sh.dims - 1) 0 < sh.ext.getD (sh.dims - 1) 0 then 1 else 0
  | k => BitVec.ofNat 32 (c.getD (k - 1) 0)

def execVTidx (f : VR) (s : State) : Host.Outcome State Fault Refusal :=
  ok (issue (.vTidx f) s (fun s =>
    let n := f.b.reg.toNat * 64 + f.b.k.toNat
    match NMap.get none (curBlock s).shapes n with
    | none => .trap s { cause := 0xE, detail := 1 }
    | some sh =>
      let (s, dead) := readShapeState s n (instrPc (clauseOf s))
      if dead then .done s
      else vrLanes f 1 1 false (fun t l => ((tensorIndex sh f.mod.toNat (readOp32 t 1 (srcF f.a) l).toNat).setWidth 64, 0)) s))

/-! ## v.shfl (R158) -/

/-- The source position of a lane. -/
def shflPos (mode g i t : Nat) : Nat :=
  match mode with
  | 0 => t % g
  | 1 => i ^^^ (t % g)
  | 2 => if t ≤ i then i - t else i
  | _ => if i + t < g then i + t else i

/-- The lane that lane l of a team reads. -/
def shflLane (f : VR) (t : Team) (l : Nat) : Nat :=
  l - l % t.group + shflPos f.mod.toNat t.group (l % t.group) (readOp32 t 1 (srcF f.b) l).toNat

/-- The data word is consumed by the lane that receives it; so is the lane operand by the lane that reads it. -/
def shuffle (f : VR) (s : State) : Res :=
  let ty := f.ty.toNat
  let m := execM s.cur f.pred.toNat
  let ls := lanesOf m s.cur.width
  let (e, s) := consume s (readsOf s.cur ls (srcF f.b) false)
  let go := lanesOf (m &&& ~~~ e.lanes) s.cur.width
  let dead := go.any (fun l => isDead s.cur (shflLane f s.cur l))
  let rd := go.flatMap (fun l =>
    let j := shflLane f s.cur l
    if isDead s.cur j then [] else (vwords (ty64 ty) f.a.reg.toNat 0).map (fun n => (l, n, j)))
  let (e2, s) := consume s rd
  let all : Eaten := ⟨e.lanes ||| e2.lanes, e.own ||| e2.own⟩
  let act := m &&& ~~~ all.lanes
  let s := prepDest s (destTy ty f.vd.toNat) act
  let val (t : Team) (l : Nat) : DWord :=
    let j := shflLane f t l
    if isDead t j then 0 else if ty64 ty then vreg64 t f.a.reg.toNat j else (vreg t f.a.reg.toNat j).setWidth 64
  let s := modCur s (fun t =>
    let u := bothCopies (fun u => eachLane ty f.vd.toNat val (execM u f.pred.toNat &&& ~~~ all.lanes) u) t
    { u with deadsrc := u.deadsrc || dead || go.any (readsDead t (srcF f.b)) })
  .done (dieOff s all (instrPc (clauseOf s)))

def execVShfl (f : VR) (s : State) : Host.Outcome State Fault Refusal := ok (issue (.vShfl f) s (shuffle f))

/-! ## v.vote, v.red, v.scan (R159, R160) -/

/-- The groups that hold a lane of a list, by first lane. -/
def groupsOf (t : Team) (ls : List Nat) : List Nat := distinct (ls.map (fun l => l - l % t.group))

/-- The participants of a group. -/
def partsOf (t : Team) (ls : List Nat) (b : Nat) : List Nat := ls.filter (fun l => l - l % t.group == b)

/-- The reads of an instruction whose participants depend on the operands of those that `dep` names (R363). -/
def groupReads (t : Team) (f : SrcF) (w64 : Bool) (ls : List Nat) (dep : Nat → Nat → Bool) : List (Nat × Nat × Nat) :=
  let rd := readsOf t ls f w64
  ls.flatMap (fun l => (rd.filter (fun x => x.1 / t.group == l / t.group && dep l x.1)).map (fun x => (l, x.2.1, x.2.2)))

/-- A group instruction: h gives each participant's result and the group's flags from the list of participants and their
operands in lane order. -/
def groupOp (f : VR) (dty : Nat) (dep : Nat → Nat → Bool)
    (h : Team → Nat → List (Nat × DWord) → List (Nat × DWord) × Fl) (s : State) : Res :=
  let ty := f.ty.toNat
  let ls := lanesOf (execM s.cur f.pred.toNat) s.cur.width
  vecRun (byPred f.pred.toNat) (groupReads s.cur (srcF f.a) (ty64 ty) ls dep) (destTy dty f.vd.toNat) [srcF f.a] (fun act t =>
    let ls := lanesOf act t.width
    (groupsOf t ls).foldl (fun u b =>
      let (ws, fl) := h t b ((partsOf t ls b).map (fun l => (l, readOp t ty (srcF f.a) l)))
      raise (ws.foldl (fun u w => writeTy u dty f.vd.toNat w.1 w.2) u) fl) t) s

/-- The vote of a group for a lane. -/
def voteOf (mode g : Nat) (ps : List (Nat × DWord)) (l : Nat) : Nat :=
  match mode with
  | 0 => if ps.any (fun p => p.2 != 0) then 1 else 0
  | 1 => if ps.all (fun p => p.2 != 0) then 1 else 0
  | 2 => if ps.all (fun p => ps.all (fun q => p.2 == q.2)) then 1 else 0
  | _ =>
    let n := min g 32
    let b := l - l % n
    ((ps.filter (fun p => p.2 != 0 && decide (b ≤ p.1 ∧ p.1 < b + n))).map (fun p => 2 ^ (p.1 - b))).sum

def execVVote (f : VR) (s : State) : Host.Outcome State Fault Refusal :=
  ok (issue (.vVote f) s (groupOp f 0 (fun _ _ => true) (fun t _ ps =>
    (ps.map (fun p => (p.1, BitVec.ofNat 64 (voteOf f.mod.toNat t.group ps p.1))), 0))))

/-- comb on values of a type (R160). -/
def combine (t : Team) (ty op : Nat) (x y : DWord) : DWord × Fl :=
  if tyFloat ty then
    let F := tyFmt ty
    packRes ((elems ty x).zipWith (fun a b =>
      let u := srcFV t F a; let v := srcFV t F b
      match op with
      | 0 => fAdd F t.rm.toNat (ftzOf t F) u v
      | 1 => fMinMax F false a b u v
      | _ => fMinMax F true a b u v) (elems ty y))
  else
    let a := intVal ty x; let b := intVal ty y
    (match op with
      | 0 => wrap 64 (a + b)
      | 1 => if b < a then y else x
      | 2 => if a < b then y else x
      | 3 => x &&& y
      | 4 => x ||| y
      | _ => x ^^^ y, 0)

/-- Reduce a result to the bits of its type. -/
def clip (ty : Nat) (x : DWord) : DWord := if ty64 ty then x else (x.setWidth 32).setWidth 64

/-- The identity of an op (R160). -/
def combIdent (ty op : Nat) : DWord :=
  if tyFloat ty then
    let F := tyFmt ty
    let e := match op with | 0 => 0 | 1 => F.infBits | _ => F.sign true + F.infBits
    packElems ((elems ty 0).map (fun _ => e))
  else match op with
    | 1 => wrap 64 (tyHi ty)
    | 2 => wrap 64 (tyLo ty)
    | 3 => -1
    | _ => 0

/-- A subnormal f32 operand is read as a zero of its sign (R60). -/
def flushBits (t : Team) (ty : Nat) (x : DWord) : DWord :=
  if ty = 2 ∧ t.ftz ∧ x.toNat % 2 ^ 31 < 2 ^ 23 then x &&& 0x80000000 else x

/-- comb with absent operands. -/
def combOpt (t : Team) (ty op : Nat) (a b : Option DWord × Fl) : Option DWord × Fl :=
  match a.1, b.1 with
  | some x, some y => let (z, fl) := combine t ty op x y; (some (clip ty z), a.2 ||| b.2 ||| fl)
  | some x, none => (some x, a.2 ||| b.2)
  | none, r => (r, a.2 ||| b.2)

/-- A result as it is written: a NaN is canonical, and a signalling one that no step has combined raises NV (R52, R61, log 68). -/
def settleNan (ty : Nat) (x : DWord) : DWord × Fl :=
  if tyFloat ty then packRes ((elems ty x).map (fun e =>
    let v := (tyFmt ty).value e
    if v.isNan then (tyFmt ty).nanRes v.snan else (e, 0)))
  else (x, 0)

/-- One level of the tree: neighbours are combined. -/
def pairUp (c : Option DWord × Fl → Option DWord × Fl → Option DWord × Fl) : List (Option DWord × Fl) → List (Option DWord × Fl)
  | a :: b :: r => c a b :: pairUp c r
  | l => l

/-- The tree over 2^k positions (R160). -/
def treeFold (c : Option DWord × Fl → Option DWord × Fl → Option DWord × Fl) : Nat → List (Option DWord × Fl) → Option DWord × Fl
  | 0, l => l.headD (none, 0)
  | k + 1, l => treeFold c k (pairUp c l)

def execVRed (f : VR) (s : State) : Host.Outcome State Fault Refusal :=
  ok (issue (.vRed f) s (groupOp f f.ty.toNat (fun _ _ => true) (fun t b ps =>
    let ty := f.ty.toNat
    let xs := (List.range t.group).map (fun i =>
      (((ps.find? (fun p => p.1 == b + i)).map (fun p => flushBits t ty p.2)), (0 : Fl)))
    let (r, fl) := treeFold (combOpt t ty f.mod.toNat) (Nat.log2 t.group) xs
    let (x, fn) := settleNan ty (r.getD 0)
    (ps.map (fun p => (p.1, x)), fl ||| fn))))

/-- `v.scan`: the running values of participants in lane order, inclusive or exclusive. A value that goes into no result is not
settled (log 68). -/
def scanList (t : Team) (ty op : Nat) (ex : Bool) : Option DWord → List (Nat × DWord) → List (Nat × DWord) × Fl
  | _, [] => ([], 0)
  | acc, (l, x) :: r =>
    let (nx, fl) := combOpt t ty op (acc, 0) (some (flushBits t ty x), 0)
    let (ws, fl') := scanList t ty op ex nx r
    let (y, fn) := settleNan ty (if ex then acc.getD (combIdent ty op) else nx.getD 0)
    ((l, y) :: ws, fl ||| fn ||| fl')

def execVScan (f : VR) (s : State) : Host.Outcome State Fault Refusal :=
  let ex := f.mod.getLsbD 3
  ok (issue (.vScan f) s (groupOp f f.ty.toNat (fun l j => if ex then decide (j < l) else decide (j ≤ l)) (fun t _ ps =>
    scanList t f.ty.toNat (f.mod.toNat % 8) ex none ps)))

end Sys2Proof.Machine
end

