-- ==== Sys2Proof/Machine/Clauses.lean ====
section
/-! DEFINITION. Clauses: the header (R73), fetching through the instruction cache and the checks of R74, beginning
(R77); Stall.lean holds their continuing (R301). -/

namespace Sys2Proof.Machine

/-! ## The header -/

def hdrCheck (h : DWord) : Nat := field h 63 60
def hdrClass (h : DWord) : Nat := field h 59 57
def hdrCount (h : DWord) : Nat := field h 56 53 + 1
def hdrWait (h : DWord) : Nat := field h 52 41
def hdrSeta (h : DWord) : Nat := field h 40 37
def hdrSetb (h : DWord) : Nat := field h 36 33
def hdrSyn (h : DWord) : Bool := h.getLsbD 32

/-- The first failing check of the header word (R74). -/
def headerFault (h : DWord) : Option Nat :=
  if hdrCheck h ≠ 10 then some 1
  else if 4 ≤ hdrClass h then some 2
  else if h.extractLsb' 0 32 ≠ 0 then some 3
  else none

/-- A word that encodes a terminator (R76). -/
def isTerm (w : DWord) : Bool := match decode w with | some i => terminator i | none => false

/-- The first terminator that stands before the last position (R74). -/
def misplaced (ws : List DWord) : Option DWord := ws.dropLast.find? isTerm

/-! ## Fetching -/

/-- What fetching a word gives. -/
inductive Fetched where
  | word (w : DWord)
  | miss
  | fault (x : TrapInfo)
  | poison
deriving DecidableEq, Repr

/-- The word of the cache at a physical address holds an uncorrectable error: its copy fails (R361). -/
def icFails (c : Cell) (pa : Nat) : Bool :=
  match NMap.get none c.icbad (pa / 16) with
  | some .uncorrectable | some .counted => true
  | _ => false

/-- Bytes of the instruction cache at a physical address, if a copy that does not fail is held. -/
def icFind (c : Cell) (pa n : Nat) : Option (List Byte) :=
  if icFails c pa then none else (c.ic.find? (fun e => e.1 == pa / 128)).map (fun e => (e.2.drop (pa % 128)).take n)

/-- The cache without its copy of a line, and without the errors that stood in it. -/
def icDrop (c : Cell) (line : Nat) : Cell :=
  { c with ic := c.ic.filter (fun e => e.1 != line), icbad := c.icbad.filter (fun e => e.1 / 8 != line) }

/-- Read a word of code through the instruction cache, which fills a line from the homes and keeps 128 of them, the oldest
going first (R270; log 14). A copy that fails is dropped and fetched again (R361); a poisoned line is not kept. -/
def icRead (s : State) (ck pa : Nat) : Fetched × State :=
  match icFind (cellOf s ck) pa 8 with
  | some d => (.word (BitVec.ofNat 64 (bytesVal d)), s)
  | none =>
    let s := if icFails (cellOf s ck) pa then modCell s ck (fun c => icDrop c (pa / 128)) else s
    let (d, s) := readPhys s (pa / 128 * 128) 128 0
    if anyPois ((d.drop (pa % 128)).take 8) then (.poison, s)
    else
      let s := if anyPois d then s else modCell s ck (fun c =>
        { icDrop c (pa / 128) with ic := ((pa / 128, plain d) :: (icDrop c (pa / 128)).ic).take 128 })
      (.word (BitVec.ofNat 64 (bytesVal (plain ((d.drop (pa % 128)).take 8)))), s)

/-- Fetch the word at a virtual address for the current team (R34, R74, R285). -/
def fetchWord (s : State) (va : Nat) : Fetched × State :=
  let ck := ckey s.cur.die s.cur.cell
  if 2 ^ 56 ≤ va then (.fault { cause := 9, detail := 2, addr := va, replay := true }, s)
  else match transl s ck va with
    | .miss => (.miss, requestWalk s ck s.cur.tid va)
    | .fail => (.fault { cause := 9, detail := 2, addr := va, replay := true }, s)
    | .hit l => match permFault l .fetch (curLaunch s).d.priv with
      | some d => (.fault { cause := 10, detail := d, addr := va, replay := true }, s)
      | none => icRead s ck (leafPa l va)

/-- Fetch n words in ascending address; the first that does not give a word decides. -/
def fetchWords : Nat → State → Nat → List DWord → (List DWord ⊕ Fetched) × State
  | 0, s, _, acc => (.inl acc.reverse, s)
  | n + 1, s, va, acc => match fetchWord s va with
    | (.word w, s) => fetchWords n s ((va + 8) % 2 ^ 64) (w :: acc)
    | (r, s) => (.inr r, s)

/-! ## Beginning a clause -/

/-- The pipes that clauses of other teams hold in a cell. -/
def pipeBusy (s : State) (die cell : Nat) (p : Pipe) : Bool :=
  (allTeams s).any (fun t => t.die == die && (cellsOf t).contains cell && t.status == .running
    && (match t.clause with | some c => c.pipe == some p | none => false))

/-- A free pipe for a clause of a class in every cell that the team occupies (R77, R300, R301). -/
def freePipe (s : State) (t : Team) (cls : Nat) : Option Pipe :=
  let free (p : Pipe) : Bool := (cellsOf t).all (fun c => !pipeBusy s t.die c p)
  let want : List Pipe := match cls with | 0 => [.v] | 1 => [.l] | 2 => [.x] | _ => [.v, .l, .x]
  want.find? free

/-- The team holds a tile. -/
def hasTiles (t : Team) : Bool := !t.r.tile.isEmpty || !t.r.wide.isEmpty

/-- The team stops at its next clause boundary (R305, R375). -/
def mustStop (s : State) (t : Team) : Bool :=
  (t.preempt && (!hasTiles t || t.pmark.isSome || t.timeout)) || (blockOf s t.blk).wantrun

/-- The cell's memory pipe holds an access for want of a walk slot (R288). -/
def memoryPipeHeld (s : State) (t : Team) : Bool :=
  (allTeams s).any (fun u => u.die == t.die && u.slotwait && u.tid != t.tid && (cellsOf u).any (fun c => (cellsOf t).contains c))

/-- Illegal Clause (R43, R74). -/
def illegalClause (s : State) (detail : Nat) (w : DWord) : State :=
  takeTrap s s.cur.pc { cause := 2, detail := detail, addr := w.toNat } .clause

/-- A fetch that gave no word: the team waits for a walk, traps, or dies (R74, R364). -/
def noWord (s : State) : Fetched → State
  | .fault x => takeTrap s s.cur.pc x .clause
  | .poison => killTeam s s.cur.pc
  | _ => s

/-- A clause begins once its words are fetched and checked, its WAIT flags are clear, no deferred fault is met, and a pipe is
free (R74, R77, R196). -/
def beginFetched (s : State) (h : DWord) (ws : List DWord) : State :=
  let t := s.cur
  let waits := (List.range 12).filter (fun f => (hdrWait h).testBit f)
  if waits.any (fun f => flagCount t f != 0) then s
  else match firstDeferred t (fun o => match o.flag with | some f => waits.contains f | none => false) with
    | some d => takeDeferred s d
    | none =>
      if hdrClass h = 1 ∧ memoryPipeHeld s t then s
      else match freePipe s t (hdrClass h) with
        | none => s
        | some p => modCur s (fun t => { clearWait t with
            clause := some { hdr := t.pc, cls := hdrClass h, words := ws, idx := 0, seta := hdrSeta h, setb := hdrSetb h,
                             syn := hdrSyn h, pipe := some p } })

/-- Fetch and check the clause at pc (R74). -/
def beginClause (s : State) : State :=
  let pc := s.cur.pc
  match fetchWord s pc with
  | (.word h, s) =>
    match headerFault h with
    | some d => illegalClause s d h
    | none => match fetchWords (hdrCount h) s ((pc + 8) % 2 ^ 64) [] with
      | (.inr r, s) => noWord s r
      | (.inl ws, s) => match misplaced ws with
        | some w => illegalClause s 4 w
        | none => beginFetched s h ws
  | (r, s) => noWord s r

/-- The deferred fault that the save of the team's context observed and that is still pending (R196). -/
def savedFault (t : Team) : Option DFault :=
  if t.saveobs = some t.handler.isSome then firstDeferred t (fun _ => true) else none

/-- The save has nothing left to observe. -/
def savedDone (t : Team) : Team := if t.saveobs = some t.handler.isSome then { t with saveobs := none } else t

/-- The operation that the host has replayed for the current team is reissued before the team goes on, once there is room for it (R79, R222, R311;
log 92); `s0` is the state where there is none. -/
def redoOp (s0 s : State) : State :=
  match s.cur.redo with
  | none => s0
  | some o => if replayFull s o then s0 else modCur (reissueOp s o) (fun t => { t with redo := none })

/-- CLAUSE_BEGIN (R77, R82): nothing happens while the team may not begin one. -/
def execClauseBegin (tid : Nat) (s0 : State) : Host.Outcome State Fault Refusal :=
  let s := focus s0 tid
  let t := s.cur
  ok (if t.tid != tid || t.status != .running || t.clause.isSome || allDead t || mustStop s t || !dieRuns s t.die then s0
    else if t.redo.isSome then redoOp s0 s
    else match savedFault t with
      | some d => takeDeferred s d
      | none =>
        let s := modCur s savedDone
        if t.ops.any (·.syn) then s
        else match firstDeferred t (·.syn) with
          | some d => takeDeferred s d
          | none => beginClause s)

end Sys2Proof.Machine
end

