-- ==== Sys2Proof/Machine/Tiles.lean ====
section
/-! DEFINITION. Tiles (R190 to R193, R197, R198), operand words and their checks (R194 to R196), microscaled, integer,
sparse and bit-plane products (R199 to R204), `mx.chk` (R215). -/

namespace Sys2Proof.Machine

/-! ## Held tiles -/

/-- Change a held tile, in both copies. -/
def modTile (s : State) (td : Nat) (f : Tile → Tile) : State :=
  modCur s (deliverRegs (fun r => { r with tile := match NMap.get none r.tile td with
    | none => r.tile
    | some x => NMap.set none r.tile td (some (f x)) }))
def modWide (s : State) (q : Nat) (f : WTile → WTile) : State :=
  modCur s (deliverRegs (fun r => { r with wide := match NMap.get none r.wide q with
    | none => r.wide
    | some x => NMap.set none r.wide q (some (f x)) }))

/-- Element (i, j). -/
def ekey (i j : Nat) : Nat := 16 * i + j
def Tile.get (x : Tile) (i j : Nat) : Word := NMap.get 0 x.el (ekey i j)
def Tile.set (x : Tile) (i j : Nat) (w : Word) : Tile := { x with el := NMap.set 0 x.el (ekey i j) w }
/-- The poison and errors of rows that are written whole are cleared (R367). -/
def Tile.clearRows (x : Tile) (rows : List Nat) : Tile :=
  { x with pois := x.pois.filter (fun e => !rows.contains e.1), lat := x.lat.filter (fun e => !rows.contains e.1)
           bad := x.bad.filter (fun e => !rows.contains (e.1 / 16)) }
def WTile.clearRows (x : WTile) (rows : List Nat) : WTile :=
  { x with pois := x.pois.filter (fun e => !rows.contains e.1), lat := x.lat.filter (fun e => !rows.contains e.1)
           bad := x.bad.filter (fun e => !rows.contains (e.1 / 16)) }
def WTile.get (x : WTile) (i j : Nat) : WElem := NMap.get {} x.el (ekey i j)
def WTile.set (x : WTile) (i j : Nat) (w : WElem) : WTile := { x with el := NMap.set {} x.el (ekey i j) w }
def WTile.rowOf (x : WTile) (i : Nat) : WRow := NMap.get {} x.row i

/-- The poisoned rows of a held tile, and the errors of its elements that nothing has found. -/
def tileMarks (t : Team) (td : Nat) : NMap Bool × NMap (Option Err) :=
  (if td < 8 then ((NMap.get none t.r.tile td).getD {}).pois else ((NMap.get none t.r.wide (td - 8)).getD {}).pois, tileErrs t.r td)

/-- Mark rows of a held tile: their errors are found, some of them latent. -/
def markRows (s : State) (td : Nat) (found latent : List Nat) : State :=
  let p (m : NMap Bool) (l : List Nat) : NMap Bool := l.foldl (fun m i => NMap.set false m i true) m
  let keep (m : NMap (Option Err)) : NMap (Option Err) := m.filter (fun e => e.2 == some .counted)
  if td < 8 then modTile s td (fun x => { x with pois := p (p x.pois found) latent, lat := p x.lat latent, bad := keep x.bad })
  else modWide s (td - 8) (fun x => { x with pois := p (p x.pois found) latent, lat := p x.lat latent, bad := keep x.bad })

/-- Count the corrected errors among those of a tile's elements, each with its record (R371). -/
def countFixed (s : State) (sh : Bool) (td cell : Nat) (bad : NMap (Option Err)) : State :=
  bad.foldl (fun s e => if e.2 = some .corrected then
      let s := emit s (srcDie s.cur.die) { kind := 1 }
      countErr s s.cur.die cell (regWord s.cur sh (tileWord td e.1)) .corrected (lastRecord s (srcDie s.cur.die))
    else s) s

/-- The uncorrectable elements of a list of errors. -/
def lostElems (bad : NMap (Option Err)) : List Nat := (bad.filter (fun e => e.2 == some .uncorrectable)).map (·.1)

/-- The corrected errors of a tile are gone from a copy. -/
def dropFixed (td : Nat) (r : Regs) : Regs :=
  let drop (m : NMap (Option Err)) : NMap (Option Err) := m.filter (fun e => e.2 != some .corrected)
  { r with tile := if td < 8 then r.tile.map (fun e => if e.1 == td then (e.1, e.2.map (fun x => { x with bad := drop x.bad })) else e) else r.tile
           wide := if td < 8 then r.wide else r.wide.map (fun e => if e.1 == td - 8 then (e.1, e.2.map (fun x => { x with bad := drop x.bad })) else e) }

/-- The errors of a tile of a protected team are found in one copy or the other: they count, and an uncorrectable one is a mismatch with nothing
held (R376). -/
def mismatchRows (s : State) (h : Regs) (td cell pc : Nat) : State :=
  let bad := tileErrs s.cur.r td
  let bads := tileErrs h td
  let s := countFixed (countFixed s false td cell bad) true td cell bads
  let lost (sh : Bool) (m : NMap (Option Err)) : List FoundErr := (lostIn m).map (fun e => ⟨cell, regWord s.cur sh (tileWord td e.1), e.2⟩)
  let l := lost false bad ++ lost true bads
  let s := modCur s (deliverRegs (dropFixed td))
  if l.isEmpty then s else match mismatchErrs s l with
    | .done s | .goto s _ | .stall s | .leave s => s
    | .trap s x => modCur s (fun t => { t with deferred := t.deferred ++ [{ op := { id := t.nextOp, pc := pc }, cause := x.cause, detail := x.detail, addr := x.addr }] })

/-- Read rows of a tile: an error in a row outside them becomes latent, a poisoned row of them kills its owner (R363, R367,
R371). The rows that are left. -/
def readRows (s : State) (td : Nat) (rows : List Nat) (pc : Nat) : List Nat × State :=
  let base := tileBase s.cur td
  let cell := laneCell s.cur base
  let s := match s.cur.sh with
    | none => s
    | some h => if (tileErrs s.cur.r td).isEmpty && (tileErrs h td).isEmpty then s else mismatchRows s h td cell pc
  let (pois, bad) := tileMarks s.cur td
  if pois.isEmpty && bad.isEmpty then (rows, s)
  else
    let die := s.cur.die
    let s := countFixed s false td cell bad
    let lost := lostElems bad
    let found := lost.filter (fun e => rows.contains (e / 16))
    let latent := lost.filter (fun e => !rows.contains (e / 16))
    let s := markRows s td (found.map (· / 16)) (latent.map (· / 16))
    let s := latent.foldl (fun s e =>
      let s := emit s (srcDie die) { kind := 3, launch := launchId s s.cur.blk, info := base + e / 16 }
      countErr s die cell (regWord s.cur false (tileWord td e)) .uncorrectable (lastRecord s (srcDie die))) s
    let eaten := rows.filter (fun i => NMap.get false (tileMarks s.cur td).1 i)
    let m := maskOf (eaten.map (base + ·))
    let s := found.foldl (fun s e => noteFound s { die := die, cell := cell, word := regWord s.cur false (tileWord td e) }) s
    let s := killLanes s m pc m
    (rows.filter (fun i => !eaten.contains i), s)

/-! ## tacq and trel (R197) -/

/-- Wide tiles that teams hold in a cell: a team that is saved, or whose block is, holds none (R217). -/
def wideUsed (s : State) (ck : Nat) : Nat :=
  ((allTeams s).map (fun t =>
    if t.status == .ended || t.status == .saved || (blockOf s t.blk).status == .waiting then 0
    else (t.r.wide.filter (fun e => match e.2 with | some x => ckey t.die (laneCell t x.base) == ck | none => false)).length
      * (if t.prot then 2 else 1))).sum

/-- A fresh wide tile: the identity of addition in every element. -/
def freshWElem : WElem := { z := 4094, zneg := true }
def freshWide (base : Nat) : WTile :=
  { base := base, el := (List.range 256).foldl (fun m k => NMap.set {} m k freshWElem) [] }

/-- Give a team wide tile q with owning group g. -/
def giveWide (s : State) (tid q base : Nat) : State :=
  modTeam s tid (fun t => { deliverRegs (fun r => { r with wide := NMap.set none r.wide q (some (freshWide base)) }) t with granted := some (8 + q) })

/-- Grant the head of a cell's wide-tile queue while it fits (R197). A queue entry names the team and 16 times the first
lane of the owning group plus the wide tile's number. -/
def grantWide (s : State) (ck : Nat) : State :=
  match (cellOf s ck).wideq with
  | [] => s
  | (tid, k) :: rest => match team? s tid with
    | none => modCell s ck (fun c => { c with wideq := rest })
    | some t =>
      if wideUsed s ck + (if t.prot then 2 else 1) ≤ 2 then
        giveWide (modCell s ck (fun c => { c with wideq := rest })) tid (k % 16) (k / 16)
      else s

def execWideTileQueueGrant (cell : Nat) (s : State) : Host.Outcome State Fault Refusal := ok (grantWide s cell)

/-- `tacq` of a wide tile: it joins the queue once, and takes the tile as soon as it is granted. -/
def acquireWide (td g : Nat) (s : State) : Res :=
  let t := s.cur
  let base := g * t.group
  let ck := ckey t.die (laneCell t base)
  let q := (cellOf s ck).wideq
  let s := if q.any (fun e => e.1 == t.tid) then s else modCell s ck (fun c => { c with wideq := c.wideq ++ [(t.tid, 16 * base + (td - 8))] })
  let s := grantWide s ck
  if s.cur.granted = some td then .done s else .stall s

def acquireTile (f : MX) (s : State) : Res :=
  let t := s.cur
  let td := f.td.toNat
  let g := f.imm.toNat % 64
  if t.granted = some td then .done s
  else if td < 8 ∧ (curLaunch s).d.tiles ≤ td then .trap s { cause := 0xF, detail := 2 }
  else if holdsTile t td then .trap s { cause := 0xF, detail := 3 }
  else if 8 ≤ td ∧ t.prot ∧ t.r.wide.length ≥ 1 then .trap s { cause := 0xF, detail := 4 }
  else if t.width / t.group ≤ g then .trap s { cause := 3, detail := 8 }
  else if td < 8 then
    .done (modCur s (deliverRegs (fun r => { r with tile := NMap.set none r.tile td (some { base := g * t.group }) })))
  else acquireWide td g s

def execTacq (f : MX) (s : State) : Host.Outcome State Fault Refusal := ok (issue (.tacq f) s (acquireTile f))

/-- An operation names a tile. -/
def namesTile (o : Op) (td : Nat) : Bool := (chk 0 o.i).tiles.contains td

def execTrel (f : MX) (s : State) : Host.Outcome State Fault Refusal :=
  ok (issue (.trel f) s (fun s =>
    let t := s.cur
    let td := f.td.toNat
    if t.ops.any (fun o => namesTile o td) then .stall s
    else if td < 8 then .done (modCur s (deliverRegs (fun r => { r with tile := NMap.set none r.tile td none })))
    else
      let ck := ckey t.die (laneCell t (tileBase t td))
      .done (grantWide (modCur s (deliverRegs (fun r => { r with wide := NMap.set none r.wide (td - 8) none }))) ck)))

/-! ## Operand checks (R194, R195) -/

/-- A range of vault bytes: its role, address, length and alignment. -/
structure Rng where
  role : Nat
  va   : Nat
  n    : Nat
  al   : Nat := 1
deriving DecidableEq, Repr

/-- The first byte of a range that fails R36, by an access of a lane's cell. -/
def firstBadAt (s : State) (lane a n : Nat) : Nat := ((List.range n).find? (fun i => (laneVault s lane (a + i) 1).isNone)).getD 0 + a

/-- Check ranges in order: Misaligned Access first, then Vault Range; each becomes an access that holds as many bytes as it
is long. -/
def checkRanges (s : State) (lane : Nat) (l : List Rng) : TrapInfo ⊕ List Acc :=
  match l.find? (fun r => r.va % r.al != 0) with
  | some r => .inl { cause := 7, addr := r.va }
  | none => match l.find? (fun r => r.n != 0 && (laneVault s lane r.va r.n).isNone) with
    | some r => .inl { cause := 8, addr := firstBadAt s lane r.va r.n }
    | none => .inr (l.map (fun r => { lane := r.role, va := r.va, pa := (laneVault s lane r.va r.n).getD 0, mt := vaultMt,
                                      data := List.replicate r.n 0 }))

/-- ADDR, STRIDE and GROUPS of an operand word; the address of a row. -/
def wAddr (w : DWord) : Nat := field w 31 0
def wStride (w : DWord) : Nat := field w 47 32
def wGroups (w : DWord) : Nat := field w 63 48
def rowAddr (w : DWord) (i : Nat) : Nat := (wAddr w + i * wStride w) % 2 ^ 32

/-- A STRIDE that breaks its alignment (R195): row 1 stands misaligned, or row 0 does. -/
def badStride (w : DWord) (al : Nat) : List Rng :=
  if wStride w % al = 0 then [] else [{ role := 0, va := if rowAddr w 1 % al = 0 then wAddr w else rowAddr w 1, n := 0, al := al }]

/-! ## Parts that are taken before completion (R193, R248) -/

/-- The numbers by which an operation notes, in `gave`, that byte b of the access with a role has been read, or that what it writes from there has
been written, before it completes. -/
def readKey (role b : Nat) : Nat := 2 * (role * 2 ^ 20 + b)
def wroteKey (role b : Nat) : Nat := 2 * (role * 2 ^ 20 + b) + 1

/-- Hold bytes that an operation has read for a role: n bytes in all, these at offset b. -/
def holdBytes (role n b : Nat) (d : List PByte) (o : Op) : Op :=
  let old := (o.acc.find? (fun a => a.lane == role)).getD { lane := role, mt := vaultMt, done := true }
  let new := { old with data := (List.range n).map (fun k => if b ≤ k ∧ k < b + d.length then (d.getD (k - b) (0, false)).1 else old.data.getD k 0) }
  { o with acc := if o.acc.any (fun a => a.lane == role) then o.acc.map (fun a => if a.lane == role then new else a) else o.acc ++ [new]
           gave := (List.range d.length).map (fun k => readKey role (b + k)) ++ o.gave
           pois := ((List.range d.length).filter (fun k => (d.getD k (0, false)).2)).map (fun k => readKey role (b + k)) ++ o.pois }

/-- The n bytes of a role, once all of them are held. -/
def heldBytes (o : Op) (role n : Nat) : Option (List PByte) :=
  match o.acc.find? (fun a => a.lane == role) with
  | none => none
  | some a => if (List.range n).all (fun k => o.gave.contains (readKey role k))
      then some ((List.range n).map (fun k => (a.data.getD k 0, o.pois.contains (readKey role k)))) else none

/-- The bytes of a vault access: those that have been read before, and the others as they stand. -/
def readAcc (s : State) (o : Op) (a : Acc) : List PByte × State :=
  let (d, s) := readVault s a.pa a.data.length
  if o.gave.isEmpty then (d, s)
  else ((List.range a.data.length).map (fun b =>
    if o.gave.contains (readKey a.lane b) then (a.data.getD b 0, o.pois.contains (readKey a.lane b)) else d.getD b (0, false)), s)

/-- The bytes of an operation's accesses, by role, with their poison. -/
def readAccs (s : State) (o : Op) (l : List Acc) : NMap (List PByte) × State :=
  l.foldl (fun (r : NMap (List PByte) × State) a =>
    let (d, s) := readAcc r.2 o a
    (NMap.put a.lane d r.1, s)) ([], s)

/-- The aligned 16-byte words of n bytes at a vault key: offset and length of the part in each. -/
def wordParts (key n : Nat) : List (Nat × Nat) :=
  (List.range (n / 16 + 2)).filterMap (fun w =>
    let lo := max key (16 * (key / 16 + w))
    let hi := min (key + n) (16 * (key / 16 + w) + 16)
    if lo < hi then some (lo - key, hi - lo) else none)

/-- A run of vault bytes that an operation writes: its role, its key, its bytes. -/
structure VRun where
  role : Nat
  key  : Nat
  d    : List PByte
deriving DecidableEq, Repr

/-- Write a run, but for the parts that have been written before. -/
def writeRun (o : Op) (s : State) (r : VRun) : State :=
  if o.gave.isEmpty then writeVault s r.key r.d
  else (wordParts r.key r.d.length).foldl (fun s p =>
    if o.gave.contains (wroteKey r.role p.1) then s else writeVault s (r.key + p.1) ((r.d.drop p.1).take p.2)) s

/-- Poison that an operation read for a role lay in the vault of the tile's own cell (R371). -/
def ownRole (s : State) (o : Op) (base role : Nat) : Bool :=
  o.acc.any (fun a => a.lane == role && a.mt == vaultMt && a.pa / 2 ^ 18 == ckey s.cur.die (laneCell s.cur base))

/-- An earlier operation of the team names a tile of this one (R193). -/
def tileBusy (s : State) (o : Op) : Bool :=
  s.cur.ops.any (fun e => decide (e.id < o.id) && (chk 0 o.i).tiles.any (namesTile e))

/-- Issue a matrix operation with its scalars and accesses, on the launch's stream at block scope (R193). -/
def issueMx (s : State) (f : MX) (i : Instr) (acc : List Acc) : State :=
  addOp s f.fs { i := i, stream := (curLaunch s).d.stream, scope := 1, mask := execM s.cur 0, acc := acc
                 sc := [sreg s.cur f.sa.toNat, sreg s.cur f.sb.toNat, sreg s.cur f.sc.toNat] }

/-- The rounding mode of an operation. -/
def opMode (o : Op) (f : MX) : Nat := if f.mod = 0 then o.rm else f.mod.toNat % 4

/-! ## mx.zero, mx.ld and mx.st (R198) -/

def execMxZero (f : MX) (s : State) : Host.Outcome State Fault Refusal :=
  ok (issue (.mxZero f) s (fun s => .done (issueMx s f (.mxZero f) [])))

/-- Row i of a tile in memory: its address and length. -/
def tileRowLen (td : Nat) : Nat := if td < 8 then 64 else 256
def tileRowAddr (s : State) (f : MX) (i : Nat) : Nat := (sreg s.cur f.sa.toNat + sreg s.cur f.sb.toNat * BitVec.ofNat 64 i).toNat

/-- A row stride that breaks the alignment of tile rows (R195), where a row is moved. -/
def badRowStride (s : State) (f : MX) (rows : List Nat) : List Rng :=
  if rows.isEmpty || (sreg s.cur f.sb.toNat).toNat % 16 == 0 then []
  else [{ role := 0, va := (if tileRowAddr s f 1 % 16 = 0 then tileRowAddr s f 0 else tileRowAddr s f 1) % 2 ^ 32, n := 0, al := 16 }]

/-- Ranges of no bytes only carry an alignment. -/
def realRanges (l : List Acc) : List Acc := l.filter (fun a => !a.data.isEmpty)

/-- Issue `mx.ld` or `mx.st`: each row in the vault, or in 16-byte pieces of global memory (role 16·i + k); a global
row stride is tested after the rows (log 43). -/
def issueTileRows (f : MX) (i : Instr) (w : Want) (s : State) : Res :=
  let td := f.td.toNat
  let base := tileBase s.cur td
  let rows := rowSet s.cur base (execM s.cur 0)
  let n := tileRowLen td
  let stride := badRowStride s f rows
  if f.mod = 1 then
    match checkRanges s base (rows.map (fun r => { role := 16 * r, va := tileRowAddr s f r % 2 ^ 32, n := n, al := 16 }) ++ stride) with
    | .inl x => .trap s x
    | .inr acc => .done (issueMx s f i (realRanges acc))
  else
    let ck := ckey s.cur.die (laneCell s.cur base)
    let look (k : Nat) : Nat × Nat × AddrRes :=
      let a := (tileRowAddr s f (k / 16) + 16 * (k % 16)) % 2 ^ 64
      (ck, a, checkGlobal s ck w 16 none none a)
    match checkAll look (rows.flatMap (fun r => (List.range (n / 16)).map (fun k => 16 * r + k))) [] [] with
    | .trap x => .trap s x
    | .miss q => .stall (askWalks s q)
    | .all l => match stride with
      | [] => .done (issueMx s f i l)
      | _ => .trap s { cause := 7, addr := if tileRowAddr s f 1 % 16 = 0 then tileRowAddr s f 0 else tileRowAddr s f 1 }

def execMxLd (f : MX) (s : State) : Host.Outcome State Fault Refusal := ok (issue (.mxLd f) s (issueTileRows f (.mxLd f) .read))
def execMxSt (f : MX) (s : State) : Host.Outcome State Fault Refusal := ok (issue (.mxSt f) s (issueTileRows f (.mxSt f) .write))

/-- A wide-tile element as 128 bits (R191), and back. -/
def wPack (e : WElem) : Nat :=
  e.v.toNat * 2 ^ 16 + e.z.toNat * 16 + e.spec.toNat * 4 + (if e.sticky then 2 else 0) + (if e.zneg then 1 else 0)
def wUnpack (x : Nat) : WElem :=
  { v := BitVec.ofNat 112 (x / 2 ^ 16), z := BitVec.ofNat 12 (x / 16), spec := BitVec.ofNat 2 (x / 4)
    sticky := x.testBit 1, zneg := x.testBit 0 }

/-- Bytes of a row of a held tile. -/
def tileRowBytes (t : Team) (td i : Nat) : List Byte :=
  if td < 8 then
    let x := (NMap.get none t.r.tile td).getD {}
    (List.range 16).flatMap (fun j => valBytes 4 (x.get i j).toNat)
  else
    let x := (NMap.get none t.r.wide (td - 8)).getD {}
    (List.range 16).flatMap (fun j => valBytes 16 (wPack (x.get i j)))

/-- Load a row of a tile from its bytes. -/
def loadRow (s : State) (td i : Nat) (d : List Byte) : State :=
  if td < 8 then modTile s td (fun x =>
    (List.range 16).foldl (fun x j => x.set i j (BitVec.ofNat 32 (bytesVal ((d.drop (4 * j)).take 4)))) (x.clearRows [i]))
  else modWide s (td - 8) (fun x =>
    (List.range 16).foldl (fun x j => x.set i j (wUnpack (bytesVal ((d.drop (16 * j)).take 16))))
      { x.clearRows [i] with row := NMap.set {} x.row i {} })

/-- Owners of rows die as an operation completes (R363): of those of `own` the poison lay in their cell's own storage (R371). -/
def killOwners (s : State) (base : Nat) (rows own : List Nat) (pc : Nat) : State :=
  if rows.isEmpty then s else killLanes s (maskOf (rows.map (base + ·))) pc (maskOf (own.map (base + ·)))

/-- `mx.zero`. -/
def completeZero (s : State) (o : Op) (td : Nat) : State :=
  let rows := rowSet s.cur (tileBase s.cur td) o.mask
  modTile s td (fun x => rows.foldl (fun x i => (List.range 16).foldl (fun x j => x.set i j 0) x) (x.clearRows rows))

/-- The bytes of an access of `mx.ld`: a row in the vault, or a piece of global memory, unless they have been read before. -/
def tileLoadBytes (s : State) (o : Op) (a : Acc) : List PByte × State :=
  if a.mt = vaultMt then readAcc s o a
  else if a.done then (a.data.map (fun b => (b, o.pois.contains (readKey a.lane 0))), s)
  else readPhys s a.pa 16 a.mt

/-- `mx.ld`: a row with a poisoned word kills its owner. -/
def completeTileLd (s : State) (o : Op) (td : Nat) : State :=
  let base := tileBase s.cur td
  let rows := rowSet s.cur base o.mask
  rows.foldl (fun s i =>
    let (d, own, s) := (o.acc.filter (fun a => a.lane / 16 == i)).foldl (fun (r : List PByte × Bool × State) a =>
      let (d, s) := tileLoadBytes r.2.2 o a
      (r.1 ++ d, r.2.1 || (anyPois d && ownRole s o base a.lane), s)) ([], false, s)
    if anyPois d then killOwners s base [i] (if own then [i] else []) o.pc else loadRow s td i (plain d)) s

/-- What `mx.st` writes: its accesses of the rows that are left, with their bytes. -/
def tileStore (s : State) (o : Op) (td : Nat) : List Acc × State :=
  let (rows, s) := readRows s td (rowSet s.cur (tileBase s.cur td) o.mask) o.pc
  ((o.acc.filter (fun a => rows.contains (a.lane / 16))).map (fun a =>
    let d := tileRowBytes s.cur td (a.lane / 16)
    { a with data := if a.mt = vaultMt then d else (d.drop (16 * (a.lane % 16))).take 16 }), s)

/-- The rows of `mx.st` in the vault. -/
def storeRuns (acc : List Acc) : List VRun :=
  (acc.filter (fun a => a.mt == vaultMt)).map (fun a => { role := a.lane, key := a.pa, d := clean a.data })

/-- The pieces of `mx.st` in global memory, those of one line together. -/
def tileLines (o : Op) (acc : List Acc) : List (List Acc) :=
  let glob := acc.filter (fun a => a.mt != vaultMt && !o.gave.contains (wroteKey a.lane 0))
  (distinct (glob.map (fun a => a.pa / 128))).map (fun line => glob.filter (fun a => a.pa / 128 == line))

/-- The pieces of one line are one write event; an owner whose bytes lie in a lost member is doomed (R365). -/
def storePieces (base pc : Nat) (s : State) (g : List Acc) : State :=
  match g with
  | [] => s
  | a :: _ =>
    if a.mt != 2 && lostAt s a.pa then doom s (g.map (fun a => base + a.lane / 16)) pc
    else storeLine s a.mt (g.flatMap (fun b => bytesAt b.pa b.data))

/-- `mx.st`. -/
def completeTileSt (s : State) (o : Op) (td : Nat) : State :=
  let (acc, s) := tileStore s o td
  (tileLines o acc).foldl (storePieces (tileBase s.cur td) o.pc) ((storeRuns acc).foldl (writeRun o) s)

/-! ## Blocks of operands (R199 to R203) -/

/-- A block of a row: integers, exact values before and after scaling, the SAT and SCLAMP tests, all elements finite. -/
structure Blk where
  ints  : List Int := []
  raw   : List FV := []
  terms : List FV := []
  sat   : Bool := false
  clamp : Bool := false
  fin   : Bool := true

/-- The element format of an R96 code. -/
def codeElem (c : Nat) : MxElem := mxElem (match c with | 2 => 1 | 3 => 2 | 4 => 3 | 5 => 4 | 6 => 5 | 7 => 6 | 8 => 7 | _ => 0)

/-- A code of the largest magnitude of its narrow format (R203). -/
def satCode (c x : Nat) : Bool := if c = 6 then x % 8 == 7 else if c = 7 then x == 7 || x == 8 else x == 1 || x == 2
/-- A block scale at the end of its range (R203). -/
def clampScale (e4 : Bool) (x : Nat) : Bool := if e4 then x % 128 == 1 || x % 128 == 0x7E else x == 0 || x == 0xFE

def isFin : FV → Bool | .fin _ _ _ => true | _ => false

/-- A block from its codes, dropped positions absent; `sc` is its scale byte and whether it is an E4M3 scale. -/
def mkBlk (c : Nat) (cs : List (Option Nat)) (sc : Option (Nat × Bool)) : Blk :=
  if c < 2 then
    { ints := cs.map (fun x => match x with
        | none => 0
        | some x => if c = 0 then (BitVec.ofNat 8 x).toInt else (x : Int)) }
  else
    let raw := cs.map (fun x => match x with | none => FV.fin false 0 0 | some x => (codeElem c).value x)
    let terms := match sc with
      | none => raw
      | some (x, e4) => raw.map (fun v => (scaled v (scaleVal e4 x)).1)
    { raw := raw, terms := terms, sat := fmtLine c && cs.any (fun x => match x with | some x => satCode c x | none => false)
      clamp := match sc with | some (x, e4) => clampScale e4 x | none => false, fin := raw.all isFin }

/-- Elements of b bits packed from the least significant bits (R49, R66). -/
def unpackBits (b n : Nat) (d : List Byte) : List Nat := let x := bytesVal d; (List.range n).map (fun e => x / 2 ^ (b * e) % 2 ^ b)

/-- Blocks per scaled line, bytes per block, place of the scales (R67). -/
def lineBlocks (c : Nat) : Nat := if c = 8 then 28 else 15
def lineBlockBytes (c : Nat) : Nat := if c = 8 then 8 else 16
def lineScales (c : Nat) : Nat := if c = 8 then 224 else 240

/-- The fault of a line's tag (R68): the EFMT that the code names is c − 6. A line that meets both conditions reports 0x21 (log 73). -/
def tagFault (c : Nat) (line : List Byte) : Option Nat :=
  let tag := (line.getD 255 0).toNat
  let ef := tag % 8
  if tag / 8 % 8 ≠ 0 || 3 ≤ ef || (ef == 2 && ((line.drop 252).take 3).any (· != 0)) then some 0x21
  else if ef ≠ c - 6 then some 0x22
  else none

/-- Blocks of a row of scaled lines: the first faulty tag's DETAIL and line address, or the blocks. -/
def lineRow (c nb addr : Nat) (d : List Byte) : (Nat × Nat) ⊕ List Blk :=
  let per := lineBlocks c
  let nl := (nb + per - 1) / per
  let line (k : Nat) : List Byte := (d.drop (256 * k)).take 256
  match (List.range nl).findSome? (fun k => (tagFault c (line k)).map (fun t => (t, (addr + 256 * k) % 2 ^ 32))) with
  | some x => .inl x
  | none => .inr ((List.range nb).map (fun b =>
      let l := line (b / per)
      let k := b % per
      let w := (codeElem c).bits
      let cs := unpackBits w 32 ((l.drop (lineBlockBytes c * k)).take (lineBlockBytes c))
      mkBlk c (cs.map some) (some ((l.getD (lineScales c + k) 0).toNat, (l.getD 255 0).getLsbD 6))))

/-- The bytes of a row of scaled lines that are read: elements, scales and tag of the blocks within the count (R67). -/
def lineUsed (c nb i : Nat) : Bool :=
  let per := lineBlocks c
  let k := min per (nb - per * (i / 256))
  let o := i % 256
  decide (o < lineBlockBytes c * k) || (decide (lineScales c ≤ o) && decide (o < lineScales c + k)) || decide (252 ≤ o)

/-- The nibble of group q in a row's metadata (R202). -/
def metaNib (m : List Byte) (q : Nat) : Nat := (m.getD (q / 2) 0).toNat / 16 ^ (q % 2) % 16

/-- The first metadata group whose first index is not below its second. -/
def metaFault (nb : Nat) (m : List Byte) : Option Nat :=
  (List.range (8 * nb)).find? (fun q => let x := metaNib m q; decide (x / 4 ≤ x % 4))

/-- Spread compressed elements over a dense block (R202). -/
def expand (cs : List Nat) (m : List Byte) (b : Nat) : List (Option Nat) :=
  (List.range 32).map (fun p =>
    let q := p / 4
    let x := metaNib m (8 * b + q)
    if p % 4 = x % 4 then cs[2 * q]? else if p % 4 = x / 4 then cs[2 * q + 1]? else none)

/-- Blocks of a row of 8- or 6-bit elements. -/
def plainRow (c nb : Nat) (d : List Byte) (m : Option (List Byte)) (sc : Option (List Byte)) (e4 : Bool) : List Blk :=
  let w := if c = 4 ∨ c = 5 then 6 else 8
  let n := if m.isSome then 16 else 32
  (List.range nb).map (fun b =>
    let cs := unpackBits w n ((d.drop (b * (n * w / 8))).take (n * w / 8))
    mkBlk c (match m with | none => cs.map some | some m => expand cs m b) (sc.map (fun l => ((l.getD b 0).toNat, e4))))

/-- The signed integer of element e over p plane words, from the most significant (R70). -/
def planeInt (ws : List Nat) (e : Nat) : Int :=
  match ws with
  | [] => 0
  | w :: t => t.foldl (fun (x : Int) v => 2 * x + (if v.testBit e then 1 else 0)) (if w.testBit e then -1 else 0)

/-- Blocks of a row of bit planes: `planes` holds each plane's words for the row. -/
def planeRow (p ng : Nat) (planes : List (List Byte)) (sc : List Byte) : List Blk :=
  (List.range ng).map (fun g =>
    let ws := planes.map (fun d => bytesVal ((d.drop (8 * g)).take 8))
    let raw := (List.range 64).map (fun e => let v := planeInt ws e; FV.fin (decide (v < 0)) v.natAbs (1 - (p : Int)))
    let x := (sc.getD g 0).toNat
    { raw := raw, terms := raw.map (fun v => (scaled v (scaleVal false x)).1), clamp := clampScale false x })

/-! ## Products (R200, R201, R203) -/

/-- What an instruction adds to MXT: its bits and TCOUNT. -/
abbrev Mxt := Nat × Nat

/-- accumulate(c, D) of a float accumulator: the element and the MXT bits (R201). -/
def accumulate (acc mode : Nat) (c : Nat) (d : FV) : Nat × Nat :=
  let F := if acc = 1 then fmtF32 else if acc = 2 then fmtF16 else fmtBF16
  match (sumFV mode [F.value c, d]).1 with
  | .nan _ => (F.nanBits, 0)
  | .inf s => (F.sign s + F.infBits, 0)
  | .fin s m e =>
    let (x, fl) := F.round mode false s m e
    if fl.getLsbD 2 then (if acc = 1 then (F.sign s + F.infBits, 1) else (F.sign s + F.max, 2)) else (x, 0)

/-- The HEADROOM test of a triple (R203). -/
def headroom (a b : Blk) : Bool :=
  if !a.fin || !b.fin then false
  else
    let ps := (a.raw.zip b.raw).map (fun e => (mulFV e.1 e.2).1)
    let lo := minExp ps
    let xs := ps.map (FV.at lo)
    let h := (xs.map Int.natAbs).sum
    decide (0 < h) && decide (64 * xs.sum.natAbs ≤ h)

/-- One element over the blocks (R200, R203). -/
def foldBlocks (acc mode : Nat) (na nb : Bool) (c : Nat) (l : List (Blk × Blk)) : Nat × Mxt :=
  l.foldl (fun (r : Nat × Mxt) e =>
    let (a, b) := e
    if acc = 0 then
      let x := (BitVec.ofNat 32 r.1).toInt + ((a.ints.zip b.ints).map (fun p => p.1 * p.2)).sum
      let y := sat x (-(2 ^ 31 - 1)) (2 ^ 31 - 1)
      ((wrap 32 y).toNat, (if x = y then r.2.1 else r.2.1 ||| 2), r.2.2)
    else
      let d := (sumFV mode ((a.terms.zip b.terms).map (fun p => (mulFV p.1 p.2).1))).1
      let (c, bits) := accumulate acc mode r.1 d
      let t := if na || nb then
          (if (na && a.sat) || (nb && b.sat) then 4 else 0) ||| (if (na && a.clamp) || (nb && b.clamp) then 8 else 0)
            ||| (if headroom a b then 16 else 0) else 0
      (c, r.2.1 ||| bits ||| t, if t = 0 then r.2.2 else r.2.2 + 1)) (c, 0, 0)

/-- The products of a tile's rows in one copy. -/
def productRows (acc mode : Nat) (na nb : Bool) (rows : List Nat) (a : Nat → List Blk) (b : Nat → List Blk) (x : Tile) : Tile × Mxt :=
  (rows.flatMap (fun i => (List.range 16).map (fun j => (i, j)))).foldl (fun (r : Tile × Mxt) e =>
    let c := (x.get e.1 e.2).toNat
    let c := if acc < 2 then c else c % 65536
    let (v, bits, n) := foldBlocks acc mode na nb c ((a e.1).zip (b e.2))
    (r.1.set e.1 e.2 (BitVec.ofNat 32 v), r.2.1 ||| bits, r.2.2 + n)) (x, 0, 0)

/-- MXT after an instruction's bits and count (R203). -/
def addMxt (t : Team) (x : Mxt) : Team :=
  let n := min 65535 (field t.mxt 31 16 + x.2)
  { t with mxt := BitVec.ofNat 64 (n * 65536 + (field t.mxt 4 0 ||| x.1)) }

/-- A deferred fault of an operation, or its effect. -/
abbrev MxRes := (Nat × Nat) ⊕ State

/-- The rows whose owners consume poison that an operation read (R363), and those of them for which it lay in the cell's own storage (R371):
every row of the set where a word that all rows read holds poison. -/
structure Eats where
  rows : List Nat
  own  : List Nat

/-- From the roles that hold poison: `ra` gives those of a row, `rb` those that every row reads. -/
def eatsOf (s : State) (o : Op) (base : Nat) (rows : List Nat) (bad : Nat → Bool) (ra : Nat → List Nat) (rb : List Nat) : Eats :=
  let own (l : List Nat) : Bool := l.any (fun r => bad r && ownRole s o base r)
  if rb.any bad then { rows := rows, own := if own rb then rows else rows.filter (fun i => own (ra i)) }
  else { rows := rows.filter (fun i => (ra i).any bad), own := rows.filter (fun i => own (ra i)) }

/-- Multiply into the tile once the operands are blocks: poison of a row of A kills its owner, poison of B every owner (R363). -/
def multiply (s : State) (o : Op) (td acc mode : Nat) (na nb : Bool) (rows : List Nat) (e : Eats)
    (a b : Nat → List Blk) : State :=
  let base := tileBase s.cur td
  let s := killOwners s base e.rows e.own o.pc
  let rows := rows.filter (fun i => !isDead s.cur (base + i))
  let (rows, s) := readRows s td rows o.pc
  let x := (NMap.get none s.cur.r.tile td).getD {}
  let (y, bits) := productRows acc mode na nb rows a b x
  let s := match s.cur.sh with
    | none => modTile s td (fun _ => y)
    | some h =>
      let (z, _) := productRows acc mode na nb rows a b ((NMap.get none h.tile td).getD {})
      modCur s (fun t => { t with r := { t.r with tile := NMap.set none t.r.tile td (some y) }
                                  sh := some { h with tile := NMap.set none h.tile td (some z) } })
  modCur s (fun t => addMxt t bits)

/-! ## mx.mma (R199 to R202) -/

/-- Bytes and alignment of a row of an operand of nb blocks. -/
def rowShape (c nb : Nat) (comp : Bool) : Nat × Nat :=
  if fmtLine c then (256 * ((nb + lineBlocks c - 1) / lineBlocks c), 256)
  else
    let six := c = 4 ∨ c = 5
    ((if six then 24 else 32) / (if comp then 2 else 1) * nb, if six then 8 else if comp then 16 else 32)

/-- Roles of accesses: data of A and B, their scales, metadata. -/
def rA (i : Nat) : Nat := i
def rB (j : Nat) : Nat := 16 + j
def rSA (i : Nat) : Nat := 32 + i
def rSB (j : Nat) : Nat := 48 + j
def rM (i : Nat) : Nat := 64 + i

/-- The ranges of `mx.mma` in their order: A, B, the scales of A, those of B, the metadata (log 75). -/
def mmaRanges (f : MX) (wa wb ws : DWord) (rows : List Nat) : List Rng :=
  let a := f.fa.toNat; let b := f.fb.toNat
  let nb := f.imm.toNat % 16 + 1
  let (na, ala) := rowShape a nb f.spa
  let (nB, alb) := rowShape b nb false
  let s := field ws 31 0; let m := field ws 63 32
  let scl := f.imm.getLsbD 4
  if rows.isEmpty then []
  else rows.map (fun i => { role := rA i, va := rowAddr wa i, n := na, al := ala }) ++ badStride wa ala
    ++ (List.range 16).map (fun j => { role := rB j, va := rowAddr wb j, n := nB, al := alb }) ++ badStride wb alb
    ++ (if scl && !fmtLine a then rows.map (fun i => { role := rSA i, va := (s + nb * i) % 2 ^ 32, n := nb }) else [])
    ++ (if scl && !fmtLine b then (List.range 16).map (fun j => { role := rSB j, va := (s + 16 * nb + nb * j) % 2 ^ 32, n := nb }) else [])
    ++ (if f.spa then rows.map (fun i => { role := rM i, va := (m + 4 * nb * i) % 2 ^ 32, n := 4 * nb }) else [])

def issueMma (f : MX) (s : State) : Res :=
  let base := tileBase s.cur f.td.toNat
  let rows := rowSet s.cur base (execM s.cur 0)
  match checkRanges s base (mmaRanges f (sreg s.cur f.sa.toNat) (sreg s.cur f.sb.toNat) (sreg s.cur f.sc.toNat) rows) with
  | .inl x => .trap s x
  | .inr acc => .done (issueMx s f (.mxMma f) (realRanges acc))

def execMxMma (f : MX) (s : State) : Host.Outcome State Fault Refusal := ok (issue (.mxMma f) s (issueMma f))

/-- The first failure of a list of rows, or the rows. -/
def gatherRows (l : List (Nat × ((Nat × Nat) ⊕ List Blk))) : (Nat × Nat) ⊕ NMap (List Blk) :=
  l.foldl (fun r e => match r with
    | .inl x => .inl x
    | .inr m => match e.2 with | .inl x => .inl x | .inr b => .inr (NMap.put e.1 b m)) (.inr [])

/-- `mx.mma` as it completes. -/
def completeMma (s : State) (o : Op) (f : MX) : MxRes :=
  let td := f.td.toNat
  let a := f.fa.toNat; let b := f.fb.toNat
  let nb := f.imm.toNat % 16 + 1
  let e4 := f.imm.getLsbD 5
  let rows := rowSet s.cur (tileBase s.cur td) o.mask
  let (dat, s) := readAccs s o o.acc
  let get (k : Nat) : List PByte := NMap.get [] dat k
  let opt (k : Nat) : Option (List Byte) := (NMap.find? dat k).map plain
  let row (c k k' km : Nat) : (Nat × Nat) ⊕ List Blk :=
    if fmtLine c then lineRow c nb (((o.acc.find? (fun x => x.lane == k)).getD {}).va) (plain (get k))
    else .inr (plainRow c nb (plain (get k)) (opt km) (opt k') e4)
  let used (c k : Nat) : Bool := if fmtLine c then
      (List.range (get k).length).any (fun i => lineUsed c nb i && ((get k).getD i (0, false)).2) else anyPois (get k)
  let bad (k : Nat) : Bool := if k < 16 then used a k else if k < 32 then used b k else anyPois (get k)
  if rows.isEmpty then .inr s
  else match gatherRows (rows.map (fun i => (i, row a (rA i) (rSA i) (rM i)))) with
  | .inl x => .inl x
  | .inr ra =>
    match (if f.spa then rows.findSome? (fun i => (metaFault nb (plain (get (rM i)))).map (fun q =>
        (0x25, (((o.acc.find? (fun x => x.lane == rM i)).getD {}).va + q / 2) % 2 ^ 32))) else none) with
    | some x => .inl x
    | none =>
      match gatherRows ((List.range 16).map (fun j => (j, row b (rB j) (rSB j) 1000))) with
      | .inl x => .inl x
      | .inr rb =>
        let e := eatsOf s o (tileBase s.cur td) rows bad (fun i => [rA i, rSA i, rM i]) ((List.range 16).flatMap (fun j => [rB j, rSB j]))
        .inr (multiply s o td f.acc.toNat (opMode o f) (fmtLine a) (fmtLine b) rows e
          (fun i => NMap.get [] ra i) (fun j => NMap.get [] rb j))

/-! ## mx.bpmma (R69, R70, R200) -/

/-- Roles of plane k of row i of A, of column j of B. -/
def rPA (i k : Nat) : Nat := 128 + 16 * i + k
def rPB (j k : Nat) : Nat := 512 + 16 * j + k

def bpRanges (f : MX) (wa wb ws : DWord) (rows : List Nat) : List Rng :=
  let ng := f.imm.toNat % 16 + 1
  let pa := f.ns.toNat; let pb := f.imm.toNat / 16 % 16
  let s := field ws 31 0
  if rows.isEmpty then []
  else rows.flatMap (fun i => (List.range pa).map (fun k =>
      { role := rPA i k, va := (rowAddr wa i + 8 * k * wGroups wa) % 2 ^ 32, n := 8 * ng, al := 8 }))
    ++ badStride wa 8
    ++ (List.range 16).flatMap (fun j => (List.range pb).map (fun k =>
      { role := rPB j k, va := (rowAddr wb j + 8 * k * wGroups wb) % 2 ^ 32, n := 8 * ng, al := 8 }))
    ++ badStride wb 8
    ++ rows.map (fun i => { role := rSA i, va := (s + ng * i) % 2 ^ 32, n := ng })
    ++ (List.range 16).map (fun j => { role := rSB j, va := (s + 16 * ng + ng * j) % 2 ^ 32, n := ng })

/-- Issue `mx.bpmma`: GROUPS of 0 traps whatever the row set (log 76). -/
def issueBpmma (f : MX) (s : State) : Res :=
  let base := tileBase s.cur f.td.toNat
  let rows := rowSet s.cur base (execM s.cur 0)
  let wa := sreg s.cur f.sa.toNat; let wb := sreg s.cur f.sb.toNat
  if wGroups wa = 0 ∨ wGroups wb = 0 then .trap s { cause := 3, detail := 0xF }
  else match checkRanges s base (bpRanges f wa wb (sreg s.cur f.sc.toNat) rows) with
    | .inl x => .trap s x
    | .inr acc => .done (issueMx s f (.mxBpmma f) (realRanges acc))

def execMxBpmma (f : MX) (s : State) : Host.Outcome State Fault Refusal := ok (issue (.mxBpmma f) s (issueBpmma f))

/-- `mx.bpmma` as it completes. -/
def completeBpmma (s : State) (o : Op) (f : MX) : MxRes :=
  let td := f.td.toNat
  let ng := f.imm.toNat % 16 + 1
  let pa := f.ns.toNat; let pb := f.imm.toNat / 16 % 16
  let rows := rowSet s.cur (tileBase s.cur td) o.mask
  let (dat, s) := readAccs s o o.acc
  let get (k : Nat) : List PByte := NMap.get [] dat k
  let ra := rows.map (fun i => (i, planeRow pa ng ((List.range pa).map (fun k => plain (get (rPA i k)))) (plain (get (rSA i)))))
  let rb := (List.range 16).map (fun j => (j, planeRow pb ng ((List.range pb).map (fun k => plain (get (rPB j k)))) (plain (get (rSB j)))))
  let e := eatsOf s o (tileBase s.cur td) rows (fun k => anyPois (get k)) (fun i => rSA i :: (List.range pa).map (rPA i))
    ((List.range 16).flatMap (fun j => rSB j :: (List.range pb).map (rPB j)))
  .inr (multiply s o td f.acc.toNat (opMode o f) (decide (pa ≤ 4)) (decide (pb ≤ 4)) rows e
    (fun i => NMap.get [] ra i) (fun j => NMap.get [] rb j))

/-! ## mx.chk (R215) -/

def execMxChk (f : MX) (s : State) : Host.Outcome State Fault Refusal :=
  ok (issue (.mxChk f) s (fun s =>
    let x := s.cur.mxt
    .done (modCur s (fun t => { deliverRegs (fun r => r.sset f.sc.toNat x) t with mxt := 0 }))))

end Sys2Proof.Machine
end

