-- ==== Sys2Proof/Machine/Wide.lean ====
section
/-! DEFINITION. The sliced FP64 path: the separator (R205, R206), the churn (R207 to R212), the final rounding and the bounds
(R213, R214). -/

namespace Sys2Proof.Machine

/-! ## The slice image (R205) -/

/-- Elements of a block-row. -/
def sliceCols (comp : Bool) : Nat := if comp then 16 else 32
/-- Offsets of the block exponent, of class byte e, of digit j of element e, and the image's length. -/
def expOff (b i : Nat) : Nat := 2 * (16 * b + i)
def clsOff (c nb b i : Nat) : Nat := 32 * nb + 16 * c * b + c * i
def digOff (c nb j b i : Nat) : Nat := (32 + 16 * c) * nb + 16 * c * (nb * (j - 1) + b) + c * i
def imageLen (c nb s : Nat) : Nat := (32 + 16 * c) * nb + 16 * c * nb * s

/-- A 16-bit two's-complement number. -/
def i16 (x : Int) : Nat := (wrap 16 x).toNat

/-- The class byte of a value (R205). -/
def classByte (x : FV) : Nat :=
  (if x.neg? then 128 else 0) + (match x with | .nan _ => 3 | .inf _ => 2 | .fin _ m _ => if m = 0 then 0 else 1)

/-- The sign bit of an FP64 encoding stands in the class byte of a NaN too. -/
def classOf (x : Nat) : Nat := classByte (fmtF64.value x) % 128 + x / 2 ^ 63 % 2 * 128

/-- E of a block-row (R206). -/
def blockExp (xs : List FV) : Option Int :=
  xs.foldl (fun r x => match x with
    | .fin _ m e => if m = 0 then r else match r with
      | none => some (e + Nat.log2 m)
      | some k => some (Max.max k (e + Nat.log2 m))
    | _ => r) none

/-- Digit j of s of an element under exponent E (R206). -/
def sliceDigit (s j : Nat) (ex : Int) (x : FV) : Nat :=
  match x with
  | .fin sg m e =>
    let sh := e + 7 * (s : Int) - ex - 1
    let t := if 0 ≤ sh then m * 2 ^ sh.toNat else m / 2 ^ (-sh).toNat
    let d := t / 2 ^ (7 * (s - j)) % 128
    if sg then (256 - d) % 256 else d
  | _ => 0

/-- The bytes of a block-row: exponent, classes, and digits 1 to s. -/
structure SliceRow where
  ex  : Nat := 0x8000
  cls : List Nat := []
  dig : List (List Nat) := []
  bad : Bool := false

def cutRow (s : Nat) (xs : List Nat) (bad : Bool) : SliceRow :=
  let vs := xs.map fmtF64.value
  match blockExp vs with
  | none => { cls := xs.map classOf, dig := (List.range s).map (fun _ => xs.map (fun _ => 0)), bad := bad }
  | some e => { ex := i16 e, cls := xs.map classOf, dig := (List.range s).map (fun j => vs.map (sliceDigit s (j + 1) e)), bad := bad }

/-- Role of a part of a block-row: part 0 exponent, 1 classes, 1 + j digit j. -/
def dmRole (side i b part : Nat) : Nat := ((side * 16 + i) * 16 + b) * 16 + part

/-- Ranges of one block-row of an image, in reading order. -/
def dmRanges (side c nb s addr i b : Nat) : List Rng :=
  { role := dmRole side i b 0, va := (addr + expOff b i) % 2 ^ 32, n := 2 }
    :: { role := dmRole side i b 1, va := (addr + clsOff c nb b i) % 2 ^ 32, n := c }
    :: (List.range s).map (fun j => { role := dmRole side i b (2 + j), va := (addr + digOff c nb (j + 1) b i) % 2 ^ 32, n := c })

/-! ## mx.slice (R206) -/

def sliceRanges (f : MX) (wa wb : DWord) : List Rng :=
  let c := sliceCols f.spa
  let nb := f.imm.toNat % 16 + 1
  (List.range 16).map (fun i => { role := i, va := rowAddr wa i, n := 8 * c * nb, al := 8 }) ++ badStride wa 8
    ++ (List.range 16).flatMap (fun i => (List.range nb).flatMap (dmRanges 1 c nb f.ns.toNat (wAddr wb) i))
    ++ [{ role := 16, va := wAddr wb, n := imageLen c nb f.ns.toNat, al := 32 }]

def issueSlice (f : MX) (s : State) : Res :=
  if execM s.cur 0 = 0 then .done (issueMx s f (.mxSlice f) [])
  else match checkRanges s 0 (sliceRanges f (sreg s.cur f.sa.toNat) (sreg s.cur f.sb.toNat)) with
    | .inl x => .trap s x
    | .inr acc => .done (issueMx s f (.mxSlice f) (realRanges (acc.filter (fun a => a.lane ≤ 16))))

def execMxSlice (f : MX) (s : State) : Host.Outcome State Fault Refusal := ok (issue (.mxSlice f) s (issueSlice f))

/-- The image that `mx.slice` writes, from the bytes of its rows: poison goes with every word of the block-row (R206). -/
def sliceImage (f : MX) (dat : NMap (List PByte)) : List PByte :=
  let c := sliceCols f.spa
  let nb := f.imm.toNat % 16 + 1
  let n := f.ns.toNat
  let row (i b : Nat) : SliceRow :=
    let d := ((NMap.get [] dat i).drop (8 * c * b)).take (8 * c)
    cutRow n ((List.range c).map (fun e => bytesVal (plain ((d.drop (8 * e)).take 8)))) (anyPois d)
  let rows := (List.range nb).flatMap (fun b => (List.range 16).map (fun i => row i b))
  let byte (bad : Bool) (x : Nat) : PByte := (BitVec.ofNat 8 x, bad)
  rows.flatMap (fun r => [byte r.bad (r.ex % 256), byte r.bad (r.ex / 256)])
    ++ rows.flatMap (fun r => r.cls.map (byte r.bad))
    ++ (List.range n).flatMap (fun j => rows.flatMap (fun r => (r.dig.getD j []).map (byte r.bad)))

/-- What `mx.slice` reads. -/
def sliceReads (o : Op) : List Acc := o.acc.filter (fun a => a.lane != 16)
/-- What it writes, and the state after its reads. -/
def sliceRuns (s : State) (o : Op) (f : MX) : List VRun × State :=
  match o.acc.find? (fun a => a.lane == 16) with
  | none => ([], s)
  | some out =>
    let (dat, s) := readAccs s o (sliceReads o)
    ([{ role := 16, key := out.pa, d := sliceImage f dat }], s)

/-- `mx.slice` as it completes. -/
def completeSlice (s : State) (o : Op) (f : MX) : State :=
  let (l, s) := sliceRuns s o f
  l.foldl (writeRun o) s

/-! ## The churn (R207 to R210) -/

/-- Least e with x ≤ 2^e. -/
def ceilLog2 (x : Nat) : Nat := if x ≤ 1 then 0 else Nat.log2 (x - 1) + 1

/-- A bound plus m × 2^e, rounded toward +∞ to 16 significant bits (R210). -/
def Bound.add (b : Bound) (m : Nat) (e : Int) : Bound :=
  if m = 0 then b
  else
    let lo := if b.sig = 0 then e else Min.min b.exp e
    let x := b.sig * 2 ^ (b.exp - lo).toNat * (if b.sig = 0 then 0 else 1) + m * 2 ^ (e - lo).toNat
    let sh := Nat.log2 x + 1 - 16
    let q := (x + 2 ^ sh - 1) / 2 ^ sh
    if q = 2 ^ 16 then { sig := 2 ^ 15, exp := lo + sh + 1 } else { sig := q, exp := lo + sh }

/-- β, the least integer with B ≤ 2^β; none for B = 0 (R213). -/
def Bound.beta (b : Bound) : Option Int := if b.sig = 0 then none else some (b.exp + ceilLog2 b.sig)

/-- An element and its row after an addition. -/
structure Churn where
  el  : WElem
  row : WRow
deriving DecidableEq, Repr

/-- churn_add(I, w) (R208). -/
def churnAdd (c : Churn) (i : Int) (w : Int) : Churn :=
  let z := c.el.z.toNat
  if i = 0 ∨ z = 4095 then c
  else
    let lam : Int := (z : Int) - 2250
    let lo := Min.min lam w
    let v := c.el.v.toInt
    let n := (if v = 0 then 0 else v * 2 ^ (lam - lo).toNat) + i * 2 ^ (w - lo).toNat
    let l := if n = 0 then lo
      else if 0 < n then Max.max lo (lo + Nat.log2 n.natAbs - 110)
      else Max.max lo (lo + ceilLog2 n.natAbs - 111)
    if 1844 < l then
      { el := { c.el with z := 4095, v := if n < 0 then BitVec.ofInt 112 (-(2 ^ 111)) else BitVec.ofInt 112 (2 ^ 111 - 1) }
        row := { c.row with ovf := true } }
    else
      let q := n.fdiv (2 ^ (l - lo).toNat)
      let exact := q * 2 ^ (l - lo).toNat = n
      let el := { c.el with v := BitVec.ofInt 112 q, z := BitVec.ofInt 12 (l + 2250) }
      if exact then { c with el := el }
      else { el := { el with sticky := true, bound := el.bound.add 1 l }
             row := { c.row with shiftloss := true, lossy := min 65535 (c.row.lossy + 1) } }

/-- A block-row as `mx.dmma` reads it: its exponent, classes and digits over 32 positions. -/
structure DmRow where
  ex  : Option Int := none
  cls : List Nat := []
  dig : List (List Int) := []

/-- Digits of an element as an integer. -/
def digVal (x : Nat) : Int := (BitVec.ofNat 8 x).toInt

/-- The highest j for which element k has a nonzero digit. -/
def topDigit (r : DmRow) (k : Nat) : Nat :=
  ((List.range r.dig.length).filter (fun j => (r.dig.getD j []).getD k 0 != 0)).foldl (fun m j => max m (j + 1)) 0

/-- I of a block (R207). -/
def blockSum (s : Nat) (a b : DmRow) : Int :=
  ((List.range s).flatMap (fun j => (List.range s).map (fun l =>
    if j + l + 2 ≤ s + 1 then
      (((a.dig.getD j []).zip (b.dig.getD l [])).map (fun p => p.1 * p.2)).sum * 2 ^ (7 * (s + 1 - (j + 1) - (l + 1)))
    else 0))).sum

/-- The class of a product (R209): 0 finite and not −0, 1 −0, 2 +∞, 3 −∞, 4 NaN. -/
def prodClass (x y : Nat) : Nat :=
  let neg := (x / 128 + y / 128) % 2 == 1
  let k := x % 4; let l := y % 4
  if k = 3 ∨ l = 3 ∨ (k = 0 ∧ l = 2) ∨ (k = 2 ∧ l = 0) then 4
  else if k = 2 ∨ l = 2 then (if neg then 3 else 2)
  else if (k = 0 ∨ l = 0) && neg then 1 else 0

/-- The side path of a block (R209). -/
def sidePath (c : Churn) (a b : DmRow) : Churn :=
  let ps := (a.cls.zip b.cls).map (fun p => prodClass p.1 p.2)
  let sp := c.el.spec.toNat
  let pos := ps.contains 2 || sp == 2
  let neg := ps.contains 3 || sp == 3
  let new := if sp = 1 ∨ ps.contains 4 ∨ (pos ∧ neg) then 1 else if pos then 2 else if neg then 3 else sp
  { el := { c.el with spec := BitVec.ofNat 2 new, zneg := c.el.zneg && ps.all (· == 1) }
    row := if new = sp then c.row else { c.row with nonfin := true } }

/-- One block folded into an element (R207). -/
def foldBlock (s : Nat) (c : Churn) (a b : DmRow) : Churn :=
  let c := match a.ex, b.ex with
    | some ea, some eb =>
      let c := churnAdd c (blockSum s a b) (ea + eb + 2 - 7 * ((s : Int) + 1))
      let c := { c with el := { c.el with bound := c.el.bound.add (32 * (s + 2)) (ea + eb + 2 - 7 * (s : Int)) } }
      if (List.range 32).any (fun k => decide (s + 2 ≤ topDigit a k + topDigit b k)) then { c with row := { c.row with triangle := true } } else c
    | _, _ => c
  sidePath c a b

/-! ## mx.dmma (R207, R211) -/

def issueDmma (f : MX) (s : State) : Res :=
  let base := tileBase s.cur f.td.toNat
  let rows := rowSet s.cur base (execM s.cur 0)
  let nb := f.imm.toNat % 16 + 1
  let n := f.ns.toNat
  let da := wAddr (sreg s.cur f.sa.toNat); let db := wAddr (sreg s.cur f.sb.toNat)
  let m := field (sreg s.cur f.sc.toNat) 63 32
  let l : List Rng := if rows.isEmpty then [] else
    { role := 0, va := da, n := 0, al := 32 } :: { role := 0, va := db, n := 0, al := 32 }
      :: rows.flatMap (fun i => (List.range nb).flatMap (dmRanges 0 (sliceCols f.spa) nb n da i))
      ++ (List.range 16).flatMap (fun j => (List.range nb).flatMap (dmRanges 1 32 nb n db j))
      ++ (if f.spa then rows.map (fun i => { role := dmRole 2 i 0 0, va := (m + 4 * nb * i) % 2 ^ 32, n := 4 * nb }) else [])
  match checkRanges s base l with
  | .inl x => .trap s x
  | .inr acc => .done (issueMx s f (.mxDmma f) (realRanges acc))

def execMxDmma (f : MX) (s : State) : Host.Outcome State Fault Refusal := ok (issue (.mxDmma f) s (issueDmma f))

/-- The first faulty byte of a block-row's part: its DETAIL and offset (R196). -/
def partFault (part : Nat) (d : List Byte) : Option (Nat × Nat) :=
  if part = 0 then
    let e := (BitVec.ofNat 16 (bytesVal d)).toInt
    if e = -32768 ∨ (-1074 ≤ e ∧ e ≤ 1023) then none else some (0x26, 0)
  else if part = 1 then ((List.range d.length).find? (fun i => (d.getD i 0).toNat / 4 % 32 != 0)).map (fun i => (0x24, i))
  else ((List.range d.length).find? (fun i => d.getD i 0 == 0x80)).map (fun i => (0x23, i))

/-- A block-row from its parts; a compressed one is spread by its metadata. -/
def dmRow (s : Nat) (get : Nat → List Byte) (m : Option (List Byte)) (b : Nat) : DmRow :=
  let ex := (BitVec.ofNat 16 (bytesVal (get 0))).toInt
  let spread (d : List Byte) : List Nat := match m with
    | none => d.map (·.toNat)
    | some m => (expand (d.map (·.toNat)) m b).map (·.getD 0)
  { ex := if ex = -32768 then none else some ex, cls := spread (get 1)
    dig := (List.range s).map (fun j => (spread (get (2 + j))).map digVal) }

/-- `mx.dmma` on one copy's wide tile. -/
def dmmaRows (s : Nat) (rows : List Nat) (a b : Nat → List DmRow) (x : WTile) : WTile :=
  (rows.flatMap (fun i => (List.range 16).map (fun j => (i, j)))).foldl (fun x e =>
    let c := ((a e.1).zip (b e.2)).foldl (fun c p => foldBlock s c p.1 p.2) { el := x.get e.1 e.2, row := x.rowOf e.1 }
    { x.set e.1 e.2 c.el with row := NMap.set {} x.row e.1 c.row }) x

/-- `mx.dmma` as it completes. -/
def completeDmma (s : State) (o : Op) (f : MX) : MxRes :=
  let td := f.td.toNat
  let nb := f.imm.toNat % 16 + 1
  let n := f.ns.toNat
  let base := tileBase s.cur td
  let rows := rowSet s.cur base o.mask
  let (dat, s) := readAccs s o o.acc
  let get (k : Nat) : List PByte := NMap.get [] dat k
  let metaOf (i : Nat) : Option (List Byte) := if f.spa then some (plain (get (dmRole 2 i 0 0))) else none
  let fault (side : Nat) : Option (Nat × Nat) :=
    (o.acc.filter (fun a => a.lane / 4096 == side)).findSome? (fun a =>
      (partFault (a.lane % 16) (plain (get a.lane))).map (fun x => (x.1, (a.va + x.2) % 2 ^ 32)))
  let fm : Option (Nat × Nat) := if f.spa then rows.findSome? (fun i =>
      (metaFault nb (plain (get (dmRole 2 i 0 0)))).map (fun q =>
        (0x25, (((o.acc.find? (fun x => x.lane == dmRole 2 i 0 0)).getD {}).va + q / 2) % 2 ^ 32))) else none
  if rows.isEmpty then .inr s
  else match fault 0 <|> fm <|> fault 1 with
  | some x => .inl x
  | none =>
    let part (side i : Nat) (m : Option (List Byte)) : List DmRow :=
      (List.range nb).map (fun b => dmRow n (fun p => plain (get (dmRole side i b p))) m b)
    let parts (side i : Nat) : List Nat := (List.range nb).flatMap (fun b => (List.range (n + 2)).map (dmRole side i b))
    let ra := rows.map (fun i => (i, part 0 i (metaOf i)))
    let rb := (List.range 16).map (fun j => (j, part 1 j none))
    let e := eatsOf s o base rows (fun k => anyPois (get k)) (fun i => parts 0 i ++ (if f.spa then [dmRole 2 i 0 0] else [])) ((List.range 16).flatMap (parts 1))
    let s := killOwners s base e.rows e.own o.pc
    let (rows, s) := readRows s td (rows.filter (fun i => !isDead s.cur (base + i))) o.pc
    .inr (modWide s (td - 8) (dmmaRows n rows (fun i => NMap.get [] ra i) (fun j => NMap.get [] rb j)))

/-! ## mx.wz (R212) -/

def execMxWz (f : MX) (s : State) : Host.Outcome State Fault Refusal :=
  ok (issue (.mxWz f) s (fun s => .done (issueMx s f (.mxWz f) [])))

def completeWz (s : State) (o : Op) (td : Nat) : State :=
  let rows := rowSet s.cur (tileBase s.cur td) o.mask
  modWide s (td - 8) (fun x => rows.foldl (fun x i =>
    { (List.range 16).foldl (fun x j => x.set i j freshWElem) x with row := NMap.set {} x.row i {} }) (x.clearRows rows))

/-! ## mx.rc and mx.bnd (R213, R214) -/

/-- The FP64 value of an element (R213). -/
def rcValue (mode : Nat) (e : WElem) : Nat :=
  match e.spec.toNat with
  | 1 => fmtF64.nanBits
  | 2 => fmtF64.infBits
  | 3 => fmtF64.sign true + fmtF64.infBits
  | _ =>
    let v := e.v.toInt
    let z := e.z.toNat
    if z = 4095 then let sg := decide (v < 0); fmtF64.sign sg + fmtF64.overflow mode sg
    else if v = 0 ∧ !e.sticky then fmtF64.sign (e.zneg || mode == 3)
    else
      -- the amount that STICKY stands for, below any FP64 spacing
      let n : Int := v * 2 ^ 4000 + (if e.sticky then 1 else 0)
      (fmtF64.round mode false (decide (n < 0)) n.natAbs ((z : Int) - 2250 - 4000)).1

/-- The plane entry of an element (R213). -/
def planeEntry (e : WElem) : Nat :=
  if e.spec.toNat ≠ 0 ∨ e.z.toNat = 4095 then 0x7FFF
  else match e.bound.beta with
    | none => 0x8000
    | some b => i16 b

/-- MXB over the rows of a wide tile (R214). -/
def mxbOf (q : Nat) (x : WTile) (rows : List Nat) : Nat :=
  let els := rows.flatMap (fun i => (List.range 16).map (fun j => x.get i j))
  let betas := (els.filter (fun e => e.spec.toNat == 0 && e.z.toNat != 4095)).filterMap (fun e => e.bound.beta)
  let bexp := match betas with
    | [] => 0x8000
    | b :: t => i16 (t.foldl Max.max b)
  let rs := rows.map x.rowOf
  let bit (p : WRow → Bool) (k : Nat) : Nat := if rs.any p then 2 ^ k else 0
  bexp * 2 ^ 48 + min 65535 (rs.map (·.lossy)).sum * 2 ^ 32 + 128 + q * 64
    + bit (·.ovf) 3 + bit (·.triangle) 2 + bit (·.shiftloss) 1 + bit (·.nonfin) 0

/-- Issue `mx.rc` (with output) or `mx.bnd`: output rows have roles i, plane rows 16 + i. -/
def issueRc (f : MX) (i : Instr) (out : Bool) (s : State) : Res :=
  let base := tileBase s.cur f.td.toNat
  let rows := rowSet s.cur base (execM s.cur 0)
  let wa := sreg s.cur f.sa.toNat
  let pl := wAddr (sreg s.cur f.sb.toNat)
  let l : List Rng := if rows.isEmpty then [] else
    (if out then rows.map (fun r => { role := r, va := rowAddr wa r, n := 128, al := 8 }) ++ badStride wa 8 else [])
    ++ (if f.imm = 1 then rows.map (fun r => { role := 16 + r, va := (pl + 32 * r) % 2 ^ 32, n := 32, al := 2 }) else [])
  match checkRanges s base l with
  | .inl x => .trap s x
  | .inr acc => .done (issueMx s f i (realRanges acc))

def execMxRc (f : MX) (s : State) : Host.Outcome State Fault Refusal := ok (issue (.mxRc f) s (issueRc f (.mxRc f) true))
def execMxBnd (f : MX) (s : State) : Host.Outcome State Fault Refusal := ok (issue (.mxBnd f) s (issueRc f (.mxBnd f) false))

/-- The rows that `mx.rc` and `mx.bnd` act on, what they write for them, and the state after reading the tile. -/
def rcRuns (s : State) (o : Op) (f : MX) : List Nat × List VRun × State :=
  let td := f.td.toNat
  let (rows, s) := readRows s td (rowSet s.cur (tileBase s.cur td) o.mask) o.pc
  let x := (NMap.get none s.cur.r.wide (td - 8)).getD {}
  (rows, (o.acc.filter (fun a => rows.contains (a.lane % 16))).map (fun a =>
    let i := a.lane % 16
    { role := a.lane, key := a.pa
      d := clean (if a.lane < 16 then (List.range 16).flatMap (fun j => valBytes 8 (rcValue (opMode o f) (x.get i j)))
        else (List.range 16).flatMap (fun j => valBytes 2 (planeEntry (x.get i j)))) }), s)

/-- `mx.rc` and `mx.bnd` as they complete. -/
def completeRc (s : State) (o : Op) (f : MX) : State :=
  let td := f.td.toNat
  if (rowSet s.cur (tileBase s.cur td) o.mask).isEmpty then s
  else
    let (rows, l, s) := rcRuns s o f
    let x := (NMap.get none s.cur.r.wide (td - 8)).getD {}
    modCur (l.foldl (writeRun o) s) (fun t => { t with mxb := BitVec.ofNat 64 (mxbOf (td - 8) x rows) })

end Sys2Proof.Machine
end

