-- ==== Sys2Proof/Machine/Engine.lean ====
section
/-! DEFINITION. Engine operations (R218 to R226): the checks at issue, the scoreboard, the start, the movement of bytes and
the completion of copies, gathers and scatters; `enq` and the task queues (R231). -/

namespace Sys2Proof.Machine

/-! ## The checks at issue (R220) -/

/-- A vault range that a command names: its die, address, length, alignment, and whether the command writes it. -/
structure ERng where
  die : Nat
  va  : Nat
  n   : Nat
  al  : Nat
  wr  : Bool
deriving DecidableEq, Repr

/-- An Engine Command Fault at issue. -/
def engFault (detail addr : Nat) : TrapInfo := { cause := 0x10, detail := detail, addr := addr }

/-- The key of vault bytes that an engine names on a die: on another die only the die form passes (R226). -/
def engKey (s : State) (die a n : Nat) : Option Nat :=
  if die = s.cur.die then teamVault s a n
  else if a < 2 ^ 31 then none else vaultKey s (curBlock s) die 0 a n

/-- The first byte of an engine's range that fails R36. -/
def engFirstBad (s : State) (r : ERng) : Nat := ((List.range r.n).find? (fun i => (engKey s r.die (r.va + i) 1).isNone)).getD 0 + r.va

/-- Check the ranges in their order, each for its alignment first: their keys, or the first trap. -/
def engRanges (s : State) : List ERng → TrapInfo ⊕ List Nat
  | [] => .inr []
  | r :: t =>
    if r.va % r.al ≠ 0 then .inl { cause := 7, addr := r.va }
    else match engKey s r.die r.va r.n with
      | none => .inl { cause := 8, addr := engFirstBad s r }
      | some k => match engRanges s t with
        | .inl x => .inl x
        | .inr l => .inr (k :: l)

/-! ## The scoreboard (R222) -/

/-- The ranges that an operation holds on its own die, from its arguments: (writes, key, length). -/
def heldRanges : List Nat → List (Bool × Nat × Nat)
  | w :: k :: n :: t => (w == 1, k, n) :: heldRanges t
  | _ => []

/-- The arguments of an engine operation: its place in the order of issue, its sync word's key plus 1 or 0, the keys of its
first two ranges, then the ranges that it holds. -/
def engStamp (o : Op) : Nat := o.arg.getD 0 0
def engSync (o : Op) : Option Nat := let k := o.arg.getD 1 0; if k = 0 then none else some (k - 1)
def engKeyA (o : Op) : Nat := o.arg.getD 2 0
def engKeyB (o : Op) : Nat := o.arg.getD 3 0
def engHeld (o : Op) : List (Bool × Nat × Nat) := heldRanges (o.arg.drop 4)

/-- Two operations overlap and one of them writes. -/
def engConflict (a b : Op) : Bool :=
  (engHeld a).any (fun x => (engHeld b).any (fun y => (x.1 || y.1) && decide (x.2.1 < y.2.1 + y.2.2) && decide (y.2.1 < x.2.1 + x.2.2)))

/-- An operation of the current team waits for an earlier one of its block. -/
def engBlocked (s : State) (o : Op) : Bool :=
  (teamsOf s s.cur.blk).any (fun t => t.ops.any (fun p => isEngine p.i && decide (engStamp p < engStamp o) && engConflict p o))

/-! ## Issue -/

/-- The completion word's range: none for s63. -/
def swRange (f : ENG) (die : Nat) (t : Team) : List ERng :=
  if f.sw = 63 then [] else [{ die := die, va := (sreg t f.sw.toNat).toNat % 2 ^ 32, n := 16, al := 16, wr := true }]

/-- The misaligned global address that a field check reports, or 0 where no byte fails (R220, log 89). -/
def badGlobal (g : Nat) : Nat := if g % 16 = 0 then 0 else g

/-- Put an engine operation into the team's list (R218, R220, R222): `bad` is a field beyond its limits, reported with `addr`, `dead` an operand
that names a die that is not permitted, `rs` the vault ranges without the completion word's. -/
def issueEngine (f : ENG) (i : Instr) (bad : Bool) (addr : Nat) (dead : Bool) (rs : List ERng) (swDie : Nat) (s : State) : Res :=
  let t := s.cur
  let sc := [sreg t f.sd.toNat, sreg t f.ss.toNat, sreg t f.sl.toNat]
  if bad then .trap s (engFault 1 addr)
  else if dead then .trap s (engFault 2 0)
  else
    let sw := swRange f swDie t
    match engRanges s (rs ++ sw) with
    | .inl x => .trap s x
    | .inr ks =>
      if 32 ≤ cellEngines s t.die t.cell then .stall s
      else
        let (n, s) := freshId s
        let own := (List.range rs.length).filter (fun j => (rs.getD j ⟨0, 0, 0, 1, false⟩).die == t.die)
        let held := own.flatMap (fun j =>
          let r := rs.getD j ⟨0, 0, 0, 1, false⟩
          [if r.wr then 1 else 0, ks.getD j 0, r.n])
        let swk := if sw.isEmpty then 0 else ks.getD rs.length 0 + 1
        let forms := if own.length == rs.length then sw.any (fun r => ownForm r.va) :: rs.map (fun r => ownForm r.va) else []
        .done (addOp s f.fs { i := i, stream := f.stream.toNat, scope := f.scope.toNat, mask := execM t 0, sc := sc, forms := forms
                              arg := n :: swk :: ks.getD 0 0 :: (if 2 ≤ rs.length then ks.getD 1 0 else 0) :: held })

/-- `cp` (R224): its limits and its vault ranges. -/
def issueCp (f : ENG) (s : State) : Res :=
  let t := s.cur
  let d := f.mod.toNat % 4
  let a := (sreg t f.sd.toNat).toNat; let b := (sreg t f.ss.toNat).toNat; let n := (sreg t f.sl.toNat).toNat
  let g := if d = 0 then b else a
  let bad := n % 16 != 0 || n == 0 || decide (196608 < n) || (decide (d < 2) && g % 16 != 0)
  let rd : ERng := { die := t.die, va := b % 2 ^ 32, n := n, al := 16, wr := false }
  let rw : ERng := { die := t.die, va := a % 2 ^ 32, n := n, al := 16, wr := true }
  issueEngine f (.cp f) bad (if d < 2 then badGlobal g else 0) false (if d = 0 then [rw] else if d = 1 then [rd] else [rw, rd]) t.die s

def execCp (f : ENG) (s : State) : Host.Outcome State Fault Refusal := ok (issue (.cp f) s (issueCp f))

/-- RB, NR2 and GS of a shape word, and the footprint of `cp.2d`. -/
def cpRb (w : DWord) : Nat := field w 15 0
def cpNr (w : DWord) : Nat := field w 31 16
def cpGs (w : DWord) : Int := (w.extractLsb' 32 32).toInt
def cpSpan (f : ENG) (w : DWord) : Nat := 16 * ((cpNr w - 1) * f.imm.toNat + cpRb w)

def issueCp2d (f : ENG) (s : State) : Res :=
  let t := s.cur
  let d := f.mod.toNat % 4
  let w := sreg t f.sl.toNat
  let g := if d = 0 then (sreg t f.ss.toNat).toNat else (sreg t f.sd.toNat).toNat
  let v := if d = 0 then (sreg t f.sd.toNat).toNat else (sreg t f.ss.toNat).toNat
  let bad := cpRb w == 0 || decide (12288 < cpRb w) || cpNr w == 0 || cpGs w % 16 != 0 || decide (196608 < cpSpan f w) || g % 16 != 0
  issueEngine f (.cp2d f) bad (badGlobal g) false [{ die := t.die, va := v % 2 ^ 32, n := cpSpan f w, al := 16, wr := d == 0 }] t.die s

def execCp2d (f : ENG) (s : State) : Host.Outcome State Fault Refusal := ok (issue (.cp2d f) s (issueCp2d f))

/-- Vault address and die of a region word (R224). -/
def regionAddr (w : DWord) : Nat := field w 31 0
def regionDie (w : DWord) : Nat := field w 39 32

/-- `cp.x` (R226): the dies that it names, then its ranges on each. -/
def issueCpX (f : ENG) (s : State) : Res :=
  let t := s.cur
  let a := sreg t f.sd.toNat; let b := sreg t f.ss.toNat; let c := sreg t f.sw.toNat; let n := (sreg t f.sl.toNat).toNat
  let none_ := f.sw == 63
  let dead := !isLive s (regionDie a) || !isLive s (regionDie b) || (!none_ && !isLive s (regionDie c))
    || (regionDie a != t.die && regionDie b != t.die) || (!none_ && regionDie c != t.die && regionDie c != regionDie a)
  issueEngine f (.cpX f) (n % 16 != 0 || n == 0 || decide (196608 < n)) 0 dead
    [{ die := regionDie a, va := regionAddr a, n := n, al := 16, wr := true },
     { die := regionDie b, va := regionAddr b, n := n, al := 16, wr := false }] (regionDie c) s

def execCpX (f : ENG) (s : State) : Host.Outcome State Fault Refusal := ok (issue (.cpX f) s (issueCpX f))

/-- Element size and count of a skimmer command. -/
def skimSize (f : ENG) : Nat := 2 ^ (f.mod.toNat % 8)
def skimCount (f : ENG) : Nat := f.imm.toNat % 16384 + 1

/-- `skim.g` and `skim.s`: the data range, then the index list. -/
def issueSkim (f : ENG) (i : Instr) (gather : Bool) (s : State) : Res :=
  let t := s.cur
  let w := if gather then sreg t f.sd.toNat else sreg t f.ss.toNat
  issueEngine f i false 0 false
    [{ die := t.die, va := field w 31 0, n := skimSize f * skimCount f, al := 16, wr := gather },
     { die := t.die, va := field w 63 32, n := 4 * skimCount f, al := 4, wr := false }] t.die s

def execSkimG (f : ENG) (s : State) : Host.Outcome State Fault Refusal := ok (issue (.skimG f) s (issueSkim f (.skimG f) true))
def execSkimS (f : ENG) (s : State) : Host.Outcome State Fault Refusal := ok (issue (.skimS f) s (issueSkim f (.skimS f) false))

/-! ## Movement (R219, R225) -/

/-- Why an operation goes no further now: a deferred fault (R221), or a walk that a cell must ask for first (R288). -/
inductive Stop where
  | fault (x : TrapInfo)
  | wait (ck va : Nat)
deriving DecidableEq, Repr

/-- An operation of the current team ends in its deferred fault, in the state that its movement has left; for a walk it is as it was before. -/
def stopOp (s u : State) (o : Op) : Stop → State
  | .fault x => deferFault u o x.cause x.detail x.addr x.lane x.replay
  | .wait ck va => requestOpWalk s ck o.id va

/-- A movement under way: the operation, the writes of global bytes collected by line in order, with their virtual addresses, and what stopped
it. -/
structure Eng where
  s   : State
  id  : Nat
  out : List ((Nat × Nat) × Nat × List (Nat × PByte)) := []
  flt : Option Stop := none
deriving DecidableEq, Repr

/-- The physical address and memory type of a global access of an engine operation, or what stops it (R221, R288). -/
def engGlobal (s : State) (id : Nat) (w : Want) (al va : Nat) : Stop ⊕ (Nat × Nat) :=
  let ck := ckey s.cur.die s.cur.cell
  if 2 ^ 56 ≤ va then .inl (.fault { cause := 9, detail := 1, addr := va, replay := true })
  else if va % al ≠ 0 then .inl (.fault (engFault 0x10 va))
  else match opTransl s id ck va with
    | .miss => .inl (.wait ck va)
    | .fail => .inl (.fault { cause := 9, detail := (if w = .read then 3 else 4), addr := va, replay := true })
    | .hit l => match permFault l w (curLaunch s).d.priv with
      | some d => .inl (.fault { cause := 10, detail := d, addr := va, replay := true })
      | none => if l.mt = 2 then .inl (.fault (engFault 0x11 va)) else .inr (leafPa l va, l.mt)

/-- Add bytes to the write event of their line. -/
def outLine (out : List ((Nat × Nat) × Nat × List (Nat × PByte))) (k : Nat × Nat) (va : Nat) (w : List (Nat × PByte)) :
    List ((Nat × Nat) × Nat × List (Nat × PByte)) :=
  if out.any (fun e => e.1 == k) then out.map (fun e => if e.1 == k then (e.1, e.2.1, e.2.2 ++ w) else e) else out ++ [(k, va, w)]

/-- One piece within a line: global bytes into a vault (`inward`) or vault bytes to global memory. Nothing moves after what stops it. -/
def engPiece (e : Eng) (inward : Bool) (al va n key : Nat) : Eng :=
  if e.flt.isSome then e
  else match engGlobal e.s e.id (if inward then .read else .write) al va with
    | .inl x => { e with flt := some x }
    | .inr (pa, mt) =>
      if inward then
        let (d, s) := readPiece e.s pa n mt
        { e with s := writeVault s key d }
      else
        let (d, s) := readVault e.s key n
        { e with s := s, out := outLine e.out (pa / 128, mt) va ((List.range n).map (fun i => (pa + i, d.getD i (0, false)))) }

/-- A run of n bytes, line by line. -/
def engRun (e : Eng) (inward : Bool) (va n key : Nat) : Eng :=
  (piecesOf va n).foldl (fun e p => engPiece e inward 1 (p.1 % 2 ^ 64) p.2 (key + (p.1 - va))) e

/-- Perform the collected writes, one write event for each line; a line of a lost member takes nothing (R165, R220, R354). -/
def engFlush (e : Eng) : Eng :=
  e.out.foldl (fun e w =>
    if lostAt e.s (w.1.1 * 128) then { e with flt := e.flt <|> some (.fault (engFault 0x12 w.2.1)) }
    else { e with s := writePiece (dieWriteEvent e.s e.s.cur.die w.1.1) w.1.2 w.2.2 }) { e with out := [] }

/-- Read all of a vault range, then write it all: the source as it stood before. -/
def engVault (s : State) (src dst n : Nat) : State :=
  let (d, s) := readVault s src n
  writeVault s dst d

/-- Index i of a skimmer's list, and the element's address. -/
def skimAddr (s : State) (o : Op) (f : ENG) (base : DWord) (i : Nat) : Nat × State :=
  let (d, s) := readVault s (engKeyB o + 4 * i) 4
  ((base + BitVec.ofInt 64 ((BitVec.ofNat 32 (bytesVal (plain d))).toInt * (skimSize f : Nat))).toNat, s)

/-- All elements of a skimmer command; a poisoned index is team state (R364). -/
def engSkim (s : State) (o : Op) (f : ENG) (gather : Bool) (base : DWord) : Eng :=
  let (x, s) := readVault s (engKeyB o) (4 * skimCount f)
  if anyPois x then { s := killBy s o.pc (engKeyB o), id := o.id }
  else (List.range (skimCount f)).foldl (fun e i =>
    if e.flt.isSome then e
    else
      let (a, s) := skimAddr e.s o f base i
      engPiece { e with s := s } gather (skimSize f) a (skimSize f) (engKeyA o + skimSize f * i)) { s := s, id := o.id }

/-! ## Pieces that are moved before completion (R219, R248) -/

/-- A piece of a movement, at most 16 bytes: its global address and alignment, or the vault keys that it is read from and written to. -/
structure EPiece where
  va  : Nat := 0
  al  : Nat := 1
  src : Nat := 0
  dst : Nat := 0
  n   : Nat := 16
deriving DecidableEq, Repr

def isSkim : Instr → Bool | .skimG _ | .skimS _ => true | _ => false

/-- The direction: 0 from global memory, 1 to global memory, 2 between vaults. -/
def engDir (o : Op) : Nat :=
  match o.i with
  | .cp f => min 2 (f.mod.toNat % 4)
  | .cp2d f => if f.mod.toNat % 4 = 0 then 0 else 1
  | .skimG _ => 0
  | .skimS _ => 1
  | _ => 2

/-- The number of pieces. -/
def engCount (o : Op) : Nat :=
  let sl := o.sc.getD 2 0
  match o.i with
  | .cp _ | .cpX _ => sl.toNat / 16
  | .cp2d _ => cpRb sl * cpNr sl
  | .skimG f | .skimS f => skimCount f
  | _ => 0

/-- The roles under which the indices of a skimmer command are held. -/
def idxRole : Nat := 2 ^ 40

/-- Index i of a skimmer command, once it is held without poison. -/
def heldIndex (o : Op) (i : Nat) : Option Int :=
  (heldBytes o (idxRole + i) 4).bind (fun d => if anyPois d then none else some (BitVec.ofNat 32 (bytesVal (plain d))).toInt)

/-- Piece j of a movement; of a skimmer command once its index is held. -/
def engPieceAt (o : Op) (j : Nat) : Option EPiece :=
  let sd := o.sc.getD 0 0; let ss := o.sc.getD 1 0; let sl := o.sc.getD 2 0
  let g := if engDir o = 0 then ss else sd
  let k := engKeyA o
  if engCount o ≤ j then none
  else match o.i with
    | .cp _ => some (if engDir o = 2 then { src := engKeyB o + 16 * j, dst := k + 16 * j }
        else { va := (g.toNat + 16 * j) % 2 ^ 64, src := k + 16 * j, dst := k + 16 * j })
    | .cpX _ => some { src := engKeyB o + 16 * j, dst := k + 16 * j }
    | .cp2d f =>
      let r := j / cpRb sl; let c := j % cpRb sl
      let v := k + 16 * r * f.imm.toNat + 16 * c
      some { va := ((g + BitVec.ofInt 64 (cpGs sl * (r : Nat))).toNat + 16 * c) % 2 ^ 64, src := v, dst := v }
    | .skimG f | .skimS f => (heldIndex o j).map (fun x =>
        { va := (g + BitVec.ofInt 64 (x * (skimSize f : Nat))).toNat, al := skimSize f, src := k + skimSize f * j, dst := k + skimSize f * j, n := skimSize f })
    | _ => none

/-- The bytes of piece j that a movement reads from a vault: those held, and the others as they stand. -/
def pieceBytes (s : State) (o : Op) (j : Nat) (p : EPiece) : List PByte × State :=
  readAcc s o { (o.acc.find? (fun a => a.lane == j)).getD { lane := j } with
    pa := p.src, data := ((o.acc.find? (fun a => a.lane == j)).map (fun a => a.data)).getD (List.replicate p.n 0) }

/-- Hold every index of a skimmer command. -/
def holdIndices (s : State) (o : Op) : Op × State :=
  if !isSkim o.i then (o, s)
  else (List.range (engCount o)).foldl (fun (r : Op × State) i =>
    (List.range 4).foldl (fun (r : Op × State) b =>
      if r.1.gave.contains (readKey (idxRole + i) b) then r
      else
        let (d, s) := readVault r.2 (engKeyB o + 4 * i + b) 1
        (holdBytes (idxRole + i) 4 b d r.1, s)) r) (o, s)

/-- The rest of a movement of which pieces have been moved before. -/
def engRest (s : State) (o : Op) : Eng :=
  let (o, s) := holdIndices s o
  let js := List.range (engCount o)
  if isSkim o.i && js.any (fun i => (heldIndex o i).isNone) then { s := killBy s o.pc (engKeyB o), id := o.id }
  else
    let todo := js.filterMap (fun j => if o.gave.contains (wroteKey j 0) then none else (engPieceAt o j).map (fun p => (j, p)))
    if engDir o = 2 then
      let (l, s) := todo.foldl (fun (r : List (Nat × List PByte) × State) e =>
        let (d, s) := pieceBytes r.2 o e.1 e.2
        (r.1 ++ [(e.2.dst, d)], s)) ([], s)
      { s := l.foldl (fun s e => writeVault s e.1 e.2) s, id := o.id }
    else engFlush (todo.foldl (fun (e : Eng) x =>
      let (j, p) := x
      if e.flt.isSome then e
      else match engDir o, heldBytes o j p.n with
        | 0, some d => { e with s := writeVault e.s p.dst d }
        | 0, none => engPiece e true p.al p.va p.n p.dst
        | _, _ => match engGlobal e.s o.id .write p.al p.va with
          | .inl x => { e with flt := some x }
          | .inr (pa, mt) =>
            let (d, s) := pieceBytes e.s o j p
            { e with s := s, out := outLine e.out (pa / 128, mt) p.va ((List.range p.n).map (fun i => (pa + i, d.getD i (0, false)))) }) { s := s, id := o.id })

/-- The dies between which `cp.x` moves are live, with that of its completion object. -/
def engHere (s : State) (o : Op) : Bool :=
  match o.i with
  | .cpX _ => isLive s (regionDie (o.sc.getD 0 0)) && isLive s (regionDie (o.sc.getD 1 0))
      && (match engSync o with | some k => isLive s (k / 2 ^ 18 / 4608) | none => true)
  | _ => true

/-- The bytes that an engine operation moves, and the faults that it meets. -/
def engMove (s : State) (o : Op) : Eng :=
  let sd := o.sc.getD 0 0; let ss := o.sc.getD 1 0; let sl := o.sc.getD 2 0
  let e : Eng := { s := s, id := o.id }
  if !engHere s o then { e with flt := some (.fault (engFault 2 0)) }
  else if !o.gave.isEmpty then engRest s o
  else match o.i with
    | .cp f =>
      match f.mod.toNat % 4 with
      | 0 => engRun e true ss.toNat sl.toNat (engKeyA o)
      | 1 => engFlush (engRun e false sd.toNat sl.toNat (engKeyA o))
      | _ => { e with s := engVault s (engKeyB o) (engKeyA o) sl.toNat }
    | .cp2d f =>
      let inw := f.mod.toNat % 4 == 0
      let g := if inw then ss else sd
      engFlush ((List.range (cpNr sl)).foldl (fun e r =>
        engRun e inw (g + BitVec.ofInt 64 (cpGs sl * (r : Nat))).toNat (16 * cpRb sl) (engKeyA o + 16 * r * f.imm.toNat)) e)
    | .cpX _ => { e with s := engVault s (engKeyB o) (engKeyA o) sl.toNat }
    | .skimG f => engFlush (engSkim s o f true ss)
    | .skimS f => engFlush (engSkim s o f false sd)
    | _ => e

/-- The byte count of a movement (R225). -/
def engBytes (o : Op) : Nat :=
  let sl := o.sc.getD 2 0
  match o.i with
  | .cp _ | .cpX _ => sl.toNat
  | .cp2d _ => 16 * cpRb sl * cpNr sl
  | .skimG f | .skimS f => skimSize f * skimCount f
  | _ => 0

/-- Arrive at an operation's completion object (R218): a poisoned sync word kills the team (R364). -/
def engArrive (s : State) (o : Op) (n : Nat) : State :=
  match engSync o with
  | none => s
  | some k =>
    let (d, s) := readVault s k 16
    if anyPois d then killBy s o.pc k else arriveAt s k n

/-- `enq` begins (R231): its release is met, it reads its descriptor, and its copy reaches the queue. A poisoned descriptor
kills the team (R364). -/
def enqStart (s : State) (o : Op) : Option State :=
  if !fenceMet s.cur o 1 (2 ^ o.stream) then none
  else
    let (d, s) := pieceBytes s o idxRole { src := engKeyA o, n := 128 }
    if anyPois d then some (modCur (killBy s o.pc (engKeyA o)) (fun t => retireOp t o))
    else
      let sel := (o.sc.getD 1 0).toNat
      let e : QEntry := { bits := BitVec.ofNat 1024 (bytesVal (plain d)), priv := (curLaunch s).d.priv }
      let s := modCur s (fun t => modOp t o.id (fun o => { o with started := true, acc := [], gave := [], pois := [] }))
      some (modDie s (sel / 256 % 256) (fun c =>
        { c with held := NMap.modify [] c.held (sel % 64) (· ++ [{ entry := e, team := some (s.cur.tid, o.id) }]) }))

/-- A started copy moves its bytes, arrives, and releases its flag; or it faults, and only its flag is released; or a page of it is not translated
yet, and its walk is asked for (R218, R221, R288). -/
def engComplete (s : State) (id : Nat) : Option State :=
  match s.cur.ops.find? (fun o => o.id == id) with
  | none => none
  | some o =>
    if !o.started || !unobserved s o then none
    else match o.i with
      | .cp _ | .cp2d _ | .cpX _ | .skimG _ | .skimS _ =>
        let e := engMove s o
        match e.flt with
        | some x => some (stopOp s e.s o x)
        | none => some (modCur (engArrive e.s o (engBytes o)) (fun t => retireOp t o))
      | _ => none

/-! ## enq and the task queues (R231) -/

def issueEnq (f : ENG) (s : State) : Res :=
  let t := s.cur
  let sel := (sreg t f.ss.toNat).toNat
  issueEngine f (.enq f) (sel / 64 % 4 != 0) 0 (!isLive s (sel / 256 % 256))
    [{ die := t.die, va := (sreg t f.sd.toNat).toNat % 2 ^ 32, n := 128, al := 128, wr := false }] t.die s

def execEnq (f : ENG) (s : State) : Host.Outcome State Fault Refusal := ok (issue (.enq f) s (issueEnq f))

/-- The `enq` of a held entry completes: it arrives with 128 bytes and releases its flag. -/
def enqDone (s : State) (tid id : Nat) : State :=
  inTeam s tid (fun s => match s.cur.ops.find? (fun o => o.id == id) with
    | none => none
    | some o => some (modCur (engArrive s o 128) (fun t => retireOp t o)))

/-- The oldest held append of a queue enters it while the queue holds fewer than 256 entries, once the arrival that goes with it may take its
step; queue q of die d has number 64·d + q. The place of a mailbox's launch waits for that launch (R392). -/
def queueAppend (s : State) (q : Nat) : State :=
  let d := q / 64
  match NMap.get [] (dieOf s d).held (q % 64) with
  | [] => s
  | h :: rest =>
    if h.box.isSome || !logicOn s d || 256 ≤ (NMap.get [] (dieOf s d).queues (q % 64)).length || (match h.team with | some e => !unseen s e | none => false) then s
    else
      let s := modDie s d (fun c => { c with held := NMap.set [] c.held (q % 64) rest
                                             queues := NMap.modify [] c.queues (q % 64) (· ++ [h.entry]) })
      match h.team with
      | none => s
      | some (tid, id) => enqDone s tid id

def execTaskQueueAppend (q : Nat) (s : State) : Host.Outcome State Fault Refusal := ok (queueAppend s q)

end Sys2Proof.Machine
end

