-- ==== Sys2Proof/Machine/Parts.lean ====
section
/-! DEFINITION. Parts of matrix and engine operations that take their step before the operation completes (R193, R219, R248): a byte of a vault
operand is read, a piece of global memory is read, or what the operation writes to one aligned word, or to one line, is written. -/

namespace Sys2Proof.Machine

/-- An operation has written what these keys name. -/
def markDone (s : State) (id : Nat) (ks : List Nat) : State := modCur s (fun t => modOp t id (fun o => { o with gave := ks ++ o.gave }))

/-! ## Matrix operations (R193, R198) -/

/-- The accesses that a matrix operation reads. -/
def matrixReads (o : Op) : List Acc :=
  match o.i with
  | .mxMma _ | .mxBpmma _ | .mxDmma _ | .mxLd _ => o.acc
  | .mxSlice _ => sliceReads o
  | _ => []

/-- Read byte b of the operand with a role: of global memory the whole piece at once. -/
def matrixRead (s : State) (o : Op) (role b : Nat) : Option State :=
  match (matrixReads o).find? (fun a => a.lane == role) with
  | none => none
  | some a =>
    if a.mt = vaultMt then
      if a.data.length ≤ b || o.gave.contains (readKey role b) then none
      else
        let (d, s) := readVault s (a.pa + b) 1
        some (modCur s (fun t => modOp t o.id (holdBytes role a.data.length b d)))
    else if a.done || b ≠ 0 then none
    else
      let (d, s) := readPhys s a.pa 16 a.mt
      some (modCur s (fun t => modOp t o.id (fun o =>
        { o with acc := o.acc.map (fun c => if c.lane == role then { c with data := plain d, done := true } else c)
                 gave := readKey role 0 :: o.gave, pois := if anyPois d then readKey role 0 :: o.pois else o.pois })))

/-- Write the part of a run that starts at offset b. -/
def writePart (s : State) (o : Op) (l : List VRun) (role b : Nat) : Option State :=
  match l.find? (fun r => r.role == role) with
  | none => none
  | some r => match (wordParts r.key r.d.length).find? (fun p => p.1 == b) with
    | none => none
    | some p =>
      if o.gave.contains (wroteKey role b) then none
      else some (markDone (writeVault s (r.key + b) ((r.d.drop b).take p.2)) o.id [wroteKey role b])

/-- Every byte that `mx.slice` reads has been read. -/
def sliceHeld (o : Op) : Bool := (sliceReads o).all (fun a => (List.range a.data.length).all (fun b => o.gave.contains (readKey a.lane b)))

/-- Write one part of what a matrix operation writes, once no earlier operation names its tile. -/
def matrixWrite (s : State) (o : Op) (role b : Nat) : Option State :=
  if tileBusy s o then none
  else match o.i with
    | .mxSlice f => if sliceHeld o then (let (l, s) := sliceRuns s o f; writePart s o l role b) else none
    | .mxRc f | .mxBnd f => let (_, l, s) := rcRuns s o f; writePart s o l role b
    | .mxSt f =>
      let td := f.td.toNat
      let (acc, s) := tileStore s o td
      match (tileLines o acc).find? (fun g => g.any (fun a => a.lane == role)) with
      | some g => some (markDone (storePieces (tileBase s.cur td) o.pc s g) o.id (g.map (fun a => wroteKey a.lane 0)))
      | none => writePart s o (storeRuns acc) role b
    | _ => none

/-! ## Engine operations (R219, R225) -/

/-- An engine reads piece j, or its byte b, or a byte of an index. -/
def engRead (s : State) (o : Op) (j b : Nat) : Option State :=
  if idxRole ≤ j then
    if o.gave.contains (readKey j b) || 4 ≤ b || !(isSkim o.i && decide (j - idxRole < engCount o)) then none
    else
      let (d, s) := readVault s (engKeyB o + 4 * (j - idxRole) + b) 1
      some (modCur s (fun t => modOp t o.id (holdBytes j 4 b d)))
  else match engPieceAt o j with
    | none => none
    | some p =>
      if o.gave.contains (readKey j b) || p.n ≤ b then none
      else if engDir o = 0 then
        if b ≠ 0 then none
        else match engGlobal s o.id .read p.al p.va with
          | .inl (.fault _) => none
          | .inl x => some (stopOp s s o x)
          | .inr (pa, mt) =>
            let (d, s) := readPiece s pa p.n mt
            some (modCur s (fun t => modOp t o.id (holdBytes j p.n 0 d)))
      else
        let (d, s) := readVault s (p.src + b) 1
        some (modCur s (fun t => modOp t o.id (holdBytes j p.n b d)))

/-- Two pieces meet in the vault. -/
def pieceMeets (p q : EPiece) : Bool := decide (p.dst < q.dst + q.n) && decide (q.dst < p.dst + p.n)

/-- The places of all pieces of an outward movement, or what stops the first that has none; nothing while an index is not held. -/
def engPlaces (s : State) (o : Op) : Option (Stop ⊕ List (Nat × EPiece × Nat × Nat)) :=
  (List.range (engCount o)).foldl (fun r j =>
    match r, engPieceAt o j with
    | some (.inr l), some p => some (match engGlobal s o.id .write p.al p.va with
      | .inr (pa, mt) => .inr (l ++ [(j, p, pa, mt)])
      | .inl x => .inl x)
    | some (.inl x), _ => some (.inl x)
    | _, _ => none) (some (.inr []))

/-- An engine writes piece j: into a vault once the pieces before it that it meets are there, between vaults once all has been read, to global
memory with all the bytes of its line (R165). -/
def engWrite (s : State) (o : Op) (j : Nat) : Option State :=
  match engPieceAt o j with
  | none => none
  | some p =>
    if o.gave.contains (wroteKey j 0) then none
    else match engDir o, heldBytes o j p.n with
      | _, none => none
      | 0, some d =>
        if (List.range j).all (fun k => o.gave.contains (wroteKey k 0) || (match engPieceAt o k with | some q => !pieceMeets p q | none => true)) then
          some (markDone (writeVault s p.dst d) o.id [wroteKey j 0])
        else none
      | 2, some d =>
        if (List.range (engCount o)).all (fun k => match engPieceAt o k with | some q => (heldBytes o k q.n).isSome | none => true) then
          some (markDone (writeVault s p.dst d) o.id [wroteKey j 0])
        else none
      | _, some _ => match engPlaces s o with
        | none | some (.inl (.fault _)) => none
        | some (.inl x) => some (stopOp s s o x)
        | some (.inr l) => match l.find? (fun e => e.1 == j) with
          | none => none
          | some (_, _, pa, mt) =>
            let g := l.filter (fun e => e.2.2.1 / 128 == pa / 128 && e.2.2.2 == mt)
            if lostAt s (pa / 128 * 128) || g.any (fun e => (heldBytes o e.1 e.2.1.n).isNone) then none
            else
              let w := g.flatMap (fun e => let d := (heldBytes o e.1 e.2.1.n).getD []
                                           (List.range d.length).map (fun i => (e.2.2.1 + i, d.getD i (0, false))))
              some (markDone (writePiece (dieWriteEvent s s.cur.die (pa / 128)) mt w) o.id (g.map (fun e => wroteKey e.1 0)))

/-! ## A part by its key -/

/-- The part that a key names takes its step for an operation of the current team. -/
def opPart (s : State) (o : Op) (k : Nat) : Option State :=
  let role := k / 2 / 2 ^ 20
  let b := k / 2 % 2 ^ 20
  if !gateOpen s o then none
  else if isEngine o.i then
    if !o.started || !engHere s o then none else if k % 2 = 0 then engRead s o role b else engWrite s o role
  else if k % 2 = 0 then matrixRead s o role b
  else matrixWrite s o role b

end Sys2Proof.Machine
end

