-- ==== Sys2Proof/Machine/Collect.lean ====
section
/-! DEFINITION. Collectives (R227 to R230, R370): the descriptor and its checks, matching and attempts, contributions, abort
tokens, the results. -/

namespace Sys2Proof.Machine

/-! ## The descriptor (R227) -/

/-- The fields of a collective descriptor. -/
structure Coll where
  dies    : Nat
  attempt : Nat
  group   : Nat
  count   : Nat
  root    : Nat
  src     : Nat
  dst     : Nat
  op      : Nat
  ty      : Nat
  rsv     : Bool
deriving DecidableEq, Repr

/-- Bits h down to l of a number. -/
def bitsOf (x h l : Nat) : Nat := x / 2 ^ l % 2 ^ (h + 1 - l)

def collOf (x : Nat) : Coll :=
  { dies := bitsOf x 511 368, attempt := bitsOf x 367 352, group := bitsOf x 341 336, count := bitsOf x 319 288
    root := bitsOf x 263 256, src := bitsOf x 255 224, dst := bitsOf x 223 192, op := bitsOf x 7 4, ty := bitsOf x 3 0
    rsv := bitsOf x 351 342 != 0 || bitsOf x 335 320 != 0 || bitsOf x 287 264 != 0 || bitsOf x 159 8 != 0 }

/-- The die ordinals that take part, ascending; P is their number, a die's place in the list its rank. -/
def Coll.members (c : Coll) : List Nat := (List.range 144).filter (fun d => c.dies.testBit d)
def Coll.p (c : Coll) : Nat := c.members.length
def Coll.rank (c : Coll) (die : Nat) : Nat := (c.members.filter (fun d => decide (d < die))).length
/-- Element size. -/
def Coll.size (c : Coll) : Nat := if 3 ≤ c.ty then 8 else 4
/-- Bytes of SRC and of DST (R228). -/
def Coll.srcLen (c : Coll) : Nat := c.count * c.size
def Coll.dstLen (c : Coll) : Nat :=
  if c.op = 4 then c.p * c.count * c.size else if c.op = 5 then c.count * c.size / c.p else c.count * c.size
/-- What matched descriptors share (R229). -/
def Coll.same (c : Coll) : List Nat := [c.dies, c.op, c.ty, c.count, c.root]

/-- The checks of a descriptor after its address has passed (R220, R228): the keys of SRC and DST, or the first trap. A COUNT
of 0 is a count outside its limits; it is found with the descriptor (DEDUCED, log 22). -/
def checkColl (s : State) (a : Nat) (c : Coll) : TrapInfo ⊕ (Nat × Nat) :=
  let die := s.cur.die
  if c.rsv || decide (6 ≤ c.op) || decide (6 ≤ c.ty) then .inl (engFault 3 a)
  else if c.count = 0 then .inl (engFault 1 a)
  else
    let rs : List ERng := [{ die := die, va := c.src, n := c.srcLen, al := 1, wr := false },
                           { die := die, va := c.dst, n := c.dstLen, al := 1, wr := true }]
    match engRanges s rs with
    | .inl x => .inl x
    | .inr ks =>
      let ka := ks.getD 0 0; let kb := ks.getD 1 0
      if !c.dies.testBit die || (c.op == 3 && !c.dies.testBit c.root) || (c.op == 5 && c.count % c.p != 0)
        || (decide (ka < kb + c.dstLen) && decide (kb < ka + c.srcLen)) then .inl (engFault 4 a)
      else if c.members.any (fun d => !isLive s d) then .inl (engFault 2 a)
      else .inr (ka, kb)

/-! ## Attempts and matching (R229, R230) -/

/-- The key of a group of a launch, and of an attempt of it. -/
def grpKey (lid grp : Nat) : Nat := lid * 64 + grp
def attKey (lid grp att : Nat) : Nat := (lid * 64 + grp) * 65536 + att

/-- A die's attempt counter. -/
def attemptOf (s : State) (die lid grp : Nat) : Nat := NMap.get 0 (dieOf s die).attempt (grpKey lid grp)

/-- How an ATTEMPT stands to a counter. -/
inductive Age where | equal | older | newer
deriving DecidableEq, Repr

def ageOf (a c : Nat) : Age :=
  if a % 65536 = c % 65536 then .equal
  else if (c + 65536 - a % 65536) % 65536 ≤ 32767 then .older else .newer

/-- The descriptor of a collective operation as it was read at issue, and which of its group and attempt it is on its die. -/
def opColl (o : Op) : Coll := collOf ((o.sc.drop 1).foldr (fun w x => w.toNat + 2 ^ 64 * x) 0)
def opNth (o : Op) : Nat := (o.sc.getD 0 0).toNat
/-- The key of the descriptor of a `coll`. -/
def opDesc (o : Op) : Nat := o.arg.getD 11 20 - 20

/-! ## Issue -/

/-- Issue `coll` or `coll.abort`: STATUS is written to 0 by `coll` alone. -/
def issueColl (f : ENG) (i : Instr) (abort : Bool) (s : State) : Res :=
  let t := s.cur
  let a := (sreg t f.sd.toNat).toNat % 2 ^ 32
  match engRanges s ({ die := t.die, va := a, n := 64, al := 64, wr := true } :: swRange f t.die t) with
  | .inl x => .trap s x
  | .inr ks =>
    let k := ks.getD 0 0
    let (d, s) := readVault s k 64
    if anyPois d then .done (killBy s (instrPc (clauseOf s)) k)
    else
      let x := bytesVal (plain d)
      let c := collOf x
      match checkColl s a c with
      | .inl e => .trap s e
      | .inr (ka, kb) =>
        if 32 ≤ cellEngines s t.die t.cell || (!abort && !unobserved s { id := s.cur.nextOp, i := i }) then .stall s
        else
          let lid := (curBlock s).lid
          let (n, s) := freshId s
          let nth := NMap.get 0 (dieOf s t.die).ncoll (attKey lid c.group c.attempt)
          let s := if abort then s
            else writeVault (modDie s t.die (fun d => { d with ncoll := NMap.modify 0 d.ncoll (attKey lid c.group c.attempt) (· + 1) }))
              (k + 20) (clean (valBytes 4 0))
          let swk := if f.sw = 63 then 0 else ks.getD 1 0 + 1
          let held := if abort then [] else [0, ka, c.srcLen, 1, kb, c.dstLen, 1, k + 20, 4]
          .done (addOp s f.fs { i := i, stream := f.stream.toNat, scope := f.scope.toNat, mask := execM t 0
                                sc := BitVec.ofNat 64 nth :: (List.range 8).map (fun j => BitVec.ofNat 64 (x / 2 ^ (64 * j)))
                                arg := n :: swk :: ka :: kb :: held })

def execColl (f : ENG) (s : State) : Host.Outcome State Fault Refusal := ok (issue (.coll f) s (issueColl f (.coll f) false))
def execCollAbort (f : ENG) (s : State) : Host.Outcome State Fault Refusal := ok (issue (.collAbort f) s (issueColl f (.collAbort f) true))

/-! ## Ends, contributions, tokens -/

/-- An operation of the current team ends with a STATUS, arrives with the byte count of its DST, and releases its flag (R228). -/
def collEnd (s : State) (o : Op) (status : Nat) : State :=
  let s := writeVault s (opDesc o + 20) (clean (valBytes 4 status))
  modCur (engArrive s o (opColl o).dstLen) (fun t => retireOp t o)

/-- The operations of a launch on a die that a predicate picks, as (team, operation). -/
def collOps (s : State) (die lid : Nat) (p : Op → Bool) : List (Nat × Nat) :=
  ((allTeams s).filter (fun t => t.die == die && (blockOf s t.blk).lid == lid)).flatMap (fun t =>
    (t.ops.filter (fun o => (match o.i with | .coll _ => true | _ => false) && p o)).map (fun o => (t.tid, o.id)))

/-- End one operation of a team. -/
def collEndAt (status : Nat) (s : State) (e : Nat × Nat) : State :=
  inTeam s e.1 (fun s => (s.cur.ops.find? (fun o => o.id == e.2)).map (fun o => collEnd s o status))

/-- The elements of a contribution that hold poison (R370). -/
def poisElems (sz : Nat) (d : List PByte) : List Nat :=
  (List.range (d.length / sz)).filter (fun k => anyPois ((d.drop (sz * k)).take sz))

/-- A `coll` begins (R229, R230): an older attempt ends at once, a newer one waits, an equal one sends its contribution. -/
def collStart (s : State) (o : Op) : Option State :=
  let c := opColl o
  let die := s.cur.die
  let lid := (curBlock s).lid
  if c.members.any (fun d => !isLive s d) then some (collEnd s o 2)
  else match ageOf c.attempt (attemptOf s die lid c.group) with
    | .older => some (collEnd s o 2)
    | .newer => none
    | .equal =>
      let (d, s) := pieceBytes s o idxRole { src := engKeyA o, n := c.srcLen }
      let ps := poisElems c.size d
      let s := modCur s (fun t => modOp t o.id (fun o => { o with started := true, gave := []
                                                                  acc := [{ lane := die, data := plain d, done := true }]
                                                                  pois := ps.map (die * 2 ^ 20 + ·) }))
      let out := (c.members.filter (· != die)).map (fun e =>
        Msg.coll lid c.group c.attempt (opNth o) die e c.same (plain d) ps)
      some { s with fabric := { s.fabric with msgs := s.fabric.msgs ++ out } }

/-- A `coll.abort` begins: a token goes to every live die of DIES. -/
def abortStart (s : State) (o : Op) : Option State :=
  let c := opColl o
  let ds := c.members.filter (fun d => isLive s d)
  let lid := (curBlock s).lid
  let s := modCur s (fun t => modOp t o.id (fun o => { o with started := true, acc := ds.map (fun d => { lane := d }) }))
  some { s with fabric := { s.fabric with msgs := s.fabric.msgs ++ ds.map (fun d => Msg.token lid c.group c.attempt d s.cur.tid o.id) } }

/-- Start any engine operation (ENGINE_OPERATION_START). -/
def startAny (s : State) (id : Nat) : Option State :=
  match s.cur.ops.find? (fun o => o.id == id) with
  | none => none
  | some o =>
    if !isEngine o.i || o.started || !gateOpen s o || engBlocked s o then none
    else match o.i with
      | .coll _ => collStart s o
      | .collAbort _ => abortStart s o
      | .enq _ =>
        let d := (o.sc.getD 1 0).toNat / 256 % 256
        if isLive s d then (if logicOn s d then enqStart s o else none) else some (deferFault s o 0x10 2 0 none false)
      | _ => some (modCur s (fun t => modOp t id (fun o => { o with started := true })))

def execEngineOperationStart (tid id : Nat) (s : State) : Host.Outcome State Fault Refusal :=
  ok (inTeam s tid (fun s => startAny s id))

/-- The fold of one element over the contributions in ascending die ordinal (R228): a NaN that is the only contribution is the NaN of its format too
(R52). -/
def collFold (op ty : Nat) : List DWord → DWord
  | [] => 0
  | [x] => if op < 3 then clip ty (settleNan ty x).1 else x
  | x :: t => t.foldl (fun a b => clip ty (combine {} ty op a b).1) x

/-- Element k of a die's contribution. -/
def contrib (c : Coll) (o : Op) (die k : Nat) : DWord :=
  match o.acc.find? (fun a => a.lane == die) with
  | none => 0
  | some a => BitVec.ofNat 64 (bytesVal ((a.data.drop (c.size * k)).take c.size))

/-- One element of a result: its bytes, and whether an element that went into it was poisoned (R370). -/
def collElem (c : Coll) (o : Op) (from_ : List Nat) (k : Nat) : List PByte :=
  let x := collFold c.op c.ty (from_.map (fun d => contrib c o d k))
  let bad := from_.any (fun d => o.pois.contains (d * 2 ^ 20 + k))
  (valBytes c.size x.toNat).map (fun b => (b, bad))

/-- The bytes of DST on the current die (R228). -/
def collResult (c : Coll) (o : Op) (die : Nat) : List PByte :=
  let ms := c.members
  match c.op with
  | 3 => (List.range c.count).flatMap (collElem c o [c.root])
  | 4 => ms.flatMap (fun d => (List.range c.count).flatMap (collElem c o [d]))
  | 5 => (List.range (c.count / c.p)).flatMap (fun k => collElem { c with op := 0 } o ms (c.rank die * (c.count / c.p) + k))
  | _ => (List.range c.count).flatMap (collElem c o ms)

/-- Every contribution of a collective is in. -/
def collWhole (o : Op) : Bool := (opColl o).members.all (fun d => o.acc.any (fun a => a.lane == d))

/-- The bytes that a collective writes to DST on the current die, as a run of role 0. -/
def collRun (s : State) (o : Op) : VRun := { role := 0, key := engKeyB o, d := collResult (opColl o) o s.cur.die }

/-- The number of bytes, from its first range on, that a `coll` or `enq` which may begin reads as it begins. -/
def firstBytes (s : State) (o : Op) : Nat :=
  match o.i with
  | .coll _ =>
    let c := opColl o
    if c.members.all (isLive s) && ageOf c.attempt (attemptOf s s.cur.die (curBlock s).lid c.group) == .equal then c.srcLen else 0
  | .enq _ => if fenceMet s.cur o 1 (2 ^ o.stream) then 128 else 0
  | _ => 0

/-- A part of a collective or an `enq` that a key names takes its step (R219, R248): a byte of SRC or of the descriptor is read before the
operation begins, or one aligned word of DST is written once every contribution is in. -/
def collPart (s : State) (o : Op) (k : Nat) : Option State :=
  let b := k / 2 % 2 ^ 20
  if !unobserved s o then none
  else if k % 2 = 1 then
    if (match o.i with | .coll _ => true | _ => false) && o.started && collWhole o && k / 2 / 2 ^ 20 == 0 then writePart s o [collRun s o] 0 b else none
  else if o.started || k / 2 / 2 ^ 20 != idxRole || !gateOpen s o || engBlocked s o || decide (firstBytes s o ≤ b) || o.gave.contains (readKey idxRole b) then none
  else
    let (d, s) := readVault s (engKeyA o + b) 1
    some (modCur s (fun t => modOp t o.id (holdBytes idxRole (firstBytes s o) b d)))

/-- Complete any engine operation (ENGINE_OPERATION_COMPLETE): a collective once every contribution is in, an abort once every
live die has taken its token; the byte count of an abort's arrival is not given (log 6). Neither passes an access that ran ahead (R253). -/
def completeAny (s : State) (id : Nat) : Option State :=
  match s.cur.ops.find? (fun o => o.id == id) with
  | none => none
  | some o =>
    if !o.started || !unobserved s o then none
    else match o.i with
      | .coll _ => if collWhole o then some (collEnd (writeRun o s (collRun s o)) o 1) else none
      | .collAbort _ =>
        if o.acc.all (fun a => a.done || !isLive s a.lane) then
          let (n, s) := tick s
          some (modCur (engArrive s o (Config.freeBits 32 n).toNat) (fun t => retireOp t o))
        else none
      | _ => engComplete s id

def execEngineOperationComplete (tid id : Nat) (s : State) : Host.Outcome State Fault Refusal :=
  ok (inTeam s tid (fun s => completeAny s id))

/-- A collective packet that the fabric holds at a die's ingress: its attempt is newer, or the operation that it is matched with has not begun
(R229, R230). -/
def packetHeld (s : State) : Msg → Bool
  | .coll lid grp att k _ dst _ _ _ =>
    isLive s dst && (match ageOf att (attemptOf s dst lid grp) with
      | .older => false
      | .newer => true
      | .equal =>
        match collOps s dst lid (fun o => (opColl o).group == grp && (opColl o).attempt == att && opNth o == k) with
        | [] => decide (NMap.get 0 (dieOf s dst).ncoll (attKey lid grp att) ≤ k)
        | e :: _ => ((team? s e.1).bind (fun t => t.ops.find? (fun o => o.id == e.2 && o.started))).isNone)
  | _ => false

/-- Source and destination of a collective packet or an abort token. -/
def collEnds (s : State) : Msg → Option (Nat × Nat)
  | .coll _ _ _ _ src dst _ _ _ => some (src, dst)
  | .token _ _ _ dst tid _ => some (((team? s tid).map (fun t => t.die)).getD 255, dst)
  | _ => none

/-- The n-th message is the next of its source and destination on the channel of collectives (R346); packets held at the ingress have arrived. -/
def collNext (s : State) (n : Nat) : Bool :=
  match s.fabric.msgs[n]? with
  | none => false
  | some m => !(s.fabric.msgs.take n).any (fun x => (collEnds s x).isSome && collEnds s x == collEnds s m && !packetHeld s x)

/-- A collective packet at a die's ingress (R229, R230): an old attempt is dropped, a newer one is held, and one of the die's own
attempt joins the operation that it is matched with, or ends it where the descriptors differ. -/
def collectivePacket (s : State) (n : Nat) : State :=
  let rest := { s with fabric := { s.fabric with msgs := s.fabric.msgs.eraseIdx n } }
  match s.fabric.msgs[n]? with
  | some (.coll lid grp att k src dst key data pois) =>
    if !isLive s dst then rest
    else match ageOf att (attemptOf s dst lid grp) with
      | .older => rest
      | .newer => s
      | .equal =>
        match collOps s dst lid (fun o => (opColl o).group == grp && (opColl o).attempt == att && opNth o == k) with
        | [] => if k < NMap.get 0 (dieOf s dst).ncoll (attKey lid grp att) then rest else s
        | e :: _ =>
          let go (s : State) : Option State := match s.cur.ops.find? (fun o => o.id == e.2) with
            | none => none
            | some o =>
              if !o.started then none
              else if (opColl o).same != key then some (collEnd s o 3)
              else some (modCur s (fun t => modOp t o.id (fun o => { o with acc := o.acc ++ [{ lane := src, data := data, done := true }]
                                                                            pois := o.pois ++ pois.map (src * 2 ^ 20 + ·) })))
          if ((team? s e.1).bind (fun t => t.ops.find? (fun o => o.id == e.2 && o.started && ((opColl o).same == key || unseen s e)))).isSome then
            inTeam rest e.1 go else s
  | _ => s

def execCollectivePacket (n : Nat) (s : State) : Host.Outcome State Fault Refusal := ok (if collNext s n then collectivePacket s n else s)

/-- An abort token at a die (R230), in one step; it waits for accesses that ran ahead of what would see it (R253). -/
def abortToken (s : State) (n : Nat) : State :=
  match s.fabric.msgs[n]? with
  | some (.token lid grp att dst tid id) =>
    let ends := if attemptOf s dst lid grp = att then collOps s dst lid (fun o => (opColl o).group == grp && (opColl o).attempt == att) else []
    if !ends.all (unseen s) then s
    else
    let s := { s with fabric := { s.fabric with msgs := s.fabric.msgs.eraseIdx n } }
    let s := if attemptOf s dst lid grp = att then
        ends.foldl (collEndAt 2)
          (modDie s dst (fun d => { d with attempt := NMap.set 0 d.attempt (grpKey lid grp) ((att + 1) % 65536) }))
      else s
    inTeam s tid (fun s => some (modCur s (fun t => modOp t id (fun o =>
      { o with acc := o.acc.map (fun a => if a.lane == dst then { a with done := true } else a) }))))
  | _ => s

def execAbortToken (n : Nat) (s : State) : Host.Outcome State Fault Refusal := ok (if collNext s n then abortToken s n else s)

end Sys2Proof.Machine
end

