-- ==== Sys2Proof/Machine/Graphics.lean ====
section
/-! DEFINITION. The graphics instructions (R232 to R235), the meshlet of a mesh block, and setup (R320 to R323). -/

namespace Sys2Proof.Machine

/-! ## Instructions -/

/-- A graphics instruction outside its stage, or after the block's `g.done` (R232). -/
def wrongStage : TrapInfo := { cause := 3, detail := 9 }
/-- An index or slot out of range (R233 to R235). -/
def badIndex (lane : Option Nat) : TrapInfo := { cause := 3, detail := 0xA, lane := lane }

def stageOf (s : State) : Nat := (curLaunch s).d.stage

/-- The mesh stage admits the instruction: the block's `g.done` has not issued. -/
def meshOpen (s : State) : Bool := stageOf s == 2 && !(curBlock s).mesh.done

/-- The lanes of exec(PRED) that read registers themselves: those that consume no poison act, the others die (R363). -/
def gLanes (f : SYS) (regs : List Nat) (bad : Team → Nat → Bool) (act : State → List Nat → State) (s : State) : Res :=
  let m := execM s.cur f.pred.toNat
  let (e, s) := consume s ((lanesOf m s.cur.width).flatMap (fun l => regs.map (fun r => (l, r, l))))
  let ls := lanesOf (m &&& ~~~ e.lanes) s.cur.width
  match ls.find? (bad s.cur) with
  | some l => .trap s (badIndex (some l))
  | none => .done (dieOff (act s ls) e (instrPc (clauseOf s)))

/-- Change the meshlet of the current block. -/
def modMesh (s : State) (f : Meshlet → Meshlet) : State := modBlock s s.cur.blk (fun b => { b with mesh := f b.mesh })

def execGVtx (f : SYS) (s : State) : Host.Outcome State Fault Refusal :=
  ok (issue (.gVtx f) s (fun s =>
    if !meshOpen s then .trap s wrongStage
    else gLanes f (regRun f.va.toNat 4 ++ [f.vb.toNat]) (fun t l => decide (256 ≤ (vreg t f.vb.toNat l).toNat))
      (fun s ls => ls.foldl (fun s l => modMesh s (fun x =>
        { x with pos := NMap.set none x.pos (vreg s.cur f.vb.toNat l).toNat (some ((List.range 4).map (fun j => vreg s.cur (f.va.toNat + j) l))) })) s) s))

def execGPrim (f : SYS) (s : State) : Host.Outcome State Fault Refusal :=
  ok (issue (.gPrim f) s (fun s =>
    if !meshOpen s then .trap s wrongStage
    else gLanes f [f.va.toNat, f.vb.toNat] (fun t l => decide (256 ≤ (vreg t f.vb.toNat l).toNat))
      (fun s ls => ls.foldl (fun s l => modMesh s (fun x =>
        { x with prim := NMap.set none x.prim (vreg s.cur f.vb.toNat l).toNat (some (vreg s.cur f.va.toNat l)) })) s) s))

/-- The fragment that a lane of a pixel block holds (R330). -/
def fragIndex (t : Team) (l : Nat) : Nat := t.idx * t.width + l
def fragOf (s : State) (l : Nat) : Option Frag := (curBlock s).frags.getD (fragIndex s.cur l) none
def modFrag (s : State) (l : Nat) (f : Frag → Frag) : State :=
  modBlock s s.cur.blk (fun b =>
    { b with frags := b.frags.modify (fragIndex s.cur l) (fun o => o.map f) })

/-- What a slot of a fragment gives (R235); a lane that holds no fragment reads a value that the spec does not state (log 6). -/
def slotValue (s : State) (l slot : Nat) : Word × State :=
  match fragOf s l with
  | some g =>
    (match slot with
      | 32 => BitVec.ofNat 32 g.x
      | 33 => BitVec.ofNat 32 g.y
      | 34 => g.zi
      | 35 => if g.front then 1 else 0
      | k => g.attr.getD k 0, s)
  | none => let (n, s) := tick s; (Config.freeBits 32 n, s)

/-- Mesh-stage `g.attr` (R233). -/
def meshAttr (f : SYS) (s : State) : Res :=
  let c := f.mod.toNat % 4 + 1
  let slot := f.imm.toNat % 64
  gLanes f (regRun f.va.toNat c ++ [f.vb.toNat]) (fun t l => decide (32 < slot + c) || decide (256 ≤ (vreg t f.vb.toNat l).toNat))
    (fun s ls => ls.foldl (fun s l => modMesh s (fun x =>
      let v := (vreg s.cur f.vb.toNat l).toNat
      { x with attr := (List.range c).foldl (fun m j => NMap.set none m (32 * v + slot + j) (some (vreg s.cur (f.va.toNat + j) l))) x.attr
               slots := max x.slots (slot + c) })) s) s

/-- Pixel-stage `g.attr` (R235). -/
def pixelAttr (f : SYS) (s : State) : Res :=
  let c := f.mod.toNat % 4 + 1
  let slot := f.imm.toNat % 64
  gLanes f [] (fun _ _ => decide (35 < slot) || (decide (32 ≤ slot) && decide (1 < c)) || (decide (slot < 32) && decide (32 < slot + c)))
    (fun s ls =>
      let s := prepDest s (regRun f.vd.toNat c) (maskOf ls)
      ls.foldl (fun s l => (List.range c).foldl (fun s j =>
        let (x, s) := slotValue s l (slot + j)
        modCur s (deliverRegs (fun r => r.vset (f.vd.toNat + j) l x))) s) s) s

def execGAttr (f : SYS) (s : State) : Host.Outcome State Fault Refusal :=
  ok (issue (.gAttr f) s (fun s =>
    if stageOf s = 3 then pixelAttr f s else if meshOpen s then meshAttr f s else .trap s wrongStage))

def execGOut (f : SYS) (s : State) : Host.Outcome State Fault Refusal :=
  ok (issue (.gOut f) s (fun s =>
    if stageOf s ≠ 3 then .trap s wrongStage
    else gLanes f (regRun f.va.toNat 4) (fun _ _ => false) (fun s ls => ls.foldl (fun s l =>
      let x := (List.range 4).map (fun j => vreg s.cur (f.va.toNat + j) l)
      modFrag s l (fun g => { g with outs := NMap.set none g.outs (f.imm.toNat % 4) (some x) })) s) s))

def execGKill (f : SYS) (s : State) : Host.Outcome State Fault Refusal :=
  ok (issue (.gKill f) s (fun s =>
    if stageOf s ≠ 3 then .trap s wrongStage
    else gLanes f [] (fun _ _ => false) (fun s ls => ls.foldl (fun s l => modFrag s l (fun g => { g with dead := true })) s) s))

def execGZq (f : SYS) (s : State) : Host.Outcome State Fault Refusal :=
  ok (issue (.gZq f) s (fun s =>
    if stageOf s ≠ 3 then .trap s wrongStage
    else gLanes f [f.va.toNat] (fun _ _ => false) (fun s ls => ls.foldl (fun s l =>
      let z := vreg s.cur f.va.toNat l
      modFrag s l (fun g => { g with z := z })) s) s))

/-! ## Setup (R320 to R322) -/

/-- The rounding of (−1)^s × (n / d) × 2^e for positive n and d. -/
def Fmt.roundQuot (f : Fmt) (mode : Nat) (ftz s : Bool) (n d : Nat) (e : Int) : Nat × Fl :=
  let sh := f.m + 3 + Nat.log2 d
  f.round mode ftz s (n * 2 ^ sh / d) (e - sh) (n * 2 ^ sh % d != 0)

def f32v (x : Word) : FV := fmtF32.value x.toNat
def f32r (r : Nat × Fl) : Word := BitVec.ofNat 32 r.1

/-- A vertex after setup: X and Y with eight fraction bits, zs and rw. -/
structure SetVert where
  x  : Int
  y  : Int
  z  : Word
  rw : Word
deriving DecidableEq, Repr

/-- Magnitude below 32,768, and a number. -/
def inScreen (x : Word) : Bool := (f32v x).abs.lt (.fin false 32768 0) 

/-- Setup of one vertex (R320); none: it voids every primitive that uses it. -/
def setupVert (view : List Word) (p : List Word) : Option SetVert :=
  let c (i : Nat) : FV := f32v (p.getD i 0)
  let bad (v : FV) : Bool := v.isNan || v.isInf
  match c 3 with
  | .fin s m e =>
    if bad (c 0) || bad (c 1) || bad (c 2) || s || m == 0 then none
    else
      let rw := f32r (fmtF32.roundQuot 0 false false 1 m (-e))
      let go (i : Nat) : Word :=
        f32r (fFma fmtF32 0 false (f32v (view.getD (2 * i) 0)) (f32v (f32r (fMul fmtF32 0 false (c i) (f32v rw)))) (f32v (view.getD (2 * i + 1) 0)))
      let xs := go 0; let ys := go 1; let zs := go 2
      let fix (x : Word) : Int := match f32v x with
        | .fin s m e => (toIntFV 0 (-(2 ^ 40)) (2 ^ 40) (.fin s m (e + 8))).1
        | _ => 0
      if !inScreen xs || !inScreen ys || (f32v zs).isNan then none
      else some { x := fix xs, y := fix ys, z := zs, rw := rw }
  | _ => none

/-- E_ab(P) (R321). -/
def edgeFn (ax ay bx by_ px py : Int) : Int := (bx - ax) * (py - ay) - (by_ - ay) * (px - ax)

/-- Dies that own a tile of a rectangle. -/
def tileOwner (p : Pass) (tx ty : Nat) : Nat := p.tot.getD (ty * (p.width / 64 + 1) + tx) 255
def rectTiles (t : List Nat) : List (Nat × Nat) :=
  let x0 := t.getD 0 0; let y0 := t.getD 1 0; let x1 := t.getD 2 0; let y1 := t.getD 3 0
  (List.range (y1 + 1 - y0)).flatMap (fun j => (List.range (x1 + 1 - x0)).map (fun i => (x0 + i, y0 + j)))
def rectOwners (p : Pass) (t : List Nat) : List Nat := (distinct ((rectTiles t).map (fun e => tileOwner p e.1 e.2))).filter (· != 255)

/-- Setup of one primitive of a meshlet (R321, R322); none: it is void. -/
def setupPrim (p : Pass) (m : Meshlet) (src draw ord : Nat) (w : Word) : Option Rec :=
  let vs := [field w 7 0, field w 15 8, field w 23 16]
  let at_ (i : Nat) : Option SetVert := (NMap.get none m.pos (vs.getD i 0)).bind (setupVert p.view)
  match at_ 0, at_ 1, at_ 2 with
  | some a, some b, some c =>
    let area := edgeFn a.x a.y b.x b.y c.x c.y
    let front := if p.front = 0 then decide (0 < area) else decide (area < 0)
    let x0 := max 0 (min a.x (min b.x c.x) / 256); let x1 := min (p.width : Int) (max a.x (max b.x c.x) / 256)
    let y0 := max 0 (min a.y (min b.y c.y) / 256); let y1 := min (p.height : Int) (max a.y (max b.y c.y) / 256)
    if w.getLsbD 31 || area = 0 || (p.cull == 1 && !front) || (p.cull == 2 && front) || decide (x1 < x0) || decide (y1 < y0) then none
    else
      let n := m.slots
      let attrs := vs.flatMap (fun v => (List.range n).map (fun k => (NMap.get none m.attr (32 * v + k)).getD 0))
      some { draw := draw, prim := ord, xy := [a.x, a.y, b.x, b.y, c.x, c.y], z := [a.z, b.z, c.z], rw := [a.rw, b.rw, c.rw]
             attrs := attrs, nattr := n, face := front, tiles := [x0.toNat / 64, y0.toNat / 64, x1.toNat / 64, y1.toNat / 64], src := src }
  | _, _, _ => none

/-- The records of a meshlet's first c primitives, ascending. -/
def setupAll (p : Pass) (b : Block) (c : Nat) : List Rec :=
  (List.range c).filterMap (fun k => (NMap.get none b.mesh.prim k).bind (setupPrim p b.mesh b.die b.draw (b.prim + k)))

/-- The open pass holds the block's draw as a draw of its launch. -/
def passHolds (s : State) (b : Block) : Option Pass :=
  match s.parlour.pass with
  | none => none
  | some p => if p.draws.any (fun d => d.lid == b.lid && d.ord == b.draw && !d.ended) then some p else none

/-- Send messages. -/
def send (s : State) (l : List Msg) : State := { s with fabric := { s.fabric with msgs := s.fabric.msgs ++ l } }

/-- The block's marks to every owner (R323). -/
def sendBlockMarks (s : State) (b : Block) : State :=
  match passHolds s b with
  | none => s
  | some p => send s (p.owners.map (fun o => .mark 1 b.die o b.draw b.prim 0 b.bid))

/-- Commit a meshlet with c primitives: its records to their owners, then the block's marks (R234, R320 to R323). -/
def commitMesh (s : State) (c : Nat) : State :=
  let s := modMesh s (fun x => { x with done := true })
  let b := curBlock s
  match passHolds s b with
  | none => s
  | some p => sendBlockMarks (send s ((setupAll p b c).flatMap (fun r => (rectOwners p r.tiles).map (fun o => .record b.die o r b.bid)))) b

def execGDone (f : SYS) (s : State) : Host.Outcome State Fault Refusal :=
  ok (issue (.gDone f) s (fun s =>
    let c := field (sreg s.cur f.sa.toNat) 8 0
    if stageOf s ≠ 2 then .trap s wrongStage
    else if 256 < c then .trap s (badIndex none)
    else
      let first := !(curBlock s).mesh.done
      let s := addOp s f.fs { i := .gDone f, mask := execM s.cur 0, arg := [if first then 1 else 0] }
      .done (if first then commitMesh s c else s)))

/-- A message of a block's meshlet that has not left its die. -/
def fromBlock (bid : Nat) : Msg → Bool
  | .record _ _ _ b => b == bid
  | .mark 1 _ _ _ _ _ b => b == bid
  | _ => false

/-- The block's records and marks have left its die, none of them refused (R234, R325). -/
def meshSent (s : State) (bid : Nat) : Bool := !s.fabric.msgs.any (fromBlock bid) && !s.parlour.refused.any (fromBlock bid)

end Sys2Proof.Machine
end

