-- ==== Sys2Proof/Machine/Texture.lean ====
section
/-! DEFINITION. The texture instructions (R236 to R239). -/

namespace Sys2Proof.Machine

/-! ## The descriptor (R236) -/

/-- The fields of a texture descriptor. -/
structure Tex where
  bias   : Int
  lpitch : Nat
  rpitch : Nat
  wrapv  : Nat
  wrapu  : Nat
  filter : Nat
  fmt    : Nat
  layers : Nat
  levels : Nat
  height : Nat
  width  : Nat
  base   : Nat
deriving DecidableEq, Repr

def texOf (x : Nat) : Tex :=
  { bias := (BitVec.ofNat 16 (bitsOf x 207 192)).toInt, lpitch := bitsOf x 191 160, rpitch := bitsOf x 159 128
    wrapv := bitsOf x 121 120, wrapu := bitsOf x 119 118, filter := bitsOf x 117 116, fmt := bitsOf x 115 112
    layers := bitsOf x 106 96, levels := bitsOf x 95 92, height := bitsOf x 91 78, width := bitsOf x 77 64, base := bitsOf x 63 0 }

/-- Bytes of a texel. -/
def texBpp (fmt : Nat) : Nat := match fmt with | 0 => 4 | 1 => 8 | 2 => 16 | 3 => 4 | 4 => 1 | _ => 4

/-- The descriptor breaks a rule (R236): ROWPITCH is held against WIDTH, the field. -/
def badTex (x : Nat) : Bool :=
  let t := texOf x
  bitsOf x 255 208 != 0 || bitsOf x 127 122 != 0 || bitsOf x 111 107 != 0 || t.filter == 3 || decide (6 ≤ t.fmt)
    || decide (14 < t.levels) || t.rpitch % 16 != 0 || decide (t.rpitch < t.width * texBpp t.fmt) || t.base % 256 != 0

/-! ## Levels and texels (R237) -/

def texW (t : Tex) (l : Nat) : Nat := max 1 ((t.width + 1) / 2 ^ l)
def texH (t : Tex) (l : Nat) : Nat := max 1 ((t.height + 1) / 2 ^ l)
def texPitch (t : Tex) (l : Nat) : Nat := if l = 0 then t.rpitch else 16 * ((texW t l * texBpp t.fmt + 15) / 16)
def texSize (t : Tex) (l : Nat) : Nat := (texPitch t l * texH t l + 255) / 256 * 256

/-- The address of texel (x, y) of a layer and level. -/
def texAddr (t : Tex) (x y layer l : Nat) : Nat :=
  t.base + 256 * t.lpitch * layer + ((List.range l).map (texSize t)).sum + y * texPitch t l + x * texBpp t.fmt

/-- Where an index lands on an extent; none: the border. -/
def wrapIdx (mode : Nat) (i : Int) (n : Nat) : Option Nat :=
  match mode with
  | 0 => some (i % n).toNat
  | 1 => some (sat i 0 (n - 1)).toNat
  | 2 => let m := (i % (2 * n)).toNat; some (if m < n then m else 2 * n - 1 - m)
  | _ => if i < 0 ∨ (n : Int) ≤ i then none else some i.toNat

/-- The four channels of a texel's bytes as values over a common denominator: 255 for the unorm formats. -/
def texDen (fmt : Nat) : Nat := if fmt = 0 ∨ fmt = 4 then 255 else 1
def texChannels (fmt : Nat) (d : List Byte) : List FV :=
  let n (i k : Nat) : Nat := bytesVal ((d.drop i).take k)
  let i (x : Nat) : FV := .fin false x 0
  match fmt with
  | 0 => [i (n 0 1), i (n 1 1), i (n 2 1), i (n 3 1)]
  | 1 => [fmtF16.value (n 0 2), fmtF16.value (n 2 2), fmtF16.value (n 4 2), fmtF16.value (n 6 2)]
  | 2 => [fmtF32.value (n 0 4), fmtF32.value (n 4 4), fmtF32.value (n 8 4), fmtF32.value (n 12 4)]
  | 3 => [fmtF32.value (n 0 4), i 0, i 0, i 1]
  | 4 => [i (n 0 1), i 0, i 0, i 255]
  | _ => [fmtF16.value (n 0 2), fmtF16.value (n 2 2), i 0, i 1]

/-- A value over the denominator, rounded once to FP32. -/
def texRound (den : Nat) : FV → Word
  | .fin s m e => if m = 0 ∨ den = 1 then f32r (fmtF32.round 0 false s m e) else f32r (fmtF32.roundQuot 0 false s m den e)
  | v => f32r (fmtF32.ofValue 0 false v)

/-- A part of a sample: a wrapped texel place, or the border, with its weight in units of 1/2^24. -/
structure Tap where
  place  : Option (Nat × Nat × Nat)
  weight : Nat
deriving DecidableEq, Repr

/-- n × 256 rounded to an integer, ties to even, for the dyadic n = m × 2^e below 1: q8 (R238). -/
def q8 (m : Nat) (e : Int) : Nat := (roundAt 0 false m (e + 8) 0 false).1

/-- A finite value less one half, scaled by an extent: its floor and q8 of the rest, carried (R238). -/
def texCoord (v : FV) (n : Nat) (half : Bool) : Int × Nat :=
  match v with
  | .fin s m e =>
    let b := min e (-1)
    let x : Int := FV.at b (.fin s (m * n) e) - (if half then 2 ^ (-1 - b).toNat else 0)
    let one : Int := 2 ^ (-b).toNat
    let i := x / one
    let a := q8 (x % one).toNat b
    if a = 256 then (i + 1, 0) else (i, a)
  | _ => (0, 0)

/-- floor of a dyadic value. -/
def texFloor (v : FV) (n : Nat) : Int :=
  match v with
  | .fin s m e => let b := min e 0; FV.at b (.fin s (m * n) e) / 2 ^ (-b).toNat
  | _ => 0

/-- lam (R238) in units of 2^−b and b. -/
def texLam (t : Tex) (lod : FV) : Int × Nat :=
  match lod with
  | .inf s => (if s then 0 else t.levels, 0)
  | .fin s m e =>
    let b := min e (-8)
    let k := (-b).toNat
    (sat (FV.at b (.fin s m e) + t.bias * 2 ^ (k - 8)) 0 (t.levels * 2 ^ k), k)
  | .nan _ => (sat (t.bias) 0 (t.levels * 2 ^ 8), 8)

/-- The bilinear taps of a level with a weight of w/256. -/
def bilinear (t : Tex) (u v : FV) (l w : Nat) : List Tap :=
  let (i, a) := texCoord u (texW t l) true
  let (j, b) := texCoord v (texH t l) true
  let tap (di dj : Int) (wt : Nat) : Tap :=
    { place := (wrapIdx t.wrapu (i + di) (texW t l)).bind (fun x => (wrapIdx t.wrapv (j + dj) (texH t l)).map (fun y => (x, y, l)))
      weight := wt * w }
  [tap 0 0 ((256 - a) * (256 - b)), tap 1 0 (a * (256 - b)), tap 0 1 ((256 - a) * b), tap 1 1 (a * b)]

/-- The taps of a sample (R238). -/
def texTaps (t : Tex) (u v lod : FV) : List Tap :=
  let (lam, k) := texLam t lod
  let near := ((2 * lam + 2 ^ k) / 2 ^ (k + 1)).toNat
  match t.filter with
  | 0 =>
    let i := texFloor u (texW t near); let j := texFloor v (texH t near)
    [{ place := (wrapIdx t.wrapu i (texW t near)).bind (fun x => (wrapIdx t.wrapv j (texH t near)).map (fun y => (x, y, near))), weight := 2 ^ 24 }]
  | 1 => bilinear t u v near 256
  | _ =>
    let l0 := (lam / 2 ^ k).toNat
    let f := q8 (lam % 2 ^ k).toNat (-(k : Int))
    let (l0, f) := if f = 256 then (l0 + 1, 0) else (l0, f)
    bilinear t u v l0 (256 - f) ++ bilinear t u v (min (l0 + 1) t.levels) f

/-- Operand word i of a lane, and the layer that it names. -/
def texWord (a : Acc) (i : Nat) : Word := BitVec.ofNat 32 (bytesVal ((a.data.drop (4 * i)).take 4))
def texLayer (t : Tex) (a : Acc) : Nat := min (texWord a 2).toNat t.layers

/-- The texel that a lane of `tx.ld` reads, if it lies inside its level; the taps of a lane of `tx.smp`, none where a coordinate is no number. -/
def texFetch (t : Tex) (a : Acc) : Option (Nat × Nat × Nat) :=
  let x := (texWord a 0).toNat; let y := (texWord a 1).toNat; let l := (texWord a 3).toNat
  if t.levels < l ∨ texW t l ≤ x ∨ texH t l ≤ y then none else some (x, y, l)
def texSample (t : Tex) (a : Acc) : Option (List Tap) :=
  let u := f32v (texWord a 0); let v := f32v (texWord a 1)
  if u.isNan || u.isInf || v.isNan || v.isInf then none else some ((texTaps t u v (f32v (texWord a 3))).filter (fun p => p.weight != 0))

/-- The addresses of the texels that a lane reads. -/
def texReads (i : Instr) (t : Tex) (a : Acc) : List Nat :=
  let at_ (p : Nat × Nat × Nat) : Nat := texAddr t p.1 p.2.1 (texLayer t a) p.2.2
  match i with
  | .txLd _ => ((texFetch t a).map at_).toList
  | .txSmp _ => ((texSample t a).getD []).filterMap (fun p => p.place.map at_)
  | _ => []

/-- Issue a texture instruction: the descriptor is read now, as `shp.set` reads its image; each lane's operand registers go with
it. -/
def issueTex (f : SYS) (i : Instr) (regs : List Nat) (s : State) : Res :=
  let a := (sreg s.cur f.sa.toNat).toNat % 2 ^ 32
  if a % 32 ≠ 0 then .trap s { cause := 7, addr := a }
  else match teamVault s a 32 with
    | none => .trap s { cause := 8, addr := firstBad s a 32 }
    | some k =>
      let (d, s) := readVault s k 32
      if anyPois d then .done (killBy s (instrPc (clauseOf s)) k)
      else
        let x := bytesVal (plain d)
        if badTex x then .trap s { cause := 3, detail := 0xB, addr := a }
        else
          let m := execM s.cur f.pred.toNat
          let (e, s) := consume s ((lanesOf m s.cur.width).flatMap (fun l => regs.map (fun r => (l, r, l))))
          let act := m &&& ~~~ e.lanes
          let acc := (lanesOf act s.cur.width).map (fun l =>
            ({ lane := l, mt := vaultMt, done := true, data := regs.flatMap (fun r => valBytes 4 (vreg s.cur r l).toNat) } : Acc))
          .done (dieOff (addOp s f.fs { i := i, stream := (curLaunch s).d.stream, scope := 4, mask := act, acc := acc
                                        reads := acc.flatMap (fun a => (texReads i (texOf x) a).map (fun va => (a.lane, va)))
                                        sc := (List.range 4).map (fun j => BitVec.ofNat 64 (x / 2 ^ (64 * j))) }) e (instrPc (clauseOf s)))

def execTxSmp (f : SYS) (s : State) : Host.Outcome State Fault Refusal :=
  ok (issue (.txSmp f) s (issueTex f (.txSmp f) (regRun f.va.toNat 3 ++ [f.vb.toNat])))
def execTxLd (f : SYS) (s : State) : Host.Outcome State Fault Refusal :=
  ok (issue (.txLd f) s (issueTex f (.txLd f) (regRun f.va.toNat 3 ++ [f.vb.toNat])))
def execTxDim (f : SYS) (s : State) : Host.Outcome State Fault Refusal :=
  ok (issue (.txDim f) s (issueTex f (.txDim f) [f.vb.toNat]))

/-! ## Reading for a query (R221, R237, R248) -/

/-- The bytes of a piece that an operation of the current team has read for a lane. -/
def heldPiece (s : State) (id lane va : Nat) : Option (List PByte) :=
  ((s.cur.ops.find? (fun o => o.id == id)).bind (fun o => o.held.find? (fun h => h.lane == lane && h.va == va))).map (·.d)

/-- A lane of a query reads a piece through the L1 of its cell, once; or what stops it. -/
def queryRead (s : State) (id lane pc va n : Nat) : (Stop ⊕ List PByte) × State :=
  let ck := laneCk s.cur lane
  let fault (c d a : Nat) : Stop ⊕ List PByte := .inl (.fault { cause := c, detail := d, addr := a, lane := some lane, replay := true })
  match heldPiece s id lane va with
  | some d => (.inr d, s)
  | none =>
    if 2 ^ 56 ≤ va then (fault 9 1 (va % 2 ^ 64), s)
    else match opTransl s id ck va with
      | .miss => (.inl (.wait ck va), s)
      | .fail => (fault 9 3 va, s)
      | .hit lf => match permFault lf .read (curLaunch s).d.priv with
        | some d => (fault 10 d va, s)
        | none =>
          let pa := leafPa lf va
          let (d, missed, s) := readThrough s ck pa n 0 lf.mt
          let s := if missed then allocate s ck pc (pa / 128) (lineWords pa n) 0 lf.mt else s
          (.inr d, modCur s (fun t => modOp t id (fun o => { o with held := o.held ++ [{ lane := lane, va := va, d := d }] })))

/-- The pieces that a query has read in coming to a state, beside those that it held before. -/
def newPieces (u : State) (o : Op) : List Held := (((u.cur.ops.find? (fun p => p.id == o.id)).map (·.held)).getD []).drop o.held.length

/-- Part k of a query that is not performed: it is performed whole, with what that gave put where it belongs; or it reads one of the pieces that
it would read. -/
def queryStep {α : Type} (s : State) (o : Op) (r : (Stop ⊕ α) × State) (hold : State → α → State) (k : Nat) : Option State :=
  match k with
  | 0 => some (match r with
    | (.inl x, u) => stopOp s u o x
    | (.inr l, u) => hold u l)
  | k + 1 => ((newPieces r.2 o)[k]?).map (fun h => (queryRead s o.id h.lane o.pc h.va h.d.length).2)

/-- Read taps: the channels of each with its weight and poison. -/
def readTaps (o : Op) (t : Tex) (a : Acc) : State → List Tap → (Stop ⊕ List (List FV × Nat × Bool)) × State
  | s, [] => (.inr [], s)
  | s, p :: r =>
    let z : FV := .fin false 0 0
    let (x, s) : (Stop ⊕ (List FV × Bool)) × State := match p.place with
      | none => (.inr ([z, z, z, z], false), s)
      | some (x, y, l) => match queryRead s o.id a.lane o.pc (texAddr t x y (texLayer t a) l) (texBpp t.fmt) with
        | (.inl e, s) => (.inl e, s)
        | (.inr d, s) => (.inr (texChannels t.fmt (plain d), anyPois d), s)
    match x with
    | .inl e => (.inl e, s)
    | .inr (c, b) => match readTaps o t a s r with
      | (.inl e, s) => (.inl e, s)
      | (.inr l, s) => (.inr ((c, p.weight, b) :: l), s)

/-- The exact weighted sum of one channel, rounded once (R238). -/
def texSum (den : Nat) (l : List (List FV × Nat × Bool)) (c : Nat) : Word :=
  texRound den (sumFV 0 (l.map (fun e => (mulFV (e.1.getD c (.fin false 0 0)) (.fin false e.2.1 (-24))).1))).1

/-- The words that a lane receives, or what stops it. -/
def texLane (s : State) (o : Op) (t : Tex) (a : Acc) : (Stop ⊕ (List Word × Bool)) × State :=
  let zero : List Word := [0, 0, 0, 0]
  match o.i with
  | .txDim _ =>
    let l := (texWord a 0).toNat
    (.inr (if t.levels < l then zero else
      [BitVec.ofNat 32 (texW t l), BitVec.ofNat 32 (texH t l), BitVec.ofNat 32 (t.levels + 1), BitVec.ofNat 32 (t.layers + 1)], false), s)
  | .txLd _ => match texFetch t a with
    | none => (.inr (zero, false), s)
    | some (x, y, l) => match queryRead s o.id a.lane o.pc (texAddr t x y (texLayer t a) l) (texBpp t.fmt) with
      | (.inl e, s) => (.inl e, s)
      | (.inr d, s) =>
        let raw (i : Nat) : Word := BitVec.ofNat 32 (bytesVal (((plain d).drop (4 * i)).take 4))
        (.inr (match t.fmt with
          | 2 => [raw 0, raw 1, raw 2, raw 3]
          | 3 => [raw 0, 0, 0, 0x3F800000]
          | _ => (texChannels t.fmt (plain d)).map (texRound (texDen t.fmt)), anyPois d), s)
  | _ => match texSample t a with
    | none => (.inr (zero, false), s)
    | some ps => match readTaps o t a s ps with
      | (.inl e, s) => (.inl e, s)
      | (.inr l, s) => (.inr ((List.range 4).map (texSum (texDen t.fmt) l), l.any (fun e => e.2.2)), s)

/-- Every lane's words, ascending; the first that is stopped ends it. -/
def texLanes (o : Op) (t : Tex) : List Acc → State → (Stop ⊕ List (Nat × List Word × Bool)) × State
  | [], s => (.inr [], s)
  | a :: r, s => match texLane s o t a with
    | (.inl e, s) => (.inl e, s)
    | (.inr (w, b), s) => match texLanes o t r s with
      | (.inl e, s) => (.inl e, s)
      | (.inr l, s) => (.inr ((a.lane, w, b) :: l), s)

/-- Write n words of each lane to vd onward, or poison (R363). -/
def putWords (s : State) (vd : Nat) (n : Nat) (l : List (Nat × List Word × Bool)) : State :=
  modCur (prepDest s (regRun vd n) (maskOf (l.map (·.1)))) (deliverRegs (fun r => l.foldl (fun r e =>
    if e.2.2 then poisonRegs vd n e.1 false r
    else (List.range n).foldl (fun r j => r.vset (vd + j) e.1 (e.2.1.getD j 0)) r) r))

/-- The words of a result that are not delivered yet. -/
def owedWords (o : Op) (vd n : Nat) (l : List (Nat × List Word × Bool)) : List Give :=
  (l.flatMap (fun e => (List.range n).map (fun j =>
    ({ lane := e.1, reg := vd + j, val := (e.2.1.getD j 0).toNat, pois := e.2.2 } : Give)))).filter (fun w => !o.gave.contains w.key)

/-- The lanes of a result that receive words: where a poisoned result is consumed, the others (R363). -/
def takers (kill : Bool) (l : List (Nat × List Word × Bool)) : List (Nat × List Word × Bool) := if kill then l.filter (!·.2.2) else l

/-- What a result has not delivered goes into registers, and the operation ends: with `kill`, a lane whose result uses poison dies, and
receives nothing (R363). -/
def finishWords (s : State) (o : Op) (vd n : Nat) (kill : Bool) (l : List (Nat × List Word × Bool)) : State :=
  let good := takers kill l
  let s := if o.gave.isEmpty then putWords s vd n good
    else
      let ws := owedWords o vd n good
      modCur (prepDest s (distinct (ws.map (·.reg))) (maskOf (ws.map (·.lane)))) (deliverRegs (fun r => ws.foldl Give.put r))
  let bad := (if kill then l.filter (·.2.2) else []).map (·.1)
  modCur (if bad.isEmpty then s else killLanes s (maskOf bad) o.pc 0) (fun t => retireOp t o)

/-- A result has come: its words are delivered one by one, or as the operation completes (R81). -/
def holdWords (s : State) (o : Op) (l : List (Nat × List Word × Bool)) : State :=
  modCur s (fun t => modOp t o.id (fun o => { o with ready := some l, held := [] }))

/-- The k-th word of a result that is still owed. -/
def giveNth (s : State) (o : Op) (vd n : Nat) (kill : Bool) (l : List (Nat × List Word × Bool)) (k : Nat) : Option State :=
  ((owedWords o vd n (takers kill l))[k]?).map (fun w => giveWord o w s)

/-- The lanes of `tx.smp` and `tx.dim` consume poison, those of `tx.ld` receive it (R363). -/
def texKills : Instr → Bool
  | .txLd _ => false
  | _ => true

/-- The result of a texture operation. -/
def texResult (s : State) (o : Op) : (Stop ⊕ List (Nat × List Word × Bool)) × State :=
  match o.ready with
  | some l => (.inr l, s)
  | none => texLanes o (texOf (o.sc.foldr (fun w x => w.toNat + 2 ^ 64 * x) 0)) o.acc s

/-- A texture operation completes, or its fault is deferred and it writes nothing (R221, R239), or it asks for a walk. -/
def completeTex (s : State) (o : Op) (f : SYS) : State :=
  match texResult s o with
  | (.inl x, u) => stopOp s u o x
  | (.inr l, s) => finishWords s o f.vd.toNat 4 (texKills o.i) l

/-- A texture operation reads one texel, or is performed whole and holds its result, or delivers a word of it. -/
def texPart (s : State) (o : Op) (f : SYS) (k : Nat) : Option State :=
  match o.ready with
  | some l => giveNth s o f.vd.toNat 4 (texKills o.i) l k
  | none => queryStep s o (texResult s o) (fun u l => holdWords u o l) k

end Sys2Proof.Machine
end

