-- ==== Sys2Proof/Machine/Ray.lean ====
section
/-! DEFINITION. The ray instructions (R240 to R244): nodes and leaves, the watertight test, traversal, queries. -/

namespace Sys2Proof.Machine

/-! ## Exact fractions -/

/-- n / d with d positive. -/
abbrev Frac := Int × Nat

def Frac.le (a b : Frac) : Bool := decide (a.1 * b.2 ≤ b.1 * a.2)
def Frac.sub (a b : Frac) : Frac := (a.1 * b.2 - b.1 * a.2, a.2 * b.2)
/-- a / b for b not 0. -/
def Frac.div (a b : Frac) : Frac := if b.1 < 0 then (-(a.1 * b.2), a.2 * b.1.natAbs) else (a.1 * b.2, a.2 * b.1.natAbs)
/-- A finite value as a fraction. -/
def fracOf : FV → Option Frac
  | .fin s m e =>
    let x : Int := if s then -m else m
    some (if 0 ≤ e then (x * 2 ^ e.toNat, 1) else (x, 2 ^ (-e).toNat))
  | _ => none
def fracPow (n : Nat) (e : Int) : Frac := if 0 ≤ e then (n * 2 ^ e.toNat, 1) else (n, 2 ^ (-e).toNat)
def Frac.add (a b : Frac) : Frac := (a.1 * b.2 + b.1 * a.2, a.2 * b.2)

/-! ## FP32 operations (R243) -/

/-- The quotient of two values, rounded once. -/
def f32Quot (a b : FV) : FV :=
  match a, b with
  | .nan _, _ => .nan false
  | _, .nan _ => .nan false
  | .inf _, .inf _ => .nan false
  | .inf s, _ => .inf (s != b.neg?)
  | _, .inf t => .fin (a.neg? != t) 0 0
  | .fin s m e, .fin t n g =>
    if n = 0 then (if m = 0 then .nan false else .inf (s != t))
    else if m = 0 then .fin (s != t) 0 0
    else f32v (f32r (fmtF32.roundQuot 0 false (s != t) m n (e - g)))

def f32Mul (a b : FV) : FV := f32v (f32r (fMul fmtF32 0 false a b))
def f32Add (a b : FV) : FV := f32v (f32r (fAdd fmtF32 0 false a b))
def f32Sub (a b : FV) : FV := f32Add a b.negate
/-- The FP32 word of a value that FP32 holds. -/
def f32w (v : FV) : Word := f32r (fmtF32.ofValue 0 false v)
/-- x × y − z × w without rounding. -/
def exactDet (x y z w : FV) : FV := (sumFV 0 [(mulFV x y).1, ((mulFV z w).1).negate]).1

def FV.le (a b : FV) : Bool := !a.isNan && !b.isNan && !b.lt a
def FV.pos (v : FV) : Bool := !v.isNan && !v.isZero && !v.neg?
def FV.negv (v : FV) : Bool := !v.isNan && !v.isZero && v.neg?

/-- The ray of a query: o, d, tmin, tmax. -/
def rayO (q : RayQ) (i : Nat) : FV := f32v (q.ray.getD i 0)
def rayD (q : RayQ) (i : Nat) : FV := f32v (q.ray.getD (3 + i) 0)
def rayMin (q : RayQ) : FV := f32v (q.ray.getD 6 0)
def rayMax (q : RayQ) : FV := f32v (q.ray.getD 7 0)

/-- The ray misses whatever it meets (R242). -/
def rayDead (q : RayQ) : Bool := (List.range 8).any (fun i => (f32v (q.ray.getD i 0)).isNan) || (List.range 3).all (fun i => (rayD q i).isZero)

/-- The axis of the largest |d|, the lowest of equals. -/
def rayAxis (q : RayQ) : Nat :=
  let a (i : Nat) : FV := (rayD q i).abs
  let k := if (a 0).lt (a 1) then 1 else 0
  if (a k).lt (a 2) then 2 else k

/-- The watertight test of a triangle (R243): t, u, v and whether it is front-facing. -/
def triTest (q : RayQ) (vs : List Word) : Option (Word × Word × Word × Bool) :=
  let kz := rayAxis q
  let dz := rayD q kz
  let k1 := (kz + 1) % 3; let k2 := (k1 + 1) % 3
  let swap := dz.negv
  let kx := if swap then k2 else k1; let ky := if swap then k1 else k2
  let sx := f32Quot (rayD q kx) dz; let sy := f32Quot (rayD q ky) dz; let sz := f32Quot (.fin false 1 0) dz
  let p (i k : Nat) : FV := f32Sub (f32v (vs.getD (3 * i + k) 0)) (rayO q k)
  let px (i : Nat) : FV := f32Sub (p i kx) (f32Mul sx (p i kz))
  let py (i : Nat) : FV := f32Sub (p i ky) (f32Mul sy (p i kz))
  let pz (i : Nat) : FV := f32Mul sz (p i kz)
  let det2 (x y z w : FV) : FV := f32Sub (f32Mul x y) (f32Mul z w)
  let u := det2 (px 2) (py 1) (py 2) (px 1); let v := det2 (px 0) (py 2) (py 0) (px 2); let w := det2 (px 1) (py 0) (py 1) (px 0)
  let ex := u.isZero || v.isZero || w.isZero
  let u := if ex then exactDet (px 2) (py 1) (py 2) (px 1) else u
  let v := if ex then exactDet (px 0) (py 2) (py 0) (px 2) else v
  let w := if ex then exactDet (px 1) (py 0) (py 1) (px 0) else w
  let l := [u, v, w]
  let det := f32Add (f32Add u v) w
  if (l.any FV.negv && l.any FV.pos) || det.isZero then none
  else
    let num := (sumFV 0 [(mulFV u (pz 0)).1, (mulFV v (pz 1)).1, (mulFV w (pz 2)).1]).1
    some (f32w (f32Quot num det), f32w (f32Quot v det), f32w (f32Quot w det), det.pos)

/-- The hit lies in the interval, and its key is below the committed one (R244). -/
def hitValid (q : RayQ) (h : Hit) : Bool :=
  let t := f32v h.t
  (rayMin q).le t && t.le (rayMax q) && (match q.commit with
    | none => true
    | some c => t.lt (f32v c.t) || (t.eqv (f32v c.t) && decide (h.leaf < c.leaf)))

/-! ## Nodes and leaves (R240, R241) -/

/-- A child's box meets the exact segment from tmin to the current limit; values that are no numbers of the line keep the
child. -/
def boxMet (q : RayQ) (node c : Nat) : Bool :=
  let n8 (i : Nat) : Nat := node / 2 ^ (320 + 48 * c + 8 * i) % 256
  let lim : FV := match q.commit with | some h => f32v h.t | none => rayMax q
  let axis (k : Nat) : Option (Option (Frac × Frac)) :=
    let org := f32v (BitVec.ofNat 32 (node / 2 ^ (32 * k)))
    let e := (BitVec.ofNat 8 (node / 2 ^ (96 + 8 * k))).toInt
    match fracOf org, fracOf (rayO q k), fracOf (rayD q k) with
    | some g, some o, some d =>
      let lo := (g.add (fracPow (n8 k) e)).sub o; let hi := (g.add (fracPow (n8 (3 + k)) e)).sub o
      if d.1 = 0 then (if lo.1 ≤ 0 ∧ 0 ≤ hi.1 then none else some none)
      else some (some (if 0 < d.1 then (lo.div d, hi.div d) else (hi.div d, lo.div d)))
    | _, _, _ => none
  let ax := [axis 0, axis 1, axis 2]
  if ax.contains (some none) then false
  else
    let iv := ax.filterMap (fun a => a.bind id)
    let los := iv.map (·.1) ++ (fracOf (rayMin q)).toList
    let his := iv.map (·.2) ++ (fracOf lim).toList
    los.all (fun a => his.all (fun b => a.le b))

/-- A node breaks a rule (R240). -/
def badNode (n : Nat) : Bool :=
  bitsOf n 1023 736 != 0 || bitsOf n 319 288 != 0 || bitsOf n 159 136 != 0 || bitsOf n 287 224 % 64 != 0 || bitsOf n 223 160 % 128 != 0
def badLeaf (n : Nat) : Bool := bitsOf n 511 353 != 0 || bitsOf n 351 320 != 0

/-- The children of a node that the segment meets: nodes, and leaves. -/
def nodeKids (q : RayQ) (n : Nat) : List Nat × List Nat :=
  let valid (c : Nat) : Bool := n.testBit (120 + c)
  let leaf (c : Nat) : Bool := n.testBit (128 + c)
  let cnt (c : Nat) : Nat := n / 2 ^ (704 + 4 * c) % 16 + 1
  let below (c : Nat) : List Nat := (List.range c).filter valid
  let go := (List.range 8).filter (fun c => valid c && boxMet q n c)
  ((go.filter (fun c => !leaf c)).map (fun c => bitsOf n 223 160 + 128 * ((below c).filter (fun d => !leaf d)).length),
   (go.filter leaf).flatMap (fun c =>
     let b := bitsOf n 287 224 + 64 * (((below c).filter leaf).map cnt).sum
     (List.range (cnt c)).map (fun j => b + 64 * j)))

/-- What reading gives a lane. -/
inductive RayRead where
  | stop (x : Stop)
  | poison
  | bytes (n : Nat)
deriving DecidableEq, Repr

/-- Read n bytes of a BVH in 16-byte pieces through the L1 of a lane's cell (R221, R237, R248). -/
def readBvh (s : State) (id lane pc va n : Nat) : RayRead × State :=
  let (r, s) := (List.range (n / 16)).foldl (fun (r : (Stop ⊕ List PByte) × State) j => match r with
    | (.inl x, s) => (.inl x, s)
    | (.inr d, s) => match queryRead s id lane pc (va + 16 * j) 16 with
      | (.inl x, s) => (.inl x, s)
      | (.inr e, s) => (.inr (d ++ e), s)) (.inr [], s)
  (match r with
    | .inl x => .stop x
    | .inr d => if anyPois d then .poison else .bytes (bytesVal (plain d)), s)

/-- Malformed BVH data (R240). -/
def badBvh (lane va : Nat) : Stop := .fault { cause := 3, detail := 0xC, addr := va, lane := some lane }

/-- What gathering gives: what stops it, poison, or the leaves that the segment may meet. -/
inductive Gather where
  | stop (x : Stop)
  | poison
  | leaves (l : List Nat)
deriving DecidableEq, Repr

/-- Visit the nodes that the segment meets, each once (log 83); the leaves below them. There are fewer nodes than the fuel. -/
def gatherNodes (id lane pc : Nat) (q : RayQ) : Nat → State → List Nat → List Nat → List Nat → Gather × State
  | 0, s, _, _, acc => (.leaves acc, s)
  | f + 1, s, work, met, acc => match work.filter (fun a => !met.contains a) with
    | [] => (.leaves acc, s)
    | a :: r => match readBvh s id lane pc a 128 with
      | (.stop x, s) => (.stop x, s)
      | (.poison, s) => (.poison, s)
      | (.bytes n, s) =>
        if badNode n then (.stop (badBvh lane a), s)
        else
          let (ns, ls) := nodeKids q n
          gatherNodes id lane pc q f s (ns ++ r) (a :: met) (acc ++ ls)

/-- The hits of leaves that are valid and not yet decided (R243, R244). -/
def gatherHits (id lane pc : Nat) (q : RayQ) : State → List Nat → List Hit → (RayRead ⊕ List Hit) × State
  | s, [], acc => (.inr acc, s)
  | s, a :: r, acc =>
    if q.seen.contains a then gatherHits id lane pc q s r acc
    else match readBvh s id lane pc a 64 with
      | (.bytes n, s) =>
        if badLeaf n then (.inl (.stop (badBvh lane a)), s)
        else match triTest q ((List.range 9).map (fun i => BitVec.ofNat 32 (n / 2 ^ (32 * i)))) with
          | none => gatherHits id lane pc q s r acc
          | some (t, u, v, front) =>
            let h : Hit := { leaf := a, t := t, u := u, v := v, prim := BitVec.ofNat 32 (n / 2 ^ 288), front := front, opq := n.testBit 352 }
            gatherHits id lane pc q s r (if hitValid q h && (front || !q.cullb) then acc ++ [h] else acc)
      | (x, s) => (.inl x, s)

/-! ## Queries (R242, R244) -/

/-- The four words that a status and a hit give. -/
def hitWords (st : Nat) : Option Hit → List Word
  | none => [BitVec.ofNat 32 st, 0, 0, 0]
  | some h => [BitVec.ofNat 32 st, h.t, h.prim, BitVec.ofNat 32 ((if h.front then 1 else 0) + (if h.opq then 2 else 0))]

/-- The query ends. -/
def rayEnd (q : RayQ) : RayQ :=
  { q with done := true, cand := none, res := match q.commit with | none => [0, 0, 0, 0] | some h => hitWords 1 (some h) }

/-- What a traversal gives a lane: what stops it, poison, or its query. -/
inductive RayRes where
  | stop (x : Stop)
  | poison
  | query (q : RayQ)
deriving DecidableEq, Repr

/-- More than the nodes of 128 bytes in the global address space (R34). -/
def nodeFuel : Nat := 2 ^ 49 + 1

/-- More than the leaves of 64 bytes there: each committed hit is of another leaf. -/
def rayFuel : Nat := 2 ^ 50 + 1

/-- Traverse until the query ends or a candidate is found; which of the hits still open comes first is free (log 6). -/
def rayGo (id lane pc : Nat) : Nat → State → RayQ → RayRes × State
  | 0, s, q => (.query (rayEnd q), s)
  | f + 1, s, q => match gatherNodes id lane pc q nodeFuel s [q.root] [] [] with
    | (.stop x, s) => (.stop x, s)
    | (.poison, s) => (.poison, s)
    | (.leaves ls, s) => match gatherHits id lane pc q s ls [] with
      | (.inl (.stop x), s) => (.stop x, s)
      | (.inl _, s) => (.poison, s)
      | (.inr [], s) => (.query (rayEnd q), s)
      | (.inr hs, s) =>
        let (n, s) := tick s
        let h := hs.getD ((Config.freeBits 32 n).toNat % hs.length) {}
        let q := { q with seen := h.leaf :: q.seen }
        if h.opq || q.opq then
          let q := { q with commit := some h }
          if q.first then (.query (rayEnd q), s) else rayGo id lane pc f s q
        else (.query { q with cand := some h, done := false, res := hitWords 2 (some h) }, s)

/-- A lane's query. -/
def rayOf (t : Team) (l : Nat) : RayQ := (NMap.get none t.rays l).getD {}

/-- Issue a ray instruction with each lane's operand words. -/
def issueRay (f : SYS) (i : Instr) (regs : List Nat) (root : Nat) (s : State) : Res :=
  let m := execM s.cur f.pred.toNat
  let (e, s) := consume s ((lanesOf m s.cur.width).flatMap (fun l => regs.map (fun r => (l, r, l))))
  let act := m &&& ~~~ e.lanes
  let acc := (lanesOf act s.cur.width).map (fun l =>
    ({ lane := l, mt := vaultMt, done := true, data := regs.flatMap (fun r => valBytes 4 (vreg s.cur r l).toNat) } : Acc))
  .done (dieOff (addOp s f.fs { i := i, stream := (curLaunch s).d.stream, scope := 4, mask := act, acc := acc
                                sc := [BitVec.ofNat 64 root] }) e (instrPc (clauseOf s)))

/-- `ray.trace`: the root is a multiple of 128. -/
def execRayTrace (f : SYS) (s : State) : Host.Outcome State Fault Refusal :=
  ok (issue (.rayTrace f) s (fun s =>
    let a := (sreg s.cur f.sa.toNat).toNat
    if a % 128 ≠ 0 then .trap s { cause := 7, addr := a } else issueRay f (.rayTrace f) (regRun f.va.toNat 8) a s))
def execRayCont (f : SYS) (s : State) : Host.Outcome State Fault Refusal :=
  ok (issue (.rayCont f) s (issueRay f (.rayCont f) [f.vb.toNat] 0))
def execRayHit (f : SYS) (s : State) : Host.Outcome State Fault Refusal :=
  ok (issue (.rayHit f) s (issueRay f (.rayHit f) [] 0))

/-- A lane's part of `ray.trace` or `ray.cont`. -/
def rayLane (s : State) (o : Op) (a : Acc) : RayRes × State :=
  let w (i : Nat) : Word := BitVec.ofNat 32 (bytesVal ((a.data.drop (4 * i)).take 4))
  match o.i with
  | .rayTrace f =>
    let q : RayQ := { ray := (List.range 8).map w, root := (o.sc.getD 0 0).toNat, first := f.mod.getLsbD 0, cullb := f.mod.getLsbD 1,
                      opq := f.mod.getLsbD 2, done := false }
    if rayDead q then (.query (rayEnd q), s) else rayGo o.id a.lane o.pc rayFuel s q
  | _ =>
    let q := rayOf s.cur a.lane
    match q.cand with
    | none => (.query q, s)
    | some h =>
      if w 0 = 0 then rayGo o.id a.lane o.pc rayFuel s { q with cand := none }
      else
        let q := { q with cand := none, commit := some h }
        if q.first then (.query (rayEnd q), s) else rayGo o.id a.lane o.pc rayFuel s q

/-- Every lane's query, ascending. -/
def rayLanes (o : Op) : List Acc → State → List (Nat × Option RayQ) → (Stop ⊕ List (Nat × Option RayQ)) × State
  | [], s, acc => (.inr acc, s)
  | a :: r, s, acc => match rayLane s o a with
    | (.stop x, s) => (.inl x, s)
    | (.poison, s) => rayLanes o r s (acc ++ [(a.lane, none)])
    | (.query q, s) => rayLanes o r s (acc ++ [(a.lane, some q)])

/-- The words that `ray.hit` gives a lane. -/
def rayUV (q : RayQ) : List Word := match q.cand <|> q.commit with | some h => [h.u, h.v] | none => [0, 0]

/-- The result of a ray operation, and the queries that it leaves; a fault leaves every query as it was (R221). -/
def rayResult (s : State) (o : Op) : (Stop ⊕ List (Nat × List Word × Bool)) × State :=
  match o.ready with
  | some l => (.inr l, s)
  | none => match o.i with
    | .rayHit _ => (.inr (o.acc.map (fun a => (a.lane, rayUV (rayOf s.cur a.lane), false))), s)
    | _ => match rayLanes o o.acc s [] with
      | (.inl x, s) => (.inl x, s)
      | (.inr l, s) =>
        let put (m : NMap (Option RayQ)) (e : Nat × Option RayQ) : NMap (Option RayQ) := if e.2.isSome then NMap.set none m e.1 e.2 else m
        (.inr (l.map (fun e => match e.2 with | some q => (e.1, q.res, false) | none => (e.1, [], true))),
         modCur s (fun t => { t with rays := l.foldl put t.rays }))

/-- The first destination of a ray instruction and how many each lane has. -/
def rayDest : Instr → Option (Nat × Nat)
  | .rayHit f => some (f.vd.toNat, 2)
  | .rayTrace f | .rayCont f => some (f.vd.toNat, 4)
  | _ => none

/-- A ray operation completes (R242); a lane that uses poison dies (R363). -/
def completeRay (s : State) (o : Op) : Option State :=
  (rayDest o.i).map (fun d => match rayResult s o with
    | (.inl x, u) => stopOp s u o x
    | (.inr l, s) => finishWords s o d.1 d.2 true l)

/-- A ray operation reads one piece of a node or leaf, or is performed whole and holds its result, or delivers a word of it. -/
def rayPart (s : State) (o : Op) (k : Nat) : Option State :=
  match rayDest o.i, o.ready with
  | none, _ => none
  | some d, some l => giveNth s o d.1 d.2 true l k
  | some _, none => queryStep s o (rayResult s o) (fun u l => holdWords u o l) k

/-- A texture or ray operation may be performed: nothing holds it back, and the ray operations of a team go in order. -/
def queryOpen (s : State) (o : Op) : Bool :=
  gateOpen s o && match o.i with
    | .rayTrace _ | .rayCont _ | .rayHit _ =>
      !s.cur.ops.any (fun e => decide (e.id < o.id) && e.ready.isNone && (rayDest e.i).isSome)
    | _ => true

/-- A texture or ray operation completes. -/
def completeQuery (s : State) (o : Op) : Option State :=
  if !queryOpen s o then none
  else match o.i with
    | .txSmp f | .txLd f | .txDim f => some (completeTex s o f)
    | .rayTrace _ | .rayCont _ | .rayHit _ => completeRay s o
    | _ => none

/-- A part of a texture or ray operation. -/
def queryPart (s : State) (o : Op) (k : Nat) : Option State :=
  if !queryOpen s o then none
  else match o.i with
    | .txSmp f | .txLd f | .txDim f => texPart s o f k
    | .rayTrace _ | .rayCont _ | .rayHit _ => rayPart s o k
    | _ => none

end Sys2Proof.Machine
end

