-- ==== Sys2Proof/Machine/System.lean ====
section
/-! DEFINITION. The privileged system instructions (R245 to R247), the debug registers and debug halts (R379, R380). -/

namespace Sys2Proof.Machine

/-! ## tlbi and cinv (R246) -/

/-- Issue an instruction that acts once for the team, with what it captured. -/
def issueOnce (f : SYS) (i : Instr) (sc : List DWord) (s : State) : Res :=
  .done (addOp s f.fs { i := i, stream := (curLaunch s).d.stream, mask := execM s.cur 0, sc := sc })

def execTlbi (f : SYS) (s : State) : Host.Outcome State Fault Refusal :=
  ok (issue (.tlbi f) s (fun s => issueOnce f (.tlbi f) [sreg s.cur f.sa.toNat] s))
def execCinv (f : SYS) (s : State) : Host.Outcome State Fault Refusal :=
  ok (issue (.cinv f) s (issueOnce f (.cinv f) []))

/-- A walk-cache entry lies on the path to an address (R287). -/
def onPath (va : Nat) (e : Nat × Nat × Nat) : Bool := e.2.1 == va / 2 ^ (match e.1 with | 2 => 51 | 1 => 38 | _ => 25)

/-- The effect of `tlbi` by its kind. -/
def tlbiEffect (s : State) (kind va : Nat) : State :=
  let die := s.cur.die
  let cl := clusterOf s.cur.cell
  let page := kind == 0 || kind == 1 || kind == 3
  let which (l : Leaf) : Bool := !page || covers l va
  let path (e : Nat × Nat × Nat) : Bool := !page || onPath va e
  match kind with
  | 0 => dropTlb s (fun k => k / 4608 == die && clusterOf (k % 4608) == cl) (fun k => k == die * 1152 + cl) (fun d => d == die) which path
  | 1 | 2 => dropTlb s (fun k => k / 4608 == die) (fun k => k / 1152 == die) (fun d => d == die) which path
  | _ => dropTlb s (fun k => isLive s (k / 4608)) (fun k => isLive s (k / 1152)) (fun d => isLive s d) which path

/-- The effect of `cinv` by its kind: the L1 of the issuing cell, of the die's cells, the instruction caches of the die, of the panel. -/
def cinvEffect (s : State) (kind : Nat) : State :=
  let die := s.cur.die
  let mine := cellsOf s.cur
  { s with cells := s.cells.map (fun e =>
      let here := e.1 / 4608 == die
      match kind with
      | 0 => if here && mine.contains (e.1 % 4608) then (e.1, { e.2 with l1 := [] }) else e
      | 1 => if here then (e.1, { e.2 with l1 := [] }) else e
      | 2 => if here then (e.1, { e.2 with ic := [] }) else e
      | _ => if isLive s (e.1 / 4608) then (e.1, { e.2 with ic := [] }) else e) }

/-! ## sleep (R247) -/

/-- `sleep`: it goes on at once for a count of 0, otherwise once its count has run out. -/
def execSleep (f : SYS) (s : State) : Host.Outcome State Fault Refusal :=
  ok (issue (.sleep f) s (fun s =>
    if (sreg s.cur f.sa.toNat).toNat % 2 ^ 32 = 0 || s.cur.slept then .done s else .stall s))

/-- The instruction at which a team stands in its clause. -/
def currentInstr (t : Team) : Option Instr := t.clause.bind (fun c => decode (c.words.getD c.idx 0))

/-- SLEEP_EXPIRY: the count of a team that sleeps runs out. -/
def execSleepExpiry (tid : Nat) (s : State) : Host.Outcome State Fault Refusal :=
  ok (match team? s tid with
    | some t => if t.status == .running && t.stalled && (match currentInstr t with | some (.sleep _) => true | _ => false)
        then modTeam s tid (fun t => { t with slept := true }) else s
    | none => s)

/-! ## Debug halts (R380) -/

/-- Die d starts to halt: it sends a notice to every live die of the DIES of each launch active on it. -/
def haltStart (s : State) (d : Nat) : State :=
  let k := dieOf s d
  if k.halted || k.halting || !isLive s d then s
  else
    let ds := distinct (k.active.flatMap (fun lid => (List.range 144).filter (fun x => (launchOf s lid).d.dies.testBit x && isLive s x)))
    send (modDie s d (fun k => { k with halting := true, notices := ds, acked := [], haltby := none })) (ds.map (fun x => .notice d x))

/-- Change every listed die. -/
def mapDies (s : State) (f : Die → Die) : State := { s with dies := s.dies.map (fun e => (e.1, f e.2)) }

/-- A halt is released: the watchdogs that it suspended go on (R380, R381). -/
def haltRelease (s : State) (d : Nat) : State :=
  let k := dieOf s d
  if !k.halted && !k.halting then s
  else
    let s := mapDies s (fun k => { k with suspby := k.suspby.filter (· != d) })
    let s := { s with fabric := { s.fabric with msgs := s.fabric.msgs.filter (fun m => match m with | .notice x _ => x != d | _ => true) } }
    let s := modDie s d (fun k => { k with halted := false, halting := false, notices := [], acked := [], haltby := none })
    if k.halted then emit s (srcDie d) { kind := 0xB } else s

/-- DBGCTL_HALT: HALT is written on a die. -/
def execDbgctlHalt (die : Nat) (s : State) : Host.Outcome State Fault Refusal := ok (haltStart s die)
/-- DBGCTL_RESUME: RESUME is written on a die. -/
def execDbgctlResume (die : Nat) (s : State) : Host.Outcome State Fault Refusal := ok (haltRelease s die)

/-- The n-th message is a notice that none before it from its source to its die precedes (R346). -/
def noticeNext (s : State) (n : Nat) : Bool :=
  match s.fabric.msgs[n]? with
  | some (.notice src dst) => !(s.fabric.msgs.take n).contains (.notice src dst)
  | _ => false

/-- HALT_NOTICE: a notice reaches a die, which acknowledges it; its watchdogs are suspended (R381). -/
def execHaltNotice (n : Nat) (s : State) : Host.Outcome State Fault Refusal :=
  ok (match s.fabric.msgs[n]? with
    | some (.notice src dst) =>
      if !noticeNext s n then s
      else
        let s := { s with fabric := { s.fabric with msgs := s.fabric.msgs.eraseIdx n } }
        modDie (modDie s dst (fun d => { d with suspby := src :: d.suspby.filter (· != src) })) src (fun d => { d with acked := dst :: d.acked })
    | _ => s)

/-- The clause that commanded the halt of the team's own die is still in progress (R380). -/
def haltWaits (s : State) (k : Die) : Bool :=
  match k.haltby with
  | some t => (allTeams s).any (fun u => u.tid == t && u.clause.isSome)
  | none => false

/-- HALT: every notice is acknowledged, the clause that commanded it on the die is over, and the cells of the die begin no further clause. -/
def execHalt (die : Nat) (s : State) : Host.Outcome State Fault Refusal :=
  let k := dieOf s die
  ok (if k.halting && !haltWaits s k && k.notices.all (fun x => k.acked.contains x || !isLive s x) then
      emit (modDie s die (fun k => { k with halting := false, halted := true, notices := [], acked := [], haltby := none })) (srcDie die) { kind := 0xA }
    else s)

/-- The die's watchdogs are suspended (R381): a halting die's notice is acknowledged, or an active launch of its has a halted die. -/
def suspended (s : State) (x : Nat) : Bool :=
  !(dieOf s x).suspby.isEmpty || s.launches.any (fun l => l.status == .active && !l.pixel && l.d.dies.testBit x
    && (List.range 144).any (fun d => l.d.dies.testBit d && isLive s d && (dieOf s d).halted))

/-! ## dbgr (R247, R379) -/

/-- The debug register that a selector names, checked: the die first, then the number. -/
def dbgSel (x : DWord) (s : State) : Option TrapInfo :=
  if !isLive s (field x 23 16) then some { cause := 3, detail := 0xD }
  else if 3 ≤ field x 11 0 then some { cause := 3, detail := 0xE }
  else none

def issueDbg (f : SYS) (i : Instr) (s : State) : Res :=
  let x := sreg s.cur f.sa.toNat
  match dbgSel x s with
  | some e => .trap s e
  | none => issueOnce f i [x, sreg s.cur f.sb.toNat] s

def execDbgrRd (f : SYS) (s : State) : Host.Outcome State Fault Refusal := ok (issue (.dbgrRd f) s (issueDbg f (.dbgrRd f)))
def execDbgrWr (f : SYS) (s : State) : Host.Outcome State Fault Refusal := ok (issue (.dbgrWr f) s (issueDbg f (.dbgrWr f)))

/-- The value of a debug register. -/
def dbgValue (s : State) (die num : Nat) : Nat :=
  let d := dieOf s die
  match num with
  | 1 => d.uecnt % 65536 * 2 ^ 32 + d.cecnt % 65536 * 65536 + (if suspended s die then 2 else 0) + (if d.halted then 1 else 0)
  | 2 => nextSeq s (srcDie die)
  | _ => 0

/-- A team writes a debug register: DBGCTL alone can be written. A halt of the team's own die waits for the clause in progress; RESUME
counts from another die (R380). -/
def dbgWrite (s : State) (die num : Nat) (x : DWord) : State :=
  if num = 0 then
    let own := s.cur.die == die
    let fresh := !(dieOf s die).halted && !(dieOf s die).halting
    let s := if x.getLsbD 0 then
        let s := haltStart s die
        if own && fresh && s.cur.clause.isSome then modDie s die (fun k => { k with haltby := some s.cur.tid }) else s
      else s
    if x.getLsbD 1 && !own then haltRelease s die else s
  else s

/-- The words of `dbgr.rd`: those that it holds, or the register's value now. -/
def dbgWords (s : State) (o : Op) : List (Nat × List Word × Bool) :=
  match o.ready with
  | some l => l
  | none =>
    let x := o.sc.getD 0 0
    let v := dbgValue s (field x 23 16) (field x 11 0)
    (lanesOf (o.mask &&& ~~~ s.cur.dead) s.cur.width).map (fun l => (l, [BitVec.ofNat 32 v, BitVec.ofNat 32 (v / 2 ^ 32)], false))

/-- `dbgr.rd` reads its register and holds the value, or delivers a word of it (R81). -/
def dbgPart (s : State) (o : Op) (k : Nat) : Option State :=
  match o.i with
  | .dbgrRd f => match o.ready with
    | some l => giveNth s o f.vd.toNat 2 false l k
    | none => if isLive s (field (o.sc.getD 0 0) 23 16) then some (holdWords s o (dbgWords s o)) else none
  | _ => none

/-- A system operation completes. A `dbgr` whose die has been dropped since the issue
faults as R352 says, deferred. -/
def completeSys (s : State) (o : Op) : Option State :=
  let x := o.sc.getD 0 0
  match o.i with
  | .tlbi f => some (modCur (tlbiEffect s (f.mod.toNat % 8) x.toNat) (fun t => retireOp t o))
  | .cinv f => some (modCur (cinvEffect s (f.mod.toNat % 4)) (fun t => retireOp t o))
  | .dbgrRd f =>
    if !isLive s (field x 23 16) && o.ready.isNone then some (deferFault s o 3 0xD 0 none false)
    else some (finishWords s o f.vd.toNat 2 false (dbgWords s o))
  | .dbgrWr _ =>
    if !isLive s (field x 23 16) then some (deferFault s o 3 0xD 0 none false)
    else some (modCur (dbgWrite s (field x 23 16) (field x 11 0) (o.sc.getD 1 0)) (fun t => retireOp t o))
  | _ => none

end Sys2Proof.Machine
end

