-- ==== Sys2Proof/Machine/Agent.lean ====
section
/-! DEFINITION. Accesses of agents that are no team: distributors (R291, R294), mergers (R336), the host (R385, R386); the
lines of the tile stores (R265, R336). -/

namespace Sys2Proof.Machine

/-- Where an agent finds an address: its physical address and memory type; none where translation or permission fails.
PRIV does not bear on it (R385; log 25). -/
def agentAddr (s : State) (w : Want) (va : Nat) : Option (Nat × Nat) × State :=
  match walkPlain s va with
  | (none, s) => (none, s)
  | (some l, s) => (if (permFault l w true).isSome then none else some (leafPa l va, l.mt), s)

/-- One piece of an agent's read. -/
def agentReadPiece (r : Option (List PByte) × State) (p : Nat × Nat) : Option (List PByte) × State :=
  match r with
  | (none, s) => (none, s)
  | (some d, s) => match agentAddr s .read p.1 with
    | (none, s) => (none, s)
    | (some (pa, mt), s) =>
      let (x, s) := readPiece s pa p.2 mt
      (some (d ++ x), s)

/-- Read n bytes, home-served; none where translation or permission fails. Bytes of a lost member are poison (R354). -/
def agentRead (s : State) (va n : Nat) : Option (List PByte) × State := (piecesOf va n).foldl agentReadPiece (some [], s)

/-- A distributor's read: the bytes, or none where the read fails (R291). -/
def distRead (s : State) (va n : Nat) : Option (List Byte) × State :=
  match agentRead s va n with
  | (none, s) => (none, s)
  | (some d, s) => (if anyPois d then none else some (plain d), s)

/-- Write bytes that lie in one line, as one write event; none where translation or permission fails or the member is lost. -/
def agentWriteLine (s : State) (va : Nat) (d : List PByte) : Option State :=
  match agentAddr s .write va with
  | (none, _) => none
  | (some (pa, mt), s) =>
    if mt != 2 && lostAt s pa then none
    else some (writePiece s mt ((List.range d.length).map (fun i => (pa + i, d.getD i (0, false)))))

/-! ## Tile stores (R336) -/

/-- The tile store of a die. -/
def storeOf (s : State) (die : Nat) : List TsLine := NMap.get [] s.parlour.stores die
def setStore (s : State) (die : Nat) (l : List TsLine) : State :=
  { s with parlour := { s.parlour with stores := NMap.set [] s.parlour.stores die l } }
def storeLine? (s : State) (die va : Nat) : Option TsLine := (storeOf s die).find? (fun l => l.va == va)

/-- The bytes of a held line with their poison. -/
def tsBytes (l : TsLine) : List PByte := (List.range l.data.length).map (fun i => (l.data.getD i 0, NMap.get false l.pois (i / 16)))

/-- Write a held line out (R265, R336): one write event of its die; a line that no merge has changed goes without one. A
failure drops it with a record. -/
def writeOut (s : State) (die va : Nat) : State :=
  match storeLine? s die va with
  | none => s
  | some l =>
    let s := setStore s die ((storeOf s die).filter (fun m => m.va != va))
    if !l.dirty then s
    else match agentAddr s .write va with
      | (none, s) => emit s (srcDie die) { kind := 0x10, detail := 5, addr := va }
      | (some (pa, mt), s) =>
        if mt != 2 && lostAt s pa then emit s (srcDie die) { kind := 0x10, detail := 5, addr := va }
        else
          let d := tsBytes l
          writePiece (dieWriteEvent s die (pa / 128)) mt ((List.range d.length).map (fun i => (pa + i, d.getD i (0, false))))

/-- Two byte ranges meet. -/
def meets (a n b m : Nat) : Bool := decide (a < b + m) && decide (b < a + n)

/-- Write out every held line of any die that a carried region touches (R266, step 1). -/
def cleanRegion (s : State) (r : Nat × Nat) : State :=
  s.parlour.stores.foldl (fun s e => e.2.foldl (fun s l => if meets l.va 128 r.1 r.2 then writeOut s e.1 l.va else s) s) s

end Sys2Proof.Machine
end

