-- ==== Sys2Proof/Machine/Deal.lean ====
section
/-! DEFINITION. Admission (R297), offers, gangs and the first deal (R298, R299, R318, R402), the start of a block (R31, R107,
R269), pre-emption for a higher priority (R308). -/

namespace Sys2Proof.Machine

/-! ## What a launch needs -/

/-- W, G, pairing (R289, R290) and the block count. -/
def Desc.w (d : Desc) : Nat := 32 * (d.wcode + 1)
def Desc.g (d : Desc) : Nat := 16 * 2 ^ d.gcode
def Desc.paired (d : Desc) : Bool := d.pair || decide (512 < d.w)
def Desc.blocks (d : Desc) : Nat := d.dx * d.dy * d.dz
/-- Granules of one register block of a team in each of its cells (R30). -/
def Desc.granules (d : Desc) : Nat := (if d.paired then 8 else 16) * (d.w / 32)
/-- Tiles that a team reserves in each of its cells, and those of a block (R190). -/
def Desc.tilesEach (d : Desc) : Nat := d.tiles * (if d.prot then 2 else 1)
def Desc.tilesHeld (d : Desc) : Nat := d.nteams * d.tilesEach
/-- Gang sizes p and f. -/
def gangSize (c : Nat) : Nat := 2 ^ c

/-- The dies of a launch that live, ascending. -/
def launchDies (s : State) (d : Desc) : List Nat := (List.range 144).filter (fun x => d.dies.testBit x && isLive s x)

/-- The cells of a window, ascending, and its clusters (R289, R298). -/
def inWindow (d : Desc) (cell : Nat) : Bool :=
  decide (d.wrow0 ≤ cell / 72) && decide (cell / 72 ≤ d.wrow0 + d.wrows) && decide (d.wcol0 ≤ cell % 72) && decide (cell % 72 ≤ d.wcol0 + d.wcols)
def windowCells (d : Desc) : List Nat :=
  (List.range (d.wrows + 1)).flatMap (fun r => (List.range (d.wcols + 1)).map (fun c => (d.wrow0 + r) * 72 + d.wcol0 + c))
def windowClusters (d : Desc) : List Nat :=
  let r0 := d.wrow0 / 2; let c0 := d.wcol0 / 2
  (List.range ((d.wrow0 + d.wrows) / 2 + 1 - r0)).flatMap (fun r =>
    (List.range ((d.wcol0 + d.wcols) / 2 + 1 - c0)).map (fun c => (r0 + r) * 36 + c0 + c))

/-- What a block needs of its cells: to start, or to resume with what it holds (R297, R309). -/
structure Need where
  pair   : Bool
  nteams : Nat
  gran   : Nat
  tiles  : Nat
  vunits : Nat
  vbase  : Option Nat := none
  wleft  : Nat := 0
  wright : Nat := 0
  pixel  : Bool := false
deriving DecidableEq, Repr

def needOf (l : Launch) : Need :=
  { pair := l.d.paired, nteams := l.d.nteams, gran := l.d.nteams * l.d.granules * (1 + l.d.xregs), tiles := l.d.tilesHeld
    vunits := l.d.vunits, pixel := l.pixel }

/-- Wide tiles that a team holds in its left or its right cell, physical ones (R190). -/
def wideIn (t : Team) (right : Bool) : Nat :=
  (t.r.wide.filter (fun e => match e.2 with | some x => (laneCell t x.base != t.cell) == right | none => false)).length
    * (if t.prot then 2 else 1)

/-- Teams of a block that have not ended: the tiles of the others have returned (R121). -/
def teamsLeft (s : State) (bid : Nat) : Nat := ((teamsOf s bid).filter (fun t => t.status != .ended)).length

/-- The same for a saved block: the registers and wide tiles that its teams hold. -/
def needBlock (s : State) (b : Block) : Need :=
  let l := launchOf s b.lid
  let ts := teamsOf s b.bid
  { pair := b.pair, nteams := b.nteams, gran := (ts.map (fun t => granulesPer t * (1 + t.xblk))).sum, tiles := teamsLeft s b.bid * l.d.tilesEach
    vunits := b.vsize, vbase := some b.vbase, wleft := (ts.map (wideIn · false)).sum, wright := (ts.map (wideIn · true)).sum
    pixel := l.pixel }

/-! ## Admission (R297) -/

/-- The cells that the open pass reserves on a die for its pixel blocks (R327). -/
def reservedIn (s : State) (die : Nat) : List Nat :=
  match s.parlour.pass with
  | none => []
  | some p =>
    if !p.owners.contains die then []
    else p.draws.flatMap (fun d => match launch? s d.pxlid with
      | none => []
      | some l => ((windowCells l.d).filter (cellLive s die)).take p.reserve)

/-- Vault runs that blocks hold in a cell. -/
def vaultRuns (s : State) (die cell : Nat) : List (Nat × Nat) :=
  (s.blocks.filter (fun b => blockIn b die cell)).map (fun b => (b.vbase, b.vsize))

/-- n units from a are free among runs. -/
def runFree (runs : List (Nat × Nat)) (n a : Nat) : Bool :=
  decide (a + n ≤ 768) && runs.all (fun r => decide (a + n ≤ r.1) || decide (r.1 + r.2 ≤ a))

/-- The base of the lowest free run of n units (R297): it starts at 0 or where a run ends. -/
def lowestRun (runs : List (Nat × Nat)) (n : Nat) : Option Nat :=
  if n = 0 then some 0 else (distinct (0 :: runs.map (fun r => r.1 + r.2))).find? (runFree runs n)

/-- Tiles that the resident teams of a cell reserve (R190). -/
def tilesUsed (s : State) (die cell : Nat) : Nat :=
  ((s.blocks.filter (fun b => blockIn b die cell)).map (fun b => teamsLeft s b.bid * (launchOf s b.lid).d.tilesEach)).sum

/-- What R297 asks of one cell. -/
def cellAdmits (s : State) (d : Desc) (n : Need) (die cell w : Nat) : Bool :=
  cellPresent s die cell && inWindow d cell && !(cellOf s (ckey die cell)).drain
    && (n.pixel || !(reservedIn s die).contains cell)
    && decide ((teamsIn s die cell).length + n.nteams ≤ 16)
    && decide (usedGranules s die cell + n.gran ≤ 512)
    && decide (tilesUsed s die cell + n.tiles ≤ 16)
    && (w == 0 || decide (wideUsed s (ckey die cell) + w ≤ 2))

/-- A cell, or the pair of which it is the left one, admitBase a block: the VBASE that it would get. -/
def admitBase (s : State) (d : Desc) (n : Need) (die cell : Nat) : Option Nat :=
  let cs := if n.pair then [cell, cell + 1] else [cell]
  if (n.pair && cell % 2 == 1) || !cellAdmits s d n die cell n.wleft || (n.pair && !cellAdmits s d n die (cell + 1) n.wright) then none
  else
    let runs := cs.flatMap (vaultRuns s die)
    match n.vbase with
    | some a => if n.vunits = 0 || runFree runs n.vunits a then some a else none
    | none => lowestRun runs n.vunits

/-- The cells of a cluster that admit a block, lowest position first. -/
def admitting (s : State) (d : Desc) (n : Need) (die cluster : Nat) : List Nat :=
  ((List.range 4).map (cellAt cluster)).filter (fun c => (admitBase s d n die c).isSome)

/-- The offer of a cluster (R297): the gang size's code and its cells. -/
def clusterOffer (s : State) (l : Launch) (die cluster : Nat) : Option (Nat × List Nat) :=
  let cs := admitting s l.d (needOf l) die cluster
  if gangSize l.d.gangp ≤ cs.length then some (l.d.gangp, cs.take (gangSize l.d.gangp))
  else if gangSize l.d.gangf ≤ cs.length then some (l.d.gangf, cs.take (gangSize l.d.gangf))
  else none

/-! ## The start of a block -/

/-- Zero n vault bytes at a key: their poison and errors go (R269). -/
def zeroVault (s : State) (key n : Nat) : State :=
  { s with mem := { s.mem with
      vault := s.mem.vault.filter (fun e => !(decide (key ≤ e.1) && decide (e.1 < key + n)))
      vpois := s.mem.vpois.filter (fun e => !(decide (key ≤ 16 * e.1) && decide (16 * e.1 < key + n)))
      vbad := s.mem.vbad.filter (fun e => !(decide (key ≤ 16 * e.1) && decide (16 * e.1 < key + n))) } }

/-- The kernel's image in an allocation: the RING of each queue object becomes an own-form address (R107). -/
def relocate (image : List Byte) (rings : List Nat) (vbase : Nat) : List Byte :=
  rings.foldl (fun m o =>
    let r := valBytes 4 (bytesVal ((m.drop (o + 12)).take 4) + 256 * vbase)
    (List.range 4).foldl (fun m i => m.set (o + 12 + i) (r.getD i 0)) m) image

/-- The cells of a block. -/
def blockCells (b : Block) : List Nat := if b.pair then [b.cell, b.cell + 1] else [b.cell]

/-- A fresh vault allocation: zero, then the image (R107, R269). -/
def freshVault (s : State) (l : Launch) (b : Block) : State :=
  (blockCells b).foldl (fun s c =>
    let k := vltKey b.die c (256 * b.vbase)
    writeVault (zeroVault s k (256 * b.vsize)) k (clean ((relocate l.image l.rings b.vbase).take (256 * b.vsize)))) s

/-- The registers at the start of a team (R31), without the lanes that have died. -/
def startRegs (w : Nat) (dead : Mask) : Regs := ({} : Regs).mset w 0 (lanesBelow w &&& ~~~ dead)

/-- Team idx of a block at its start (R18, R31). -/
def freshTeam (l : Launch) (b : Block) (tid idx : Nat) : Team :=
  let w := if l.d.prot then l.d.w / 2 else l.d.w
  { tid := tid, blk := b.bid, idx := idx, die := b.die, cell := b.cell, pair := b.pair, width := w, group := l.d.g, prot := l.d.prot
    status := .running, r := startRegs w 0, sh := if l.d.prot then some (startRegs w 0) else none
    pc := l.d.kaddr, xblk := l.d.xregs }

/-- Start a block in its cells (R31, R269). -/
def startBlock (s : State) (l : Launch) (b : Block) : State :=
  let (bid, s) := freshId s
  let b := { b with bid := bid, start := bid }
  let s := freshVault { s with blocks := s.blocks ++ [b] } l b
  (List.range l.d.nteams).foldl (fun s i =>
    let (tid, s) := freshId s
    { s with teams := insertTeam (freshTeam l b tid i) s.teams }) s

/-- The bits of GMASK: every cell that holds the gang. -/
def gangMask (pair : Bool) (cells : List Nat) : Nat :=
  cells.foldl (fun m c => m ||| 2 ^ posOf c ||| (if pair then 2 ^ posOf (c + 1) else 0)) 0

/-- Start a gang of a launch on cells of a die (R298, R402): the last gang takes what remains. -/
def startGang (s : State) (lid die code : Nat) (cells : List Nat) : State :=
  let l := launchOf s lid
  let cells := cells.take (l.d.blocks - l.next)
  let (gang, s) := freshId s
  let n := needOf l
  let mask := gangMask l.d.paired cells
  let s := (List.range cells.length).foldl (fun s j =>
    let c := cells.getD j 0
    let i := l.next + j
    startBlock s l { lid := lid, index := i, die := die, cell := c, pair := l.d.paired, vbase := (admitBase s l.d n die c).getD 0
                     vsize := l.d.vunits, gang := gang, gmask := mask, gsize := code, gpos := j, nteams := l.d.nteams
                     draw := if l.d.stage = 2 then l.d.draw else 0, prim := if l.d.stage = 2 then 256 * i else 0 }) s
  modLaunch s lid (fun l => { l with
    next := l.next + cells.length
    ngangp := if code = l.d.gangp then min (2 ^ 32 - 1) (l.ngangp + 1) else l.ngangp
    ngangf := if code = l.d.gangp then l.ngangf else min (2 ^ 32 - 1) (l.ngangf + 1) })

/-! ## Resumption: the cells of a gang (R309) -/

/-- Give each block of a list a cell of its own among cells that admit it, in every way until one fits. -/
def assignCells (s : State) (d : Desc) (die : Nat) (cells : List Nat) (avoid : Block → Nat → Bool) : List Block → List Nat → Option (List Nat)
  | [], _ => some []
  | b :: t, used => cells.findSome? (fun c =>
    if used.contains c || avoid b c || (admitBase s d (needBlock s b) die c).isNone then none
    else (assignCells s d die cells avoid t (c :: used)).map (c :: ·))

/-- The blocks of a gang that still live, in order of GPOS. -/
def gangBlocks (s : State) (lid gang : Nat) : List Block :=
  let l := s.blocks.filter (fun b => b.lid == lid && b.gang == gang)
  (List.range 4).flatMap (fun p => l.filter (fun b => b.gpos == p))

/-- Cells in one cluster for a saved gang. -/
def resumeCells (s : State) (bs : List Block) (d : Desc) (die cluster : Nat) : Option (List Nat) :=
  assignCells s d die ((List.range 4).map (cellAt cluster)) (fun _ _ => false) bs []

/-- The gangs of a launch that wait, each once. -/
def waitingGangs (s : State) (lid : Nat) : List Nat :=
  distinct ((s.blocks.filter (fun b => b.lid == lid && b.status == .waiting)).map (·.gang))

/-! ## Who may take capacity (R299, R302, R318) -/

/-- No block of an earlier draw of the pass remains undealt (R318); a draw whose launch has not been taken has its blocks still. -/
def drawGate (s : State) (l : Launch) : Bool :=
  if l.d.stage ≠ 2 then true
  else match s.parlour.pass with
    | none => true
    | some p => (List.range (l.d.draw - p.first)).all (fun i =>
        match p.draws.find? (fun d => d.ord == p.first + i) with
        | none => false
        | some d => d.ended || (match launch? s d.lid with
          | some e => e.status != .active || decide (e.d.blocks ≤ e.next)
          | none => true))

/-- The launch has an index to deal, and nothing of it waits to resume. -/
def mayDeal (s : State) (l : Launch) : Bool :=
  l.status == .active && !l.pixel && decide (l.next < l.d.blocks) && (waitingGangs s l.lid).isEmpty && drawGate s l
    && isLive s l.home && dieRuns s l.home

/-- The launch would use capacity of a cluster now. -/
def wantsCluster (s : State) (l : Launch) (die cluster : Nat) : Bool :=
  (mayDeal s l && (clusterOffer s l die cluster).isSome)
    || (waitingGangs s l.lid).any (fun g => (resumeCells s (gangBlocks s l.lid g) l.d die cluster).isSome)

/-- Launches active on a die that come before a launch (R299). -/
def better (s : State) (l : Launch) (die : Nat) : List Launch :=
  ((dieOf s die).active.filterMap (launch? s)).filter (fun e =>
    decide (l.d.prio < e.d.prio) || (e.d.prio == l.d.prio && decide (e.lid < l.lid)))

/-- The saved block that rotation has promised a cluster to, once its gang fits there (R303). -/
def promised (s : State) (die cluster : Nat) : Option Block :=
  (dieOf s die).rota.findSome? (fun r => if r.1 != cluster then none else match block? s r.2 with
    | none => none
    | some w => if w.status == .waiting && (resumeCells s (gangBlocks s w.lid w.gang) (launchOf s w.lid).d die cluster).isSome then some w else none)

/-- A gang (none: new blocks) of a launch would take the place that rotation has made for another of no lower PRIO. -/
def bars (s : State) (l : Launch) (gang : Option Nat) (die cluster : Nat) : Bool :=
  match promised s die cluster with
  | none => false
  | some w => decide (l.d.prio ≤ (launchOf s w.lid).d.prio) && !(w.lid == l.lid && gang == some w.gang)

/-- The cluster's free capacity falls to the launch (R299, R303). -/
def turnOf (s : State) (l : Launch) (die cluster : Nat) (gang : Option Nat := none) : Bool :=
  isLive s die && dieRuns s die && !bars s l gang die cluster && !(better s l die).any (fun e => wantsCluster s e die cluster && !bars s e gang die cluster)

/-- Deal one gang of a launch to a cluster, if it makes an offer that falls to the launch. -/
def dealCluster (s : State) (lid die cluster : Nat) : Option State :=
  let l := launchOf s lid
  if !mayDeal s l || !l.d.dies.testBit die || !turnOf s l die cluster || !(windowClusters l.d).contains cluster then none
  else (clusterOffer s l die cluster).map (fun o => startGang s lid die o.1 o.2)

/-! ## The first deal (R298) -/

/-- The clusters of a window from the one after a cursor, once round. -/
def roundFrom (cs : List Nat) (cursor : Option Nat) : List Nat :=
  match cursor with
  | none => cs
  | some c => cs.filter (fun x => decide (c < x)) ++ cs.filter (fun x => decide (x ≤ c))

/-- The next cluster of a die that offers takes its gang, and the cursor stands there. -/
def dealDie (lid : Nat) (r : State × Bool) (die : Nat) : State × Bool :=
  let l := launchOf r.1 lid
  let cur := NMap.get 0 l.cursor die
  match (roundFrom (windowClusters l.d) (if cur = 0 then none else some (cur - 1))).findSome? (fun c =>
      (dealCluster r.1 lid die c).map (fun s => (s, c))) with
  | none => r
  | some (s, c) => (modLaunch s lid (fun l => { l with cursor := NMap.set 0 l.cursor die (c + 1) }), true)

/-- Rounds until one places no block; a die holds fewer than 73,729 gangs. -/
def dealRounds : Nat → State → Nat → State
  | 0, s, _ => s
  | n + 1, s, lid =>
    let l := launchOf s lid
    if !mayDeal s l then s
    else match (launchDies s l.d).foldl (dealDie lid) (s, false) with
      | (s, true) => dealRounds n s lid
      | (s, false) => s

def firstDeal (s : State) (lid : Nat) : State := dealRounds 73729 s lid

/-! ## Requests for pre-emption (R304, R306) -/

/-- Bytes that a block's context takes in a save area (R306; log 10). -/
def contextOf (s : State) (b : Block) : Nat :=
  let ts := teamsOf s b.bid
  Config.contextBytes ts.length ((ts.map (fun t => granulesPer t * (1 + t.xblk) * (if t.pair then 2 else 1))).sum)
    ((ts.map (fun t => t.r.tile.length)).sum) ((ts.map (fun t => t.r.wide.length)).sum) (256 * b.vsize * (if b.pair then 2 else 1))

/-- A resident block's pre-emption has been accepted. -/
def preempting (s : State) (b : Block) : Bool := b.status == .resident && (teamsOf s b.bid).any (·.preempt)

/-- The save area of a die has room for more blocks beside those saved there or on their way. -/
def saveRoom (s : State) (die : Nat) (bs : List Block) : Bool :=
  let held := s.blocks.filter (fun b => b.die == die && (b.status == .waiting || preempting s b) && !bs.any (fun c => c.bid == b.bid))
  decide (((held ++ bs).map (contextOf s)).sum ≤ (dieOf s die).savecap)

/-- Accept a request: every team of the blocks stops as R305 says. -/
def acceptPreempt (s : State) (bids : List Nat) : State :=
  let s := { s with blocks := s.blocks.map (fun b => if bids.contains b.bid then { b with preempt := true, heldp := false } else b) }
  mapTeams s (fun t => if bids.contains t.blk && t.status != .ended then { t with preempt := true } else t)

/-- Launch of a mesh stage: its blocks are never pre-empted (R318). -/
def isMesh (s : State) (b : Block) : Bool := (launchOf s b.lid).d.stage == 2

/-! ## Priority pre-emption (R308) -/

/-- The machine without some blocks, to see what cells would admit. -/
def without (s : State) (bids : List Nat) : State := { s with blocks := s.blocks.filter (fun b => !bids.contains b.bid) }

/-- Some cluster of the window would take what waits: a gang of f, or a saved gang. -/
def fitsSomewhere (s : State) (l : Launch) (die : Nat) (gang : Option (List Block)) (gone : List Nat) : Bool :=
  let s' := without s gone
  (windowClusters l.d).any (fun c => match gang with
    | none => decide (gangSize l.d.gangf ≤ (admitting s' l.d (needOf l) die c).length)
    | some bs => (resumeCells s' bs l.d die c).isSome)

/-- The blocks of a die that a launch may take cells from, with the order in which they are taken: lower PRIO first, then
the latest started. -/
def victims (s : State) (l : Launch) (die : Nat) : List Block :=
  let bs := s.blocks.filter (fun b => b.status == .resident && b.die == die && !isMesh s b && (blockCells b).any (inWindow l.d)
    && decide ((launchOf s b.lid).d.prio < l.d.prio))
  let of (p : Nat) : List Block := bs.filter (fun b => (launchOf s b.lid).d.prio == p)
  (List.range 8).flatMap (fun p => (of p).foldl (fun acc b => insertLate b acc) [])
where
  insertLate (b : Block) : List Block → List Block
    | [] => [b]
    | c :: t => if c.start ≤ b.start then b :: c :: t else c :: insertLate b t

/-- The blocks that go with a block: those of its gang. -/
def withGang (s : State) (b : Block) : List Nat := (gangBlocks s b.lid b.gang).map (·.bid)

/-- Take victims with their gangs until a cluster fits. -/
def takeVictims (s : State) (l : Launch) (die : Nat) (g : Option (List Block)) : List Block → List Nat → Option (List Nat)
  | [], gone => if fitsSomewhere s l die g gone then some gone else none
  | b :: t, gone =>
    if fitsSomewhere s l die g gone then some gone
    else takeVictims s l die g t (gone ++ (withGang s b).filter (fun x => !gone.contains x))

/-- Leave out the gangs that are not needed, those taken last first: the highest PRIO, the earliest started. -/
def trimVictims (s : State) (l : Launch) (die : Nat) (g : Option (List Block)) (keep : List Nat) (gone : List Nat) : List Nat :=
  (gone.reverse.filter (fun x => !keep.contains x)).foldl (fun gone x =>
    let less := gone.filter (fun y => !(withGang s (blockOf s x)).contains y)
    if gone.contains x && fitsSomewhere s l die g less then less else gone) gone

/-- A launch that waits on a die where no cluster takes it pre-empts blocks of lower PRIO there (R308). -/
def priorityPreempt (s : State) (lid die : Nat) : State :=
  let l := launchOf s lid
  if !isLive s die || !dieRuns s die || !l.d.dies.testBit die then s
  else
    let gangs := waitingGangs s lid
    let g : Option (List Block) := match gangs with
      | [] => none
      | x :: _ => some (gangBlocks s lid x)
    if gangs.isEmpty && !mayDeal s l then s
    else
      let going := (s.blocks.filter (fun b => preempting s b)).map (·.bid)
      if fitsSomewhere s l die g going then s
      else match takeVictims s l die g (victims s l die) going with
        | none => s
        | some gone =>
          let gone := (trimVictims s l die g going gone).filter (fun x => !going.contains x)
          if saveRoom s die (s.blocks.filter (fun b => gone.contains b.bid)) then acceptPreempt s gone else s

/-- CLUSTER_OFFER_REQUEST (R298): a cluster's request is granted as it arrives; where the launch finds no capacity on the die,
pre-emption is looked for. -/
def execClusterOfferRequest (lid cluster : Nat) (s : State) : Host.Outcome State Fault Refusal :=
  ok (match dealCluster s lid (cluster / 1152) (cluster % 1152) with
    | some s => s
    | none => priorityPreempt s lid (cluster / 1152))

end Sys2Proof.Machine
end

