-- ==== Sys2Proof/Machine/Hier.lean ====
section
/-! DEFINITION. Steps of the memory hierarchy: requests at their homes (R249, R276), gather packets (R277, R278), page walks
(R285, R288), refresh (R279, R280), the patrol scrubber (R281, R282, R369). -/

namespace Sys2Proof.Machine

/-! ## Parts of an operation -/

/-- An operation whose accesses take their steps one by one: a load, store, atomic, versioned or line access, or an access of a sync
word or queue. -/
def memOp (i : Instr) : Bool :=
  (readsMem i || writesMem i || (match i with | .prf _ => true | _ => false)) && !isMatrix i

/-- Perform a group of an operation's accesses at their place. -/
def partOf (s : State) (o : Op) (g : List Acc) : State × Got :=
  match o.i with
  | .swArm _ | .swAdd _ | .swRead _ => g.foldl (fun (r : State × Got) a => let (s, x) := syncPart r.1 o a; (s, r.2.add x)) (s, { acc := [] })
  | .qInit _ => g.foldl (fun (r : State × Got) a => let (s, x) := queuePart r.1 a; (s, r.2.add x)) (s, { acc := [] })
  | _ => memPart s o g

/-- The accesses of one line take one step together: loads, stores, `ldv`, `a.casv` in a gather packet (R164, R168, R278). -/
def together : Instr → Bool
  | .ld _ | .st _ | .ldv _ => true
  | .aCasv f => f.ox
  | _ => false

def lineKey (a : Acc) : Nat := a.pa / 128 * 16 + a.mt

/-- The accesses that have not taken their step. -/
def undone (o : Op) : List Acc := o.acc.filter (fun a => !a.done)

/-- Those of a list with the line of the first. -/
def sameLine (l : List Acc) (k : Nat) : List Acc := l.filter (fun a => lineKey a == k)

/-- The groups that may take their step next: for each line all its accesses, or the one of its lowest lane (R164, R278). -/
def nextGroups (o : Op) : List (List Acc) :=
  let l := undone o
  (distinct (l.map lineKey)).map (fun k => if together o.i then sameLine l k else (sameLine l k).take 1)

/-- One group takes its step for the current team's operation. -/
def performGroup (id : Nat) (s : State) (g : List Acc) : State :=
  match s.cur.ops.find? (fun o => o.id == id) with
  | none => s
  | some o =>
    let (s, x) := partOf (noteEarly s o) o g
    modCur s (fun t => modOp t id (fun o =>
      { o with acc := o.acc.map (fun a => (x.acc.find? (fun b => b.lane == a.lane)).getD a)
               kills := o.kills ++ x.kills, pois := o.pois ++ x.pois, pown := o.pown ++ x.pown, killAll := o.killAll || x.team }))

/-- The steps that a list of accesses takes, in ascending lanes. -/
def stepsOf (i : Instr) (l : List Acc) : List (List Acc) :=
  if together i then (distinct (l.map lineKey)).map (sameLine l) else l.map (fun a => [a])

/-- The operation is a memory operation that nothing holds back. -/
def openOp (s : State) (id : Nat) : Option Op :=
  (s.cur.ops.find? (fun o => o.id == id)).bind (fun o => if memOp o.i && gateOpen s o then some o else none)

/-! ## Gather packets (R277, R278) -/

/-- The access takes a per-lane offset. -/
def perLane : Instr → Bool
  | .ld f | .st f | .ldv f | .aCasv f | .aAdd f | .aMin f | .aMax f | .aAnd f | .aOr f | .aXor f | .aXchg f | .aCas f | .aFadd f | .aInc f
  | .prf f | .disc f | .wb f => f.ox
  | _ => false

/-- The physical address of an access's page. -/
def pageBase (a : Acc) : Nat := a.pa / a.page * a.page

/-- The home and page of an access, as one number: an access of a line that no set places has home 0. -/
def packetKey (s : State) (a : Acc) : Nat := ((locate s a.pa).map (fun p => p.1 + 1)).getD 0 * 2 ^ 52 + pageBase a

/-- OP and SIZE of a packet: 0 read, 1 write, 2 atomic, 3 versioned; the element's size (R277). -/
def packetOp : Instr → Nat
  | .ldv _ | .aCasv _ => 3
  | .st _ => 1
  | .aAdd _ | .aMin _ | .aMax _ | .aAnd _ | .aOr _ | .aXor _ | .aXchg _ | .aCas _ | .aFadd _ | .aInc _ => 2
  | _ => 0
def packetSize : Instr → Nat
  | .ld f | .st f | .ldv f | .aCasv f => Nat.log2 (memBytes f.width.toNat)
  | .aAdd f | .aMin f | .aMax f | .aAnd f | .aOr f | .aXor f | .aXchg f | .aCas f | .aFadd f | .aInc f => Nat.log2 (atomBytes f.width.toNat)
  | _ => 0

/-- The header of a gather packet (R277). -/
def packetHeader (i : Instr) (n page : Nat) : DWord :=
  BitVec.ofNat 64 (packetOp i * 2 ^ 62 + packetSize i % 8 * 2 ^ 59 + (n - 1) % 1024 * 2 ^ 49 + page / 65536 % 2 ^ 36)
/-- A lane entry. -/
def laneEntry (a : Acc) : DWord := BitVec.ofNat 64 (a.lane % 1024 * 2 ^ 54 + a.pa % a.page % 2 ^ 25)

/-- A gather packet (R277): the header with the lane entries, and the data of a write or an atomic, which follow the entries. -/
structure Packet where
  words : List DWord := []
  data  : List Byte := []
deriving DecidableEq, Repr

/-- The packet of a list of accesses with one home and page: the header, an entry for each lane in ascending order, then what the lanes
send in the order of their entries (R277). -/
def gatherPacket (i : Instr) (l : List Acc) : Packet :=
  match l with
  | [] => {}
  | a :: _ => { words := packetHeader i l.length (pageBase a) :: l.map laneEntry, data := l.flatMap (·.data) }

/-- What the skimmer takes from a packet: for each entry the lane, the physical address, and the entry's share of the data (R278). -/
def packetLanes (p : Packet) : List (Nat × Nat × List Byte) :=
  match p.words with
  | [] => []
  | h :: es =>
    let k := p.data.length / es.length
    es.zipIdx.map (fun e => (field e.1 63 54, field h 35 0 * 65536 + field e.1 24 0, (p.data.drop (k * e.2)).take k))

/-- The steps in which the skimmer expands a packet (R278). -/
def expandPacket (i : Instr) (l : List Acc) (p : Packet) : List (List Acc) :=
  stepsOf i ((packetLanes p).filterMap (fun e => (l.find? (fun a => a.lane == e.1 && a.pa == e.2.1)).map (fun a => { a with data := e.2.2 })))

/-- An atomic of a packet takes its step only after the packet's lower lanes have (R278). -/
def packetNext (s : State) (o : Op) (g : List Acc) : Bool :=
  packetOp o.i != 2 || !perLane o.i || g.all (fun a => (undone o).all (fun b => decide (a.lane ≤ b.lane) || packetKey s a != packetKey s b))

/-- The groups of an operation that may take their step next. -/
def stepGroups (s : State) (o : Op) : List (List Acc) := (nextGroups o).filter (packetNext s o)

/-- HOME_REQUEST: the piece-th group of a team's memory operation that may take its step takes it; numbers beyond them name destination words that
the operation delivers before it completes (R81). Of a matrix or engine operation the part that the number names takes its step (R193, R219); a texture,
ray or debug operation is performed, then delivers the owed word that the number names. -/
def execHomeRequest (tid id piece : Nat) (s : State) : Host.Outcome State Fault Refusal :=
  ok (inTeam s tid (fun s => match openOp s id with
    | some o => match (stepGroups s o)[piece]? with
      | some g => some (performGroup id s g)
      | none => ((readyWords s o)[piece - (stepGroups s o).length]?).map (fun w => giveWord o w s)
    | none => (s.cur.ops.find? (fun o => o.id == id)).bind (fun o => (opPart s o piece).or ((collPart s o piece).or ((queryPart s o piece).or (dbgPart s o piece))))))

/-- GATHER_PACKET: the skimmer of one home expands the piece-th packet of an operation (R278). -/
def execGatherPacket (tid id piece : Nat) (s : State) : Host.Outcome State Fault Refusal :=
  ok (inTeam s tid (fun s => (openOp s id).bind (fun o =>
    if !perLane o.i then none
    else
      let l := undone o
      ((distinct (l.map (packetKey s)))[piece]?).map (fun k =>
        let p := l.filter (fun a => packetKey s a == k)
        (expandPacket o.i p (gatherPacket o.i p)).foldl (performGroup id) s))))

/-! ## Walks -/

/-- PAGE_WALK: a walker takes the head of its die's walk queue. -/
def execPageWalk (die : Nat) (s : State) : Host.Outcome State Fault Refusal := ok (if isLive s die then pageWalk s die else s)
/-- WALK_RESULT: a walk delivers to every request merged into it. -/
def execWalkResult (die : Nat) (s : State) : Host.Outcome State Fault Refusal := ok (if isLive s die then walkResult s die else s)

/-! ## Refresh and the scrubber -/

/-- REFRESH_OPERATION: it changes no value, version or order (R280). -/
def execRefreshOperation (_site _bank : Nat) (s : State) : Host.Outcome State Fault Refusal := ok s

/-- The words of a line's HBM copy that hold an error, and which of them cannot be corrected. -/
def badWords (s : State) (site x : Nat) : List (Nat × Bool) :=
  (List.range 4).filterMap (fun i => (NMap.get none s.mem.hbad (hkey site (128 * x) / 32 + i)).map (fun e => (i, e != .corrected)))

/-- Step 1 of the scrubber at a home (R282). -/
def scrubRead (s : State) (site x : Nat) : State :=
  if (siteOf s site).lost then s
  else match resident? s site x with
    | some l => if l.st = 1 then s else modSite s site (fun st => { st with scrub := NMap.put x (some (badWords s site x)) st.scrub })
    | none => modSite s site (fun st => { st with scrub := NMap.put x (some (badWords s site x)) st.scrub })

/-- Scrub one vault word of a die: word w of its vaults (R281, R369). -/
def scrubVault (s : State) (die w : Nat) : State :=
  let k := vltKey die 0 0 / 16 + w
  let cell := w / 2 ^ 14
  let addr := 2 ^ 31 + cell * 2 ^ 18 + w % 2 ^ 14 * 16
  match NMap.get none s.mem.vbad k with
  | none => s
  | some e =>
    let s := { s with mem := { s.mem with vbad := NMap.set none s.mem.vbad k none
                                          vpois := if e = .corrected then s.mem.vpois else NMap.set false s.mem.vpois k true } }
    let s := emit s (srcDie die) { kind := if e = .corrected then 1 else 4, addr := addr }
    countErr s die cell k e (lastRecord s (srcDie die))

/-- Scrub one resident line of a home slice (R281, R369). -/
def scrubSlice (s : State) (site x : Nat) : State :=
  match resident? s site x with
  | none => s
  | some l =>
    let (l, s) := findSlice s site l
    modSite s site (fun st => { st with lines := st.lines.map (fun m => if m.line == x then { l with bad := [] } else m) })

/-- PATROL_SCRUB: sites 0 to 143 name a stack and a line of it; 144 + d the vaults of die d and a word; 288 + x the slice of site x and
a line. -/
def execPatrolScrub (site line : Nat) (s : State) : Host.Outcome State Fault Refusal :=
  ok (if site < 144 then (if line * 128 < 64000000000 then scrubRead s site line else s)
    else if site < 288 then (if isLive s (site - 144) && decide (line < 4608 * 2 ^ 14) then scrubVault s (site - 144) line else s)
    else if site < 432 then scrubSlice s (site - 288) line
    else s)

/-- A resident word of a line takes 32 bytes with their poison, over any error of its storage (R282, R362). -/
def sliceWord (l : SliceLine) (i : Nat) (data : List Byte) (bad : Bool) : SliceLine :=
  { l with data := overlay l.data ((List.range 32).map (fun j => (32 * i + j, (data.getD (32 * i + j) 0, bad))))
           pois := if bad then l.pois ||| BitVec.ofNat 4 (2 ^ i) else l.pois &&& ~~~ BitVec.ofNat 4 (2 ^ i)
           bad := NMap.set none l.bad i none }

/-- The scrubber writes back what it read: a corrected word is whole again in HBM and, in state C, in the slice; an uncorrectable one is poisoned in
both (R282, R369). -/
def scrubWord (site x : Nat) (s : State) (e : Nat × Bool) : State :=
  let w := hkey site (128 * x) / 32 + e.1
  let s := { s with mem := { s.mem with hbad := NMap.set none s.mem.hbad w none
                                        hpois := if e.2 then NMap.set false s.mem.hpois w true else s.mem.hpois } }
  let s := modSite s site (fun st => { st with lines := st.lines.map (fun l =>
    if l.line == x && l.st == 0 then
      (if e.2 then { l with pois := l.pois ||| BitVec.ofNat 4 (2 ^ e.1) } else sliceWord l e.1 (hbmLine s site x) (NMap.get false s.mem.hpois w))
    else l) })
  emit s (srcSite site) { kind := if e.2 then 4 else 1, addr := 128 * x + 32 * e.1 }

/-- The physical addresses of the global memory that a started engine command of the current team is yet to write. -/
def engOwes (s : State) (o : Op) : List Nat :=
  if !isEngine o.i || !o.started || engDir o != 1 then []
  else (List.range (engCount o)).filterMap (fun j =>
    if o.gave.contains (wroteKey j 0) then none
    else (engPieceAt o j).bind (fun p => match engGlobal s o.id .write p.al p.va with | .inr (pa, _) => some pa | .inl _ => none))

/-- A demand write to a line has been issued and not performed: a team's, an engine command's, or a line of a host's WRITE. -/
def writeUnderWay (s : State) (site line : Nat) : Bool :=
  let here (pa : Nat) : Bool := match locate s pa with | some (x, off) => x == site && off / 128 == line | none => false
  (allTeams s).any (fun t => t.ops.any (fun o => writesMem o.i && (undone o).any (fun a => a.mt != vaultMt && here a.pa)))
    || (allTeams s).any (fun t => let u := focus s t.tid
        u.cur.ops.any (fun o => (engOwes u o).any here))
    || s.host.qps.any (fun q => match q.2.rest with | some w => w.pieces.any (fun p => here p.2.2.1) | none => false)

/-- SCRUB_WRITE_BACK: step 2, where the line is still scrub-pending and no demand write to it is queued at the home; whether one that is under
way has reached the home's queue is free (log 6). -/
def execScrubWriteBack (site line : Nat) (s : State) : Host.Outcome State Fault Refusal :=
  ok (match NMap.get none (siteOf s site).scrub line with
    | none => s
    | some l =>
      if !writeUnderWay s site line then unscrub (l.foldl (scrubWord site line) s) site line
      else
        let (n, s) := tick s
        unscrub (if Config.freeBits 1 n = 1 then s else l.foldl (scrubWord site line) s) site line)

end Sys2Proof.Machine
end

