-- ==== Sys2Proof/Machine/Complete.lean ====
section
/-! DEFINITION. The completion of long-latency operations (R79): what each writes, and when it may. Engine operations complete by
steps of their own. -/

namespace Sys2Proof.Machine

/-- A protected team logs the results of an atomic, poison as a number that no word is (R374). -/
def logResult (s : State) (o : Op) (vd k : Nat) : State :=
  match o.pseq with
  | none => s
  | some n =>
    let acc := o.acc.filter (fun a => !o.kills.contains a.lane)
    toLog s n (acc.flatMap (fun a => (List.range k).map (fun j => (vkey (vd + j) a.lane,
      if o.pois.contains a.lane then 2 ^ 32 else bytesVal a.data / 2 ^ (32 * j) % 2 ^ 32)))) acc.length

/-- The words of a team-wide result that have not been delivered before (R81). -/
def putReady (s : State) (o : Op) : State :=
  let ws := readyWords s o
  modCur (prepDest s (distinct (ws.map (·.reg))) (maskOf (ws.map (·.lane)))) (deliverRegs (fun r => ws.foldl Give.put r))

/-- What a memory operation writes to registers as it completes. -/
def writeResult (s : State) (o : Op) : State :=
  match o.i with
  | .sLd w f => modCur s (deliverRegs (fun r => r.sset f.sd.toNat (extendScalar w (bytesVal ((o.acc.map (·.data)).headD [])))))
  | .valset f => if o.gave.isEmpty then putLanes s f.vd.toNat 1 (opLanes s o) (valsetResult o) else putReady s o
  | .swRead f => match o.acc with
    | [] => s
    | a :: _ => if o.gave.isEmpty then putLanes s f.vd.toNat 4 (opLanes s o) (bytesVal a.data) else putReady s o
  | .aCasv f => logResult (deliverMem s o) o f.vd.toNat (2 + verBytes f / 4)
  | .aAdd f | .aMin f | .aMax f | .aAnd f | .aOr f | .aXor f | .aXchg f | .aCas f | .aFadd f | .aInc f =>
    logResult (deliverMem s o) o f.vd.toNat (atomBytes f.width.toNat / 4)
  | _ => deliverMem s o

/-- A lost member dooms the lanes it met, or the whole team where the access was the team's (R365). -/
def doomLost (s : State) (o : Op) : State :=
  if o.kills.isEmpty then s
  else if o.arg.head? = some 0 then doom s (lanesOf (liveM s.cur) s.cur.width) o.pc
  else doom s o.kills o.pc

/-- Poison that a team's own read met kills the team: that of a vault word by the word's cell, that of global memory by no storage of a cell (R364,
R371). -/
def killRead (s : State) (o : Op) : State :=
  match o.acc with
  | a :: _ => if a.mt = vaultMt then killBy s o.pc a.pa else killTeam s o.pc
  | [] => killTeam s o.pc

/-- A memory operation all of whose accesses have taken their steps completes. -/
def finishMem (s : State) (o : Op) : State :=
  let s := if o.killAll then killRead s o else writeResult s o
  boundary (modCur (doomLost s o) (fun t => retireOp t o))

/-- Every access that is still to come takes its step, then the operation completes. -/
def completeMem (s : State) (o : Op) : State :=
  let s := (stepsOf o.i (undone o)).foldl (performGroup o.id) s
  match s.cur.ops.find? (fun p => p.id == o.id) with
  | none => s
  | some o => finishMem s o

/-- The effect of a matrix operation. -/
def matrixEffect (s : State) (o : Op) : Option MxRes :=
  match o.i with
  | .mxZero f => some (.inr (completeZero s o f.td.toNat))
  | .mxLd f => some (.inr (completeTileLd s o f.td.toNat))
  | .mxSt f => some (.inr (completeTileSt s o f.td.toNat))
  | .mxMma f => some (completeMma s o f)
  | .mxBpmma f => some (completeBpmma s o f)
  | .mxSlice f => some (.inr (completeSlice s o f))
  | .mxDmma f => some (completeDmma s o f)
  | .mxWz f => some (.inr (completeWz s o f.td.toNat))
  | .mxRc f | .mxBnd f => some (.inr (completeRc s o f))
  | _ => none

/-- A matrix operation completes, or its Tile Fault is deferred (R196). -/
def completeMatrix (s : State) (o : Op) : Option State :=
  (matrixEffect s o).map (fun r => match r with
    | .inl x => deferFault s o 0xF x.1 x.2 none false
    | .inr s => boundary (modCur s (fun t => retireOp t o)))

/-- A fence completes once what it covers is performed (R176); a `bar.arr` counts once its release is met (R189). -/
def completeOrder (s : State) (o : Op) : Option State :=
  match o.i, o.arg with
  | .fence _, k :: ss :: _ | .fenceX _, k :: ss :: _ =>
    if fenceMet s.cur o k ss then some (modCur (acquireAt s k o.scope) (fun t => retireOp t o)) else none
  | .barArr f, _ => if releaseMet s.cur o.id then some (modCur (countArrival s f) (fun t => retireOp t o)) else none
  | .gDone _, first :: _ => if first = 0 || meshSent s s.cur.blk then some (modCur s (fun t => retireOp t o)) else none
  | _, _ => none

/-- Complete an operation of the current team, where it may. -/
def completeOp (s : State) (id : Nat) : Option State :=
  match s.cur.ops.find? (fun o => o.id == id) with
  | none => none
  | some o =>
    if isEngine o.i then none
    else if memOp o.i then (if gateOpen s o then some (completeMem s o) else none)
    else match completeOrder s o with
      | some s => some s
      | none => match completeQuery s o with
        | some s => some s
        | none => match completeSys s o with
          | some s => some s
          | none => if gateOpen s o && !tileBusy s o then completeMatrix s o else none

/-- LONG_LATENCY_COMPLETION. -/
def execLongLatencyCompletion (tid id : Nat) (s : State) : Host.Outcome State Fault Refusal :=
  ok (inTeam s tid (fun s => completeOp s id))

end Sys2Proof.Machine
end

