-- ==== Sys2Proof/Machine/Launch.lean ====
section
/-! DEFINITION. Taking a launch (R289 to R296): descriptor, edge list, constants, the pixel-stage and pass descriptors of a
mesh launch (R312 to R317, R319), carried regions (R266), rejection. -/

namespace Sys2Proof.Machine

/-! ## The descriptor (R289) -/

/-- Ranges of bits that are reserved: nonzero in one of them. -/
def anyBits (x : Nat) (l : List (Nat × Nat)) : Bool := l.any (fun r => bitsOf x r.1 r.2 != 0)

def descRsv : List (Nat × Nat) :=
  [(1023, 824), (767, 720), (575, 544), (511, 504), (479, 474), (447, 445), (439, 439), (431, 430), (415, 414), (399, 399),
   (319, 312), (255, 248), (191, 184), (127, 120), (63, 56)]

def descOf (x : Nat) : Desc :=
  let b (h l : Nat) : Nat := bitsOf x h l
  { status := b 823 768, dies := b 719 576, id := b 543 512, draw := b 503 480, wcols := b 473 467, wcol0 := b 466 460
    wrows := b 459 454, wrow0 := b 453 448, fhost := x.testBit 444, stream := b 443 440, prio := b 438 436, priv := x.testBit 435
    prot := x.testBit 434, stage := b 433 432, kwords := b 429 420, gangf := b 419 418, gangp := b 417 416, tiles := b 413 410
    vunits := b 409 400, xregs := b 398 396, nteams := b 395 392 + 1, pair := x.testBit 391, gcode := b 390 389, wcode := b 388 384
    dz := b 383 368, dy := b 367 352, dx := b 351 320, pxdesc := b 311 256, edge := b 247 192, kconst := b 183 128
    handler := b 119 64, kaddr := b 55 0, rsv := anyBits x descRsv }

/-! ## Field checks (R291) -/

/-- `0x02`: team shape (R16 to R18); a paired team has an even number of rows, of the visible ones too (log 74). -/
def Desc.badShape (d : Desc) : Bool :=
  d.w % d.g != 0 || (d.paired && ((d.wcode + 1) % 2 == 1 || (d.prot && d.w / 64 % 2 == 1))) || (d.prot && ((d.w / 2) % 32 != 0 || (d.w / 2) % d.g != 0))
/-- `0x03`: resources (R30, R190). -/
def Desc.badResources (d : Desc) : Bool :=
  decide (512 < d.nteams * d.granules * (1 + d.xregs)) || decide (768 < d.vunits) || decide (16 < d.tilesHeld)
/-- `0x04`: window. -/
def Desc.badWindow (d : Desc) : Bool := decide (63 < d.wrow0 + d.wrows) || decide (71 < d.wcol0 + d.wcols)
/-- Codes `0x01` to `0x04`. -/
def Desc.shapeCode (d : Desc) : Option Nat :=
  if d.rsv || d.gcode == 3 || d.gangp == 3 || d.gangf == 3 then some 1
  else if d.badShape then some 2 else if d.badResources then some 3 else if d.badWindow then some 4 else none
/-- `0x06`: alignment of the addresses that every stage uses; KADDR is required. -/
def Desc.badAddrs (d : Desc) : Bool :=
  d.status % 64 != 0 || d.kconst % 8 != 0 || d.handler % 8 != 0 || d.kaddr % 8 != 0 || d.kaddr == 0

/-! ## The edge list (R293) -/

/-- A header's producers, or none where it is malformed. -/
def edgeProds (h : Nat) : Option (List Nat) :=
  let n := bitsOf h 11 8
  let prods := (List.range 8).map (fun k => bitsOf h (32 * k + 159) (32 * k + 128))
  if bitsOf h 511 384 != 0 || bitsOf h 127 12 != 0 || n = 0 || decide (8 < n) || (prods.drop n).any (· != 0) then none
  else some (prods.take n)

/-- One region entry, or none where it is malformed. -/
def edgeRegion (e : Nat) : Option (Nat × Nat) :=
  let len := bitsOf e 127 64; let base := bitsOf e 55 0
  if bitsOf e 63 56 != 0 || len = 0 || decide (2 ^ 56 < base + len) then none else some (base, len)

def readEdge (s : State) (d : Desc) : EdgeRes × State :=
  if d.edge = 0 then (.good [] [], s)
  else match distRead s d.edge 64 with
    | (none, s) => (.unread, s)
    | (some h, s) =>
      let h := bytesVal h
      match distRead s (d.edge + 64) (16 * bitsOf h 7 0) with
      | (none, s) => (.unread, s)
      | (some r, s) =>
        match edgeProds h, (List.range (bitsOf h 7 0)).mapM (fun i => edgeRegion (bytesVal ((r.drop (16 * i)).take 16))) with
        | some p, some g => (.good p g, s)
        | _, _ => (.malformed, s)

/-- An owner die's part of the open pass. -/
def ownerOf (s : State) (die : Nat) : Owner := NMap.get {} s.parlour.owners die

/-- No fragment of a draw is left at an owner or in its pixel blocks. -/
def mergedAt (s : State) (die : Nat) (p : Frag → Bool) : Bool :=
  let o := ownerOf s die
  !o.ready.any p && !o.merge.any p
    && !s.blocks.any (fun b => b.pixel && b.die == die && b.frags.any (fun g => match g with | some g => p g && !g.dead | none => false))

/-- A pixel block on a die still holds a fragment, discarded or not, that a predicate picks: an access of the block may come (R266). -/
def pixelStands (s : State) (die : Nat) (p : Frag → Bool) : Bool :=
  s.blocks.any (fun b => b.pixel && b.die == die && b.frags.any (fun g => match g with | some g => p g | none => false))

/-- Something of a launch's draw in the open pass is left at an owner: a primitive that is neither consumed nor voided, a fragment that is not
merged, or a pixel block that holds one of its fragments (R266, log 38). -/
def drawLeft (s : State) (lid : Nat) : Bool :=
  match s.parlour.pass with
  | none => false
  | some p => match p.draws.find? (fun d => d.lid == lid) with
    | none => false
    | some d => p.owners.any (fun o => decide ((ownerOf s o).draw ≤ d.ord) || !mergedAt s o (fun f => f.draw == d.ord)
        || pixelStands s o (fun f => f.draw == d.ord))

/-- A launch of the ID is unfinished: it waits in a queue of the panel, is active, or is an aborted draw of which something is left (R293, R266). -/
def unfinished (s : State) (id : Nat) : Bool :=
  s.launches.any (fun l => l.d.id == id && !l.pixel && (l.status == .active || drawLeft s l.lid))
    || s.dies.any (fun e => e.2.queues.any (fun q => q.2.any (fun x => bitsOf x.bits.toNat 543 512 == id)))

/-! ## The pixel stage (R312 to R316) -/

/-- What reading the 128 bytes of a descriptor gives: none where the read fails. -/
def readDesc (s : State) (a : Nat) : Option Nat × State :=
  match distRead s a 128 with
  | (none, s) => (none, s)
  | (some d, s) => (some (bytesVal d), s)

/-- The pixel-stage descriptor breaks R313 or fails `0x01` to `0x04` or `0x06` for its own fields. -/
def Desc.badPixel (d : Desc) : Bool :=
  d.shapeCode.isSome || d.badAddrs || d.stage != 3 || d.edge == 0 || d.edge % 128 != 0 || d.dx != 1 || d.dy != 1 || d.dz != 1
    || d.dies != 0 || d.draw != 0 || d.pxdesc != 0 || d.gangp != 0 || d.gangf != 0 || decide (512 < d.kwords)

/-- Bytes of a pixel of a format (R335). -/
def fmtBytes (c : Nat) : Nat := match c with | 0 => 4 | 1 => 8 | 2 => 16 | _ => 4

def targetOf (e : Nat) : Target :=
  { base := bitsOf e 55 0, pitch := bitsOf e 127 96, fmt := bitsOf e 69 68, enable := e.testBit 70, blend := e.testBit 71
    csrc := bitsOf e 74 72, cdst := bitsOf e 77 75, asrc := bitsOf e 80 78, adst := bitsOf e 83 81, wmask := bitsOf e 87 84 }

/-- A target entry breaks R315 for a width. -/
def badTarget (e width : Nat) : Bool :=
  let t := targetOf e
  if !t.enable then e != 0
  else bitsOf e 95 88 != 0 || bitsOf e 67 56 != 0 || [t.csrc, t.cdst, t.asrc, t.adst].any (fun f => decide (5 < f))
    || t.base % 128 != 0 || t.pitch % 128 != 0 || decide (t.pitch < fmtBytes t.fmt * (width + 1))

/-- A pass descriptor as a pass with no owner and no draw; its table is read apart. -/
def passOf (addr x : Nat) : Pass :=
  let b (h l : Nat) : Nat := bitsOf x h l
  let used := x.testBit 83 || x.testBit 84
  { addr := addr, view := (List.range 6).map (fun i => BitVec.ofNat 32 (b (351 + 32 * i) (320 + 32 * i)))
    dpitch := if used then b 319 288 else 0, dbase := if used then b 287 232 else 0
    first := b 143 120, ndraws := b 167 144 + 1, height := b 119 106, width := b 105 92, reserve := b 91 88, dfunc := b 87 85
    dwrite := x.testBit 84, dtest := x.testBit 83, cull := b 82 81, front := b 80 80
    targets := (List.range 4).map (fun k => targetOf (b (639 + 128 * k) (512 + 128 * k))) }

/-- The address of the ownership table. -/
def passTot (x : Nat) : Nat := bitsOf x 223 168

/-- A pass descriptor breaks R314 or R315. -/
def badPass (x : Nat) : Bool :=
  let p := passOf 0 x
  let used := p.dtest || p.dwrite
  anyBits x [(79, 0), (231, 224)] || p.cull == 3 || p.reserve == 0 || passTot x % 256 != 0
    || decide (2 ^ 24 ≤ p.first + p.ndraws - 1)
    || (if used then p.dpitch % 128 != 0 || decide (p.dpitch < 4 * (p.width + 1)) || p.dbase % 128 != 0 else bitsOf x 287 232 != 0)
    || (List.range 4).any (fun k => badTarget (bitsOf x (639 + 128 * k) (512 + 128 * k)) p.width)
    || !p.targets.any (·.enable)

/-- The ownership entries of the tiles within the area, by rows; none where a read fails (R319). -/
def readTot (s : State) (tot : Nat) (p : Pass) : Option (List Nat) × State :=
  (List.range (p.height / 64 + 1)).foldl (fun (r : Option (List Nat) × State) y => match r with
    | (none, s) => (none, s)
    | (some l, s) => match distRead s (tot + 256 * y) (p.width / 64 + 1) with
      | (none, s) => (none, s)
      | (some d, s) => (some (l ++ d.map (·.toNat)), s)) (some [], s)

/-- What the pixel side of a mesh launch gives: a code, or the pixel-stage descriptor and the pass that it opens or joins. -/
inductive PxRes where
  | code (c : Nat)
  | good (px : Desc) (pass : Pass)
deriving DecidableEq, Repr

/-- The pass that a pixel-stage descriptor names, to be opened (R316). -/
def readPass (s : State) (px : Desc) : PxRes × State :=
  match readDesc s px.edge with
  | (none, s) => (.code 0xB, s)
  | (some x, s) =>
    if badPass x then (.code 0xB, s)
    else
      let p := passOf px.edge x
      match readTot s (passTot x) p with
      | (none, s) => (.code 0xB, s)
      | (some t, s) =>
        if t.any (fun d => d != 255 && !isLive s d) then (.code 0xB, s)
        else (.good px { p with tot := t, owners := (distinct t).filter (· != 255) }, s)

/-- The checks `0x0B` and `0x0C` of a mesh launch (R316). -/
def checkMesh (s : State) (d : Desc) : PxRes × State :=
  match readDesc s d.pxdesc with
  | (none, s) => (.code 0xB, s)
  | (some x, s) =>
    let px := descOf x
    if px.badPixel then (.code 0xB, s)
    else
      let (r, s) := match s.parlour.pass with
        | some p => (PxRes.good px p, s)
        | none => readPass s px
      match r with
      | .code c => (.code c, s)
      | .good px p =>
        if d.draw < p.first || p.first + p.ndraws ≤ d.draw || p.draws.any (fun e => e.ord == d.draw) then (.code 0xC, s)
        else (.good px p, s)

/-- The address of the pass that a mesh launch's pixel-stage descriptor names, where it can be read (R317). -/
def namedPass (s : State) (d : Desc) : Option Nat :=
  if d.stage ≠ 2 || d.pxdesc % 128 != 0 then none
  else match readDesc s d.pxdesc with
    | (some x, _) => some (descOf x).edge
    | (none, _) => none

/-! ## Eligibility (R293, R296, R317, R394) -/

/-- The edge list that a descriptor names; a pixel-stage descriptor's EDGE names no list (R313). -/
def readEdges (s : State) (d : Desc) : EdgeRes × State := if d.stage = 3 then (.good [] [], s) else readEdge s d

/-- Every named producer is finished; a list that cannot be read or is malformed holds nothing back, its launch is rejected. The list
is the one that was read when the launch reached the head of its queue (R293). -/
def edgeMet (s : State) (d : Desc) (e : QEntry) : Bool :=
  if d.edge % 64 != 0 then true
  else match e.edgelist.getD (readEdges s d).1 with
    | .good ps _ => ps.all (fun p => !unfinished s p)
    | _ => true

def eligible (s : State) (e : QEntry) : Bool :=
  let d := descOf e.bits.toNat
  let trained := s.host.stage != .one || (List.range 144).all (fun x => !d.dies.testBit x || (dieOf s x).ready || (dieOf s x).dropped)
  let passOk := match s.parlour.pass, namedPass s d with
    | some p, some a => d.stage != 2 || p.addr == a
    | _, _ => true
  trained && passOk && edgeMet s d e

/-- The launch at the head of a queue has its edge list read (R293). -/
def readHead (s : State) (die q : Nat) : State :=
  match NMap.get [] (dieOf s die).queues q with
  | [] => s
  | e :: r =>
    let d := descOf e.bits.toNat
    if e.edgelist.isSome || d.edge = 0 || d.edge % 64 != 0 || !isLive s die then s
    else
      let (x, s) := readEdges s d
      modDie s die (fun k => { k with queues := NMap.set [] k.queues q ({ e with edgelist := some x } :: r) })

/-- Every head that has not been read. -/
def readHeads (s : State) : State :=
  s.dies.foldl (fun s e => e.2.queues.foldl (fun s q => readHead s e.1 q.1) s) s

/-- The queue whose head a distributor takes (R296): the eligible head of highest PRIO, then of lowest number. -/
def pickQueue (s : State) (die : Nat) : Option Nat :=
  let heads := (dieOf s die).queues.filterMap (fun q => q.2.head?.bind (fun e => if eligible s e then some (q.1, (descOf e.bits.toNat).prio) else none))
  (heads.foldl (fun (m : Option (Nat × Nat)) h => match m with
    | none => some h
    | some x => if x.2 < h.2 then some h else some x) none).map (·.1)

/-! ## The checks in order (R291, R316) -/

/-- What the checks give: a rejection, or all that the launch is taken with. -/
structure Taken where
  code    : Option Nat := none
  consts  : List Byte := []
  regions : List (Nat × Nat) := []
  px      : Option (Desc × Pass) := none
  pxconst : List Byte := []
deriving DecidableEq, Repr

/-- Read the constants of a descriptor (R292). -/
def readConsts (s : State) (d : Desc) : Option (List Byte) × State := distRead s d.kconst (8 * min d.kwords 512)

/-- Codes `0x01` to `0x0A` but for what reading memory decides. A pixel-stage descriptor, whose DIES is 0, comes to `0x09` (R313). -/
def earlyCode (s : State) (d : Desc) : Option Nat :=
  match d.shapeCode with
  | some c => some c
  | none =>
    if d.stage != 3 && (launchDies s d).isEmpty then some 5
    else if d.badAddrs || d.edge % 64 != 0 || d.pxdesc % 128 != 0 || (d.pxdesc != 0) != (d.stage == 2) then some 6
    else none
def lateCode (d : Desc) (priv : Bool) : Option Nat :=
  if d.dx = 0 || d.dy = 0 || d.dz = 0 || 2 ^ 32 ≤ d.blocks then some 7
  else if d.priv && !priv then some 8
  else if d.stage = 3 || (d.draw != 0 && d.stage != 2) then some 9
  else none

/-- All checks of a descriptor; the reads that fail count as `0x06` in its place (R291, R292). -/
def checkLaunch (s : State) (d : Desc) (e : QEntry) : Taken × State :=
  match earlyCode s d with
  | some c => ({ code := some c }, s)
  | none =>
    let (x, s) := match e.edgelist with | some x => (x, s) | none => readEdges s d
    let (k, s) := if 512 < d.kwords then (some [], s) else readConsts s d
    match x, k with
    | .unread, _ => ({ code := some 6 }, s)
    | _, none => ({ code := some 6 }, s)
    | x, some k => match lateCode d e.priv with
      | some c => ({ code := some c }, s)
      | none => match x with
        | .good _ g =>
          if 512 < d.kwords then ({ code := some 0xA }, s)
          else if d.stage ≠ 2 then ({ consts := k, regions := g }, s)
          else match checkMesh s d with
            | (.code c, s) => ({ code := some c }, s)
            | (.good px p, s) => match readConsts s px with
              | (none, s) => ({ code := some 6 }, s)
              | (some c, s) => ({ consts := k, regions := g, px := some (px, p), pxconst := c }, s)
        | _ => ({ code := some 0xA }, s)

/-! ## Draws and passes (R317, R326) -/

/-- Send a draw or end mark to every owner of the open pass. -/
def sendMarks (s : State) (kind src draw count : Nat) : State :=
  match s.parlour.pass with
  | none => s
  | some p => send s (p.owners.map (fun o => .mark kind src o draw 0 count 0))

/-- Add a draw to the open pass. -/
def addDraw (s : State) (d : Draw) : State :=
  { s with parlour := { s.parlour with pass := s.parlour.pass.map (fun p => { p with draws := p.draws ++ [d] }) } }

/-- A rejected mesh launch of the open pass resolves its DRAW as a draw of no ordinals (R317). -/
def resolveRejected (s : State) (d : Desc) (code home : Nat) : State :=
  match s.parlour.pass, namedPass s d with
  | some p, some a =>
    if code != 0xC && p.addr == a && decide (p.first ≤ d.draw) && decide (d.draw < p.first + p.ndraws)
        && !p.draws.any (fun e => e.ord == d.draw) then
      sendMarks (addDraw s { ord := d.draw, ended := true }) 3 home d.draw 0
    else s
  | _, _ => s

/-- The launch that runs the pixel blocks of a pixel-stage descriptor in a pass: one for each descriptor (R313). -/
def pixelLaunch (s : State) (addr home : Nat) (px : Desc) (p : Pass) (consts : List Byte) : Nat × State :=
  let d := { px with pxdesc := addr, dies := p.owners.foldl (fun m o => m ||| 2 ^ o) 0 }
  match s.launches.find? (fun l => l.pixel && l.pass == p.addr && l.d == d && l.consts == consts && l.status == .active) with
  | some l => (l.lid, s)
  | none =>
    let (lid, s) := freshId s
    let r := (NMap.get none s.records px.kaddr).getD {}
    (lid, { s with launches := s.launches ++ [{ lid := lid, d := d, home := home, consts := consts, image := r.image, rings := r.rings
                                                pass := p.addr, pixel := true, next := 1 }] })

/-- An accepted mesh launch opens its pass or joins it, and its draw marks go out (R317, R323). -/
def joinPass (s : State) (lid home : Nat) (d : Desc) (px : Desc) (p : Pass) (consts : List Byte) : State :=
  let s := if s.parlour.pass.isSome then s else
    { s with dies := s.dies.map (fun e => (e.1, { e.2 with pxcount := 0 })), parlour := { s.parlour with
        pass := some p
        owners := p.owners.foldl (fun m o => NMap.put o { draw := p.first } m) [] } }
  let (pl, s) := pixelLaunch s d.pxdesc home px p consts
  let s := addDraw s { ord := d.draw, lid := lid, nord := 256 * d.blocks, pxlid := pl }
  sendMarks s 2 home d.draw (256 * d.blocks)

/-! ## LAUNCH_TAKE -/

/-- A physical address lies in a carried line: a line that a region meets, under the panel's tables (R266; log 26). -/
def carriedLine (s : State) (regions : List (Nat × Nat)) (pa : Nat) : Bool :=
  regions.any (fun r =>
    let p0 := r.1 / 65536; let last := r.1 + r.2 - 1
    (List.range (last / 65536 + 1 - p0)).any (fun i =>
      let va := 65536 * (p0 + i)
      match (walkPlain s va).1 with
      | none => false
      | some l =>
        let p := leafPa l va
        let x := (va + (pa - p)) / 128
        decide (p ≤ pa) && decide (pa < p + 65536) && decide (r.1 / 128 ≤ x) && decide (x ≤ last / 128)))

/-- The L1s of every cell of a descriptor's dies and window lose the carried lines (R266, step 2). -/
def clearWindow (s : State) (regions : List (Nat × Nat)) (d : Desc) : State :=
  { s with cells := s.cells.map (fun e =>
      if (launchDies s d).contains (e.1 / 4608) && inWindow d (e.1 % 4608)
      then (e.1, { e.2 with l1 := e.2.l1.filter (fun b => !carriedLine s regions b.pa) }) else e) }

/-- A launch is removed from its queue and taken by a distributor, or rejected (R291, R292, R296). -/
def takeEntry (s : State) (die : Nat) (e : QEntry) : State :=
  let d := descOf e.bits.toNat
  let (t, s) := checkLaunch s d e
  let (lid, s) := freshId s
  match t.code with
  | some c =>
    let s := { s with
      launches := s.launches ++ [{ lid := lid, d := d, home := die, status := .rejected c }]
      statusq := s.statusq ++ [{ lid := lid, state := 4, code := c }] }
    if d.stage = 2 then resolveRejected s d c die else s
  | none =>
    let r := (NMap.get none s.records d.kaddr).getD {}
    let regions := t.regions ++ e.edge.toList
    let s := regions.foldl cleanRegion s
    let s := if regions.isEmpty then s else clearWindow s regions d
    let s := match regions.isEmpty, t.px with
      | false, some (px, p) => clearWindow s regions { px with dies := p.owners.foldl (fun m o => m ||| 2 ^ o) 0 }
      | _, _ => s
    let s := { s with
      launches := s.launches ++ [{ lid := lid, d := d, home := die, consts := t.consts, image := r.image, rings := r.rings
                                   regions := regions, pass := match t.px with | some (_, p) => p.addr | none => 0 }] }
    let s := (launchDies s d).foldl (fun s x => modDie s x (fun k => { k with active := k.active ++ [lid] })) s
    let s := match t.px with
      | some (px, p) => joinPass s lid die d px p t.pxconst
      | none => s
    let s := firstDeal s lid
    (launchDies s d).foldl (fun s x => priorityPreempt s lid x) s

/-- LAUNCH_TAKE: a distributor with room takes the queue head that R296 names, if it is the head of queue q. -/
def execLaunchTake (die q : Nat) (s : State) : Host.Outcome State Fault Refusal :=
  ok (if !isLive s die || !dieRuns s die || 32 ≤ (dieOf s die).active.length || pickQueue s die ≠ some q then s
    else match (NMap.get [] (dieOf s die).queues q) with
      | [] => s
      | e :: rest => takeEntry (modDie s die (fun k => { k with queues := NMap.set [] k.queues q rest })) die e)

end Sys2Proof.Machine
end

