-- ==== Sys2Proof/Machine/Preempt.lean ====
section
/-! DEFINITION. Stopping and saving blocks (R304 to R307, R217), rotation (R303), resumption (R309), the re-run of a protected
block (R375, R376). -/

namespace Sys2Proof.Machine

/-! ## Stopping a team (R305) -/

/-- The team stands stalled at an instruction at which it stops at once (R133, R178, R217, R247); at a `bar` or `gbar` it has arrived by then
(R189). -/
def stopsStalled (t : Team) : Bool :=
  t.stalled && (match t.clause with | some c => c.pipe.isNone | none => false) && (match currentInstr t with
    | some (.swWait _) | some (.qPush _) | some (.qPop _) | some (.barWt _) => true
    | some (.bar _) | some (.gbar _) => t.barin.isSome
    | some (.racq _) | some (.sleep _) => true
    | some (.tacq f) => decide (8 ≤ f.td.toNat)
    | _ => false)

/-- A running team may stop now: at its clause boundary, or stalled. -/
def mayStop (s : State) (t : Team) : Bool :=
  (t.preempt || (blockOf s t.blk).wantrun) && t.ops.isEmpty && ((t.clause.isNone && mustStop s t) || stopsStalled t)

/-- The team leaves the queues in which it waits (R133, R217). -/
def leaveQueues (s : State) (t : Team) : State :=
  { s with
    qwait := s.qwait.filter (fun q => q.2.1 != t.tid)
    cells := s.cells.map (fun e => (e.1, { e.2 with regq := e.2.regq.filter (fun q => q.1 != t.tid)
                                                    wideq := e.2.wideq.filter (fun q => q.1 != t.tid) }))
    dies := s.dies.map (fun e => (e.1, { e.2 with
      walkq := e.2.walkq.map (fun w => { w with by_ := w.by_.filter (fun b => b.2 != t.tid), ops := w.ops.filter (fun b => b.2.1 != t.tid) })
      walking := e.2.walking.map (fun w => { w with by_ := w.by_.filter (fun b => b.2 != t.tid), ops := w.ops.filter (fun b => b.2.1 != t.tid) }) })) }

/-- The tiles that a copy holds: 0–7 accumulator, 8–9 wide. -/
def heldTiles (r : Regs) : List Nat := r.tile.map (fun e => e.1) ++ r.wide.map (fun e => 8 + e.1)

/-- The code words of a copy with an uncorrectable error, with the cell of each. -/
def lostWords (t : Team) (sh : Bool) : List FoundErr :=
  (lostIn t.r.sbad).map (fun e => ⟨t.cell, regWord t sh (teamWord e.1), e.2⟩)
  ++ (lostIn t.r.vbad).map (fun e => ⟨laneCell t (e.1 % 1024), regWord t sh e.1, e.2⟩)
  ++ (heldTiles t.r).flatMap (fun td => (lostIn (tileErrs t.r td)).map (fun e => ⟨laneCell t (tileBase t td), regWord t sh (tileWord td e.1), e.2⟩))

/-- Errors in the current team's registers and tiles are found as its context is saved: poison that no lane receives is
latent (R361, R367); team state that is lost kills the team (R364). -/
def findAll (s : State) : State :=
  let granules (m : NMap (Option Err)) : List Nat := m.map (fun e => gkey (e.1 / 1024) (e.1 % 1024 / 32))
  let h := s.cur.sh.getD {}
  let gs := distinct (granules s.cur.r.vbad ++ granules h.vbad)
  let before := s.cur.r.vpois
  let s := noteLatent (gs.foldl readGranule s) before []
  let s := (heldTiles s.cur.r).foldl (fun s td => (readRows s td [] s.cur.pc).2) s
  let s := ((h.sbad.map (fun e => e.1)).foldl (meetTeamWord true) (s, false)).1
  (readTeamState s (s.cur.r.sbad.map (fun e => e.1)) s.cur.pc).1

/-- The tiles of a saved team (R134, R217): at a `pmark` those that it does not name read zero when they are held again;
without one all are kept. -/
def keepTiles (stalled : Bool) (t : Team) : Team :=
  match t.pmark with
  | none => t
  | some (tl, wl) =>
    if stalled || t.timeout then t
    else deliverRegs (fun r => { r with
      tile := r.tile.map (fun e => (e.1, e.2.map (fun x => if tl.testBit e.1 then x else { base := x.base })))
      wide := r.wide.map (fun e => (e.1, e.2.map (fun x => if wl.testBit e.1 then x else { base := x.base }))) }) t

/-- The errors of a team that stops are found. An uncorrectable one in a copy of a protected team is a mismatch with nothing held (R376); a team that
stops for a re-run keeps nothing of its registers. Whether the team is saved now, and not held for a re-run. -/
def findStop (s : State) : State × Bool :=
  let lost : List FoundErr := match s.cur.sh with
    | none => []
    | some h => lostWords s.cur false ++ lostWords (shadow s.cur h) true
  if (curBlock s).wantrun then (s, true)
  else if lost.isEmpty then (findAll s, true)
  else match mismatchErrs s lost with
    | .trap s x => (modCur s (fun t =>
        { t with deferred := t.deferred ++ [{ op := { id := t.nextOp, pc := t.pc }, cause := x.cause, detail := x.detail, addr := x.addr }] }), true)
    | .leave s | .done s | .goto s _ | .stall s => (s, false)

/-- The current team stops. -/
def stopTeam (s : State) : State :=
  let (s, saved) := findStop (leaveQueues s s.cur)
  if !saved then s else modCur s (fun t => { keepTiles t.clause.isSome t with
    status := .saved, walks := [], slept := false, slotwait := false
    saveobs := if t.deferred.isEmpty then t.saveobs else some t.handler.isSome })

/-- A team that issues no more until its block goes on: saved, ended, stopped for the host, or held at a mismatch. -/
def isDown (t : Team) : Bool :=
  t.ops.isEmpty && (match t.status with | .saved | .ended | .stopped _ | .held => true | _ => false)

/-! ## Saving a block (R306) -/

/-- Bytes of an allocation as they are saved, with their poison. -/
def readImage (s : State) (b : Block) : List PByte × State :=
  (blockCells b).foldl (fun (r : List PByte × State) c =>
    let (d, s) := readVault r.2 (vltKey b.die c (256 * b.vbase)) (256 * b.vsize)
    (r.1 ++ d, s)) ([], s)

/-- The saving die writes a block's context to its save area (R306): which bytes, and where in the area, the spec does not state (log 10). A line that
cannot be written is left. -/
def writeSave (s : State) (b : Block) : State :=
  let d := dieOf s b.die
  let n := contextOf s b
  let (k, s) := tick s
  let (m, s) := tick s
  let off := (Config.freeBits 64 k).toNat % (d.savecap - n + 1)
  (piecesOf (d.savebase + off) n).foldl (fun s p =>
    (agentWriteLine s p.1 ((List.range p.2).map (fun i => (Config.savedByte m (p.1 + i), false)))).getD s) s

/-- A block's context is saved and its cells are freed. -/
def saveBlock (s : State) (bid : Nat) : State :=
  let b := blockOf s bid
  let (d, s) := readImage s b
  let s := writeSave s b
  let pois := (List.range (d.length / 16)).foldl (fun m i => if (d.getD (16 * i) (0, false)).2 then NMap.put i true m else m) ([] : NMap Bool)
  let (n, s) := freshId s
  let s := modBlock s bid (fun b => { b with status := .waiting, image := plain d, imgpois := pois, start := n, preempt := false, heldp := false })
  let s := mapTeams s (fun t => if t.blk == bid then
    { t with preempt := false, pmark := none, timeout := false, walks := []
             saveobs := if t.deferred.isEmpty then t.saveobs else some t.handler.isSome } else t)
  let s := modLaunch s b.lid (fun l => { l with preempts := min (2 ^ 32 - 1) (l.preempts + 1) })
  offerGranules s b.die (blockCells b)

/-- Every team of the gang's blocks is down, and the pre-emption of each has been accepted: the gang is saved together. -/
def saveGang (s : State) (b : Block) : State :=
  let bs := gangBlocks s b.lid b.gang
  if bs.all (fun c => c.status == .resident && preempting s c && !c.wantrun && (teamsOf s c.bid).all isDown
      && !(teamsOf s c.bid).all (fun t => t.status == .ended)) then
    bs.foldl (fun s c => saveBlock s c.bid) s
  else s

/-- TEAM_STOP (R305): a requested team stops where it may; the last one lets its gang be saved. -/
def execTeamStop (tid : Nat) (s : State) : Host.Outcome State Fault Refusal :=
  ok (inTeam s tid (fun s =>
    let s' := if s.cur.status == .running && mayStop s s.cur then stopTeam s else s
    if isDown s'.cur && s'.cur.preempt then some (saveGang s' (curBlock s')) else some s'))

/-- PMARK_TIMEOUT (R305): a requested team that holds tiles has met no `pmark` in time. -/
def execPmarkTimeout (tid : Nat) (s : State) : Host.Outcome State Fault Refusal :=
  ok (modTeam s tid (fun t => if t.preempt && t.pmark.isNone then { t with timeout := true } else t))

/-! ## Requests that wait for room (R307) -/

/-- A host's or a drain's request: accepted with the block's gang, or held where the save area has no room; each held block has
its record. A mesh block's request waits for its end (R318). -/
def tryPreempt (s : State) (b : Block) : State :=
  if b.status != .resident || !b.preempt || preempting s b || isMesh s b then s
  else
    let bs := gangBlocks s b.lid b.gang
    if saveRoom s b.die bs then acceptPreempt s (bs.map (·.bid))
    else if b.heldp then s
    else bs.foldl (fun s c => if c.heldp then s else
        emit (modBlock s c.bid (fun b => { b with preempt := true, heldp := true })) (srcDie c.die)
          { kind := 0x10, detail := 4, launch := (launchOf s c.lid).d.id }) s

/-- HELD_PREEMPT_RETRY: a held request is tried again. -/
def execHeldPreemptRetry (bid : Nat) (s : State) : Host.Outcome State Fault Refusal :=
  ok (match block? s bid with
    | some b => if b.heldp then tryPreempt s b else s
    | none => s)

/-! ## Rotation (R303) -/

/-- The first of a list by a rank. -/
def leastBy (f : Block → Nat) : List Block → Option Block
  | [] => none
  | b :: t => match leastBy f t with
    | none => some b
    | some c => if f b ≤ f c then some b else some c

/-- A saved gang of a launch finds no cluster of a die that admits it. -/
def stuckOn (s : State) (die : Nat) (b : Block) : Bool :=
  let l := launchOf s b.lid
  !(windowClusters l.d).any (fun c => (resumeCells s (gangBlocks s b.lid b.gang) l.d die c).isSome)

/-- A launch's rotation on a die: the block of it that has waited longest with no admitting cell, and the one that has been resident in the window
longest, where that one can be pre-empted now. -/
def rotationOf (s : State) (die lid : Nat) : Option (Block × Block) :=
  match leastBy (·.start) (s.blocks.filter (fun b => b.lid == lid && b.status == .waiting && b.die == die && stuckOn s die b)),
      leastBy (·.start) (s.blocks.filter (fun b => b.lid == lid && b.status == .resident && b.die == die && !isMesh s b
        && (blockCells b).any (inWindow (launchOf s b.lid).d))) with
  | some w, some b =>
    let bs := gangBlocks s b.lid b.gang
    if preempting s b || bs.any (·.wantrun) || !saveRoom s die bs then none else some (w, b)
  | _, _ => none

/-- ROTATION: of the launches that have a rotation on a die, that of the block that has waited longest: the resident block is pre-empted with its
gang, and its place is kept for the other. That both have lasted the interval is the schedule's (log 3). -/
def execRotation (die : Nat) (s : State) : Host.Outcome State Fault Refusal :=
  ok (if !isLive s die || !dieRuns s die then s
    else match leastBy (·.start) (s.launches.filterMap (fun l => (rotationOf s die l.lid).map (·.1))) with
      | none => s
      | some w => match rotationOf s die w.lid with
        | none => s
        | some (_, b) =>
          modDie (acceptPreempt s ((gangBlocks s b.lid b.gang).map (·.bid))) die (fun d =>
            { d with rota := (clusterOf b.cell, w.bid) :: d.rota.filter (fun r => r.2 != w.bid) }))

/-! ## Resumption (R309) -/

/-- Every granule that a team holds is absent (R33). -/
def allAbsent (t : Team) : NMap Bool :=
  (List.range (16 * (t.xblk + 1))).flatMap (fun n => (List.range (t.width / 32)).map (fun y => (gkey n y, true)))

/-- What a trap keeps, in the cell to which the block has moved. -/
def moveTrap (old new : Nat) (x : TrapState) : TrapState :=
  { x with kind := match x.kind with | .deferred o => .deferred (moveOp old new o) | k => k }

/-- A team of a resumed block in its new cell: every flag clear (R84), every granule absent; operations that are still to be reissued name vault
bytes of that cell where they named the block's own (R35, R309). -/
def resumeTeam (die cell : Nat) (t : Team) : Team :=
  if t.status == .ended then { t with die := die, cell := cell }
  else
    let move (o : Op) : Op := moveOp (ckey t.die t.cell) (ckey die cell) o
    let trap (x : TrapState) : TrapState := moveTrap (ckey t.die t.cell) (ckey die cell) x
    { t with die := die, cell := cell, flags := [], absent := allAbsent t
             status := if t.status == .saved then .running else t.status
             deferred := t.deferred.map (fun d => { d with op := move d.op })
             handler := t.handler.map trap, stop := t.stop.map trap, redo := t.redo.map move }

/-- Put the saved bytes of an allocation back (R309). -/
def writeImage (s : State) (b : Block) : State :=
  let n := 256 * b.vsize
  (List.range (blockCells b).length).foldl (fun s j =>
    writeVault s (vltKey b.die ((blockCells b).getD j 0) (256 * b.vbase))
      ((List.range n).map (fun i => (b.image.getD (n * j + i) 0, NMap.get false b.imgpois ((n * j + i) / 16))))) s

/-- Put one saved block into a cell: its L1 is cleaned before a clause issues (R261). -/
def placeBlock (s : State) (bid die cell mask : Nat) : State :=
  let (n, s) := freshId s
  let s := modBlock s bid (fun b => { b with status := .resident, die := die, cell := cell, gmask := mask, start := n })
  let s := { s with dies := s.dies.map (fun e => (e.1, { e.2 with rota := e.2.rota.filter (fun r => r.2 != bid) })) }
  let b := blockOf s bid
  let s := modBlock (writeImage s b) bid (fun b => { b with image := [], imgpois := [] })
  let s := mapTeams s (fun t => if t.blk == bid then resumeTeam die cell t else t)
  (blockCells b).foldl (fun s c => l1Clear s (ckey die c)) s

/-- BLOCK_RESUME (R299, R309): the gang of a saved block takes cells of the cluster of a cell, ckey as the model numbers it. -/
def execBlockResume (bid cell : Nat) (s : State) : Host.Outcome State Fault Refusal :=
  ok (match block? s bid with
    | none => s
    | some b =>
      let l := launchOf s b.lid
      let die := cell / 4608
      let cl := clusterOf (cell % 4608)
      let bs := gangBlocks s b.lid b.gang
      if bs.any (fun c => c.status != .waiting) || l.status != .active || (b.pixel && die != b.die) || !l.d.dies.testBit die || !turnOf s l die cl (some b.gang) then s
      else match resumeCells s bs l.d die cl with
        | none => s
        | some cs =>
          let mask := gangMask b.pair cs
          (List.range bs.length).foldl (fun s j => placeBlock s ((bs.getD j {}).bid) die (cs.getD j 0) mask) s)

/-! ## Re-run (R375, R376) -/

/-- A team of a re-run block from its start (R31): its position and its place in the grid barrier are recorded. Lanes that
have died stay dead (R366), and lanes with no fragment stay without (R331). -/
def rerunTeam (l : Launch) (b : Block) (t : Team) : Team :=
  let f := freshTeam l b t.tid t.idx
  { f with
    r := startRegs f.width (t.dead ||| t.nofrag), sh := f.sh.map (fun _ => startRegs f.width (t.dead ||| t.nofrag)), nofrag := t.nofrag, dead := t.dead, dying := t.dying
    preempt := t.preempt, rerun := some (max t.pseq (t.rerun.getD 0)), treeEnded := t.treeEnded, nextOp := t.nextOp
    stopat := if t.barin = some 4 then some t.pseq else t.stopat }

/-- A block starts over in other cells: its allocation is fresh, its log and what it holds stay. -/
def rerunBlock (s : State) (bid die cell mask : Nat) : State :=
  let old := blockOf s bid
  let (n, s) := freshId s
  let s := modBlock s bid (fun b => { b with
    die := die, cell := cell, gmask := mask, start := n, status := .resident, bars := [], shapes := [], shbad := [], mesh := {}
    reruns := b.reruns + 1, wantrun := false })
  let b := blockOf s bid
  let l := launchOf s b.lid
  let s := freshVault s l b
  let s := mapTeams s (fun t => if t.blk == bid then rerunTeam l b t else t)
  offerGranules ((blockCells b).foldl (fun s c => l1Clear s (ckey die c)) s) old.die (blockCells old)

/-- RE_RUN (R375): once every team of the gang's blocks is down, the gang re-runs in one cluster, each block on another cell
than it had and at its VBASE. -/
def execReRun (bid cell : Nat) (s : State) : Host.Outcome State Fault Refusal :=
  ok (match block? s bid with
    | none => s
    | some b =>
      let l := launchOf s b.lid
      let die := cell / 4608
      let bs := gangBlocks s b.lid b.gang
      if !b.wantrun || bs.any (fun c => c.status != .resident || !(teamsOf s c.bid).all isDown) || (b.pixel && die != b.die) || !l.d.dies.testBit die
          || !isLive s die || !dieRuns s die then s
      else
        let bare := without s (bs.map (·.bid))
        let fresh (c : Block) : Need := { needOf l with vbase := some c.vbase, vunits := c.vsize }
        let cells := (List.range 4).map (cellAt (clusterOf (cell % 4608)))
        match pick bare l.d die cells fresh bs [] with
        | none => s
        | some cs =>
          let mask := gangMask b.pair cs
          (List.range bs.length).foldl (fun s j => rerunBlock s ((bs.getD j {}).bid) die (cs.getD j 0) mask)
            (bs.foldl (fun s c => (teamsOf s c.bid).foldl (fun s t => leaveQueues s t) s) s))
where
  pick (s : State) (d : Desc) (die : Nat) (cells : List Nat) (n : Block → Need) : List Block → List Nat → Option (List Nat)
    | [], _ => some []
    | b :: t, used => cells.findSome? (fun c =>
      if used.contains c || (b.die == die && b.cell == c) || (admitBase s d (n b) die c).isNone then none
      else (pick s d die cells n t (c :: used)).map (c :: ·))

end Sys2Proof.Machine
end

