-- ==== Sys2Proof/Machine/Parlour.lean ====
section
/-! DEFINITION. The parlour beyond setup (chapter 12): arrival of records and marks (R323, R325, R326), the owner (R324),
rasterisation (R328, R329), pixel blocks (R330, R331), the output merger (R332 to R335), the tile stores (R336). -/

namespace Sys2Proof.Machine

/-! ## Owners -/

def modOwner (s : State) (die : Nat) (f : Owner → Owner) : State :=
  { s with parlour := { s.parlour with owners := NMap.put die (f (ownerOf s die)) s.parlour.owners } }

/-- The open pass, where it holds the die as an owner and the die's logic is on. -/
def ownerPass (s : State) (die : Nat) : Option Pass :=
  match s.parlour.pass with
  | some p => if p.owners.contains die && logicOn s die then some p else none
  | none => none

/-- NORD of a draw at an owner: from its draw mark, or 0 where only an end mark came (R324, R326). -/
def Owner.nord (o : Owner) (d : Nat) : Option Nat :=
  match o.dmarks.find? (fun m => m.1 == d) with
  | some m => some m.2
  | none => if o.emarks.contains d then some 0 else none

/-- A sequence comes before another. -/
def seqLt (d p e q : Nat) : Bool := decide (d < e) || (d == e && decide (p < q))

/-- How far a sequence lies past NEXT, where its position is known (R324). -/
def Owner.ahead (o : Owner) (d p : Nat) : Option Nat :=
  (List.range (d - o.draw)).foldl (fun (x : Option Nat) i => match x, o.nord (o.draw + i) with
    | some a, some n => some (a + n)
    | _, _ => none) (some 0) |>.map (fun a => a + p - o.prim)

/-- What an owner does with a record that is offered (R325, R326). -/
inductive Offer where | accept | refuse | drop
deriving DecidableEq, Repr

def Owner.offer (o : Owner) (r : Rec) : Offer :=
  if o.emarks.contains r.draw || seqLt r.draw r.prim o.draw o.prim then .drop
  else if r.draw = o.draw && r.prim = o.prim then .accept
  else match o.ahead r.draw r.prim with
    | some a => if a < 4096 then .accept else .refuse
    | none => .refuse

/-! ## Arrival of messages -/

/-- Producer and owner of a record or a mark. -/
def parlourEnds : Msg → Option (Nat × Nat)
  | .record src dst _ _ => some (src, dst)
  | .mark _ src dst _ _ _ _ => some (src, dst)
  | _ => none

/-- A refused record of a block for an owner. -/
def refusedFor (s : State) (blk dst : Nat) : Bool :=
  s.parlour.refused.any (fun m => match m with | .record _ d _ b => d == dst && b == blk | _ => false)

/-- A block mark that follows a refused record of its block has not been sent (R323, R325). -/
def markHeld (s : State) : Msg → Bool
  | .mark 1 _ dst _ _ _ blk => refusedFor s blk dst
  | _ => false

/-- The n-th message is the next of its producer and owner to arrive: those travel in order (R323). -/
def firstOf (s : State) (n : Nat) (m : Msg) : Bool :=
  !markHeld s m && !(s.fabric.msgs.take n).any (fun x => parlourEnds x == parlourEnds m && !markHeld s x)

/-- The n-th message, if it is one that a predicate picks and may arrive: a die whose logic is off takes none. -/
def arriving (s : State) (n : Nat) (p : Msg → Bool) : Option Msg :=
  match s.fabric.msgs[n]? with
  | some m => if p m && firstOf s n m && (match parlourEnds m with | some e => logicOn s e.2 | none => true) then some m else none
  | none => none

def dropMsg (s : State) (n : Nat) : State := { s with fabric := { s.fabric with msgs := s.fabric.msgs.eraseIdx n } }

/-- DRAW_MARK: an owner learns NORD of a draw. -/
def execDrawMark (n : Nat) (s : State) : Host.Outcome State Fault Refusal :=
  ok (match arriving s n (fun m => match m with | .mark 2 _ _ _ _ _ _ => true | _ => false) with
    | some (.mark _ _ dst draw _ count _) => modOwner (dropMsg s n) dst (fun o => { o with dmarks := (draw, count) :: o.dmarks })
    | _ => s)

/-- BLOCK_MARK: the 256 ordinals of a block are resolved at an owner. -/
def execBlockMark (n : Nat) (s : State) : Host.Outcome State Fault Refusal :=
  ok (match arriving s n (fun m => match m with | .mark 1 _ _ _ _ _ _ => true | _ => false) with
    | some (.mark _ _ dst draw first _ _) => modOwner (dropMsg s n) dst (fun o => { o with bmarks := (draw, first) :: o.bmarks })
    | _ => s)

/-- The fragments of a draw that an owner has not merged are discarded (R326); those in pixel blocks are marked. -/
def dropFragments (s : State) (die draw : Nat) : State :=
  let s := modOwner s die (fun o => { o with ready := o.ready.filter (fun f => f.draw != draw), merge := o.merge.filter (fun f => f.draw != draw) })
  { s with blocks := s.blocks.map (fun b => if b.pixel && b.die == die then
      { b with frags := b.frags.map (fun f => f.map (fun g => if g.draw == draw then { g with dead := true } else g)) } else b) }

/-- END_MARK: what the owner has not consumed of a draw is void, and its fragments and records go. -/
def execEndMark (n : Nat) (s : State) : Host.Outcome State Fault Refusal :=
  ok (match arriving s n (fun m => match m with | .mark 3 _ _ _ _ _ _ => true | _ => false) with
    | some (.mark _ _ dst draw _ _ _) =>
      dropFragments (modOwner (dropMsg s n) dst (fun o =>
        { o with emarks := draw :: o.emarks, recs := o.recs.filter (fun r => r.draw != draw) })) dst draw
    | _ => s)

/-- A record that is offered to its owner: accepted, discarded, or refused to the producing die's setup. -/
def offerRecord (s : State) (m : Msg) (dst : Nat) (r : Rec) : State :=
  match (ownerOf s dst).offer r with
  | .accept => modOwner s dst (fun o => { o with recs := r :: o.recs })
  | .drop => s
  | .refuse => { s with parlour := { s.parlour with refused := s.parlour.refused ++ [m] } }

/-- PRIMITIVE_RECORD: a record reaches its owner. -/
def execPrimitiveRecord (n : Nat) (s : State) : Host.Outcome State Fault Refusal :=
  ok (match arriving s n (fun m => match m with | .record _ _ _ _ => true | _ => false) with
    | some (.record src dst r blk) => offerRecord (dropMsg s n) (.record src dst r blk) dst r
    | _ => s)

/-- SETUP_REOFFER: setup offers a refused record again; those of a die for one owner in ascending sequence (R325). -/
def execSetupReoffer (n : Nat) (s : State) : Host.Outcome State Fault Refusal :=
  ok (match s.parlour.refused[n]? with
    | some (.record src dst r blk) =>
      let lower := s.parlour.refused.any (fun m => match m with
        | .record a b q _ => a == src && b == dst && seqLt q.draw q.prim r.draw r.prim
        | _ => false)
      if lower || (ownerOf s dst).offer r == .refuse then s
      else offerRecord { s with parlour := { s.parlour with refused := s.parlour.refused.eraseIdx n } } (.record src dst r blk) dst r
    | _ => s)

/-! ## Rasterisation (R328, R329) -/

/-- The order of vertices in which A is positive. -/
def vertOrder (r : Rec) : List Nat :=
  let c (i : Nat) : Int := r.xy.getD i 0
  if edgeFn (c 0) (c 1) (c 2) (c 3) (c 4) (c 5) < 0 then [0, 2, 1] else [0, 1, 2]

/-- A point on an edge counts where the edge owns it: the top-left rule. -/
def edgeIn (ax ay bx by_ px py : Int) : Option Int :=
  let e := edgeFn ax ay bx by_ px py
  if 0 < e || (e == 0 && (decide (by_ - ay < 0) || (by_ - ay == 0 && decide (0 < bx - ax)))) then some e else none

/-- E_12, E_20 and E_01 at a pixel's centre, where it is covered. -/
def coverAt (r : Rec) (x y : Nat) : Option (List Int) :=
  let o := vertOrder r
  let vx (i : Nat) : Int := r.xy.getD (2 * o.getD i 0) 0
  let vy (i : Nat) : Int := r.xy.getD (2 * o.getD i 0 + 1) 0
  let px : Int := 256 * x + 128; let py : Int := 256 * y + 128
  match edgeIn (vx 1) (vy 1) (vx 2) (vy 2) px py, edgeIn (vx 2) (vy 2) (vx 0) (vy 0) px py, edgeIn (vx 0) (vy 0) (vx 1) (vy 1) px py with
  | some a, some b, some c => some [a, b, c]
  | _, _, _ => none

/-- An integer as a value. -/
def intFV (x : Int) : FV := .fin (decide (x < 0)) x.natAbs 0

/-- round(n / d) for values, d a positive number; a zero keeps its sign (R57). -/
def quotFV (n d : FV) : Word :=
  match n, d with
  | .fin s m e, .fin _ k g => if m = 0 then (if s then 0x80000000 else 0) else f32r (fmtF32.roundQuot 0 false s m k (e - g))
  | .inf s, _ => f32r (fmtF32.ofValue 0 false (.inf s))
  | _, _ => f32r (fmtF32.nanRes false)

/-- The depth of a covered pixel. -/
def depthAt (r : Rec) (e : List Int) : Word :=
  let o := vertOrder r
  let t := (List.range 3).map (fun i => (mulFV (intFV (e.getD i 0)) (f32v (r.z.getD (o.getD i 0) 0))).1)
  quotFV (sumFV 0 t).1 (sumFV 0 (e.map intFV)).1

/-- The value of a slot of a covered pixel. -/
def attrAt (r : Rec) (e : List Int) (slot : Nat) : Word :=
  let o := vertOrder r
  let w (i : Nat) : FV := (mulFV (intFV (e.getD i 0)) (f32v (r.rw.getD (o.getD i 0) 0))).1
  let t := (List.range 3).map (fun i => (mulFV (w i) (f32v (r.attrs.getD (r.nattr * o.getD i 0 + slot) 0))).1)
  quotFV (sumFV 0 t).1 (sumFV 0 ((List.range 3).map w)).1

/-- A depth inside 0 to 1; a NaN is not. -/
def depthOk (z : Word) : Bool := let v := f32v z; !v.isNan && (v.isZero || (!v.neg? && !(FV.fin false 1 0).lt v))

/-- The fragment of a pixel, where it is covered and its depth keeps it. -/
def fragAt (r : Rec) (x y : Nat) : Option Frag :=
  match coverAt r x y with
  | none => none
  | some e =>
    let z := depthAt r e
    if !depthOk z then none
    else some { draw := r.draw, prim := r.prim, x := x, y := y, z := z, zi := z, front := r.face, attr := (List.range r.nattr).map (attrAt r e) }

/-- The fragments of a record on a die: tiles by rows, pixels by rows (R330). -/
def rasterise (p : Pass) (die : Nat) (r : Rec) : List Frag :=
  ((rectTiles r.tiles).filter (fun t => tileOwner p t.1 t.2 == die)).flatMap (fun t =>
    (List.range (min 64 (p.height + 1 - 64 * t.2))).flatMap (fun j =>
      (List.range (min 64 (p.width + 1 - 64 * t.1))).filterMap (fun i => fragAt r (64 * t.1 + i) (64 * t.2 + j))))

/-! ## The owner (R324) -/

/-- The end of the void run that starts at NEXT: the first record held above it, or the end of its block. -/
def voidEnd (o : Owner) (first : Nat) : Nat :=
  (o.recs.filter (fun r => r.draw == o.draw && decide (o.prim < r.prim))).foldl (fun m r => min m r.prim) (first + 256)

/-- One step of an owner; none where it waits. -/
def consumeNext (s : State) (die : Nat) (p : Pass) : Option State :=
  let o := ownerOf s die
  if p.first + p.ndraws ≤ o.draw then none
  else if o.emarks.contains o.draw || o.nord o.draw == some o.prim then
    some (modOwner s die (fun o => { o with draw := o.draw + 1, prim := 0 }))
  else match o.recs.find? (fun r => r.draw == o.draw && r.prim == o.prim) with
    | some r => some (modOwner s die (fun o => { o with
        prim := o.prim + 1, ready := o.ready ++ rasterise p die r
        recs := o.recs.filter (fun q => !(q.draw == r.draw && q.prim == r.prim)) }))
    | none => match o.bmarks.find? (fun m => m.1 == o.draw && decide (m.2 ≤ o.prim) && decide (o.prim < m.2 + 256)) with
      | some m => some (modOwner s die (fun o => { o with prim := voidEnd o m.2 }))
      | none => none

/-- OWNER_CONSUME: the owner consumes or voids what stands at NEXT. -/
def execOwnerConsume (die : Nat) (s : State) : Host.Outcome State Fault Refusal :=
  ok (match ownerPass s die with
    | some p => (consumeNext s die p).getD s
    | none => s)

/-! ## Pixel blocks (R330, R331) -/

/-- The launch of a draw's pixel kernel. -/
def pixelOf (s : State) (p : Pass) (draw : Nat) : Option Launch := (p.draws.find? (fun d => d.ord == draw)).bind (fun d => launch? s d.pxlid)

/-- The lanes of team i of a pixel block of n fragments. -/
def pixelMask (w n i : Nat) : Mask := lanesBelow (min w (n - w * i))

/-- Start a pixel block with fragments in a cell. -/
def startPixel (s : State) (l : Launch) (die cell vbase : Nat) (fs : List Frag) : State :=
  let (gang, s) := freshId s
  let (bid, s) := freshId s
  let w := if l.d.prot then l.d.w / 2 else l.d.w
  let b : Block := { bid := bid, start := bid, lid := l.lid, index := (dieOf s die).pxcount % 2 ^ 32, die := die, cell := cell, pair := l.d.paired
                     vbase := vbase, vsize := l.d.vunits, gang := gang, gmask := gangMask l.d.paired [cell], nteams := l.d.nteams, pixel := true
                     frags := (List.range (w * l.d.nteams)).map (fun i => fs[i]?) }
  let s := freshVault { modDie s die (fun d => { d with pxcount := d.pxcount + 1 }) with blocks := s.blocks ++ [b] } l b
  (List.range l.d.nteams).foldl (fun s i =>
    let (tid, s) := freshId s
    let t := freshTeam l b tid i
    let m := pixelMask w fs.length i
    { s with teams := insertTeam { t with r := t.r.mset w 0 m, sh := t.sh.map (fun r => r.mset w 0 m), nofrag := lanesBelow w &&& ~~~ m } s.teams }) s

/-- PIXEL_BLOCK_START: the first fragments that are ready, of one draw, as many as a block takes; a block that is not full starts
where the next fragment is of another draw, or none has come for 256 clocks. -/
def execPixelBlockStart (die : Nat) (s : State) : Host.Outcome State Fault Refusal :=
  ok (match ownerPass s die, (ownerOf s die).ready with
    | some p, f :: rest => match pixelOf s p f.draw with
      | none => s
      | some l =>
        let w := if l.d.prot then l.d.w / 2 else l.d.w
        let fs := ((f :: rest).takeWhile (fun g => g.draw == f.draw)).take (w * l.d.nteams)
        let spot := (windowCells l.d).findSome? (fun c => (admitBase s l.d (needOf l) die c).map (fun v => (c, v)))
        match spot with
        | some (c, v) =>
          if l.status != .active || !isLive s die || !dieRuns s die then s
          else startPixel (modOwner s die (fun o => { o with ready := o.ready.drop fs.length })) l die c v fs
        | none => s
    | _, _ => s)

/-- A pixel block ends (R332): its fragments that were not killed go to the merger. -/
def mergeBlock (s : State) (b : Block) : State :=
  modOwner s b.die (fun o => { o with merge := o.merge ++ (b.frags.filterMap id).filter (fun f => !f.dead) })

/-! ## The output merger (R332 to R335) -/

/-- A fragment of lower sequence at the same pixel. -/
def before (g f : Frag) : Bool := g.x == f.x && g.y == f.y && seqLt g.draw g.prim f.draw f.prim

/-- A fragment of lower sequence at its pixel is still on its way to the merger of the die. -/
def earlier (s : State) (die : Nat) (f : Frag) : Bool :=
  let o := ownerOf s die
  o.ready.any (before · f) || o.merge.any (before · f)
    || s.blocks.any (fun b => b.pixel && b.die == die && b.frags.any (fun g => match g with | some g => before g f && !g.dead | none => false))

/-- The addresses of a fragment's depth and of its pixel in a target. -/
def depthAddr (p : Pass) (f : Frag) : Nat := p.dbase + f.y * p.dpitch + 4 * f.x
def pixelAddr (t : Target) (f : Frag) : Nat := t.base + f.y * t.pitch + f.x * fmtBytes t.fmt

/-- The bytes of a held line at an address, with their poison. -/
def tsRead (s : State) (die a n : Nat) : List PByte :=
  match storeLine? s die (a / 128 * 128) with
  | none => []
  | some l => ((tsBytes l).drop (a % 128)).take n

/-- Write bytes into a held line: `keep` says that they were computed from a poisoned word. A word that is written whole takes
their poison. -/
def tsWrite (s : State) (die a : Nat) (d : List PByte) : State :=
  setStore s die ((storeOf s die).map (fun l =>
    if l.va != a / 128 * 128 then l
    else
      let w := (List.range d.length).map (fun i => (a % 128 + i, d.getD i (0, false)))
      { l with
        dirty := true
        data := overlay l.data w
        pois := (List.range 8).foldl (fun m k =>
          if w.any (fun e => e.1 / 16 == k) then NMap.set false m k (overlayPois (NMap.get false m k) (16 * k) 16 w) else m) l.pois }))

/-- The comparison of DFUNC (R333). -/
def depthPass (func : Nat) (z st : FV) : Bool :=
  match func with
  | 0 => false
  | 7 => true
  | _ =>
    if z.isNan || st.isNan then false
    else
      let lt := z.lt st; let gt := st.lt z
      match func with
      | 1 => lt | 2 => !lt && !gt | 3 => !gt | 4 => gt | 5 => lt || gt | _ => !lt

/-- The depth test of a fragment against the held line. -/
def testDepth (s : State) (die : Nat) (p : Pass) (f : Frag) : Bool :=
  !p.dtest || depthPass p.dfunc (f32v f.z) (f32v (BitVec.ofNat 32 (bytesVal (plain (tsRead s die (depthAddr p f) 4)))))

/-- The targets that a fragment writes, with its values (R334). -/
def fragTargets (p : Pass) (f : Frag) : List (Target × List Word) :=
  (List.range 4).filterMap (fun k => match p.targets[k]?, NMap.get none f.outs k with
    | some t, some v => if t.enable && t.wmask != 0 then some (t, v) else none
    | _, _ => none)

/-- The line that a merge of a fragment needs first and that is not held (R336): the depth line, then those of its targets if
it passes. -/
def neededLine (s : State) (die : Nat) (p : Pass) (f : Frag) : Option Nat :=
  let miss (a : Nat) : Option Nat := if (storeLine? s die (a / 128 * 128)).isNone then some (a / 128 * 128) else none
  let depth := if p.dtest || p.dwrite then miss (depthAddr p f) else none
  match depth with
  | some a => some a
  | none => if testDepth s die p f then (fragTargets p f).findSome? (fun t => miss (pixelAddr t.1 f)) else none

/-- A channel of a stored pixel as FP32 (R335). -/
def readChannel (fmt : Nat) (d : List Byte) (c : Nat) : Word :=
  match fmt with
  | 0 => let x := (d.getD c 0).toNat; if x = 0 then 0 else f32r (fmtF32.roundQuot 0 false false x 255 0)
  | 1 => f32r (fmtF32.ofValue 0 false (fmtF16.value (bytesVal ((d.drop (2 * c)).take 2))))
  | 2 => BitVec.ofNat 32 (bytesVal ((d.drop (4 * c)).take 4))
  | _ => if c = 0 then BitVec.ofNat 32 (bytesVal (d.take 4)) else if c = 3 then 0x3F800000 else 0

/-- The code of rgba8un. -/
def unorm8 (v : FV) : Nat :=
  match v with
  | .nan _ => 0
  | .inf s => if s then 0 else 255
  | .fin s m e => if s then 0 else (toIntFV 0 0 255 (.fin false (m * 255) e)).1.toNat

/-- The bytes that a channel is stored as. -/
def writeChannel (fmt : Nat) (r : Word) : List Byte :=
  match fmt with
  | 0 => valBytes 1 (unorm8 (f32v r))
  | 1 => valBytes 2 (fmtF16.ofValue 0 false (f32v r)).1
  | _ => valBytes 4 r.toNat

/-- A blend factor, exact (R334). -/
def blendFactor (c : Nat) (sa da : FV) : FV :=
  match c with
  | 0 => .fin false 0 0
  | 1 => .fin false 1 0
  | 2 => sa
  | 3 => (sumFV 0 [.fin false 1 0, sa.negate]).1
  | 4 => da
  | _ => (sumFV 0 [.fin false 1 0, da.negate]).1

/-- r_c (R334). -/
def blendChannel (t : Target) (src : List Word) (d : List Byte) (c : Nat) : Word :=
  let sc := src.getD c 0
  if !t.blend then sc
  else
    let sa := f32v (src.getD 3 0); let da := f32v (readChannel t.fmt d 3)
    let (fs, fd) := if c = 3 then (t.asrc, t.adst) else (t.csrc, t.cdst)
    f32r (fmtF32.ofValue 0 false (sumFV 0 [(mulFV (f32v sc) (blendFactor fs sa da)).1, (mulFV (f32v (readChannel t.fmt d c)) (blendFactor fd sa da)).1]).1)

/-- Channels of a format that it stores: mono32f stores red only. -/
def channels (fmt : Nat) : List Nat := if fmt = 3 then [0] else [0, 1, 2, 3]
def channelBytes (fmt : Nat) : Nat := match fmt with | 0 => 1 | 1 => 2 | _ => 4

/-- Merge a fragment's values into one target: the channels of WMASK. A blend that reads a poisoned word writes poison. -/
def mergeTarget (s : State) (die : Nat) (f : Frag) (t : Target × List Word) : State :=
  let a := pixelAddr t.1 f
  let d := tsRead s die a (fmtBytes t.1.fmt)
  let bad := t.1.blend && anyPois d
  let whole := (channels t.1.fmt).all (fun c => t.1.wmask.testBit c)
  let parts := (channels t.1.fmt).filter (fun c => t.1.wmask.testBit c) |>.map (fun c => (c, writeChannel t.1.fmt (blendChannel t.1 t.2 (plain d) c)))
  if whole then tsWrite s die a ((parts.flatMap (·.2)).map (fun b => (b, bad)))
  else parts.foldl (fun s e => tsWrite s die (a + channelBytes t.1.fmt * e.1) (e.2.map (fun b => (b, bad)))) s

/-- Merge a fragment: its depth, then its targets (R333, R334). -/
def mergeFrag (s : State) (die : Nat) (p : Pass) (f : Frag) : State :=
  if !testDepth s die p f then s
  else
    let z := if (f32v f.z).isNan then 0x7FC00000 else f.z
    let s := if p.dwrite then tsWrite s die (depthAddr p f) (clean (valBytes 4 z.toNat)) else s
    (fragTargets p f).foldl (fun s t => mergeTarget s die f t) s

/-- FRAGMENT_MERGE: the n-th fragment at the merger of a die, once none of lower sequence at its pixel is to come and the lines
that it needs are held. -/
def execFragmentMerge (die n : Nat) (s : State) : Host.Outcome State Fault Refusal :=
  ok (match ownerPass s die, (ownerOf s die).merge[n]? with
    | some p, some f =>
      if earlier s die f || (neededLine s die p f).isSome then s
      else mergeFrag (modOwner s die (fun o => { o with merge := o.merge.eraseIdx n })) die p f
    | _, _ => s)

/-- Read a whole line as the tile store loads it (R336): none where the load fails. -/
def loadLine (s : State) (va : Nat) : Option TsLine × State :=
  match agentAddr s .read va with
  | (none, s) => (none, s)
  | (some (pa, mt), s) =>
    if mt != 2 && lostAt s pa then (none, s)
    else
      let (d, s) := readPiece s pa 128 mt
      (some { va := va, pa := pa, mt := mt, data := plain d
              pois := (List.range 8).foldl (fun m k => if anyPois ((d.drop (16 * k)).take 16) then NMap.put k true m else m) [] }, s)

/-- A fragment's needed line cannot be loaded: its draw's launch aborts, and the fragment is dropped (R336). -/
def failLoad (s : State) (die : Nat) (p : Pass) (f : Frag) : State :=
  let s := modOwner s die (fun o => { o with merge := o.merge.filter (fun g => g != f) })
  match p.draws.find? (fun d => d.ord == f.draw) with
  | none => s
  | some d => abortLaunch s d.lid 0x13

/-- Lines that a tile store holds at most: 4 MiB (R336). -/
def storeLines : Nat := 32768

/-- TILE_STORE_LOAD: the merger of a die loads a line, by its number, that a fragment next to be merged needs. -/
def execTileStoreLoad (die line : Nat) (s : State) : Host.Outcome State Fault Refusal :=
  ok (match ownerPass s die with
    | none => s
    | some p => match (ownerOf s die).merge.find? (fun f => !earlier s die f && neededLine s die p f == some (128 * line)) with
      | none => s
      | some f =>
        if storeLines ≤ (storeOf s die).length then s
        else match loadLine s (128 * line) with
          | (some l, s) => setStore s die (l :: storeOf s die)
          | (none, s) => failLoad s die p f)

/-- TILE_STORE_WRITE_OUT: the tile store of a die replaces a line, by its number (R265, R336). -/
def execTileStoreWriteOut (die line : Nat) (s : State) : Host.Outcome State Fault Refusal := ok (writeOut s die (128 * line))

/-! ## Draws and the close of a pass (R317, R324) -/

/-- A draw is resolved at every owner: consumed or voided, its fragments merged and its pixel blocks ended, or ended by its mark. -/
def drawResolved (s : State) (p : Pass) (draw : Nat) : Bool :=
  p.owners.all (fun o => decide (draw < (ownerOf s o).draw) && mergedAt s o (fun f => f.draw == draw)
    && ((ownerOf s o).emarks.contains draw || !pixelStands s o (fun f => f.draw == draw)))

/-- Every draw of the pass is resolved at every owner (R317). -/
def passDone (s : State) (p : Pass) : Bool :=
  p.owners.all (fun o => decide (p.first + p.ndraws ≤ (ownerOf s o).draw) && mergedAt s o (fun _ => true)
    && !pixelStands s o (fun f => !(ownerOf s o).emarks.contains f.draw))

end Sys2Proof.Machine
end

