-- ==== Sys2Proof/Machine/Panel.lean ====
section
/-! DEFINITION. Failures of the panel: links (R343), dies (R351, R352), memory sites (R354), partition (R355); the end of an open
pass (R317, R337); watchdogs and dropped records (R381, R383). -/

namespace Sys2Proof.Machine

/-! ## Sites and links (R340, R341, R343) -/

/-- The number 24 · y + c of the site of a compute die, and of a memory site. -/
def dieSite (d : Nat) : Nat := 24 * (d / 12) + 2 * (d % 12) + d / 12 % 2
def memSite (x : Nat) : Nat := 24 * (x / 12) + 2 * (x % 12) + (1 - x / 12 % 2)

/-- Link 2 · i runs from site i to the east, 2 · i + 1 to the south; 576 and 577 join the I/O die to dies (0,5) and (0,6). -/
def linkCount : Nat := 578
/-- The sites that link l joins, if it is a link of the panel. -/
def linkEnds (l : Nat) : Option (Nat × Nat) :=
  let i := l / 2
  if 576 ≤ l then none
  else if l % 2 = 0 then (if i % 24 = 23 then none else some (i, i + 1))
  else (if 264 ≤ i then none else some (i, i + 24))

/-- The link is in service. -/
def linkUp (s : State) (l : Nat) : Bool := !s.fabric.badlinks.contains l

/-- The links of a site. -/
def linksOf (i : Nat) : List Nat :=
  (if i % 24 = 23 then [] else [2 * i]) ++ (if i % 24 = 0 then [] else [2 * (i - 1)])
    ++ (if 264 ≤ i then [] else [2 * i + 1]) ++ (if i < 24 then [] else [2 * (i - 24) + 1])

/-- A set of sites as bits of a number: those that a predicate picks. -/
def siteBits (p : Nat → Bool) : Nat := (List.range 288).foldl (fun m i => if p i then m ||| 2 ^ i else m) 0

/-- Sites that forward flits: dies that are not dropped, base dies whose logic works (R346, R351, R354). -/
def forwarding (s : State) : Nat :=
  let dies := (List.range 144).foldl (fun m d => if (dieOf s d).dropped then m else m ||| 2 ^ dieSite d) 0
  (List.range 144).foldl (fun m x => if NMap.get false s.fabric.badbase x then m else m ||| 2 ^ memSite x) dies

/-- Add the neighbours over the links in service. -/
def spread (ok east south m : Nat) : Nat :=
  (m ||| ((m &&& east) <<< 1) ||| ((m >>> 1) &&& east) ||| ((m &&& south) <<< 24) ||| ((m >>> 24) &&& south)) &&& ok

/-- The group of sites connected with one site. -/
def groupOf (s : State) (site : Nat) : Nat :=
  let ok := forwarding s
  let east := siteBits (fun i => decide (i % 24 < 23) && linkUp s (2 * i))
  let south := siteBits (fun i => decide (i < 264) && linkUp s (2 * i + 1))
  (List.range 288).foldl (fun m _ => spread ok east south m) (2 ^ site &&& ok)

/-- The group that continues (R355): that of die (0,5), then that of die (0,6), with its I/O link in service. -/
def continuing (s : State) : Option Nat :=
  if linkUp s 576 && !(dieOf s 60).dropped then some (groupOf s (dieSite 60))
  else if linkUp s 577 && !(dieOf s 72).dropped then some (groupOf s (dieSite 72))
  else none

/-! ## The close of a pass (R317, R337) -/

/-- The open pass closes: its records, marks and pixel blocks go, and each pixel-stage descriptor's record is due unless it
already holds STATE 3 from this pass (R313). Held lines stay held. -/
def closePass (s : State) : State :=
  match s.parlour.pass with
  | none => s
  | some p =>
    let px := s.launches.filter (fun l => l.pixel && l.pass == p.addr && l.status == .active)
    let s := px.foldl (fun s l =>
      let s := (s.blocks.filter (fun b => b.lid == l.lid)).foldl (fun s b => removeBlock s b.bid) s
      let s := modLaunch s l.lid (fun l => { l with status := .finished })
      if l.pxended then s else { s with statusq := s.statusq ++ [{ lid := l.lid, state := 1 }] }) s
    { s with
      parlour := { s.parlour with pass := none, owners := [], refused := [] }
      fabric := { s.fabric with msgs := s.fabric.msgs.filter (fun m => (parlourEnds m).isNone) } }

/-- The listed dies own a tile of the open pass or run a block of one of its draws. -/
def passTouched (s : State) (p : Pass) (ds : List Nat) : Bool :=
  p.owners.any (fun o => ds.contains o) || s.blocks.any (fun b => b.status == .resident && ds.contains b.die &&
    (p.draws.any (fun d => d.lid == b.lid || d.pxlid == b.lid)))

/-- A drop that touches the open pass ends it. -/
def endPass (s : State) (ds : List Nat) : State :=
  match s.parlour.pass with
  | none => s
  | some p =>
    if passTouched s p ds then closePass (p.draws.foldl (fun s d => abortLaunch s d.lid 0x12) s) else s

/-! ## Dropping dies (R351, R352) -/

/-- Dies at the two ends of a message, where it travels between dies. -/
def msgDies (s : State) : Msg → List Nat
  | .arrive die _ _ _ => [die]
  | .coll _ _ _ _ src dst _ _ _ => [src, dst]
  | .token _ _ _ dst t _ => dst :: ((team? s t).map (fun t => t.die)).toList
  | .notice src dst => [src, dst]
  | .record src dst _ _ => [src, dst]
  | .mark _ src dst _ _ _ _ => [src, dst]
  | _ => []

/-- What is left of a die that is dropped: its harvest map and the records it counted. Its queues are lost. -/
def droppedDie (k : Die) : Die :=
  { dropped := true, failed := k.failed, colret := k.colret, cellret := k.cellret, uecnt := k.uecnt, cecnt := k.cecnt, meas := k.meas }

/-- The held `enq` appends of a die's queues fault (R231, R352). -/
def failHeld (s : State) (d : Nat) : State :=
  ((dieOf s d).held.flatMap (fun q => q.2)).foldl (fun s h => match h.team with
    | none => s
    | some (t, id) => inTeam s t (fun s => (s.cur.ops.find? (fun o => o.id == id)).map (fun o => deferFault s o 0x10 2 0 none false))) s

/-- One die leaves the panel: DIELIVE is cleared, its record is emitted, and what it held is lost. -/
def removeDie (s : State) (d : Nat) : State :=
  let s := failHeld s d
  let s := mapDies s (fun k => { k with suspby := k.suspby.filter (· != d) })
  let s := { modDie s d droppedDie with
    cells := s.cells.filter (fun e => e.1 / 4608 != d)
    ctlb := s.ctlb.filter (fun e => e.1 / 1152 != d) }
  let s := { s with
    mem := { s.mem with vault := s.mem.vault.filter (fun e => e.1 / 2 ^ 18 / 4608 != d)
                        vpois := s.mem.vpois.filter (fun e => e.1 / 2 ^ 14 / 4608 != d)
                        vbad := s.mem.vbad.filter (fun e => e.1 / 2 ^ 14 / 4608 != d) }
    parlour := { s.parlour with stores := NMap.del d s.parlour.stores } }
  emit s srcIo { kind := 6, info := d }

/-- Compute dies beside a memory site, ascending. -/
def diesBeside (x : Nat) : List Nat :=
  (List.range 144).filter (fun d => (linksOf (memSite x)).any (fun l => match linkEnds l with
    | some (a, b) => a == dieSite d || b == dieSite d
    | none => false))

/-- The die with which a site is associated (R276, R351); 255 for none. -/
def ownerDie (s : State) (x : Nat) : Nat := ((siteOf s x).adopt).getD x

/-- Sites of dropped dies move to the live die beside them of lowest ordinal (R351). -/
def adoptSites (s : State) (ds : List Nat) : State :=
  (List.range 144).foldl (fun s x =>
    if ds.contains (ownerDie s x) then
      modSite s x (fun st => { st with adopt := some (((diesBeside x).find? (fun d => isLive s d)).getD 255) })
    else s) s

/-- Collectives of surviving launches whose DIES holds a dropped die end with STATUS 2 (R352). -/
def endColls (s : State) (ds : List Nat) : State :=
  (List.range 144).foldl (fun s die =>
    if !isLive s die then s
    else (distinct (s.launches.map (fun l => l.lid))).foldl (fun s lid =>
      (collOps s die lid (fun o => o.started && (opColl o).members.any (fun d => ds.contains d))).foldl (collEndAt 2) s) s) s

/-- Dies are dropped, in one step for all of them (R351, R355). -/
def dropDies (s : State) (ds : List Nat) : State :=
  let ds := ds.filter (fun d => decide (d < 144) && !(dieOf s d).dropped)
  if ds.isEmpty then s
  else
    let s := { s with fabric := { s.fabric with msgs := s.fabric.msgs.filter (fun m => !(msgDies s m).any (fun d => ds.contains d)) } }
    let s := endPass s ds
    let s := ds.foldl removeDie s
    let hit := s.launches.filter (fun l => l.status == .active && !l.pixel && ds.any (fun d => l.d.dies.testBit d))
    let s := hit.foldl (fun s l => abortLaunch s l.lid 0x12) s
    adoptSites (endColls s ds) ds

/-! ## Memory sites and partition (R354, R355) -/

/-- A memory site is lost: every set that holds it is broken. -/
def loseSite (s : State) (x : Nat) : State :=
  if (siteOf s x).lost || 144 ≤ x then s
  else
    let s := modSite s x (fun st => { st with lost := true, lines := [], scrub := [] })
    let s := { s with mem := { s.mem with sets := s.mem.sets.map (fun e =>
      (e.1, e.2.map (fun st => if st.members.contains x then { st with broken := true } else st))) } }
    emit s srcIo { kind := 7, info := x }

/-- The panel has begun its staged start, and has not stopped. -/
def panelOn (s : State) : Bool := (s.host.stage == .one || s.host.stage == .two) && !s.fabric.stopped

/-- One group continues: the dies of the others are dropped and their memory sites lost; with no attachment die left, the device
stops (R355). -/
def partition (s : State) : State :=
  let m := (continuing s).getD 0
  let s := if m = 0 then { s with fabric := { s.fabric with stopped := true } } else s
  let s := dropDies s ((List.range 144).filter (fun d => !m.testBit (dieSite d)))
  ((List.range 144).filter (fun x => !m.testBit (memSite x))).foldl loseSite s

/-! ## The failures as steps -/

/-- LINK_FAILURE: a link has failed. A die whose links have all failed is dropped (R351). -/
def execLinkFailure (link : Nat) (s : State) : Host.Outcome State Fault Refusal :=
  ok (if !panelOn s || linkCount ≤ link || !linkUp s link then s
    else
      let s := { s with fabric := { s.fabric with badlinks := link :: s.fabric.badlinks } }
      partition (dropDies s ((List.range 144).filter (fun d => (linksOf (dieSite d)).all (fun l => !linkUp s l)))))

/-- Drop one die for a die-fatal error, failed training or a command, and partition if that is needed. -/
def dropDie (s : State) (die : Nat) : State :=
  if !panelOn s || 144 ≤ die || (dieOf s die).dropped then s else partition (dropDies s [die])

/-- DIE_DROP: a die-fatal error, or links that fail to train. -/
def execDieDrop (die : Nat) (s : State) : Host.Outcome State Fault Refusal := ok (dropDie s die)

/-- MEMORY_SITE_LOSS: site x is lost with its stack, or, as 144 + x, with the logic of its base die, which then forwards nothing. -/
def execMemorySiteLoss (site : Nat) (s : State) : Host.Outcome State Fault Refusal :=
  ok (if !panelOn s || 288 ≤ site then s
    else if site < 144 then loseSite s site
    else
      let x := site - 144
      partition (loseSite { s with fabric := { s.fabric with badbase := NMap.set false s.fabric.badbase x true } } x))

/-! ## Watchdogs (R381) -/

/-- An operation of a team waits for another site (R381): its accesses to global memory or to another die's vaults, an engine command, a
query, or a system operation on other dies. -/
def awaitsSite (die : Nat) (o : Op) : Bool :=
  o.acc.any (fun a => !a.done && (a.mt != vaultMt || a.pa / 2 ^ 18 / 4608 != die)) || (match o.i with
    | .txSmp _ | .txLd _ | .rayTrace _ | .rayCont _ => true
    | .cp _ | .cp2d _ | .cpX _ | .skimG _ | .skimS _ | .coll _ | .collAbort _ | .enq _ => o.started
    | .tlbi f => decide (3 ≤ f.mod.toNat % 8)
    | .cinv f => f.mod.toNat % 4 == 3
    | .dbgrRd _ | .dbgrWr _ => field (o.sc.getD 0 0) 23 16 != die
    | _ => false)

/-- RESPONSE_WATCHDOG: a request from a die to another site has waited for the interval: of team n, or of the die's walkers where n is 0. -/
def execResponseWatchdog (die n : Nat) (s : State) : Host.Outcome State Fault Refusal :=
  ok (if !isLive s die || suspended s die then s
    else if n = 0 then (if (dieOf s die).walking.isEmpty then s else emit s (srcDie die) { kind := 0xC })
    else match team? s n with
      | some t => if t.die == die && t.ops.any (awaitsSite die) then emit s (srcDie die) { kind := 0xC, launch := launchId s t.blk } else s
      | none => s)

/-- The memory site that holds a region's tree node (R356). Of the two columns that the rule names one alone is a memory site, so
that there is none to move to when its base die fails (log 28). -/
def regionNode (r : Nat) : Nat :=
  let y := 3 * (r / 4) + 1
  let c := 6 * (r % 4) + 2
  12 * y + (if (c + y) % 2 = 1 then c else c + 1) / 2

/-- The source of a launch's apex: the lowest node that covers its dies (R356). -/
def apexSrc (l : Launch) : Nat :=
  let ds := (List.range 144).filter (fun d => l.d.dies.testBit d)
  match ds, distinct (ds.map regionOf) with
  | [d], _ => srcDie d
  | _, [r] => srcSite (regionNode r)
  | _, _ => srcIo

/-- BARRIER_WATCHDOG: a phase of a grid barrier, of a launch or of a pixel block, has stayed open for the interval; a pixel block's
apex is the node of its die. -/
def execBarrierWatchdog (launch : Nat) (s : State) : Host.Outcome State Fault Refusal :=
  ok (match gridLaunch? s launch, grid? s launch with
    | some l, some g =>
      if l.status == .active && !g.bar.arr.isEmpty && !(List.range 144).any (fun d => l.d.dies.testBit d && suspended s d)
      then emit s (if l.lid = launch then apexSrc l else srcDie (blockOf s launch).die) { kind := 0xC, launch := l.d.id } else s
    | _, _ => s)

/-- RECORDS_DROPPED: a source whose buffer has room again reports how many records it dropped (R383). -/
def execRecordsDropped (source : Nat) (s : State) : Host.Outcome State Fault Refusal :=
  let n := NMap.get 0 s.evdrop source
  ok (if n = 0 || 256 ≤ (NMap.get [] s.evbuf source).length then s
    else emit { s with evdrop := NMap.set 0 s.evdrop source 0 } source { kind := 0xF, info := min n 65535 })

end Sys2Proof.Machine
end

