-- ==== Sys2Proof/Machine/HostLink.lean ====
section
/-! DEFINITION. The host link, start-up, power and security (chapter 15): the queue pairs (R384 to R386), the management
commands (R387, R388), mailboxes (R389 to R392), the staged start (R393), power states (R395 to R398), reports (R399 to R401). -/

namespace Sys2Proof.Machine

/-! ## Queue pairs (R384) -/

def modHost (s : State) (f : HostLink → HostLink) : State := { s with host := f s.host }
def toHost (s : State) (m : HostMsg) : State := modHost s (fun h => { h with out := h.out ++ [m] })
def qpOf (s : State) (qp : Nat) : Qp := NMap.get {} s.host.qps qp
def modQp (s : State) (qp : Nat) (f : Qp → Qp) : State := modHost s (fun h => { h with qps := NMap.modify {} h.qps qp f })

/-- The port serves a queue pair: the module is on and the connection is established. -/
def portOpen (s : State) (qp : Nat) : Bool := s.host.stage != .off && (qpOf s qp).isOpen

/-- NAK reasons: an invalid request, a remote access error, a remote operational error (R384 to R386). -/
def nakInvalid : Nat := 1
def nakAccess : Nat := 2
def nakOperational : Nat := 3

/-- INVALID_REQUEST: a packet that the port does not support is dropped; an established connection draws a NAK. -/
def execInvalidRequest (qp : Nat) (s : State) : Host.Outcome State Fault Refusal :=
  ok (if portOpen s qp then toHost s (.nak qp nakInvalid) else s)

/-- ACK: the host has answered a SEND of the device. -/
def execAck (qp : Nat) (s : State) : Host.Outcome State Fault Refusal :=
  ok (if portOpen s qp then modQp s qp (fun q => { q with sends := q.sends - 1 }) else s)

/-- CONGESTION_NOTIFICATION_PACKET: the port notes it; it changes no value. -/
def execCongestionNotificationPacket (qp : Nat) (s : State) : Host.Outcome State Fault Refusal :=
  ok (if portOpen s qp then modQp s qp (fun q => { q with rate := q.rate + 1 }) else s)

/-! ## WRITE and READ (R385, R386) -/

/-- Where each piece of a message lies: none where one of them fails translation or permission. -/
def hostPieces (s : State) (w : Want) (va n : Nat) : Option (List (Nat × Nat × Nat × Nat)) × State :=
  (piecesOf va n).foldl (fun (r : Option (List (Nat × Nat × Nat × Nat)) × State) p => match r with
    | (none, s) => (none, s)
    | (some l, s) => match agentAddr s w p.1 with
      | (none, s) => (none, s)
      | (some (pa, mt), s) => (some (l ++ [(p.1, p.2, pa, mt)]), s)) (some [], s)

/-- One line of a WRITE: one write event, and the bytes it placed; nothing at a lost member. -/
def hostPut (va : Nat) (data : List Byte) (r : State × List (Nat × Nat) × Bool) (p : Nat × Nat × Nat × Nat) : State × List (Nat × Nat) × Bool :=
  let (v, n, pa, mt) := p
  if mt != 2 && lostAt r.1 pa then (r.1, r.2.1, true)
  else
    let d := (data.drop (v - va)).take n
    (writePiece r.1 mt ((List.range d.length).map (fun i => (pa + i, (d.getD i 0, false)))), (v, n) :: r.2.1, r.2.2)

/-- The registered mailboxes, ascending. -/
def boxesOf (s : State) : List Mailbox := s.host.boxes.filterMap (fun e => e.2)

/-- Bytes of the placed ranges that lie in a window. -/
def inBox (b : Mailbox) (l : List (Nat × Nat)) : Nat :=
  (l.map (fun r => min (r.1 + r.2) (b.wbase + b.wlen) - max r.1 b.wbase)).sum

/-- The mailbox whose window holds an address. -/
def boxAt (s : State) (va : Nat) : Option Mailbox := (boxesOf s).find? (fun b => decide (b.wbase ≤ va) && decide (va < b.wbase + b.wlen))

/-- Each mailbox whose window took bytes has an arrival under way to its sync word (R391); a kick of the mailbox goes with it. -/
def boxArrivals (s : State) (l : List (Nat × Nat)) (k : Option (Nat × Nat)) : State :=
  (boxesOf s).foldl (fun s b =>
    let m := inBox b l
    if m = 0 then s else send s [.arrive b.swdie b.swkey m (k.filter (fun x => boxAt s x.1 == some b))]) s

/-- A kick reaches the mailbox whose window holds its address: held if n lies within 16 from EXPECT, else dropped (R391). -/
def kick (s : State) (va n : Nat) : State :=
  match boxAt s va with
  | none => s
  | some b =>
    if (n + 2 ^ 32 - b.expect) % 2 ^ 32 ≤ 15 then
      modHost s (fun h => { h with boxes := NMap.set none h.boxes b.num (some { b with kicks := n :: b.kicks.filter (· != n) }) })
    else emit s srcIo { kind := 0x10, detail := 1, info := b.num }

/-- The end of a WRITE: the arrivals of what it placed, its answer, and its kick, which waits for a payload of its own to count. -/
def endWrite (s : State) (qp : Nat) (w : HostWrite) : State :=
  let k := w.imm.map (fun n => (w.va, n % 2 ^ 32))
  let s := toHost (boxArrivals s w.put k) (if w.lost then .nak qp nakOperational else .ack qp)
  match k with
  | none => s
  | some (va, n) => if ((boxAt s va).map (fun b => inBox b w.put)).getD 0 = 0 then kick s va n else s

/-- A WRITE that is admitted, with its lines; none where it draws a NAK for access. -/
def admitWrite (s : State) (qp key va : Nat) (imm : Option Nat) (data : List Byte) : Option (HostWrite × State) :=
  if key ≠ (qpOf s qp).key || !panelOn s then none
  else match hostPieces s .write va data.length with
    | (none, _) => none
    | (some l, s) => some ({ pieces := l, va := va, data := data, imm := imm }, s)

/-- Perform a list of the lines of a WRITE. -/
def putLines (s : State) (w : HostWrite) (l : List (Nat × Nat × Nat × Nat)) : State × HostWrite :=
  let (s, put, lost) := l.foldl (hostPut w.va w.data) (s, w.put, w.lost)
  (s, { w with pieces := w.pieces.drop l.length, put := put, lost := lost })

/-- A WRITE to its end. -/
def performWrite (s : State) (qp : Nat) (w : HostWrite) : State :=
  let (s, w) := putLines s w w.pieces
  endWrite s qp w

/-- Messages of one queue pair are performed in order: the lines of a WRITE under way go first (R386). -/
def drainQp (s : State) (qp : Nat) : State :=
  match (qpOf s qp).rest with
  | none => s
  | some w => performWrite (modQp s qp (fun q => { q with rest := none })) qp w

/-- A WRITE, performed whole. -/
def hostWrite (s : State) (qp key va : Nat) (imm : Option Nat) (data : List Byte) : State :=
  let s := drainQp s qp
  match admitWrite s qp key va imm data with
  | none => toHost s (.nak qp nakAccess)
  | some (w, s) => performWrite s qp w

/-- RDMA_WRITE: a message of one queue pair, performed in message order. -/
def execRdmaWrite (qp key va : Nat) (data : List Byte) (s : State) : Host.Outcome State Fault Refusal :=
  ok (if portOpen s qp then hostWrite s qp key va none data else s)

/-- RDMA_WRITE_WITH_IMMEDIATE: a WRITE, and a kick where its address lies in a window. -/
def execRdmaWriteWithImmediate (qp key va imm : Nat) (data : List Byte) (s : State) : Host.Outcome State Fault Refusal :=
  ok (if portOpen s qp then hostWrite s qp key va (some imm) data else s)

/-- A WRITE whose lines others may come between (log 80): it is admitted, and its lines stand until each is performed. -/
def beginWrite (s : State) (qp key va : Nat) (imm : Option Nat) (data : List Byte) : State :=
  if !portOpen s qp then s
  else
    let s := drainQp s qp
    match admitWrite s qp key va imm data with
    | none => toHost s (.nak qp nakAccess)
    | some (w, s) => if w.pieces.isEmpty then endWrite s qp w else modQp s qp (fun q => { q with rest := some w })

/-- The next line of a WRITE under way, and after the last one its end. -/
def writeLineOf (s : State) (qp : Nat) : State :=
  match (qpOf s qp).rest with
  | none => s
  | some w =>
    let (s, w) := putLines s w (w.pieces.take 1)
    if w.pieces.isEmpty then endWrite (modQp s qp (fun q => { q with rest := none })) qp w
    else modQp s qp (fun q => { q with rest := some w })

/-- Bytes of a packet (R384). -/
def mtu : Nat := 4096

/-- A READ that is admitted, with its lines; none where it draws a NAK for access. -/
def admitRead (s : State) (qp key va n : Nat) : Option (HostRead × State) :=
  if key ≠ (qpOf s qp).key || !panelOn s then none
  else match hostPieces s .read va n with
    | (none, _) => none
    | (some l, s) => some ({ va := va, pieces := l }, s)

/-- Perform a list of the lines of a READ: each is home-served. -/
def getLines (s : State) (r : HostRead) (l : List (Nat × Nat × Nat × Nat)) : State × HostRead :=
  let (s, d) := l.foldl (fun (x : State × List PByte) p =>
    let (d, s) := readPiece x.1 p.2.2.1 p.2.1 p.2.2.2
    (s, x.2 ++ d)) (s, r.got)
  (s, { r with pieces := r.pieces.drop l.length, got := d })

/-- The answer to a READ: its bytes; poison or a lost member draws a NAK and a record, after the response packets of the bytes before it (R386). -/
def endRead (s : State) (qp : Nat) (r : HostRead) : State :=
  match r.got.findIdx? (fun b => b.2) with
  | some i =>
    let s := if i < mtu then s else toHost s (.data qp (plain (r.got.take (i / mtu * mtu))))
    emit (toHost s (.nak qp nakOperational)) srcIo { kind := 0x10, detail := 7, addr := r.va + i }
  | none => toHost s (.data qp (plain r.got))

/-- A READ to its end. -/
def performRead (s : State) (qp : Nat) (r : HostRead) : State :=
  let (s, r) := getLines s r r.pieces
  endRead s qp r

/-- The oldest READ under way goes to its end. -/
def drainRead (s : State) (qp : Nat) : State :=
  match (qpOf s qp).get with
  | [] => s
  | r :: t => performRead (modQp s qp (fun q => { q with get := t })) qp r

/-- READs that a queue pair has outstanding at most (R384). -/
def maxReads : Nat := 64

/-- RDMA_READ, performed whole: after the READs and the WRITE of its queue pair that are under way. -/
def execRdmaRead (qp key va n : Nat) (s : State) : Host.Outcome State Fault Refusal :=
  ok (if !portOpen s qp then s
    else
      let s := (List.range (qpOf s qp).get.length).foldl (fun s _ => drainRead s qp) (drainQp s qp)
      match admitRead s qp key va n with
      | none => toHost s (.nak qp nakAccess)
      | some (r, s) => performRead s qp r)

/-- A READ whose lines others may come between (log 80): it is admitted once the WRITE before it is performed, and its lines stand until each is
performed. With 64 outstanding the oldest ends first. -/
def beginRead (s : State) (qp key va n : Nat) : State :=
  if !portOpen s qp then s
  else
    let s := drainQp s qp
    let s := if maxReads ≤ (qpOf s qp).get.length then drainRead s qp else s
    match admitRead s qp key va n with
    | none => toHost s (.nak qp nakAccess)
    | some (r, s) => modQp s qp (fun q => { q with get := q.get ++ [r] })

/-- The next line of the oldest READ under way, and after the last one its answer. -/
def readLineOf (s : State) (qp : Nat) : State :=
  match (qpOf s qp).get with
  | [] => s
  | r :: t =>
    let (s, r) := getLines s r (r.pieces.take 1)
    if r.pieces.isEmpty then endRead (modQp s qp (fun q => { q with get := t })) qp r
    else modQp s qp (fun q => { q with get := r :: t })

/-! ## Management answers (R387, R388) -/

def mgmtQp : Nat := 256

/-- Answer a command on queue pair 256: RESULT 0 done, 1 refused, 2 malformed, 3 not available in this stage. -/
def answer (s : State) (tag code result : Nat) (body : List Byte) : State :=
  modQp (toHost s (.answer (tag % 2 ^ 16) code result body)) mgmtQp (fun q => { q with sends := q.sends + 1 })
def refuse (s : State) (tag code : Nat) : State := answer s tag code 1 []
def malformed (s : State) (tag code : Nat) : State := answer s tag code 2 []
def done (s : State) (tag code : Nat) : State := answer s tag code 0 []

/-- The SEND that carried a command is acknowledged (R386). -/
def acked (s : State) : State := toHost s (.ack mgmtQp)

/-- A command of stage 0: it runs from stage 0 on, after the WRITE of the management pair that is under way (R386). -/
def early (s : State) (f : State → State) : State := if s.host.stage == .off then s else f (acked (drainQp s mgmtQp))

/-- Commands of stage 2 are open: some die is ready, the panel goes on, and the dies that the command names are ready, or are
dropped, which the command itself answers. -/
def stageOpen (s : State) (dies : List Nat) : Bool :=
  panelOn s && (match s.host.stage with
    | .two => true
    | .one => s.dies.any (fun e => e.2.ready) && dies.all (fun d => (dieOf s d).ready || (dieOf s d).dropped || decide (144 ≤ d))
    | _ => false)

/-- A command of stage 2 that names dies. -/
def late (s : State) (tag code : Nat) (dies : List Nat) (f : State → State) : State :=
  if s.host.stage == .off then s
  else
    let s := drainQp s mgmtQp
    if stageOpen s dies then f (acked s) else answer (acked s) tag code 3 []

/-! ## Reports: attestation, identity, telemetry (R382, R400, R401) -/

/-- The bits of a report body: a number and its low bit. -/
def putBits (x : Nat) (l : List (Nat × Nat)) : Nat := l.foldl (fun x e => x + e.1 * 2 ^ e.2) x

/-- The attestation report body as a number (R401). -/
def report (s : State) (nonce : List Byte) : Nat :=
  let live := ((List.range 144).map (fun d => if isLive s d then 2 ^ d else 0)).sum
  let harvest := putBits 0 ((List.range 144).map (fun d => ((dieOf s d).colret.toNat, 38 * d)))
  let meas := (List.range 144).flatMap (fun d => (dieOf s d).meas)
  let mdie := if meas.isEmpty then 0 else (Config.sha512 meas).toNat
  putBits 1 [(bytesVal nonce, 64), (bytesVal s.host.mrom, 576), (bytesVal s.host.mfw, 1088), (mdie, 1600), (harvest, 2112), (live, 7584)]

/-- A number of bits as bytes, the most significant first. -/
def bigBytes (n x : Nat) : List Byte := (valBytes n x).reverse

/-- ATTESTATION: the body, then the signature over its digest. -/
def execAttestation (tag : Nat) (nonce : List Byte) (s : State) : Host.Outcome State Fault Refusal :=
  ok (early s (fun s =>
    if nonce.length ≠ 64 then malformed s tag 1
    else
      let body := valBytes 1024 (report s nonce)
      answer s tag 1 0 (body ++ bigBytes 132 (Config.signature body).toNat)))

/-- READ_IDENTITY. -/
def execReadIdentity (tag : Nat) (s : State) : Host.Outcome State Fault Refusal :=
  ok (early s (fun s => answer s tag 5 0 Config.identity))

/-- The 32 bytes of an event record (R382). -/
def eventBytes (e : Event) : List Byte :=
  valBytes 32 (e.info % 65536 + e.detail % 256 * 2 ^ 16 + e.kind % 256 * 2 ^ 24 + e.launch % 2 ^ 32 * 2 ^ 32 + e.seq % 2 ^ 48 * 2 ^ 64
    + e.src % 65536 * 2 ^ 112 + e.addr % 2 ^ 64 * 2 ^ 128 + e.cseq % 2 ^ 48 * 2 ^ 192 + e.csrc % 65536 * 2 ^ 240)

/-- Records that one answer holds: 4,088 bytes at most (R387). -/
def answerRecords : Nat := 127

/-- Take up to n records from the buffers, those of a source in their order. -/
def takeRecords : Nat → NMap (List Event) → List Event × NMap (List Event)
  | _, [] => ([], [])
  | n, e :: t =>
    let (l, r) := takeRecords (n - e.2.length) t
    (e.2.take n ++ l, if e.2.length ≤ n then r else (e.1, e.2.drop n) :: r)

/-- READ_TELEMETRY: the records held go to the host; the buffers have room again (R383). -/
def execReadTelemetry (tag : Nat) (s : State) : Host.Outcome State Fault Refusal :=
  ok (early s (fun s =>
    let (l, b) := takeRecords answerRecords s.evbuf
    answer { s with evbuf := b } tag 4 0 (l.flatMap eventBytes)))

/-! ## Power (R395 to R398) -/

def regionAt (s : State) (r : Nat) : Region := NMap.get {} s.host.regions r
def modRegion (s : State) (r : Nat) (f : Region → Region) : State :=
  modHost s (fun h => { h with regions := NMap.modify {} h.regions r f })

/-- CAP of a P state. -/
def capOf (p : Nat) : Nat := match p with | 0 => 2200 | 1 => 1800 | 2 => 1400 | _ => 1000

/-- Everything is lost: what is fused stays, and what the host has been sent. -/
def powerOff (s : State) : State :=
  { State.reset with
    dies := s.dies.map (fun e => (e.1, ({ colret := e.2.colret } : Die)))
    host := { out := s.host.out, rollback := s.host.rollback }
    sched := s.sched, free := s.free, nextId := s.nextId }

/-- The dies of a region lose what their logic held; their vaults keep their content (S2). What a team elsewhere holds of an
operation on them stays: its response is late (log 81). -/
def loseLogic (s : State) (r : Nat) : State :=
  let gone (d : Nat) : Bool := regionOf d == r
  { s with
    cells := s.cells.map (fun e => if gone (e.1 / 4608) then (e.1, { e.2 with l1 := [], pred := [], ic := [], utlb := [], regq := [], wideq := [] }) else e)
    ctlb := s.ctlb.filter (fun e => !gone (e.1 / 1152))
    dies := s.dies.map (fun e => if gone e.1 then (e.1, { e.2 with walkq := [], walking := [], wcache := [], queues := [], held := [], active := [] }) else e)
    parlour := { s.parlour with stores := s.parlour.stores.filter (fun e => !gone e.1), owners := s.parlour.owners.filter (fun e => !gone e.1) } }

/-- POWER_STATE: st 0 to 3 are P0 to P3, 4 S1, 5 S2, 6 S3. A region leaves S1 or S2 only into a P state. -/
def execPowerState (tag region st : Nat) (s : State) : Host.Outcome State Fault Refusal :=
  ok (early s (fun s =>
    if 16 ≤ region || 7 ≤ st then malformed s tag 2
    else if st < 4 then done (modRegion s region (fun r => { r with pstate := st, sstate := 0, cap := capOf st })) tag 2
    else if st < 6 && (regionAt s region).sstate ≠ 0 then refuse s tag 2
    else if st = 4 then done (modRegion s region (fun r => { r with sstate := 1 })) tag 2
    else if st = 5 then
      if s.blocks.any (fun b => b.status == .resident && regionOf b.die == region) then refuse s tag 2
      else done (loseLogic (modRegion s region (fun r => { r with sstate := 2 })) region) tag 2
    else powerOff (done s tag 2)))

/-- CAP_AND_STEP. -/
def execCapAndStep (tag region cap window rise : Nat) (s : State) : Host.Outcome State Fault Refusal :=
  ok (early s (fun s =>
    if 16 ≤ region then malformed s tag 3
    else if cap < 600 || capOf (regionAt s region).pstate < cap || window = 0 || 65536 ≤ window || 65536 ≤ rise then refuse s tag 3
    else done (modRegion s region (fun r => { r with cap := cap, window := window, step := rise })) tag 3))

/-- POWER_CONTROLLER_WINDOW: the controller of a region, which estimates its draw, lowers the clock by a sixteenth where the draw
is above CAP, and delays issue where it rose by more than STEP (R396). Neither changes an outcome (R397). -/
def execPowerControllerWindow (region draw : Nat) (s : State) : Host.Outcome State Fault Refusal :=
  ok (if s.host.stage == .off || 16 ≤ region then s
    else modRegion s region (fun r => { r with
      clock := if r.cap < draw then max 4 (r.clock - 1) else min 16 (r.clock + 1)
      delay := if r.draw + r.step < draw then r.delay + 1 else 0
      draw := draw }))

/-- DROOP_ALARM: the region's clock is halved until after recovery, and a record is emitted (R398). -/
def execDroopAlarm (region : Nat) (s : State) : Host.Outcome State Fault Refusal :=
  ok (if s.host.stage == .off || 16 ≤ region then s
    else emit (modRegion s region (fun r => { r with droop := true, recov := false })) srcIo { kind := 0x10, detail := 2, info := region })

/-- VOLTAGE_RECOVERY: the count of 65,536 controller cycles begins. -/
def execVoltageRecovery (region : Nat) (s : State) : Host.Outcome State Fault Refusal :=
  ok (modRegion s region (fun r => { r with recov := r.droop }))

/-- DROOP_RECOVERY: the count has run out. -/
def execDroopRecovery (region : Nat) (s : State) : Host.Outcome State Fault Refusal :=
  ok (modRegion s region (fun r => if r.recov then { r with droop := false, recov := false } else r))

/-! ## Staged start (R393, R394, R399) -/

/-- POWER_GOOD: stage 0, with the outcomes of the self-tests of dies (0,5) and (0,6). The boot ROM is measured. -/
def execPowerGood (east west : Bool) (s : State) : Host.Outcome State Fault Refusal :=
  ok (if s.host.stage != .off then s
    else modHost s (fun h => { h with
      stage := .zero
      booted := if east then some 60 else if west then some 72 else none
      mrom := valBytes 64 (Config.sha512 Config.bootRom).toNat
      qps := NMap.set {} h.qps mgmtQp { isOpen := true } }))

/-- An image that its signature and its version admit (R399). -/
def imageGood (s : State) (image : List Byte) (version : Nat) : Bool := Config.verifies image && decide (s.host.rollback ≤ version)

/-- FIRMWARE_IMAGE_VERIFICATION: the image that the I/O die's flash holds, with its version. -/
def execFirmwareImageVerification (image : List Byte) (version : Nat) (s : State) : Host.Outcome State Fault Refusal :=
  ok (if s.host.stage != .zero || s.host.booted.isNone then s
    else if imageGood s image version then
      modHost s (fun h => { h with stage := .one, mfw := valBytes 64 (Config.sha512 image).toNat, fwver := version })
    else emit (modHost s (fun h => { h with stage := .refused })) srcIo { kind := 0x10, detail := 3 })

/-- Site column and row of a die, and the hops between two dies (R340, R346). -/
def dieCol (d : Nat) : Nat := 2 * (d % 12) + d / 12 % 2
def hops (a b : Nat) : Nat :=
  (dieCol a - dieCol b) + (dieCol b - dieCol a) + (a / 12 - b / 12) + (b / 12 - a / 12)

/-- Training of a die has ended, well or not. -/
def settledDie (s : State) (d : Nat) : Bool := let k := dieOf s d; k.ready || k.failed || k.dropped

/-- A die that ends its training: ready with its firmware measured, or failed. Firmware that is refused never runs: it leaves its
record, and the die has failed (R399, log 82). -/
def trainDie (s : State) (die : Nat) (good : Bool) (image : List Byte) : State :=
  let lame (s : State) : State := modDie s die (fun k => { k with failed := true })
  if !good then lame s
  else if imageGood s image (Config.imageVersion image) then
    modDie s die (fun k => { k with live := true, ready := true, meas := valBytes 64 (Config.sha512 image).toNat })
  else emit (lame s) srcIo { kind := 0x10, detail := 3 }

/-- DIE_TRAINING: the next die in ascending route distance from the booted die, then ordinal, ends its training: it becomes ready with its
firmware measured, or has failed. -/
def execDieTraining (die : Nat) (good : Bool) (image : List Byte) (s : State) : Host.Outcome State Fault Refusal :=
  ok (match s.host.stage, s.host.booted with
    | .one, some b =>
      let first := (List.range 144).all (fun d => settledDie s d || decide (hops b die < hops b d) || (hops b die == hops b d && decide (die ≤ d)))
      if 144 ≤ die || settledDie s die || !first || !panelOn s then s
      else modHost (trainDie s die good image) (fun h => { h with trained := h.trained ++ [die] })
    | _, _ => s)

/-- STAGE_1_END: every die is ready, failed or dropped; those that failed are dropped, and an event record marks the end. -/
def execStage1End (s : State) : Host.Outcome State Fault Refusal :=
  ok (if s.host.stage != .one || !(List.range 144).all (settledDie s) then s
    else
      let s := partition (dropDies s ((List.range 144).filter (fun d => (dieOf s d).failed)))
      emit (modHost s (fun h => { h with stage := .two })) srcIo { kind := 0x10 })

/-! ## Commands that bind and append -/

/-- OPEN_CONNECTION: a queue pair is bound, and gets its key. -/
def execOpenConnection (tag qp : Nat) (s : State) : Host.Outcome State Fault Refusal :=
  ok (early s (fun s =>
    if 4096 ≤ qp then malformed s tag 6
    else if qp = mgmtQp then refuse s tag 6
    else
      let (n, s) := tick s
      let key := (Config.freeBits 32 n).toNat
      answer (modQp s qp (fun _ => { isOpen := true, key := key })) tag 6 0 (valBytes 4 key)))

/-- APPEND: a full queue refuses at once (R295). -/
def execAppend (tag die q : Nat) (desc : List Byte) (s : State) : Host.Outcome State Fault Refusal :=
  ok (late s tag 0x10 [die] (fun s =>
    if desc.length ≠ 128 || 64 ≤ q then malformed s tag 0x10
    else if !isLive s die || !logicOn s die || 256 ≤ (NMap.get [] (dieOf s die).queues q).length then refuse s tag 0x10
    else
      let e : QEntry := { bits := BitVec.ofNat 1024 (bytesVal desc) }
      done (modDie s die (fun d => { d with queues := NMap.modify [] d.queues q (· ++ [e]) })) tag 0x10))

/-! ## Pre-emption and stopped teams (R304, R307, R311) -/

/-- Blocks of active launches of an ID: one by its index, or all. -/
def namedBlocks (s : State) (id : Nat) (index : Option Nat) : List Block :=
  s.blocks.filter (fun b => (match index with | some i => b.index == i | none => true)
    && (match launch? s b.lid with | some l => l.d.id == id && l.status == .active | none => false))

/-- A request has been accepted, or its block is saved or gone. -/
def askMet (s : State) (bid : Nat) : Bool :=
  match block? s bid with
  | none => true
  | some b => b.status != .resident || preempting s b

/-- PRE_EMPT: the request of each block; the answer comes once all are accepted (R307). -/
def execPreEmpt (tag id : Nat) (index : Option Nat) (s : State) : Host.Outcome State Fault Refusal :=
  ok (late s tag 0x11 [] (fun s =>
    let bs := namedBlocks s id index
    if bs.isEmpty then refuse s tag 0x11
    else
      let ids := bs.map (fun b => b.bid)
      let s := { s with blocks := s.blocks.map (fun b => if ids.contains b.bid && b.status == .resident then { b with preempt := true } else b) }
      let s := ids.foldl (fun s b => tryPreempt s (blockOf s b)) s
      if ids.all (askMet s) then done s tag 0x11 else modHost s (fun h => { h with asks := h.asks ++ [(tag, ids)] })))

/-- A team that is stopped for the host, with its CODE. -/
def stopCode (t : Team) : Option Nat := match t.status with | .stopped c => some c | _ => none

/-- The stopped team that a command names by launch ID, BLOCK.INDEX, team index and, for a pixel block, die (R294). -/
def stoppedTeam (s : State) (die id index team : Nat) : Option (Team × Nat) :=
  ((allTeams s).findSome? (fun t => match block? s t.blk, stopCode t with
    | some b, some c => if b.index == index && t.idx == team && (!b.pixel || b.die == die) && (launchOf s b.lid).d.id == id then some (t, c) else none
    | _, _ => none))

/-- The current team goes on after a stop; in a saved block it stays saved. An operation that is replayed is reissued at once where there is room
for it, else before the team goes on (R79, R222). -/
def goOn (s : State) (replay : Bool) : State :=
  match s.cur.stop with
  | none => s
  | some x =>
    let here := (curBlock s).status == .resident
    let redo (s : State) (o : Op) : State := if here && !replayFull s o then reissueOp s o else modCur s (fun t => { t with redo := some o })
    let s := restoreTrap (modCur s (fun t => { clearWait t with stop := none })) x replay redo
    if here then s else modCur s (fun t => { t with status := .saved })

/-- Answer 0x12 that lets a team go on. -/
def goOnCommand (tag die id index team : Nat) (replay : Bool) (s : State) : State :=
  late s tag 0x12 [die] (fun s => match stoppedTeam s die id index team with
    | some (t, c) =>
      if (c = 0x20 || c = 0x21) && (!replay || t.trapcause.getLsbD 16) then done (inTeam s t.tid (fun s => some (goOn s replay))) tag 0x12
      else refuse s tag 0x12
    | none => refuse s tag 0x12)

def execReplay (tag die id index team : Nat) (s : State) : Host.Outcome State Fault Refusal := ok (goOnCommand tag die id index team true s)
def execResume (tag die id index team : Nat) (s : State) : Host.Outcome State Fault Refusal := ok (goOnCommand tag die id index team false s)

/-- The end command on a pixel block aborts the draw whose fragments it holds; the pixel-stage descriptor's record gets STATE 3
(R313, R339). -/
def endPixel (s : State) (b : Block) : State :=
  let draws := distinct (b.frags.filterMap (fun f => f.map (fun g => g.draw)))
  let s := removeBlock s b.bid
  let s := match s.parlour.pass with
    | none => s
    | some p => (p.draws.filter (fun d => draws.contains d.ord)).foldl (fun s d => abortLaunch s d.lid 0x10) s
  { modLaunch s b.lid (fun l => { l with pxended := true }) with
    statusq := s.statusq ++ [{ lid := b.lid, state := 3, code := 0x10 }] }

/-- END: the stopped team's launch aborts. -/
def execEndLaunch (tag die id index team : Nat) (s : State) : Host.Outcome State Fault Refusal :=
  ok (late s tag 0x12 [die] (fun s => match stoppedTeam s die id index team with
    | some (t, _) =>
      let b := blockOf s t.blk
      done (if b.pixel then endPixel s b else abortLaunch s b.lid 0x10) tag 0x12
    | none => refuse s tag 0x12))

/-! ## Mailboxes (R389 to R392) -/

/-- The held appends of a mailbox's queue. -/
def heldAt (s : State) (b : Mailbox) : List QHeld := NMap.get [] (dieOf s b.swdie).held b.queue
def setHeld (s : State) (b : Mailbox) (l : List QHeld) : State :=
  modDie s b.swdie (fun c => { c with held := NMap.set [] c.held b.queue l })

/-- A mailbox gives up its place among the held appends of its queue. -/
def leaveHeld (s : State) (b : Mailbox) : State := setHeld s b ((heldAt s b).filter (fun h => h.box != some b.num))

/-- A descriptor as a mailbox, or none where a reserved field is nonzero or a limit is broken. -/
def boxOf (x : Nat) : Option Mailbox :=
  let b (h l : Nat) : Nat := bitsOf x h l
  if b 511 504 != 0 || b 447 440 != 0 || b 279 262 != 0 || b 223 8 != 0 || b 503 448 % 128 != 0 || b 439 384 % 128 != 0
      || b 383 352 % 128 != 0 || decide (b 383 352 < 128) || decide (2 ^ 31 < b 383 352) || b 351 320 == 0 || b 319 288 % 16 != 0 then none
  else some { num := b 7 0, ldesc := b 503 448, wbase := b 439 384, wlen := b 383 352, target := b 351 320, swdie := b 287 280
              queue := b 261 256, expect := b 255 224 }

/-- REGISTER_MAILBOX: it refuses a bad descriptor, an overlap or a die that is not live; else it arms the sync word (R390). -/
def execRegisterMailbox (tag : Nat) (desc : List Byte) (s : State) : Host.Outcome State Fault Refusal :=
  let x := bytesVal desc
  ok (late s tag 0x13 [bitsOf x 287 280] (fun s =>
    if desc.length ≠ 64 then malformed s tag 0x13
    else match boxOf x with
      | none => refuse s tag 0x13
      | some b => match (if x.testBit 319 then vaultKey s {} b.swdie 0 (bitsOf x 319 288) 16 else none) with
        | none => refuse s tag 0x13
        | some k =>
          if !isLive s b.swdie || (boxesOf s).any (fun c => c.num != b.num && meets c.wbase c.wlen b.wbase b.wlen) then refuse s tag 0x13
          else
            let (d, s) := readVault s k 16
            let s := vaultUpdate s k (fun y => swArmed y b.target)
            let s := match NMap.get none s.host.boxes b.num with | some c => leaveHeld s c | none => s
            done (modHost s (fun h => { h with boxes := NMap.set none h.boxes b.num (some { b with swkey := k, g0 := swGen (bytesVal (plain d)) }) })) tag 0x13))

/-- UNREGISTER_MAILBOX: its held kicks are dropped. -/
def execUnregisterMailbox (tag box : Nat) (s : State) : Host.Outcome State Fault Refusal :=
  ok (late s tag 0x14 [] (fun s =>
    match NMap.get none s.host.boxes box with
    | none => refuse s tag 0x14
    | some b => done (modHost (leaveHeld s b) (fun h => { h with boxes := NMap.set none h.boxes box none })) tag 0x14))

/-- Each advance of a mailbox's GEN adds to PENDING (R391). -/
def countGen (s : State) (b : Mailbox) : Mailbox :=
  let g := swGen (bytesVal ((List.range 16).map (fun i => vaultByte s (b.swkey + i))))
  { b with pending := b.pending + (g + 2 ^ 32 - b.g0 % 2 ^ 32) % 2 ^ 32, g0 := g }

/-- The queue takes the mailbox's launch now: it holds fewer than 256 entries, and no append that reached it before is held (R231). -/
def queueRoom (s : State) (b : Mailbox) : Bool :=
  decide ((NMap.get [] (dieOf s b.swdie).queues b.queue).length < 256)
    && (match heldAt s b with | [] => true | h :: _ => h.box == some b.num)

/-- One handler launch of a mailbox (R392), where PENDING > 0 and a kick for EXPECT is held, in one step. A full queue holds it in its place among
the held appends, with all that follows it; a descriptor that cannot be read holds it back without one (log 35). -/
def boxLaunch (s : State) (num : Nat) : State :=
  match NMap.get none s.host.boxes num with
  | none => s
  | some b =>
    let b := countGen s b
    let s := modHost s (fun h => { h with boxes := NMap.set none h.boxes num (some b) })
    if b.pending = 0 || !b.kicks.contains b.expect || !isLive s b.swdie || !logicOn s b.swdie then s
    else if !queueRoom s b then
      (if (heldAt s b).any (fun h => h.box == some num) then s else setHeld s b (heldAt s b ++ [{ box := some num }]))
    else
      let s := leaveHeld s b
      match distRead s b.ldesc 128 with
      | (none, s) => s
      | (some d, s) =>
        let x := bytesVal d
        let x := x - bitsOf x 543 512 * 2 ^ 512 + b.expect * 2 ^ 512
        let e : QEntry := { bits := BitVec.ofNat 1024 x, edge := some (b.wbase, b.wlen) }
        modHost (modDie s b.swdie (fun c => { c with queues := NMap.modify [] c.queues b.queue (· ++ [e]) }))
          (fun h => { h with boxes := NMap.set none h.boxes num (some { b with pending := b.pending - 1, kicks := b.kicks.filter (· != b.expect), expect := (b.expect + 1) % 2 ^ 32 }) })

/-- Every mailbox launches what it can: at most 16 kicks are held. -/
def boxLaunches (s : State) : State :=
  if s.host.boxes.isEmpty then s
  else (s.host.boxes.map (fun e => e.1)).foldl (fun s n => (List.range 16).foldl (fun s _ => boxLaunch s n) s) s

/-- The kicks whose payload has counted, after the launches that it allowed (R391). -/
def settleBoxes (s : State) : State :=
  let s := boxLaunches s
  if s.host.newkicks.isEmpty then s
  else boxLaunches (s.host.newkicks.foldl (fun s k => kick s k.1 k.2) (modHost s (fun h => { h with newkicks := [] })))

/-! ## Commands over memory and dies -/

/-- Bytes of a stack: 500,000,000 lines (R281). -/
def stackBytes : Nat := 64000000000

/-- The members of a set by its mask: each live die gives its own site, then those it has adopted, in order; lost sites are left out
(R276, R353, R354). -/
def membersOf (s : State) (mask : Nat) : List Nat :=
  ((List.range 144).filter (fun d => mask.testBit d && isLive s d)).flatMap (fun d =>
    ((d :: (List.range 144).filter (fun x => x != d)).filter (fun x => ownerDie s x == d && !(siteOf s x).lost)))

/-- DEFINE_INTERLEAVE_SET: a base and a capacity for each member, in order (R275, log 13). -/
def execDefineInterleaveSet (tag set_ mask : Nat) (bases caps : List Nat) (s : State) : Host.Outcome State Fault Refusal :=
  ok (late s tag 0x15 ((List.range 144).filter (fun d => mask.testBit d)) (fun s =>
    let ms := membersOf s mask
    if 255 ≤ set_ || bases.length ≠ ms.length || caps.length ≠ ms.length || bases.any (fun b => b % 128 != 0) then malformed s tag 0x15
    else if ms.isEmpty || (bases.zip caps).any (fun b => decide (stackBytes < b.1 + b.2)) || caps.any (fun c => c % 128 != 0) then refuse s tag 0x15
    else done { s with mem := { s.mem with sets := NMap.set none s.mem.sets set_ (some { members := ms, bases := bases, caps := caps }) } } tag 0x15))

/-- TRANSLATION_ROOT: every translation of every live die goes first (R283). -/
def execTranslationRoot (tag root : Nat) (s : State) : Host.Outcome State Fault Refusal :=
  ok (late s tag 0x16 [] (fun s =>
    if root % 256 ≠ 0 || 2 ^ 52 ≤ root then malformed s tag 0x16
    else
      let s := dropTlb s (fun _ => true) (fun _ => true) (fun _ => true) (fun _ => true) (fun _ => true)
      done { s with mem := { s.mem with root := root } } tag 0x16))

/-- SAVE_AREA: a die's save area; one that would not hold the contexts in it is refused. -/
def execSaveArea (tag die base size : Nat) (s : State) : Host.Outcome State Fault Refusal :=
  ok (late s tag 0x17 [die] (fun s =>
    let s' := modDie s die (fun d => { d with savebase := base, savecap := size })
    if !isLive s die || !saveRoom s' die [] then refuse s tag 0x17 else done s' tag 0x17))

/-- RETIRE_CELL: the cell is drained; its record names no cause (R349, R371). -/
def execRetireCell (tag die cell : Nat) (s : State) : Host.Outcome State Fault Refusal :=
  ok (late s tag 0x18 [die] (fun s =>
    if !cellLive s die cell || (cellOf s (ckey die cell)).drain then refuse s tag 0x18
    else done (drainCell s die cell (0xFFFF, 0)) tag 0x18))

/-- DROP_DIE. -/
def execDropDie (tag die : Nat) (s : State) : Host.Outcome State Fault Refusal :=
  ok (late s tag 0x19 [die] (fun s =>
    if 144 ≤ die || (dieOf s die).dropped then refuse s tag 0x19 else done (dropDie s die) tag 0x19))

/-- HALT_DIE and RELEASE_DIE. -/
def execHaltDie (tag die : Nat) (s : State) : Host.Outcome State Fault Refusal :=
  ok (late s tag 0x1A [die] (fun s => if !isLive s die then refuse s tag 0x1A else done (haltStart s die) tag 0x1A))
def execReleaseDie (tag die : Nat) (s : State) : Host.Outcome State Fault Refusal :=
  ok (late s tag 0x1A [die] (fun s => if !isLive s die then refuse s tag 0x1A else done (haltRelease s die) tag 0x1A))

/-- PATROL_PERIOD: the period of every base die's scrubber, in hours. -/
def execPatrolPeriod (tag hours : Nat) (s : State) : Host.Outcome State Fault Refusal :=
  ok (late s tag 0x1B [] (fun s =>
    if hours = 0 then malformed s tag 0x1B
    else done ((List.range 144).foldl (fun s x => modSite s x (fun st => { st with period := hours })) s) tag 0x1B))

/-! ## SEND messages (R384, R387) -/

/-- Operand k of a command body: its k-th eight bytes (log 79). -/
def bodyWord (body : List Byte) (k : Nat) : Nat := bytesVal ((body.drop (8 * k)).take 8)

/-- The command that CODE names, with its operands from a body of the length that it takes (R388, log 79). -/
def commandOf (code tag : Nat) (body : List Byte) : Option (State → Host.Outcome State Fault Refusal) :=
  let w := bodyWord body
  let whole (n : Nat) (i : State → Host.Outcome State Fault Refusal) : Option (State → Host.Outcome State Fault Refusal) := if body.length = 8 * n then some i else none
  match code with
  | 0x01 => some (execAttestation tag body)
  | 0x02 => whole 2 (execPowerState tag (w 0) (w 1))
  | 0x03 => whole 4 (execCapAndStep tag (w 0) (w 1) (w 2) (w 3))
  | 0x04 => whole 0 (execReadTelemetry tag)
  | 0x05 => whole 0 (execReadIdentity tag)
  | 0x06 => whole 1 (execOpenConnection tag (w 0))
  | 0x10 => if 16 ≤ body.length then some (execAppend tag (w 0) (w 1) (body.drop 16)) else none
  | 0x11 => (whole 1 (execPreEmpt tag (w 0) none)).or (whole 2 (execPreEmpt tag (w 0) (some (w 1))))
  | 0x12 => match w 4 with
    | 0 => whole 5 (execResume tag (w 0) (w 1) (w 2) (w 3))
    | 1 => whole 5 (execReplay tag (w 0) (w 1) (w 2) (w 3))
    | 2 => whole 5 (execEndLaunch tag (w 0) (w 1) (w 2) (w 3))
    | _ => none
  | 0x13 => some (execRegisterMailbox tag body)
  | 0x14 => whole 1 (execUnregisterMailbox tag (w 0))
  | 0x15 =>
    let n := (body.length - 32) / 16
    whole (4 + 2 * n) (execDefineInterleaveSet tag (w 0) (w 1 + w 2 * 2 ^ 64 + w 3 * 2 ^ 128)
      ((List.range n).map (fun k => w (4 + 2 * k))) ((List.range n).map (fun k => w (5 + 2 * k))))
  | 0x16 => whole 1 (execTranslationRoot tag (w 0))
  | 0x17 => whole 3 (execSaveArea tag (w 0) (w 1) (w 2))
  | 0x18 => whole 2 (execRetireCell tag (w 0) (w 1))
  | 0x19 => whole 1 (execDropDie tag (w 0))
  | 0x1A => match w 1 with
    | 0 => whole 2 (execHaltDie tag (w 0))
    | 1 => whole 2 (execReleaseDie tag (w 0))
    | _ => none
  | 0x1B => whole 1 (execPatrolPeriod tag (w 0))
  | _ => none

/-- The command that a message holds: its header names CODE and TAG, and its LENGTH is that of its body, at most 4,088 bytes. -/
def messageCommand (bytes : List Byte) : Option (State → Host.Outcome State Fault Refusal) :=
  let h := bytesVal (bytes.take 8)
  let body := bytes.drop 8
  if bytes.length < 8 || decide (4088 < body.length) || h / 2 ^ 32 != body.length then none
  else commandOf (h % 256) (h / 2 ^ 16 % 2 ^ 16) body

/-- A SEND that holds no command: on queue pair 256 it is malformed, in the stage of its CODE; on another pair it is acknowledged and
has no effect (log 79). -/
def strayMessage (s : State) (qp : Nat) (bytes : List Byte) : State :=
  let h := bytesVal (bytes.take 8)
  let tag := h / 2 ^ 16 % 2 ^ 16
  let code := h % 256
  if !portOpen s qp then s
  else if qp ≠ mgmtQp then toHost (drainQp s qp) (.ack qp)
  else if 0x10 ≤ code && decide (code ≤ 0x1B) then late s tag code [] (fun s => malformed s tag code)
  else early s (fun s => malformed s tag code)

end Sys2Proof.Machine
end

