-- ==== Sys2Proof/Machine/Stall.lean ====
section
/-! DEFINITION. Stalled instructions: one whose condition has come to hold takes its effect (R178), and a clause whose stall is over continues
(R301). -/

namespace Sys2Proof.Machine

/-- The next state of an outcome that is one. -/
def nextOr (s : State) : Host.Outcome State Fault Refusal → State
  | .next s => s
  | _ => s

/-- A stalling instruction acts again from the start. -/
def retry (s : State) : Instr → Option State
  | .swWait f => some (nextOr s (execSwWait f s))
  | .qPush f => some (nextOr s (execQPush f s))
  | .qPop f => some (nextOr s (execQPop f s))
  | .bar f => some (nextOr s (execBar f s))
  | .barWt f => some (nextOr s (execBarWt f s))
  | .gbar f => some (nextOr s (execGbar f s))
  | .tacq f => some (nextOr s (execTacq f s))
  | .sleep f => some (nextOr s (execSleep f s))
  | _ => none

/-- STALLING_INSTRUCTION_EFFECT: a stalled team's instruction takes its whole effect in one step, if its condition holds; the team goes on
with no pipe, which CLAUSE_CONTINUE gives back. -/
def execStallingInstructionEffect (tid : Nat) (s : State) : Host.Outcome State Fault Refusal :=
  ok (inTeam s tid (fun s =>
    if s.cur.status == .running && s.cur.stalled && (savedFault s.cur).isNone then (currentInstr s.cur).bind (retry s) else none))

/-! ## Continuing a clause (R301) -/

/-- A walk that the team waits for is queued or in progress (R288). -/
def walkPending (s : State) (t : Team) : Bool :=
  let d := dieOf s t.die
  d.walkq.any (fun w => w.by_.any (fun b => b.2 == t.tid)) || d.walking.any (fun w => w.by_.any (fun b => b.2 == t.tid))

/-- What the current team's stalled instruction waits for still stands, apart from its flag and its walks. -/
def waitsOn (s : State) (i : Instr) : Bool :=
  let t := s.cur
  match i with
  | .waitf f => !waitMet t (f.imm.toNat % 16) (f.imm.toNat / 256 % 64)
  | .exit _ => !quiet t
  | .racq _ => inRegq s t
  | .rrel f => releaseBusy t (f.imm.toNat % 8)
  | .trel f => t.ops.any (fun o => namesTile o f.td.toNat)
  | .tret f => f.imm.getLsbD 0 && (match t.handler with | some x => replayWaits s x.kind | none => false)
  | .valset _ => versionsPending t
  | .cp _ | .cp2d _ | .cpX _ | .skimG _ | .skimS _ | .collAbort _ | .enq _ => decide (32 ≤ cellEngines s t.die t.cell)
  | .coll _ => decide (32 ≤ cellEngines s t.die t.cell) || !unobserved s { id := t.nextOp, i := i }
  | .swWait _ | .qPush _ | .qPop _ | .bar _ | .barWt _ | .gbar _ | .tacq _ | .sleep _ => true
  | _ => false

/-- The cause of the current team's stall stands (R301): its instruction waits, the result of an `s.ld` is to come (R78), a completion counter is at
63 (R79), or an access waits for a walk. A stalling instruction waits until STALLING_INSTRUCTION_EFFECT. -/
def causeStands (s : State) : Bool :=
  s.cur.stalled && (s.cur.slotwait || walkPending s s.cur || (match currentInstr s.cur with
    | some i => waitsOn s i || interlocked s.cur i || (match (chk (curLaunch s).d.stage i).fs with
        | some fs => selFlag s fs < 12 && decide (63 ≤ flagCount s.cur (selFlag s fs))
        | none => false)
    | none => false))

/-- CLAUSE_CONTINUE (R301): a clause that released its pipe takes one again once the cause has cleared, its WAIT not applied. -/
def execClauseContinue (tid : Nat) (s0 : State) : Host.Outcome State Fault Refusal :=
  let s := focus s0 tid
  ok (match s.cur.clause with
    | some c =>
      if s.cur.tid != tid || s.cur.status != .running || c.pipe.isSome || allDead s.cur then s0
      else if s.cur.redo.isSome then redoOp s0 s
      else match savedFault s.cur with
        | some d => takeDeferred s d
        | none =>
          if causeStands s then s0
          else match freePipe s s.cur c.cls with
            | none => s0
            | some p => modCur s (fun t => { savedDone t with stalled := false, slotwait := false, clause := some { c with pipe := some p } })
    | none => s0)

end Sys2Proof.Machine
end

