-- ==== Sys2Proof/Machine/Dispatch.lean ====
section
/-! DEFINITION. One arm for each constructor: the meaning that runs it, or its name where it has none. -/

namespace Sys2Proof.Machine

def exec (i : Instr) (s : State) : Host.Outcome State Fault Refusal :=
  match i with
  | .clauseBegin t => Sys2Proof.Machine.execClauseBegin t s
  | .clauseContinue t => Sys2Proof.Machine.execClauseContinue t s
  | .longLatencyCompletion t op => Sys2Proof.Machine.execLongLatencyCompletion t op s
  | .sAdd f => Sys2Proof.Machine.execSAdd f s
  | .sSub f => Sys2Proof.Machine.execSSub f s
  | .sMul f => Sys2Proof.Machine.execSMul f s
  | .sMulh f => Sys2Proof.Machine.execSMulh f s
  | .sMulhU f => Sys2Proof.Machine.execSMulhU f s
  | .sDiv f => Sys2Proof.Machine.execSDiv f s
  | .sDivU f => Sys2Proof.Machine.execSDivU f s
  | .sRem f => Sys2Proof.Machine.execSRem f s
  | .sRemU f => Sys2Proof.Machine.execSRemU f s
  | .sMin f => Sys2Proof.Machine.execSMin f s
  | .sMinU f => Sys2Proof.Machine.execSMinU f s
  | .sMax f => Sys2Proof.Machine.execSMax f s
  | .sMaxU f => Sys2Proof.Machine.execSMaxU f s
  | .sAnd f => Sys2Proof.Machine.execSAnd f s
  | .sOr f => Sys2Proof.Machine.execSOr f s
  | .sXor f => Sys2Proof.Machine.execSXor f s
  | .sAndn f => Sys2Proof.Machine.execSAndn f s
  | .sShl f => Sys2Proof.Machine.execSShl f s
  | .sShr f => Sys2Proof.Machine.execSShr f s
  | .sSra f => Sys2Proof.Machine.execSSra f s
  | .sMov f => Sys2Proof.Machine.execSMov f s
  | .sLi f => Sys2Proof.Machine.execSLi f s
  | .sLih f => Sys2Proof.Machine.execSLih f s
  | .sBfe f => Sys2Proof.Machine.execSBfe f s
  | .sBfi f => Sys2Proof.Machine.execSBfi f s
  | .sClz f => Sys2Proof.Machine.execSClz f s
  | .sCtz f => Sys2Proof.Machine.execSCtz f s
  | .sPopc f => Sys2Proof.Machine.execSPopc f s
  | .sCmpEq f => Sys2Proof.Machine.execSCmpEq f s
  | .sCmpNe f => Sys2Proof.Machine.execSCmpNe f s
  | .sCmpLt f => Sys2Proof.Machine.execSCmpLt f s
  | .sCmpLe f => Sys2Proof.Machine.execSCmpLe f s
  | .sCmpGt f => Sys2Proof.Machine.execSCmpGt f s
  | .sCmpGe f => Sys2Proof.Machine.execSCmpGe f s
  | .sCmpLtU f => Sys2Proof.Machine.execSCmpLtU f s
  | .sCmpLeU f => Sys2Proof.Machine.execSCmpLeU f s
  | .sCmpGtU f => Sys2Proof.Machine.execSCmpGtU f s
  | .sCmpGeU f => Sys2Proof.Machine.execSCmpGeU f s
  | .sSel f => Sys2Proof.Machine.execSSel f s
  | .sLd w f => Sys2Proof.Machine.execSLd w f s
  | .sSt w f => Sys2Proof.Machine.execSSt w f s
  | .sLdk w f => Sys2Proof.Machine.execSLdk w f s
  | .sRdsys f => Sys2Proof.Machine.execSRdsys f s
  | .sWrsys f => Sys2Proof.Machine.execSWrsys f s
  | .fpflags f => Sys2Proof.Machine.execFpflags f s
  | .teamstat f => Sys2Proof.Machine.execTeamstat f s
  | .br f => Sys2Proof.Machine.execBr f s
  | .brz f => Sys2Proof.Machine.execBrz f s
  | .brnz f => Sys2Proof.Machine.execBrnz f s
  | .bany f => Sys2Proof.Machine.execBany f s
  | .ball f => Sys2Proof.Machine.execBall f s
  | .call f => Sys2Proof.Machine.execCall f s
  | .ret f => Sys2Proof.Machine.execRet f s
  | .jmpi f => Sys2Proof.Machine.execJmpi f s
  | .exit f => Sys2Proof.Machine.execExit f s
  | .nop f => Sys2Proof.Machine.execNop f s
  | .waitf f => Sys2Proof.Machine.execWaitf f s
  | .yield f => Sys2Proof.Machine.execYield f s
  | .brk f => Sys2Proof.Machine.execBrk f s
  | .trap f => Sys2Proof.Machine.execTrap f s
  | .tret f => Sys2Proof.Machine.execTret f s
  | .bdiv f => Sys2Proof.Machine.execBdiv f s
  | .belse f => Sys2Proof.Machine.execBelse f s
  | .bjoin f => Sys2Proof.Machine.execBjoin f s
  | .bloop f => Sys2Proof.Machine.execBloop f s
  | .bbrk f => Sys2Proof.Machine.execBbrk f s
  | .mAnd f => Sys2Proof.Machine.execMAnd f s
  | .mOr f => Sys2Proof.Machine.execMOr f s
  | .mXor f => Sys2Proof.Machine.execMXor f s
  | .mAndn f => Sys2Proof.Machine.execMAndn f s
  | .mNot f => Sys2Proof.Machine.execMNot f s
  | .mMov f => Sys2Proof.Machine.execMMov f s
  | .mFrom f => Sys2Proof.Machine.execMFrom f s
  | .mTo f => Sys2Proof.Machine.execMTo f s
  | .mPopc f => Sys2Proof.Machine.execMPopc f s
  | .mFirst f => Sys2Proof.Machine.execMFirst f s
  | .mCompact f => Sys2Proof.Machine.execMCompact f s
  | .mUncompact f => Sys2Proof.Machine.execMUncompact f s
  | .racq f => Sys2Proof.Machine.execRacq f s
  | .registerQueueGrant cell => Sys2Proof.Machine.execRegisterQueueGrant cell s
  | .rrel f => Sys2Proof.Machine.execRrel f s
  | .pmark f => Sys2Proof.Machine.execPmark f s
  | .vAdd f => Sys2Proof.Machine.execVAdd f s
  | .vSub f => Sys2Proof.Machine.execVSub f s
  | .vMul f => Sys2Proof.Machine.execVMul f s
  | .vMulh f => Sys2Proof.Machine.execVMulh f s
  | .vMin f => Sys2Proof.Machine.execVMin f s
  | .vMax f => Sys2Proof.Machine.execVMax f s
  | .vAbs f => Sys2Proof.Machine.execVAbs f s
  | .vMad f => Sys2Proof.Machine.execVMad f s
  | .vAnd f => Sys2Proof.Machine.execVAnd f s
  | .vOr f => Sys2Proof.Machine.execVOr f s
  | .vXor f => Sys2Proof.Machine.execVXor f s
  | .vAndn f => Sys2Proof.Machine.execVAndn f s
  | .vShl f => Sys2Proof.Machine.execVShl f s
  | .vShr f => Sys2Proof.Machine.execVShr f s
  | .vSra f => Sys2Proof.Machine.execVSra f s
  | .vCmp f => Sys2Proof.Machine.execVCmp f s
  | .vSel f => Sys2Proof.Machine.execVSel f s
  | .vClz f => Sys2Proof.Machine.execVClz f s
  | .vPopc f => Sys2Proof.Machine.execVPopc f s
  | .vBrev f => Sys2Proof.Machine.execVBrev f s
  | .vBfe f => Sys2Proof.Machine.execVBfe f s
  | .vBfi f => Sys2Proof.Machine.execVBfi f s
  | .vMov f => Sys2Proof.Machine.execVMov f s
  | .vLi f => Sys2Proof.Machine.execVLi f s
  | .vLane f => Sys2Proof.Machine.execVLane f s
  | .vFadd f => Sys2Proof.Machine.execVFadd f s
  | .vFmul f => Sys2Proof.Machine.execVFmul f s
  | .vFma f => Sys2Proof.Machine.execVFma f s
  | .vFmin f => Sys2Proof.Machine.execVFmin f s
  | .vFmax f => Sys2Proof.Machine.execVFmax f s
  | .vFcmp f => Sys2Proof.Machine.execVFcmp f s
  | .vFrnd f => Sys2Proof.Machine.execVFrnd f s
  | .vFrcp f => Sys2Proof.Machine.execVFrcp f s
  | .vFrsq f => Sys2Proof.Machine.execVFrsq f s
  | .vFsqrt f => Sys2Proof.Machine.execVFsqrt f s
  | .vExp2 f => Sys2Proof.Machine.execVExp2 f s
  | .vLog2 f => Sys2Proof.Machine.execVLog2 f s
  | .vSin f => Sys2Proof.Machine.execVSin f s
  | .vCos f => Sys2Proof.Machine.execVCos f s
  | .vTanh f => Sys2Proof.Machine.execVTanh f s
  | .vFclass f => Sys2Proof.Machine.execVFclass f s
  | .vFscale f => Sys2Proof.Machine.execVFscale f s
  | .vFexp f => Sys2Proof.Machine.execVFexp f s
  | .vCvt f => Sys2Proof.Machine.execVCvt f s
  | .vPk f => Sys2Proof.Machine.execVPk f s
  | .vDot2 f => Sys2Proof.Machine.execVDot2 f s
  | .vDot4 f => Sys2Proof.Machine.execVDot4 f s
  | .vMxq f => Sys2Proof.Machine.execVMxq f s
  | .vMxd f => Sys2Proof.Machine.execVMxd f s
  | .vBpk f => Sys2Proof.Machine.execVBpk f s
  | .vBpu f => Sys2Proof.Machine.execVBpu f s
  | .vBpand f => Sys2Proof.Machine.execVBpand f s
  | .shpSet f => Sys2Proof.Machine.execShpSet f s
  | .vTidx f => Sys2Proof.Machine.execVTidx f s
  | .vShfl f => Sys2Proof.Machine.execVShfl f s
  | .vVote f => Sys2Proof.Machine.execVVote f s
  | .vRed f => Sys2Proof.Machine.execVRed f s
  | .vScan f => Sys2Proof.Machine.execVScan f s
  | .ld f => Sys2Proof.Machine.execLd f s
  | .st f => Sys2Proof.Machine.execSt f s
  | .prf f => Sys2Proof.Machine.execPrf f s
  | .lds f => Sys2Proof.Machine.execLds f s
  | .sts f => Sys2Proof.Machine.execSts f s
  | .ldv f => Sys2Proof.Machine.execLdv f s
  | .aCasv f => Sys2Proof.Machine.execACasv f s
  | .valset f => Sys2Proof.Machine.execValset f s
  | .aAdd f => Sys2Proof.Machine.execAAdd f s
  | .aMin f => Sys2Proof.Machine.execAMin f s
  | .aMax f => Sys2Proof.Machine.execAMax f s
  | .aAnd f => Sys2Proof.Machine.execAAnd f s
  | .aOr f => Sys2Proof.Machine.execAOr f s
  | .aXor f => Sys2Proof.Machine.execAXor f s
  | .aXchg f => Sys2Proof.Machine.execAXchg f s
  | .aCas f => Sys2Proof.Machine.execACas f s
  | .aFadd f => Sys2Proof.Machine.execAFadd f s
  | .aInc f => Sys2Proof.Machine.execAInc f s
  | .fence f => Sys2Proof.Machine.execFence f s
  | .fenceX f => Sys2Proof.Machine.execFenceX f s
  | .disc f => Sys2Proof.Machine.execDisc f s
  | .wb f => Sys2Proof.Machine.execWb f s
  | .swArm f => Sys2Proof.Machine.execSwArm f s
  | .swAdd f => Sys2Proof.Machine.execSwAdd f s
  | .swWait f => Sys2Proof.Machine.execSwWait f s
  | .swRead f => Sys2Proof.Machine.execSwRead f s
  | .syncWordArrival n => Sys2Proof.Machine.execSyncWordArrival n s
  | .qInit f => Sys2Proof.Machine.execQInit f s
  | .qPush f => Sys2Proof.Machine.execQPush f s
  | .qPop f => Sys2Proof.Machine.execQPop f s
  | .bar f => Sys2Proof.Machine.execBar f s
  | .barArr f => Sys2Proof.Machine.execBarArr f s
  | .barWt f => Sys2Proof.Machine.execBarWt f s
  | .gbar f => Sys2Proof.Machine.execGbar f s
  | .treeArrival n => Sys2Proof.Machine.execTreeArrival n s
  | .gbarRelease n => Sys2Proof.Machine.execGbarRelease n s
  | .tacq f => Sys2Proof.Machine.execTacq f s
  | .wideTileQueueGrant cell => Sys2Proof.Machine.execWideTileQueueGrant cell s
  | .trel f => Sys2Proof.Machine.execTrel f s
  | .mxZero f => Sys2Proof.Machine.execMxZero f s
  | .mxLd f => Sys2Proof.Machine.execMxLd f s
  | .mxSt f => Sys2Proof.Machine.execMxSt f s
  | .mxMma f => Sys2Proof.Machine.execMxMma f s
  | .mxBpmma f => Sys2Proof.Machine.execMxBpmma f s
  | .mxChk f => Sys2Proof.Machine.execMxChk f s
  | .mxBnd f => Sys2Proof.Machine.execMxBnd f s
  | .mxSlice f => Sys2Proof.Machine.execMxSlice f s
  | .mxDmma f => Sys2Proof.Machine.execMxDmma f s
  | .mxWz f => Sys2Proof.Machine.execMxWz f s
  | .mxRc f => Sys2Proof.Machine.execMxRc f s
  | .cp f => Sys2Proof.Machine.execCp f s
  | .cp2d f => Sys2Proof.Machine.execCp2d f s
  | .cpX f => Sys2Proof.Machine.execCpX f s
  | .skimG f => Sys2Proof.Machine.execSkimG f s
  | .skimS f => Sys2Proof.Machine.execSkimS f s
  | .engineOperationStart t op => Sys2Proof.Machine.execEngineOperationStart t op s
  | .engineOperationComplete t op => Sys2Proof.Machine.execEngineOperationComplete t op s
  | .coll f => Sys2Proof.Machine.execColl f s
  | .collAbort f => Sys2Proof.Machine.execCollAbort f s
  | .collectivePacket n => Sys2Proof.Machine.execCollectivePacket n s
  | .abortToken n => Sys2Proof.Machine.execAbortToken n s
  | .enq f => Sys2Proof.Machine.execEnq f s
  | .taskQueueAppend q => Sys2Proof.Machine.execTaskQueueAppend q s
  | .gVtx f => Sys2Proof.Machine.execGVtx f s
  | .gAttr f => Sys2Proof.Machine.execGAttr f s
  | .gPrim f => Sys2Proof.Machine.execGPrim f s
  | .gDone f => Sys2Proof.Machine.execGDone f s
  | .gOut f => Sys2Proof.Machine.execGOut f s
  | .gKill f => Sys2Proof.Machine.execGKill f s
  | .gZq f => Sys2Proof.Machine.execGZq f s
  | .txSmp f => Sys2Proof.Machine.execTxSmp f s
  | .txLd f => Sys2Proof.Machine.execTxLd f s
  | .txDim f => Sys2Proof.Machine.execTxDim f s
  | .rayTrace f => Sys2Proof.Machine.execRayTrace f s
  | .rayCont f => Sys2Proof.Machine.execRayCont f s
  | .rayHit f => Sys2Proof.Machine.execRayHit f s
  | .tlbi f => Sys2Proof.Machine.execTlbi f s
  | .cinv f => Sys2Proof.Machine.execCinv f s
  | .sleep f => Sys2Proof.Machine.execSleep f s
  | .sleepExpiry t => Sys2Proof.Machine.execSleepExpiry t s
  | .dbgrRd f => Sys2Proof.Machine.execDbgrRd f s
  | .dbgrWr f => Sys2Proof.Machine.execDbgrWr f s
  | .haltNotice n => Sys2Proof.Machine.execHaltNotice n s
  | .halt die => Sys2Proof.Machine.execHalt die s
  | .pageWalk die => Sys2Proof.Machine.execPageWalk die s
  | .walkResult die => Sys2Proof.Machine.execWalkResult die s
  | .launchTake die q => Sys2Proof.Machine.execLaunchTake die q s
  | .clusterOfferRequest launch cluster => Sys2Proof.Machine.execClusterOfferRequest launch cluster s
  | .teamStop t => Sys2Proof.Machine.execTeamStop t s
  | .blockResume block cell => Sys2Proof.Machine.execBlockResume block cell s
  | .reRun block cell => Sys2Proof.Machine.execReRun block cell s
  | .drawMark n => Sys2Proof.Machine.execDrawMark n s
  | .blockMark n => Sys2Proof.Machine.execBlockMark n s
  | .endMark n => Sys2Proof.Machine.execEndMark n s
  | .primitiveRecord n => Sys2Proof.Machine.execPrimitiveRecord n s
  | .setupReoffer n => Sys2Proof.Machine.execSetupReoffer n s
  | .ownerConsume die => Sys2Proof.Machine.execOwnerConsume die s
  | .pixelBlockStart die => Sys2Proof.Machine.execPixelBlockStart die s
  | .fragmentMerge die n => Sys2Proof.Machine.execFragmentMerge die n s
  | .tileStoreLoad die line => Sys2Proof.Machine.execTileStoreLoad die line s
  | .stallingInstructionEffect t => Sys2Proof.Machine.execStallingInstructionEffect t s
  | .dbgctlHalt die => Sys2Proof.Machine.execDbgctlHalt die s
  | .dbgctlResume die => Sys2Proof.Machine.execDbgctlResume die s
  | .homeRequest t op piece => Sys2Proof.Machine.execHomeRequest t op piece s
  | .gatherPacket t op piece => Sys2Proof.Machine.execGatherPacket t op piece s
  | .refreshOperation site bank => Sys2Proof.Machine.execRefreshOperation site bank s
  | .patrolScrub site line => Sys2Proof.Machine.execPatrolScrub site line s
  | .scrubWriteBack site line => Sys2Proof.Machine.execScrubWriteBack site line s
  | .rotation die => Sys2Proof.Machine.execRotation die s
  | .pmarkTimeout t => Sys2Proof.Machine.execPmarkTimeout t s
  | .heldPreemptRetry block => Sys2Proof.Machine.execHeldPreemptRetry block s
  | .tileStoreWriteOut die line => Sys2Proof.Machine.execTileStoreWriteOut die line s
  | .linkFailure link => Sys2Proof.Machine.execLinkFailure link s
  | .dieDrop die => Sys2Proof.Machine.execDieDrop die s
  | .memorySiteLoss site => Sys2Proof.Machine.execMemorySiteLoss site s
  | .responseWatchdog die n => Sys2Proof.Machine.execResponseWatchdog die n s
  | .barrierWatchdog launch => Sys2Proof.Machine.execBarrierWatchdog launch s
  | .recordsDropped source => Sys2Proof.Machine.execRecordsDropped source s
  | .rdmaWrite qp key va data => Sys2Proof.Machine.execRdmaWrite qp key va data s
  | .rdmaWriteWithImmediate qp key va imm data => Sys2Proof.Machine.execRdmaWriteWithImmediate qp key va imm data s
  | .rdmaRead qp key va n => Sys2Proof.Machine.execRdmaRead qp key va n s
  | .invalidRequest qp => Sys2Proof.Machine.execInvalidRequest qp s
  | .attestation tag nonce => Sys2Proof.Machine.execAttestation tag nonce s
  | .powerState tag region st => Sys2Proof.Machine.execPowerState tag region st s
  | .capAndStep tag region cap window rise => Sys2Proof.Machine.execCapAndStep tag region cap window rise s
  | .readTelemetry tag => Sys2Proof.Machine.execReadTelemetry tag s
  | .readIdentity tag => Sys2Proof.Machine.execReadIdentity tag s
  | .openConnection tag qp => Sys2Proof.Machine.execOpenConnection tag qp s
  | .append tag die q desc => Sys2Proof.Machine.execAppend tag die q desc s
  | .preEmpt tag id index => Sys2Proof.Machine.execPreEmpt tag id index s
  | .replay tag die id index team => Sys2Proof.Machine.execReplay tag die id index team s
  | .resume tag die id index team => Sys2Proof.Machine.execResume tag die id index team s
  | .endLaunch tag die id index team => Sys2Proof.Machine.execEndLaunch tag die id index team s
  | .registerMailbox tag desc => Sys2Proof.Machine.execRegisterMailbox tag desc s
  | .unregisterMailbox tag box => Sys2Proof.Machine.execUnregisterMailbox tag box s
  | .defineInterleaveSet tag set_ mask bases caps => Sys2Proof.Machine.execDefineInterleaveSet tag set_ mask bases caps s
  | .translationRoot tag root => Sys2Proof.Machine.execTranslationRoot tag root s
  | .saveArea tag die base size => Sys2Proof.Machine.execSaveArea tag die base size s
  | .retireCell tag die cell => Sys2Proof.Machine.execRetireCell tag die cell s
  | .dropDie tag die => Sys2Proof.Machine.execDropDie tag die s
  | .haltDie tag die => Sys2Proof.Machine.execHaltDie tag die s
  | .releaseDie tag die => Sys2Proof.Machine.execReleaseDie tag die s
  | .patrolPeriod tag hours => Sys2Proof.Machine.execPatrolPeriod tag hours s
  | .powerGood east west => Sys2Proof.Machine.execPowerGood east west s
  | .dieTraining die good image => Sys2Proof.Machine.execDieTraining die good image s
  | .stage1End => Sys2Proof.Machine.execStage1End s
  | .powerControllerWindow region draw => Sys2Proof.Machine.execPowerControllerWindow region draw s
  | .droopAlarm region => Sys2Proof.Machine.execDroopAlarm region s
  | .droopRecovery region => Sys2Proof.Machine.execDroopRecovery region s
  | .voltageRecovery region => Sys2Proof.Machine.execVoltageRecovery region s
  | .firmwareImageVerification image version => Sys2Proof.Machine.execFirmwareImageVerification image version s
  | .ack qp => Sys2Proof.Machine.execAck qp s
  | .congestionNotificationPacket qp => Sys2Proof.Machine.execCongestionNotificationPacket qp s

end Sys2Proof.Machine
end

