-- ==== Sys2Proof/Machine/Settle.lean ====
section
/-! DEFINITION. What follows from a step at once: teams with no live lane end (R127), blocks and launches end (R294, R296, R326), held
requests proceed (R307, R349), records that are due are written (R294), the pass closes (R317), mailboxes launch (R392). -/

namespace Sys2Proof.Machine

/-! ## Ends of teams and blocks -/

/-- A team whose every lane is dead leaves the queues in which it waits and ends as by `exit` (R127): its operations complete, a pending deferred fault is observed and taken, and only
then does it end (R84, R196). Inside the handler that such a fault enters it ends likewise; stopped for the host it waits. -/
def endDead (s : State) : State :=
  let l := (allTeams s).filter (fun t => (t.status == .running || t.status == .held) && quiet t && allDead t)
  l.foldl (fun s t => inTeam s t.tid (fun s => some (match firstDeferred s.cur (fun _ => true) with
    | some d => takeDeferred s d
    | none => endTeam (leaveQueues s s.cur)))) s

/-- A protected block whose re-run ended the holding team before the held instruction has no value to compare: it is uncorrectable
(R375, R378). -/
def endHeld (s : State) : State :=
  (s.blocks.filter (fun b => !b.wantrun && (match b.held with
    | some c => (teamsOf s b.bid).any (fun t => t.idx == c.team && t.status == .ended)
    | none => false))).foldl (fun s b =>
      abortLaunch (emit s (srcDie b.die) { kind := 9, launch := launchId s b.bid }) b.lid 0x11) s

/-- Every team of the block has ended. -/
def blockOver (s : State) (b : Block) : Bool :=
  b.status == .resident && !(teamsOf s b.bid).isEmpty && (teamsOf s b.bid).all (fun t => t.status == .ended)

/-- A block ends: a meshlet that was never committed has no primitive (R323), a pixel block's fragments go to the merger (R332), its
cells are free. -/
def endBlock (s : State) (b : Block) : State :=
  let s := if (launchOf s b.lid).d.stage = 2 && !b.mesh.done then sendBlockMarks s b else s
  let s := if b.pixel then mergeBlock s b else s
  offerGranules (removeBlock s b.bid) b.die (blockCells b)

/-- Barriers that waited for teams that have ended, and blocks that are over. -/
def endBlocks (s : State) : State :=
  let s := (s.blocks.filter (fun b => !b.bars.isEmpty && (teamsOf s b.bid).any (fun t => t.status == .ended))).foldl
    (fun s b => (List.range 4).foldl (fun s id => checkBar s b.bid id) s) s
  (s.blocks.filter (blockOver s)).foldl endBlock s

/-! ## Requests and drains -/

/-- Held requests of the host and of drains are tried again (R307), and commands whose blocks are all accepted are answered. -/
def settleAsks (s : State) : State :=
  let s := (s.blocks.filter (fun b => b.preempt && b.status == .resident)).foldl (fun s b => tryPreempt s (blockOf s b.bid)) s
  let met := s.host.asks.filter (fun a => a.2.all (askMet s))
  met.foldl (fun s a => modHost (done s a.1 0x11) (fun h => { h with asks := h.asks.filter (· != a) })) s

/-- A drained cell that holds no block is retired: CELLRET is set, with one record (R349, R350, R371). -/
def retireDrained (s : State) : State :=
  (s.cells.filter (fun e => e.2.drain && !s.blocks.any (fun b => blockIn b (e.1 / 4608) (e.1 % 4608)))).foldl (fun s e =>
    let s := modDie (modCell s e.1 (fun c => { c with drain := false })) (e.1 / 4608) (fun d => { d with cellret := NMap.set false d.cellret (e.1 % 4608) true })
    emit s (srcDie (e.1 / 4608)) { kind := 5, info := e.1 % 4608, csrc := e.2.cause.1, cseq := e.2.cause.2 }) s

/-! ## Draws, launches, the pass -/

/-- Aborted draws of the open pass end by their end marks (R326). -/
def endDraws (s : State) : State :=
  match s.parlour.pass with
  | none => s
  | some p =>
    let gone (d : Draw) : Bool := !d.ended && (match launch? s d.lid with | some l => l.status != .active && l.status != .finished | none => false)
    (p.draws.filter gone).foldl (fun s d =>
      let s := sendMarks s 3 (launchOf s d.lid).home d.ord 0
      { s with parlour := { s.parlour with pass := s.parlour.pass.map (fun p =>
        { p with draws := p.draws.map (fun e => if e.ord == d.ord then { e with ended := true } else e) }) } }) s

/-- The draw of a mesh launch is resolved, or its pass is no longer open. -/
def drawOver (s : State) (l : Launch) : Bool :=
  match s.parlour.pass with
  | none => true
  | some p => match p.draws.find? (fun d => d.lid == l.lid) with
    | none => true
    | some d => drawResolved s p d.ord

/-- Every block of a launch has been dealt and has ended; a draw's fragments are merged (R266). -/
def launchOver (s : State) (l : Launch) : Bool :=
  l.status == .active && !l.pixel && decide (l.d.blocks ≤ l.next) && !s.blocks.any (fun b => b.lid == l.lid)
    && (l.d.stage != 2 || drawOver s l)

def finishLaunches (s : State) : State :=
  (s.launches.filter (launchOver s)).foldl (fun s l =>
    let s := deactivate (modLaunch s l.lid (fun l => { l with status := .finished })) l.lid
    { s with statusq := s.statusq ++ [{ lid := l.lid, state := 1 }] }) s

/-- The pass closes once every draw is resolved at every owner (R317). -/
def settlePass (s : State) : State :=
  match s.parlour.pass with
  | none => s
  | some p => if passDone s p then closePass s else s

/-! ## Status records (R294) -/

/-- The 64 bytes of a launch status record. -/
def recordBytes (l : Launch) (q : StatusReq) : List Byte :=
  let t := q.state == 2
  let f (x : Nat) : Nat := if t then x else 0
  valBytes 64 (l.d.id % 2 ^ 32 + q.state % 256 * 2 ^ 32 + q.code % 256 * 2 ^ 40 + l.ngangp % 2 ^ 32 * 2 ^ 64 + l.ngangf % 2 ^ 32 * 2 ^ 96
    + l.dead % 2 ^ 32 * 2 ^ 128 + l.preempts % 2 ^ 32 * 2 ^ 160 + f q.cause.toNat * 2 ^ 192 + f q.pc.toNat * 2 ^ 256 + f q.addr.toNat * 2 ^ 320
    + f (q.index % 2 ^ 32) * 2 ^ 384 + f (q.die % 256) * 2 ^ 416 + f (q.team % 16) * 2 ^ 424)

/-- Every write of the launch that was issued is performed (R294). -/
def writesDone (s : State) (lid : Nat) : Bool :=
  (allTeams s).all (fun t => (blockOf s t.blk).lid != lid || t.ops.all (fun o => opPerformed o || !(writesMem o.i || isEngine o.i)))

/-- Write one record, where the launch asks for one (R289); a failure leaves an event record. -/
def writeRecord (s : State) (q : StatusReq) : State :=
  match launch? s q.lid with
  | none => s
  | some l =>
    if l.d.status = 0 then s
    else
    let r := if l.d.status % 64 = 0 then agentWriteLine s l.d.status (clean (recordBytes l q)) else none
    match r with
    | some s => s
    | none => emit s (srcDie l.home) { kind := 0x10, detail := 6, launch := l.d.id, addr := l.d.status }

/-- A record waits behind one that is held: of its launch, or of a team that stopped before on its die (R311). -/
def recordHeld (held : List StatusReq) (q : StatusReq) : Bool :=
  held.any (fun h => h.lid == q.lid || (h.state == 2 && q.state == 2 && h.die == q.die))

/-- Write the records that are due, those of one launch, and the stops of one die, in their order. -/
def writeRecords : List StatusReq → List StatusReq → State → State
  | [], _, s => s
  | q :: t, held, s =>
    if recordHeld held q || !writesDone s q.lid then writeRecords t (q :: held) { s with statusq := s.statusq ++ [q] }
    else writeRecords t held (writeRecord s q)

def settleRecords (s : State) : State := if s.statusq.isEmpty then s else writeRecords s.statusq [] { s with statusq := [] }

/-- Launches that are over, whose records are written and that no open pass names, are gone. -/
def dropLaunches (s : State) : State :=
  let named (lid : Nat) : Bool := s.statusq.any (fun q => q.lid == lid) || (match s.parlour.pass with
    | some p => p.draws.any (fun d => d.lid == lid || d.pxlid == lid)
    | none => false)
  { s with launches := s.launches.filter (fun l => l.status == .active || named l.lid) }

/-- All of it; the edge lists of the launches that then stand at the heads of their queues are read (R293). -/
def settle (s : State) : State :=
  readHeads (settleBoxes (dropLaunches (settleRecords (settlePass (finishLaunches (endDraws (retireDrained (settleAsks (endBlocks (endHeld (endDead (settleFound s))))))))))))

/-- What follows from an outcome at once. -/
def settled : Host.Outcome State Fault Refusal → Host.Outcome State Fault Refusal
  | .next s => .next (settle s)
  | o => o

end Sys2Proof.Machine
end

