-- ==== Sys2Proof/Machine/Schedule.lean ====
section
/-! DEFINITION. Which agent moves next (log 3): the schedule's turns, and the default where it holds none. -/

namespace Sys2Proof.Machine

/-- A move: an instruction or device step to run, a state that is already next (an unassigned opcode that traps), or the outcome of a
command that a message held. -/
inductive Move where
  | run (i : Instr) (s : State)
  | next (s : State)
  | done (r : Host.Outcome State Fault Refusal)

/-- The current team's turn: it begins a clause, continues one, or issues the next instruction. -/
def teamTurn (s : State) : Move :=
  match s.cur.clause with
  | none => .run (.clauseBegin s.cur.tid) s
  | some c =>
    if c.pipe.isNone then .run (.clauseContinue s.cur.tid) s
    else
      let w := c.words.getD c.idx 0
      match decode w with
      | some i => .run i s
      | none =>
        if (running s).isSome then .next (takeTrap s (instrPc c) { cause := 1, detail := 1, addr := w.toNat } .instr)
        else .next s

/-! ## The default where the schedule is empty (log 3) -/

/-- The current team stands in a clause with a pipe: it goes on. -/
def midClause (t : Team) : Bool := t.status == .running && (match t.clause with | some c => c.pipe.isSome | none => false)

/-- Device steps that may be next for a team: its operations. -/
def opTurns (t : Team) : List Instr :=
  t.ops.flatMap (fun o => [.engineOperationStart t.tid o.id, .engineOperationComplete t.tid o.id, .longLatencyCompletion t.tid o.id])

/-- Device steps of a die. -/
def dieTurns (e : Nat × Die) : List Instr :=
  (if e.2.walkq.isEmpty then [] else [.pageWalk e.1]) ++ (if e.2.walking.isEmpty then [] else [.walkResult e.1])
    ++ (if e.2.halting then [.halt e.1] else [])
    ++ e.2.held.map (fun q => .taskQueueAppend (64 * e.1 + q.1)) ++ e.2.queues.map (fun q => .launchTake e.1 q.1)

/-- The step that takes the n-th message. -/
def msgTurn (n : Nat) : Msg → Instr
  | .arrive .. => .syncWordArrival n
  | .treeUp .. | .treeEnd .. => .treeArrival n
  | .treeDown .. => .gbarRelease n
  | .coll .. => .collectivePacket n
  | .token .. => .abortToken n
  | .notice .. => .haltNotice n
  | .record .. => .primitiveRecord n
  | .mark k .. => if k = 1 then .blockMark n else if k = 2 then .drawMark n else .endMark n

/-- Steps that deal the blocks of a launch, and that resume or re-run a block on the dies of its launch. -/
def dealTurns (s : State) (l : Launch) : List Instr :=
  if l.status != .active then []
  else
    let cls := (launchDies s l.d).flatMap (fun d => (windowClusters l.d).map (fun c => (d, c)))
    let bs := s.blocks.filter (fun b => b.lid == l.lid)
    (if l.pixel || decide (l.d.blocks ≤ l.next) then [] else cls.map (fun c => .clusterOfferRequest l.lid (c.1 * 1152 + c.2)))
      ++ (bs.filter (fun b => b.status == .waiting)).flatMap (fun b => cls.map (fun c => .blockResume b.bid (ckey c.1 (cellAt c.2 0))))
      ++ (bs.filter (fun b => b.wantrun)).flatMap (fun b => cls.map (fun c => .reRun b.bid (ckey c.1 (cellAt c.2 0))))

/-- Steps of the owners of the open pass. -/
def parlourTurns (s : State) : List Instr :=
  (match s.parlour.pass with | some p => p.owners | none => []).flatMap (fun d =>
    let m := (ownerOf s d).merge
    let line := m.head?.bind (fun f => s.parlour.pass.bind (fun p => neededLine s d p f))
    ([Instr.ownerConsume d, Instr.pixelBlockStart d] ++ (List.range m.length).map (fun n => Instr.fragmentMerge d n)
      ++ line.toList.map (fun a => Instr.tileStoreLoad d (a / 128)) : List Instr))
    ++ (List.range s.parlour.refused.length).map (fun n => Instr.setupReoffer n)

/-- Steps of the cells' queues. -/
def cellTurns (e : Nat × Cell) : List Instr :=
  (if e.2.regq.isEmpty then [] else [.registerQueueGrant e.1]) ++ (if e.2.wideq.isEmpty then [] else [.wideTileQueueGrant e.1])

/-- Device steps in the order in which the default looks at them. -/
def deviceTurns (s : State) : List Instr :=
  (allTeams s).flatMap opTurns ++ (allTeams s).map (fun t => .sleepExpiry t.tid) ++ (allTeams s).map (fun t => .stallingInstructionEffect t.tid)
    ++ (List.range s.fabric.msgs.length).flatMap (fun n => (s.fabric.msgs[n]?).toList.map (msgTurn n))
    ++ s.dies.flatMap dieTurns ++ s.cells.flatMap cellTurns ++ (allTeams s).map (fun t => .teamStop t.tid)
    ++ s.launches.flatMap (dealTurns s) ++ parlourTurns s

/-- What a device step leads to, where it changes the state. -/
def changes (s : State) (i : Instr) : Option Move :=
  match exec i s with
  | .next u => if u = s then none else some (.run i s)
  | _ => none

/-- A team other than the current one that may move: the next by number, once round. -/
def otherTeam (s : State) : Option Nat :=
  let ts := (s.teams.filter (fun t => t.status == .running)).map (fun t => t.tid)
  ts.find? (fun t => decide (s.cur.tid < t)) <|> ts.head?

/-- The default move: the current team in its clause, then a device step that changes the state, then the next team, then the current one. -/
def defaultMove (s : State) : Move :=
  if midClause s.cur then teamTurn s
  else match (deviceTurns s).findSome? (changes s) with
    | some m => m
    | none => match otherTeam s with
      | some t => teamTurn (focus s t)
      | none => teamTurn s

/-- The move that the schedule names, or the default. -/
def nextMove (s : State) : Move :=
  match s.sched with
  | .event i :: r => .run i { s with sched := r }
  | .team t :: r => teamTurn (focus { s with sched := r } t)
  | .send qp bytes :: r =>
    let s := { s with sched := r }
    match (if qp = mgmtQp then messageCommand bytes else none) with
    | some f => .done (f s)
    | none => .next (strayMessage s qp bytes)
  | .write qp key va imm data :: r => .next (beginWrite { s with sched := r } qp key va imm data)
  | .writeLine qp :: r => .next (writeLineOf { s with sched := r } qp)
  | .read qp key va n :: r => .next (beginRead { s with sched := r } qp key va n)
  | .readLine qp :: r => .next (readLineOf { s with sched := r } qp)
  | [] => defaultMove s

/-! ## Placing a word to run next -/

/-- The class of a clause that admits the word's instruction. -/
def classFor (w : DWord) : Nat :=
  match decode w with
  | some i => match classSet i with | .v => 0 | .l => 1 | .x => 2 | _ => 3
  | none => 3

/-- A running team with all its base registers, whose clause holds the word alone (log 2). -/
def placedTeam (w : DWord) : Team :=
  { tid := 1, blk := 1, status := .running, r := ({} : Regs).mset 32 0 (lanesBelow 32), nextOp := 1
    clause := some { hdr := 0, cls := classFor w, words := [w], idx := 0, seta := 0, setb := 1, pipe := some .v } }

/-- The word as the next instruction of a team of its own, in a block and a launch of its own. -/
def placeWord (s : State) (_nbits w : Nat) : State :=
  { s with
    cur := placedTeam (BitVec.ofNat 64 (bytesVal (valBytes 8 w)))
    teams := []
    blocks := [{ bid := 1, lid := 1, vsize := 768 }]
    launches := [{ lid := 1, d := { dx := 1, nteams := 1, priv := true } }]
    nextId := max s.nextId 2
    sched := [] }

end Sys2Proof.Machine
end

