-- ==== Sys2Proof/Machine/Step.lean ====
section
/-! DEFINITION. One step of the machine, and how an instruction is placed to be the next one. -/

namespace Sys2Proof.Machine

/-- One step: the move that is next, its meaning, and what follows from it at once. -/
def step (s : State) : Host.Outcome State Fault Refusal :=
  match nextMove s with
  | .run i s => settled (exec i s)
  | .next s => .next (settle s)
  | .done r => settled r

/-- The first words of an instruction as the one instruction of a clause in progress of a running team, in a block of a
launch of its own: the very next step runs it. -/
def State.withFetchWord (s : State) (nbits w : Nat) : State := placeWord s nbits w

end Sys2Proof.Machine
end

