-- ==== Sys2Proof/Safety.lean ====
section
/-! DEFINITION. What a safe run keeps, and the conditions under which an instruction issues, in the terms that claims use:
memory in its canonical form, the checks of R99 passed, nothing found wrong in the registers that an instruction reads. -/

namespace Sys2Proof.Machine

/-- The canonical form of all memory: keys rise strictly and no byte is listed that an unlisted address reads as. -/
abbrev Memory.wf (m : Mem) : Prop := NMap.wf emptyByte m.hbm = true ∧ NMap.wf emptyByte m.vault = true

/-- The flag that the instruction raises stands below 63, or it raises none (R79). -/
def flagFree (s : State) (i : Instr) : Bool :=
  match (chk (curLaunch s).d.stage i).fs with
  | some fs => !(selFlag s fs < 12 && decide (63 ≤ flagCount s.cur (selFlag s fs)))
  | none => true

/-- A copy of the team state that an instruction reads holds no error to be found (R361, R364). -/
def wholeState (r : Regs) (ks : List Nat) : Bool := ks.all (fun k => NMap.get none r.sbad k == none)

/-- Nothing is found in what the instruction reads of the team's own state (R364, R376); in a protected team it is none of the compared
instructions (R373). -/
def sound (s : State) (i : Instr) : Bool :=
  match s.cur.sh with
  | none => wholeState s.cur.r (stateReads s.cur i)
  | some h => (errorsIn (curLaunch s).d.stage i s.cur false ++ errorsIn (curLaunch s).d.stage i (shadow s.cur h) true).isEmpty && !compared i
      && wholeState s.cur.r (stateReads s.cur i) && wholeState h (stateReads s.cur i)

/-- The current team runs, its clause c stands at this instruction, and no check of R99 stops the instruction. -/
abbrev Issues (i : Instr) (s : State) (c : Clause) : Prop :=
  running s = some c ∧ issueIllegal s i c = none ∧ issueOther s.cur (chk (curLaunch s).d.stage i) = none
    ∧ interlocked s.cur i = false ∧ flagFree s i = true ∧ sound s i = true

/-- The team's vector registers hold no poison and no error to be found, and every granule is present (R33, R361, R363). -/
abbrev CleanVectors (t : Team) : Prop :=
  t.r.vpois = [] ∧ t.r.vbad = [] ∧ t.absent = [] ∧ (t.sh.getD {}).vbad = []

/-- The meaning of the instruction answers a next state that a property holds of. -/
abbrev Completes (i : Instr) (s : State) (P : State → Prop) : Prop := ∃ t, exec i s = .next t ∧ P t

/-- The machine outside the current team and the step's own bookkeeping is as it was: other teams, blocks, launches, cells,
dies, memory, the panel, the parlour, events and the host link. -/
abbrev SameElsewhere (s t : State) : Prop :=
  t.teams = s.teams ∧ t.blocks = s.blocks ∧ t.launches = s.launches ∧ t.cells = s.cells ∧ t.ctlb = s.ctlb ∧ t.dies = s.dies
    ∧ t.mem = s.mem ∧ t.qwait = s.qwait ∧ t.fabric = s.fabric ∧ t.parlour = s.parlour ∧ t.evbuf = s.evbuf ∧ t.found = s.found
    ∧ t.host = s.host ∧ t.statusq = s.statusq

end Sys2Proof.Machine
end

