-- ==== Sys2Proof/Certificates/Slice0/Obligations.lean ====
section
/-! DEFINITION. The statements for the provers, chapter by chapter: what the spec's rules say of decoding, issuing, traps, the
scalar unit, vectors, memory, tiles, engines, graphics, and the device steps. Helpers say in the spec's own terms what a
rule writes; each statement's docstring names the rules it formalises. -/

open Sys2Proof Sys2Proof.Machine

namespace Sys2Proof.Claims

/-! ## What stays -/

/-- Everything but the current team. -/
def others (s : State) : State := { s with cur := {} }

/-- Every byte of global memory and of every vault reads as before. -/
def SameBytes (s t : State) : Prop := ∀ a, globalByte t a = globalByte s a ∧ vaultByte t a = vaultByte s a

/-- The team but its place in the program, its stall marks and its scalar registers. -/
def beyondScalars (t : Team) : Team :=
  { clearWait t with pc := 0, clause := none, r := { t.r with sr := [], sbad := [] }
                     sh := t.sh.map (fun h => { h with sr := [], sbad := [] }) }

/-- The team but its place in the program, its stall marks and its masks m1 to m7. -/
def beyondMasks (t : Team) : Team :=
  { clearWait t with pc := 0, clause := none, r := { t.r with msk := [], sbad := [] }
                     sh := t.sh.map (fun h => { h with msk := [], sbad := [] }) }

/-- The team but its place in the program and its stall marks. -/
def beyondPlace (t : Team) : Team := { clearWait t with pc := 0, clause := none }

/-- The team goes on after instruction idx of its clause c: to the next instruction, or past the clause's last (R72). -/
def GoesOn (c : Clause) (u t : Team) : Prop :=
  if c.idx + 1 < c.words.length then t.clause = some { c with idx := c.idx + 1 } ∧ t.pc = u.pc
  else t.clause = none ∧ t.pc = (c.hdr + 8 * (c.words.length + 1)) % 2 ^ 64

/-! ## The scalar unit (R108 to R114) -/

/-- src2 (R108). -/
def second (S : Nat → DWord) (f : SR) : DWord := if f.i then f.imm.signExtend 64 else S f.sb.toNat

/-- S(SD) := wrap(f(signed a, signed b), 64), and the same on unsigned values (R110). -/
def onSigned (S : Nat → DWord) (f : SR) (op : Int → Int → Int) : Option (Nat × DWord) :=
  some (f.sd.toNat, wrap 64 (op (S f.sa.toNat).toInt (second S f).toInt))
def onUnsigned (S : Nat → DWord) (f : SR) (op : Nat → Nat → Int) : Option (Nat × DWord) :=
  some (f.sd.toNat, wrap 64 (op (S f.sa.toNat).toNat (second S f).toNat))
def onBits (S : Nat → DWord) (f : SR) (op : DWord → DWord → DWord) : Option (Nat × DWord) :=
  some (f.sd.toNat, op (S f.sa.toNat) (second S f))
/-- 1 where the condition holds, else 0 (R112). -/
def truth (p : Prop) [Decidable p] : Int := if p then 1 else 0

/-- The control value, offset and width of a bit-field instruction (R114). -/
def controlValue (S : Nat → DWord) (f : SR) : Nat := if f.i then f.imm.toNat else (S f.sb.toNat).toNat
def fieldOffset (c : Nat) : Nat := c % 64
def fieldWidth (c : Nat) : Nat := min (min (c / 2 ^ 8 % 2 ^ 7) 64) (64 - fieldOffset c)
/-- The bits of a from offset o, w of them, signed where the control value says so (R114). -/
def extracted (a c : Nat) : Int :=
  let w := fieldWidth c
  let x : Nat := a / 2 ^ fieldOffset c % 2 ^ w
  if c.testBit 15 ∧ 0 < w ∧ 2 ^ (w - 1) ≤ x then (x : Int) - 2 ^ w else x
/-- Bit i of the result of an insertion: from the source inside the field, from the destination outside (R114). -/
def insertedBit (d a : DWord) (c i : Nat) : Bool :=
  if fieldOffset c ≤ i ∧ i < fieldOffset c + fieldWidth c then a.getLsbD (i - fieldOffset c) else d.getLsbD i

/-- Leading zeros, trailing zeros and 1 bits of a value of 64 bits (R114). -/
def leadingZeros (x : DWord) : Nat := ((List.range 64).takeWhile (fun i => !x.getLsbD (63 - i))).length
def trailingZeros (x : DWord) : Nat := ((List.range 64).takeWhile (fun i => !x.getLsbD i)).length
def oneBits (x : DWord) : Nat := (List.range 64).countP (fun i => x.getLsbD i)

/-- What the scalar ALU, the compares, the moves and the bit-field instructions write: the register and its value, from the
scalar registers of one copy (R110 to R114). -/
def scalarWrite (S : Nat → DWord) : Instr → Option (Nat × DWord)
  | .sAdd f => onSigned S f (· + ·)
  | .sSub f => onSigned S f (· - ·)
  | .sMul f => onSigned S f (· * ·)
  | .sMulh f => onSigned S f (fun a b => a * b / 2 ^ 64)
  | .sMulhU f => onUnsigned S f (fun a b => ((a * b / 2 ^ 64 : Nat) : Int))
  | .sDiv f => onSigned S f (fun a b => if b = 0 then -1 else a.tdiv b)
  | .sDivU f => onUnsigned S f (fun a b => if b = 0 then 2 ^ 64 - 1 else ((a / b : Nat) : Int))
  | .sRem f => onSigned S f (fun a b => if b = 0 then a else a.tmod b)
  | .sRemU f => onUnsigned S f (fun a b => if b = 0 then a else ((a % b : Nat) : Int))
  | .sMin f => onSigned S f min
  | .sMinU f => onUnsigned S f (fun a b => ((min a b : Nat) : Int))
  | .sMax f => onSigned S f max
  | .sMaxU f => onUnsigned S f (fun a b => ((max a b : Nat) : Int))
  | .sAnd f => onBits S f (· &&& ·)
  | .sOr f => onBits S f (· ||| ·)
  | .sXor f => onBits S f (· ^^^ ·)
  | .sAndn f => onBits S f (fun a b => a &&& ~~~ b)
  | .sShl f => onUnsigned S f (fun a b => ((a * 2 ^ (b % 64) : Nat) : Int))
  | .sShr f => onUnsigned S f (fun a b => ((a / 2 ^ (b % 64) : Nat) : Int))
  | .sSra f => some (f.sd.toNat, wrap 64 ((S f.sa.toNat).toInt / 2 ^ ((second S f).toNat % 64)))
  | .sMov f => some (f.sd.toNat, S f.sa.toNat)
  | .sLi f => some (f.sd.toNat, wrap 64 f.imm.toInt)
  | .sLih f => some (f.sd.toNat, BitVec.ofNat 64 (f.imm.toNat * 2 ^ 32 + (S f.sd.toNat).toNat % 2 ^ 32))
  | .sBfe f => some (f.sd.toNat, wrap 64 (extracted (S f.sa.toNat).toNat (controlValue S f)))
  | .sBfi f => some (f.sd.toNat, BitVec.ofNat 64 (((List.range 64).map (fun i =>
      if insertedBit (S f.sd.toNat) (S f.sa.toNat) (controlValue S f) i then 2 ^ i else 0)).sum))
  | .sClz f => some (f.sd.toNat, BitVec.ofNat 64 (leadingZeros (S f.sa.toNat)))
  | .sCtz f => some (f.sd.toNat, BitVec.ofNat 64 (trailingZeros (S f.sa.toNat)))
  | .sPopc f => some (f.sd.toNat, BitVec.ofNat 64 (oneBits (S f.sa.toNat)))
  | .sCmpEq f => onSigned S f (fun a b => truth (a = b))
  | .sCmpNe f => onSigned S f (fun a b => truth (a ≠ b))
  | .sCmpLt f => onSigned S f (fun a b => truth (a < b))
  | .sCmpLe f => onSigned S f (fun a b => truth (a ≤ b))
  | .sCmpGt f => onSigned S f (fun a b => truth (b < a))
  | .sCmpGe f => onSigned S f (fun a b => truth (b ≤ a))
  | .sCmpLtU f => onUnsigned S f (fun a b => truth (a < b))
  | .sCmpLeU f => onUnsigned S f (fun a b => truth (a ≤ b))
  | .sCmpGtU f => onUnsigned S f (fun a b => truth (b < a))
  | .sCmpGeU f => onUnsigned S f (fun a b => truth (b ≤ a))
  | .sSel f => some (f.sd.toNat, if S (f.imm.toNat % 64) ≠ 0 then S f.sa.toNat else S f.sb.toNat)
  | _ => none

/-- What reading a scalar register gives after x is written to register d: s63 reads 0 whatever is written (R27, R45). -/
def reads (d : Nat) (x : DWord) : DWord := if d = 63 then 0 else x

end Sys2Proof.Claims

open Sys2Proof.Claims

/-- R110 to R114: an instruction of the scalar ALU, a compare, a move or a bit field writes S(SD) as its row says, in each
copy of a protected team (R372); it leaves every other scalar register, mask, vector register, flag, mode, special register, tile, byte of
memory and all outside the team, and the team goes on (R72). -/
def Obligations.ScalarResults : Prop := ∀ i s c d x, Issues i s c → s.cur.dying = [] →
  scalarWrite (sreg s.cur) i = some (d, x) →
  Completes i s (fun t => sreg t.cur d = reads d x ∧ (∀ k, k ≠ d → sreg t.cur k = sreg s.cur k) ∧ GoesOn c s.cur t.cur
    ∧ (∀ h, s.cur.sh = some h → ∃ h' y, t.cur.sh = some h' ∧ scalarWrite h.sget i = some (d, y) ∧ h'.sget d = reads d y
        ∧ ∀ k, k ≠ d → h'.sget k = h.sget k)
    ∧ beyondScalars t.cur = beyondScalars s.cur ∧ others t = others s ∧ SameBytes s t)


namespace Sys2Proof.Claims

/-! ## Control (R108, R119 to R134) -/

/-- `target` and `next` (R108). -/
def target (c : Clause) (off : BitVec 44) : Nat := (((c.hdr : Int) + 8 * off.toInt) % 2 ^ 64).toNat
def nextHeader (c : Clause) : Nat := c.hdr + 8 * c.words.length + 8

/-- Lane l is in active(m) (R45). -/
def activeIn (t : Team) (m : Mask) (l : Nat) : Bool := decide (l < t.width) && m.getLsbD l && !t.dead.getLsbD l
/-- active(m) is empty. -/
def noneActive (t : Team) (m : Mask) : Bool := (List.range t.width).all (fun l => !activeIn t m l)

/-- The lanes over which `bany` and `ball` test (R119); W is at most 1,024 (R12). -/
def tested (t : Team) (f : BR) (l : Nat) : Bool :=
  if f.ckind = 1 then decide (l < min t.width 1024) && !t.dead.getLsbD l else activeIn t (mreg t 0) l

/-- Where a branch goes (R119, R120); none where check(x) finds a trap. -/
def branchGoes (t : Team) (c : Clause) : Instr → Option Nat
  | .br f => some (target c f.off)
  | .brz f => some (if (if f.ckind = 1 then (sreg t f.creg.toNat).toNat % 2 ^ 32 else (sreg t f.creg.toNat).toNat) = 0
      then target c f.off else nextHeader c)
  | .brnz f => some (if (if f.ckind = 1 then (sreg t f.creg.toNat).toNat % 2 ^ 32 else (sreg t f.creg.toNat).toNat) = 0
      then nextHeader c else target c f.off)
  | .bany f => some (if (List.range t.width).any (fun l => tested t f l && (mreg t (f.creg.toNat % 8)).getLsbD l)
      then target c f.off else nextHeader c)
  | .ball f => some (if (List.range t.width).all (fun l => !tested t f l || (mreg t (f.creg.toNat % 8)).getLsbD l)
      then target c f.off else nextHeader c)
  | .call f => some (target c f.off)
  | .ret f => let x := (sreg t f.creg.toNat).toNat; if x < 2 ^ 56 ∧ x % 8 = 0 then some x else none
  | .jmpi f =>
    let x := (((sreg t f.creg.toNat).toNat + 8 * f.off.toInt) % 2 ^ 64).toNat
    if x < 2 ^ 56 ∧ x % 8 = 0 then some x else none
  | _ => none

/-- The scalar register that a branch links to. -/
def linksTo : Instr → Option Nat
  | .call f => some f.creg.toNat
  | _ => none

/-- The address that `ret` or `jmpi` would jump to. -/
def jumpsTo (t : Team) : Instr → Option Nat
  | .ret f => some (sreg t f.creg.toNat).toNat
  | .jmpi f => some (((sreg t f.creg.toNat).toNat + 8 * f.off.toInt) % 2 ^ 64).toNat
  | _ => none

/-- What a divergence instruction makes of m0, the stack and pc (R124, R126); none where it traps. -/
def diverged (t : Team) (c : Clause) : Instr → Option (Mask × List DivEntry × Nat)
  | .bdiv f =>
    let m := mreg t 0
    let k := mreg t (f.creg.toNat % 8)
    if 32 ≤ t.r.stack.length then none
    else if noneActive t (m &&& k) then some (m &&& ~~~ k, ⟨.div, m, 0⟩ :: t.r.stack, target c f.off)
    else some (m &&& k, ⟨.div, m, m &&& ~~~ k⟩ :: t.r.stack, nextHeader c)
  | .belse f => match t.r.stack with
    | ⟨.div, sv, p⟩ :: rest => if noneActive t p then some (sv, rest, target c f.off) else some (p, ⟨.div, sv, 0⟩ :: rest, nextHeader c)
    | _ => none
  | .bjoin _ => match t.r.stack with
    | ⟨.div, sv, _⟩ :: rest => some (sv, rest, nextHeader c)
    | _ => none
  | .bloop f => if 32 ≤ t.r.stack.length then none else some (mreg t 0, ⟨.loop, mreg t 0, 0⟩ :: t.r.stack, target c f.off)
  | .bbrk f => match t.r.stack with
    | ⟨.loop, sv, p⟩ :: rest =>
      let m := mreg t 0 &&& ~~~ mreg t (f.creg.toNat % 8)
      if noneActive t m then some (sv, rest, target c f.off) else some (m, ⟨.loop, sv, p⟩ :: rest, nextHeader c)
    | _ => none
  | _ => none

/-- The kind of top entry that a divergence instruction needs, and whether it pushes (R123, R124, R126). -/
def needsTop : Instr → Option DivKind
  | .belse _ | .bjoin _ => some .div
  | .bbrk _ => some .loop
  | _ => none
def pushes : Instr → Bool
  | .bdiv _ | .bloop _ => true
  | _ => false

/-- DETAIL of the Divergence Depth trap, if the instruction takes one (R123). -/
def depthDetail (t : Team) (i : Instr) : Option Nat :=
  if pushes i ∧ 32 ≤ t.r.stack.length then some 1
  else match needsTop i, t.r.stack with
    | none, _ => none
    | some _, [] => some 2
    | some k, e :: _ => if e.kind = k then none else some 3

/-- The team but its place in the program, its stall marks, its masks, stack and layout. -/
def beyondDivergence (t : Team) : Team :=
  { beyondMasks t with compact := false, r := { (beyondMasks t).r with stack := [] }
                       sh := (beyondMasks t).sh.map (fun h => { h with stack := [] }) }

/-- Lane l of what a mask instruction writes (R128). -/
def maskBit (M : Nat → Mask) (l : Nat) : Instr → Option (Nat × Bool)
  | .mAnd f => some (f.sd.toNat % 8, (M (f.sa.toNat % 8)).getLsbD l && (M (f.sb.toNat % 8)).getLsbD l)
  | .mOr f => some (f.sd.toNat % 8, (M (f.sa.toNat % 8)).getLsbD l || (M (f.sb.toNat % 8)).getLsbD l)
  | .mXor f => some (f.sd.toNat % 8, (M (f.sa.toNat % 8)).getLsbD l != (M (f.sb.toNat % 8)).getLsbD l)
  | .mAndn f => some (f.sd.toNat % 8, (M (f.sa.toNat % 8)).getLsbD l && !(M (f.sb.toNat % 8)).getLsbD l)
  | .mNot f => some (f.sd.toNat % 8, !(M (f.sa.toNat % 8)).getLsbD l)
  | .mMov f => some (f.sd.toNat % 8, (M (f.sa.toNat % 8)).getLsbD l)
  | _ => none

/-- The value of TRAPCAUSE, TRAPPC, TRAPADDR and TRAPLANE after a trap (R43). -/
def TrapRegisters (t : Team) (cause detail : Nat) (replay : Bool) (pc addr : Nat) (lane : Option Nat) : Prop :=
  field t.trapcause 7 0 = cause ∧ field t.trapcause 15 8 = detail ∧ t.trapcause.getLsbD 16 = replay
  ∧ t.trapcause.toNat < 2 ^ 17 ∧ t.trappc = BitVec.ofNat 64 pc ∧ t.trapaddr = BitVec.ofNat 64 addr
  ∧ (match lane with
      | some l => t.traplane = BitVec.ofNat 64 l
      | none => t.traplane.getLsbD 31 = true ∧ t.traplane.toNat = 2 ^ 31)

/-- The team but its trap registers, m0, stack, layout, place and stall marks. -/
def beyondTrap (t : Team) : Team :=
  { beyondDivergence t with
    trapcause := 0, trappc := 0, trapaddr := 0, traplane := 0, handler := none, stop := none, force := .free, status := .running }

/-- The lanes of one copy's masks other than m0. -/
def sameMasks (M N : Nat → Mask) : Prop := ∀ k, k ≠ 0 → N k = M k

end Sys2Proof.Claims

/-- R119, R120, R372: where each branch, call and indirect jump goes; the stack, m0 and all else stay, but the link register, which both copies of a protected
team write. -/
def Obligations.BranchesGo : Prop := ∀ i s c x, Issues i s c → s.cur.dying = [] → branchGoes s.cur c i = some x →
  Completes i s (fun t => t.cur.clause = none ∧ t.cur.pc = x % 2 ^ 64 ∧ beyondScalars t.cur = beyondScalars s.cur
    ∧ (∀ k, sreg t.cur k = if linksTo i = some k then reads k (BitVec.ofNat 64 (nextHeader c)) else sreg s.cur k)
    ∧ (∀ h, s.cur.sh = some h → ∃ h', t.cur.sh = some h'
        ∧ ∀ k, h'.sget k = if linksTo i = some k then reads k (BitVec.ofNat 64 (nextHeader c)) else h.sget k)
    ∧ others t = others s ∧ SameBytes s t)

/-- R120, R122, R123: the traps that control instructions take at themselves: check(x) of `ret` and `jmpi`, the Divergence Depth trap with its DETAIL, `brk` with
Debug Break and `trap` with User Trap, DETAIL the code, TRAPADDR 0, REPLAY 0. That check(x) takes Translation Fault where both of its tests fail is the
model's choice (log 90). -/
def Obligations.ControlTraps : Prop :=
  (∀ i s c x, Issues i s c → jumpsTo s.cur i = some x →
    (2 ^ 56 ≤ x → exec i s = .next (takeTrap s (c.hdr + 8 * (c.idx + 1)) { cause := 9, detail := 1, addr := x } .instr))
    ∧ (x < 2 ^ 56 → x % 8 ≠ 0 → exec i s = .next (takeTrap s (c.hdr + 8 * (c.idx + 1)) { cause := 7, addr := x } .instr)))
  ∧ (∀ i s c d, Issues i s c → depthDetail s.cur i = some d →
    exec i s = .next (takeTrap s (c.hdr + 8 * (c.idx + 1)) { cause := 6, detail := d } .instr))
  ∧ (∀ f s c,
    (Issues (.brk f) s c → exec (.brk f) s
      = .next (takeTrap s (c.hdr + 8 * (c.idx + 1)) { cause := 0x12, detail := f.imm.toNat % 256 } .instr))
    ∧ (Issues (.trap f) s c → exec (.trap f) s
      = .next (takeTrap s (c.hdr + 8 * (c.idx + 1)) { cause := 0x11, detail := f.imm.toNat % 256 } .instr)))

/-- R124, R126: what the divergence instructions make of m0, the stack and pc. The layout is chosen anew only where no force
is in effect, and never by `bbrk` (R24). -/
def Obligations.DivergenceResults : Prop := ∀ i s c m st x, Issues i s c → s.cur.dying = [] →
  diverged s.cur c i = some (m, st, x) →
  Completes i s (fun t => (∀ l, l < s.cur.width → l < 1024 → (mreg t.cur 0).getLsbD l = m.getLsbD l)
    ∧ sameMasks (mreg s.cur) (mreg t.cur) ∧ t.cur.r.stack = st ∧ t.cur.clause = none ∧ t.cur.pc = x % 2 ^ 64
    ∧ beyondDivergence t.cur = beyondDivergence s.cur ∧ (s.cur.force ≠ .free → t.cur.compact = s.cur.compact)
    ∧ ((∃ f, i = .bbrk f) → t.cur.compact = s.cur.compact)
    ∧ others { t with free := 0 } = others { s with free := 0 } ∧ SameBytes s t)

/-- R20, R128, R129: mask logic writes every lane below W of md, whatever m0 is, and md = m0 traps; `m.popc` counts the live lanes of a mask, `m.first` gives
the lowest, or 2^64 − 1. -/
def Obligations.MaskInstructions : Prop :=
  (∀ i s c d, Issues i s c → (∃ b, maskBit (mreg s.cur) 0 i = some (d, b)) →
    (d = 0 → exec i s = .next (takeTrap s (c.hdr + 8 * (c.idx + 1)) { cause := 3, detail := 4 } .instr))
    ∧ (d ≠ 0 → s.cur.dying = [] → Completes i s (fun t =>
        (∀ l, l < 1024 → l < s.cur.width → maskBit (mreg s.cur) l i = some (d, (mreg t.cur d).getLsbD l))
        ∧ (∀ k, k ≠ d → mreg t.cur k = mreg s.cur k) ∧ beyondMasks t.cur = beyondMasks s.cur ∧ GoesOn c s.cur t.cur
        ∧ others t = others s ∧ SameBytes s t)))
  ∧ (∀ f s c, s.cur.dying = [] →
    (Issues (.mPopc f) s c → Completes (.mPopc f) s (fun t => sreg t.cur f.sd.toNat = reads f.sd.toNat
        (BitVec.ofNat 64 ((List.range s.cur.width).countP (activeIn s.cur (mreg s.cur (f.sa.toNat % 8)))))
      ∧ (∀ k, k ≠ f.sd.toNat → sreg t.cur k = sreg s.cur k) ∧ beyondScalars t.cur = beyondScalars s.cur ∧ GoesOn c s.cur t.cur ∧ others t = others s))
    ∧ (Issues (.mFirst f) s c → Completes (.mFirst f) s (fun t => sreg t.cur f.sd.toNat = reads f.sd.toNat
        (match (List.range s.cur.width).find? (activeIn s.cur (mreg s.cur (f.sa.toNat % 8))) with
          | some l => BitVec.ofNat 64 l
          | none => BitVec.ofNat 64 (2 ^ 64 - 1))
      ∧ (∀ k, k ≠ f.sd.toNat → sreg t.cur k = sreg s.cur k) ∧ beyondScalars t.cur = beyondScalars s.cur ∧ GoesOn c s.cur t.cur ∧ others t = others s)))

/-- R43, R310, R311: a trap of a launch with a handler, outside the handler and not kept for the host: the trap registers, the kept trap state, m0 every live lane below
W, an empty stack, identity layout with no force, and HANDLER as the next clause. A trap that stops its team for the host: under FHOST with CODE `0x21`, with no
handler `0x20`, inside the handler `0x22`, a Translation or Permission Fault under FHOST included (log 19: the model's choice); the team issues
nothing, its registers stay (of its four trap registers, errors not yet found are gone), and a status record with STATE 2 is due. -/
def Obligations.TrapTaken : Prop :=
  (∀ s pc x k, s.cur.handler = none → (curLaunch s).d.handler ≠ 0 →
    ¬((curLaunch s).d.fhost = true ∧ (x.cause = 9 ∨ x.cause = 10)) → x.cause < 256 → x.detail < 256 →
    let t := takeTrap s pc x k
    TrapRegisters t.cur x.cause x.detail x.replay pc x.addr x.lane
    ∧ (∀ l, l < 1024 → (mreg t.cur 0).getLsbD l = (decide (l < s.cur.width) && !s.cur.dead.getLsbD l))
    ∧ sameMasks (mreg s.cur) (mreg t.cur) ∧ t.cur.r.stack = [] ∧ t.cur.compact = false ∧ t.cur.force = .free
    ∧ t.cur.clause = none ∧ t.cur.pc = (curLaunch s).d.handler ∧ t.cur.status = s.cur.status
    ∧ (∃ y, t.cur.handler = some y ∧ y.m0 = mreg s.cur 0 ∧ y.stack = s.cur.r.stack ∧ y.compact = s.cur.compact
        ∧ y.force = s.cur.force ∧ y.pc = s.cur.pc ∧ y.clause = s.cur.clause ∧ y.kind = k)
    ∧ beyondTrap t.cur = beyondTrap s.cur ∧ others t = others s ∧ SameBytes s t)
  ∧ (∀ s pc x k code,
    ((s.cur.handler.isSome ∧ code = 0x22)
      ∨ (s.cur.handler = none ∧ (curLaunch s).d.fhost = true ∧ (x.cause = 9 ∨ x.cause = 10) ∧ code = 0x21)
      ∨ (s.cur.handler = none ∧ ¬((curLaunch s).d.fhost = true ∧ (x.cause = 9 ∨ x.cause = 10)) ∧ (curLaunch s).d.handler = 0
          ∧ code = 0x20)) →
    x.cause < 256 → x.detail < 256 →
    let t := takeTrap s pc x k
    TrapRegisters t.cur x.cause x.detail x.replay pc x.addr x.lane
    ∧ t.cur.status = .stopped code ∧ t.cur.r = { s.cur.r with sbad := t.cur.r.sbad } ∧ t.cur.handler = s.cur.handler
    ∧ (∀ k, k < 80 → NMap.get none t.cur.r.sbad k = NMap.get none s.cur.r.sbad k)
    ∧ t.statusq = s.statusq ++ [{ lid := (curBlock s).lid, state := 2, code := code, team := s.cur.idx, die := s.cur.die, index := (curBlock s).index,
                                  cause := t.cur.trapcause, pc := t.cur.trappc, addr := t.cur.trapaddr }]
    ∧ SameBytes s t)

/-- R83, R122: `tret` in a handler entered from an instruction restores m0 and the stack without the lanes that died since, and
the layout; it continues at the instruction for replay, after it for resume. Outside a handler, or a replay with REPLAY 0, it
raises Illegal Operand with DETAIL `0x03`. -/
def Obligations.ReturnFromTrap : Prop := ∀ f s c, Issues (.tret f) s c →
  (s.cur.handler = none ∨ (f.imm.getLsbD 0 = true ∧ s.cur.trapcause.getLsbD 16 = false) →
    exec (.tret f) s = .next (takeTrap s (c.hdr + 8 * (c.idx + 1)) { cause := 3, detail := 3 } .instr))
  ∧ ∀ x, s.cur.handler = some x → x.kind = .instr → (f.imm.getLsbD 0 = true → s.cur.trapcause.getLsbD 16 = true) →
    Completes (.tret f) s (fun t =>
      (∀ l, l < 1024 → l < s.cur.width → (mreg t.cur 0).getLsbD l = (x.m0.getLsbD l && !s.cur.dead.getLsbD l))
      ∧ sameMasks (mreg s.cur) (mreg t.cur)
      ∧ t.cur.r.stack = x.stack.map (fun e => ⟨e.kind, e.saved &&& ~~~ s.cur.dead, e.pending &&& ~~~ s.cur.dead⟩)
      ∧ t.cur.compact = x.compact ∧ t.cur.force = x.force ∧ t.cur.handler = none ∧ t.cur.status = .running
      ∧ (if f.imm.getLsbD 0 then t.cur.clause = x.clause.map (fun d => { d with pipe := none }) ∧ t.cur.pc = x.pc
         else ∀ d, x.clause = some d → (if d.idx + 1 < d.words.length
            then t.cur.clause = some { d with idx := d.idx + 1, pipe := none } ∧ t.cur.pc = x.pc
            else t.cur.clause = none ∧ t.cur.pc = nextHeader d % 2 ^ 64))
      ∧ (∀ k, sreg t.cur k = sreg s.cur k) ∧ (∀ n l, vreg t.cur n l = vreg s.cur n l) ∧ t.cur.flags = s.cur.flags
      ∧ others t = others s ∧ SameBytes s t)

/-- R79, R121, R130, R134: `nop` and `yield` change nothing but the place in the program; `m.compact` and `m.uncompact` set the layout and its force; `pmark` names the live tiles
where a pre-emption is pending, and else has no effect. `waitf` passes once its flag holds n or less and nothing that it waits for is outstanding (log 66), and stalls while the flag holds more; `exit` ends the team once nothing it
issued is outstanding, and stalls before. -/
def Obligations.PlainControl : Prop :=
  (∀ s c, s.cur.dying = [] →
    (∀ f, Issues (.nop f) s c → Completes (.nop f) s (fun t => beyondPlace t.cur = beyondPlace s.cur ∧ GoesOn c s.cur t.cur ∧ others t = others s))
    ∧ (∀ f, Issues (.yield f) s c → Completes (.yield f) s (fun t => beyondPlace t.cur = beyondPlace s.cur ∧ GoesOn c s.cur t.cur ∧ others t = others s))
    ∧ (∀ f, Issues (.mCompact f) s c → Completes (.mCompact f) s (fun t => t.cur.compact = true ∧ t.cur.force = .compacted
        ∧ beyondPlace t.cur = { beyondPlace s.cur with compact := true, force := .compacted } ∧ GoesOn c s.cur t.cur ∧ others t = others s))
    ∧ (∀ f, Issues (.mUncompact f) s c → Completes (.mUncompact f) s (fun t => t.cur.compact = false ∧ t.cur.force = .identity
        ∧ beyondPlace t.cur = { beyondPlace s.cur with compact := false, force := .identity } ∧ GoesOn c s.cur t.cur ∧ others t = others s))
    ∧ (∀ f, Issues (.pmark f) s c → Completes (.pmark f) s (fun t =>
        t.cur.pmark = (if s.cur.preempt then some (f.imm.toNat % 2 ^ 8, f.imm.toNat / 2 ^ 8 % 2 ^ 2) else s.cur.pmark)
        ∧ beyondPlace t.cur = { beyondPlace s.cur with pmark := t.cur.pmark } ∧ GoesOn c s.cur t.cur ∧ others t = others s)))
  ∧ (∀ s c,
    (∀ f, Issues (.waitf f) s c →
      (flagCount s.cur (f.imm.toNat % 16) ≤ f.imm.toNat / 2 ^ 8 % 64 → s.cur.deferred = [] → s.cur.dying = [] →
        (∀ o, o ∈ s.cur.ops → o.flag ≠ some (f.imm.toNat % 16) ∨ NMap.get 0 s.cur.issued (f.imm.toNat % 16) < f.imm.toNat / 2 ^ 8 % 64 + o.seq) →
        Completes (.waitf f) s (fun t => beyondPlace t.cur = beyondPlace s.cur ∧ GoesOn c s.cur t.cur ∧ others t = others s))
      ∧ (f.imm.toNat / 2 ^ 8 % 64 < flagCount s.cur (f.imm.toNat % 16) →
        Completes (.waitf f) s (fun t => t.cur = stallTeam s.cur ∧ others t = others s)))
    ∧ (∀ f, Issues (.exit f) s c →
      (s.cur.ops = [] → s.cur.flags = [] → s.cur.deferred = [] → Completes (.exit f) s (fun t =>
        t.cur.status = .ended ∧ t.cur.tid = s.cur.tid ∧ t.cur.xblk = 0 ∧ t.cur.r = {} ∧ t.cur.clause = none ∧ SameBytes s t))
      ∧ (s.cur.ops ≠ [] → Completes (.exit f) s (fun t => t.cur = stallTeam s.cur ∧ others t = others s))))


namespace Sys2Proof.Claims

/-! ## System registers and launch constants (R37, R40 to R44, R117, R118) -/

/-- A bit as a number. -/
def bit (b : Bool) : Nat := if b then 1 else 0

/-- The fields of a system register that holds no clock: (lowest bit, value) (R40, R44). -/
def sysFields (s : State) (n x : Nat) : Option (List (Nat × Nat)) :=
  let t := s.cur
  let b := curBlock s
  let d := (curLaunch s).d
  let region := NMap.get {} s.host.regions x
  match n with
  | 0x000 => some [(16, bit t.pair), (12, b.nteams - 1), (0, t.idx)]
  | 0x001 => some [(54, b.vsize), (44, b.vbase), (40, b.gmask), (38, b.gsize), (36, b.gpos), (0, b.index)]
  | 0x002 => some [(48, d.dz), (32, d.dy), (0, d.dx)]
  | 0x003 => some [(19, 2 * lptOf (dieOf s t.die) (t.cell % 72 / 2) + t.cell % 2), (13, t.cell / 72), (0, t.cell)]
  | 0x004 => some [(16, ((List.range 4).map (fun p =>
      bit (!NMap.get false (dieOf s t.die).cellret (cellAt (clusterOf t.cell) p)) * 2 ^ p)).sum), (0, clusterOf t.cell)]
  | 0x005 => some [(16, t.die), (12, t.die / 12), (8, t.die % 12), (0, 2 * (t.die % 12) + t.die / 12 % 2)]
  | 0x006 => some [(0, t.width)]
  | 0x007 => some [(0, t.group)]
  | 0x008 => some [(44, bit d.prot), (40, d.stream), (37, d.prio), (0, d.id)]
  | 0x009 => some [(40, b.draw), (0, b.prim)]
  | 0x00A => some [(48, (List.range t.width).countP (fun l => t.dead.getLsbD l)), (32, latentCount t), (16, t.r.stack.length), (8, t.xblk),
      (4, bit t.prot), (3, bit t.compact), (0, bit t.deadsrc)]
  | 0x010 => some [(2, bit t.ftz), (0, t.rm.toNat)]
  | 0x011 => some [(0, t.fl.toNat)]
  | 0x012 => some [(0, t.mxb.toNat)]
  | 0x013 => some [(0, t.mxt.toNat)]
  | 0x018 => some [(0, t.trapcause.toNat)]
  | 0x019 => some [(0, t.trappc.toNat)]
  | 0x01A => some [(0, t.trapaddr.toNat)]
  | 0x01B => some [(0, t.traplane.toNat)]
  | 0x020 => if x ≤ 2 then some ((List.range 64).map (fun j => (j, bit (isLive s (64 * x + j))))) else none
  | 0x021 => if x ≤ 143 then some [(0, (dieOf s x).colret.toNat)] else none
  | 0x022 => if x / 2 ^ 7 ≤ 143 ∧ x % 2 ^ 7 ≤ 71 then
      some ((List.range 64).map (fun j => (j, bit (NMap.get false (dieOf s (x / 2 ^ 7)).cellret (64 * (x % 2 ^ 7) + j))))) else none
  | 0x023 => if x / 2 ^ 6 ≤ 143 ∧ x % 2 ^ 6 ≤ 35 then some [(0, lptOf (dieOf s (x / 2 ^ 6)) (x % 2 ^ 6))] else none
  | 0x024 => if x ≤ 15 then some [(16, region.pstate), (0, region.cap)] else none
  | 0x025 => if x ≤ 15 then some [(16, region.window), (0, region.step)] else none
  | _ => none

/-- The word that fields make. -/
def wordOf (l : List (Nat × Nat)) : DWord := BitVec.ofNat 64 ((l.map (fun e => e.2 * 2 ^ e.1)).sum)

/-- A system register that takes an index, and the numbers that name a register (R40). -/
def indexed (n : Nat) : Bool := decide (0x020 ≤ n) && decide (n ≤ 0x025)
def named (n : Nat) : Bool :=
  decide (n ≤ 0x00B) || (decide (0x010 ≤ n) && decide (n ≤ 0x013)) || (decide (0x018 ≤ n) && decide (n ≤ 0x01B)) || indexed n

/-- The offset of `s.ldk` and its size (R117). -/
def constOffset (s : State) (f : SR) : DWord := sreg s.cur f.sa.toNat + f.imm.signExtend 64
def constSize : LdkW → Nat
  | .b32 => 4
  | .b64 => 8

end Sys2Proof.Claims

/-- R7, R40, R42, R44, R118: `s.rdsys` sets S(SD) to the register's fields, in both copies of a protected team (R372), and changes nothing else; CYCLE reads the count of
the left cell, which a free number of clocks has raised (log 7). An unknown number, an index out of range, or a non-indexed read whose SA is not 63 raises Illegal Operand with
DETAIL `0x02` and TRAPADDR = NUM. `s.wrsys` of FPMODE sets RM and FTZ; of FPFLAGS clears the flags written as 1; of TEAMSTAT clears DEADSRC where it is written as 1; of a read-only
register changes nothing; of an unknown number traps. -/
def Obligations.SystemRegisters : Prop :=
  (∀ f s c l, Issues (.sRdsys f) s c → s.cur.dying = [] →
    sysFields s (f.imm.toNat % 2 ^ 12) (sreg s.cur f.sa.toNat).toNat = some l →
    (indexed (f.imm.toNat % 2 ^ 12) = true ∨ f.sa = 63) →
    Completes (.sRdsys f) s (fun t => sreg t.cur f.sd.toNat = reads f.sd.toNat (wordOf l)
      ∧ (∀ h, s.cur.sh = some h → ∃ h', t.cur.sh = some h' ∧ h'.sget f.sd.toNat = reads f.sd.toNat (wordOf l))
      ∧ (∀ k, k ≠ f.sd.toNat → sreg t.cur k = sreg s.cur k) ∧ beyondScalars t.cur = beyondScalars s.cur ∧ GoesOn c s.cur t.cur
      ∧ others t = others s ∧ SameBytes s t))
  ∧ (∀ f s c, Issues (.sRdsys f) s c → s.cur.dying = [] → f.imm.toNat % 2 ^ 12 = 0x00B → f.sa = 63 →
    Completes (.sRdsys f) s (fun t => sreg t.cur f.sd.toNat = reads f.sd.toNat (cellOf t (s.cur.die * 4608 + s.cur.cell)).cyc
      ∧ (∀ k, k ≠ f.sd.toNat → sreg t.cur k = sreg s.cur k) ∧ beyondScalars t.cur = beyondScalars s.cur ∧ GoesOn c s.cur t.cur
      ∧ (∀ ck, ck ≠ s.cur.die * 4608 + s.cur.cell → cellOf t ck = cellOf s ck)
      ∧ others { t with free := 0, cells := [] } = others { s with free := 0, cells := [] } ∧ SameBytes s t))
  ∧ (∀ f s c, Issues (.sRdsys f) s c →
    (named (f.imm.toNat % 2 ^ 12) = false
      ∨ (indexed (f.imm.toNat % 2 ^ 12) = true ∧ sysFields s (f.imm.toNat % 2 ^ 12) (sreg s.cur f.sa.toNat).toNat = none)
      ∨ (indexed (f.imm.toNat % 2 ^ 12) = false ∧ f.sa ≠ 63)) →
    exec (.sRdsys f) s = .next (takeTrap s (c.hdr + 8 * (c.idx + 1)) { cause := 3, detail := 2, addr := f.imm.toNat % 2 ^ 12 } .instr))
  ∧ (∀ f s c,
    (Issues (.sWrsys f) s c →
      (named (f.imm.toNat % 2 ^ 12) = false → exec (.sWrsys f) s
        = .next (takeTrap s (c.hdr + 8 * (c.idx + 1)) { cause := 3, detail := 2, addr := f.imm.toNat % 2 ^ 12 } .instr))
      ∧ (s.cur.dying = [] → f.imm.toNat % 2 ^ 12 = 0x010 → Completes (.sWrsys f) s (fun t =>
          t.cur.rm.toNat = (sreg s.cur f.sa.toNat).toNat % 4 ∧ t.cur.ftz = (sreg s.cur f.sa.toNat).getLsbD 2
          ∧ beyondPlace t.cur = { beyondPlace s.cur with rm := t.cur.rm, ftz := t.cur.ftz } ∧ GoesOn c s.cur t.cur ∧ others t = others s))
      ∧ (s.cur.dying = [] → named (f.imm.toNat % 2 ^ 12) = true → f.imm.toNat % 2 ^ 12 ≠ 0x010 →
          Completes (.sWrsys f) s (fun t => beyondPlace t.cur = beyondPlace s.cur ∧ GoesOn c s.cur t.cur ∧ others t = others s)))
    ∧ (Issues (.fpflags f) s c → s.cur.dying = [] → Completes (.fpflags f) s (fun t =>
        (∀ i, i < 5 → t.cur.fl.getLsbD i = (s.cur.fl.getLsbD i && !(sreg s.cur f.sa.toNat).getLsbD i))
        ∧ beyondPlace t.cur = { beyondPlace s.cur with fl := t.cur.fl } ∧ GoesOn c s.cur t.cur ∧ others t = others s))
    ∧ (Issues (.teamstat f) s c → s.cur.dying = [] → Completes (.teamstat f) s (fun t =>
        t.cur.deadsrc = (s.cur.deadsrc && !(sreg s.cur f.sa.toNat).getLsbD 0)
        ∧ beyondPlace t.cur = { beyondPlace s.cur with deadsrc := t.cur.deadsrc } ∧ GoesOn c s.cur t.cur ∧ others t = others s)))

/-- R117: `s.ldk` loads 4 or 8 bytes of the launch constants, zero-extended; a misaligned offset raises Misaligned Access, one
outside the constants Illegal Operand with DETAIL `0x01` and TRAPADDR the offset. That the offset's sum wraps to 64 bits and is read as signed where it is
tested is the model's choice (log 67), and so is Misaligned Access before Illegal Operand (log 85). -/
def Obligations.LaunchConstantLoads : Prop := ∀ w f s c, Issues (.sLdk w f) s c →
  let o := constOffset s f
  let n := constSize w
  (o.toNat % n ≠ 0 → exec (.sLdk w f) s
    = .next (takeTrap s (c.hdr + 8 * (c.idx + 1)) { cause := 7, addr := o.toNat } .instr))
  ∧ (o.toNat % n = 0 → (o.toInt < 0 ∨ ((8 * (curLaunch s).d.kwords : Nat) : Int) < o.toInt + n) → exec (.sLdk w f) s
    = .next (takeTrap s (c.hdr + 8 * (c.idx + 1)) { cause := 3, detail := 1, addr := o.toNat } .instr))
  ∧ (o.toNat % n = 0 → 0 ≤ o.toInt → o.toInt + n ≤ ((8 * (curLaunch s).d.kwords : Nat) : Int) → (curLaunch s).cbad = [] → s.cur.dying = [] →
      Completes (.sLdk w f) s (fun t =>
        (f.sd ≠ 63 → ∀ i, i < 64 → (sreg t.cur f.sd.toNat).getLsbD i
          = (decide (i < 8 * n) && ((curLaunch s).consts.getD (o.toNat + i / 8) 0).getLsbD (i % 8)))
        ∧ (∀ k, k ≠ f.sd.toNat → sreg t.cur k = sreg s.cur k) ∧ beyondScalars t.cur = beyondScalars s.cur ∧ GoesOn c s.cur t.cur
        ∧ others t = others s ∧ SameBytes s t))

namespace Sys2Proof.Claims

/-- The cells that a team occupies: one, or both of its pair (R16). -/
def homeCells (t : Team) : List Nat := t.cell :: (if t.pair then [t.cell + 1] else [])
/-- Granules of one register block in each cell: 16 × NR in a one-cell team, 8 × NR in a paired one, NR of the physical width, which is twice W in
protected mode (R13, R18, R30). -/
def blockGranules (t : Team) : Nat := (if t.prot then 2 * t.width else t.width) / 32 * (if t.pair then 8 else 16)
/-- Granules of the base blocks of a cell's resident teams, and of all blocks that they hold (R30). -/
def baseNeed (s : State) (die cell : Nat) : Nat := ((teamsIn s die cell).map blockGranules).sum
def heldGranules (s : State) (die cell : Nat) : Nat := ((teamsIn s die cell).map (fun t => blockGranules t * (1 + t.xblk))).sum
/-- A request for n extended blocks could never fit, and it fits now (R30, R131). -/
def CannotFit (s : State) (t : Team) (n : Nat) : Prop := ∃ k, k ∈ homeCells t ∧ 512 < baseNeed s t.die k + n * blockGranules t
def FitsInAll (s : State) (t : Team) (n : Nat) : Prop :=
  ∀ k, k ∈ homeCells t → heldGranules s t.die k + (n - t.xblk) * blockGranules t ≤ 512
/-- The register queue of a cell of the team's die (R131). -/
def queueAt (s : State) (t : Team) (k : Nat) : List (Nat × Nat) := (cellOf s (t.die * 4608 + k)).regq
/-- The team has no request in the queue of a cell that it occupies. -/
def notQueued (s : State) (t : Team) : Prop := ∀ k, k ∈ homeCells t → ∀ q, q ∈ queueAt s t k → q.1 ≠ t.tid

end Sys2Proof.Claims

/-- R30, R131, R132: `racq` of blocks already held has no effect; a request that could never fit raises Register Capacity at once; one that fits
with no request before it is granted at once, XBLK := n (the immediate grant: log 23); any other joins the register queue of each cell the team occupies,
behind what stands there, and stalls. `rrel` stalls while an outstanding load has a destination in the blocks that it frees; then it frees the blocks
above n and sets XBLK := n. The head of a cell's queue is granted when it stands first in every cell its team occupies and each has free granules for it; a
head that does not fit stays. -/
def Obligations.RegisterBlocks : Prop :=
  (∀ f s c, let n := f.imm.toNat % 8
    (Issues (.racq f) s c →
      (n ≤ s.cur.xblk → s.cur.dying = [] → (∀ ck, (cellOf s ck).regq = []) →
        Completes (.racq f) s (fun t => beyondPlace t.cur = beyondPlace s.cur ∧ GoesOn c s.cur t.cur))
      ∧ (s.cur.xblk < n → notQueued s s.cur → CannotFit s s.cur n →
        exec (.racq f) s = .next (takeTrap s (c.hdr + 8 * (c.idx + 1)) { cause := 5 } .instr))
      ∧ (s.cur.xblk < n → s.cur.dying = [] → ¬CannotFit s s.cur n → FitsInAll s s.cur n → (∀ ck, (cellOf s ck).regq = []) →
        Completes (.racq f) s (fun t => t.cur.xblk = n ∧ beyondPlace t.cur = { beyondPlace s.cur with xblk := n }
          ∧ GoesOn c s.cur t.cur ∧ (∀ ck, (cellOf t ck).regq = []) ∧ SameBytes s t))
      ∧ (s.cur.xblk < n → notQueued s s.cur → ¬CannotFit s s.cur n →
          (¬FitsInAll s s.cur n ∨ ∃ k, k ∈ homeCells s.cur ∧ queueAt s s.cur k ≠ []) →
        Completes (.racq f) s (fun t => t.cur = stallTeam s.cur
          ∧ (∀ k, k ∈ homeCells s.cur → queueAt t s.cur k = queueAt s s.cur k ++ [(s.cur.tid, n)])
          ∧ (∀ ck, (∀ k, k ∈ homeCells s.cur → ck ≠ s.cur.die * 4608 + k) → cellOf t ck = cellOf s ck) ∧ SameBytes s t)))
    ∧ (Issues (.rrel f) s c → s.cur.dying = [] →
      (s.cur.xblk ≤ n → Completes (.rrel f) s (fun t => beyondPlace t.cur = beyondPlace s.cur ∧ GoesOn c s.cur t.cur ∧ others t = others s))
      ∧ (n < s.cur.xblk → (∃ o g, o ∈ s.cur.ops ∧ (o.i = .ld g ∨ o.i = .lds g) ∧ n < g.vd.toNat / 16) →
        Completes (.rrel f) s (fun t => t.cur = stallTeam s.cur ∧ others t = others s))
      ∧ (n < s.cur.xblk → s.cur.ops = [] → (∀ ck, (cellOf s ck).regq = []) → Completes (.rrel f) s (fun t => t.cur.xblk = n ∧ GoesOn c s.cur t.cur
          ∧ (∀ v l, v < 16 * (n + 1) → l < 1024 → vreg t.cur v l = vreg s.cur v l) ∧ (∀ v l, 16 * (n + 1) ≤ v → l < 1024 → vreg t.cur v l = 0)
          ∧ (∀ k, sreg t.cur k = sreg s.cur k) ∧ (∀ k, mreg t.cur k = mreg s.cur k) ∧ SameBytes s t))))
  ∧ (∀ s ck t n rest, (cellOf s ck).regq = (t.tid, n) :: rest → team? s t.tid = some t →
    ((∀ k, k ∈ homeCells t → ∃ m more, queueAt s t k = (t.tid, m) :: more) → FitsInAll s t n →
      Completes (.registerQueueGrant ck) s (fun u => (team? u t.tid).map (·.xblk) = some n
        ∧ (∀ k, k ∈ homeCells t → ∀ q, q ∈ queueAt u t k → q.1 ≠ t.tid) ∧ SameBytes s u))
    ∧ (¬FitsInAll s t n → exec (.registerQueueGrant ck) s = .next s))


namespace Sys2Proof.Claims

/-! ## Encodings, clauses, steps (R72 to R77, R85 to R101, R301) -/

/-- A word that the spec prints or lays out, and the instruction that it stands for. -/
def printedWords : List (DWord × Instr) :=
  [ (0x19004000_00000005#64, .bdiv { creg := 1, ckind := 0, off := 5 }),
    (0x19100000_00000006#64, .belse { creg := 0, ckind := 0, off := 6 }),
    (0x19200000_00000000#64, .bjoin { creg := 0, ckind := 0, off := 0 }),
    (0x14018B80_00000022#64, .sRdsys { sd := 6, sa := 11, i := true, sb := 0, rsv := false, imm := 0x22 }),
    (0x20001431_04380020#64, .vAdd { ty := 0, vd := 5, a := ⟨6, 1, 1⟩, b := ⟨7, 0, 0⟩, fs := false, satna := false, nb := false, pred := 2, mod := 0 }),
    (0xF0010080_0FEC0180#64, .vFma { ty := 0, vd := 4, a := ⟨1, 0, 0⟩, b := ⟨0x1F, 6, 0x30⟩, c := ⟨3, 0, 0⟩ }),
    (0x4C021420_00060800#64, .vTidx { ty := 1, vd := 5, a := ⟨4, 0, 0⟩, b := ⟨0, 6, 2⟩, fs := false, satna := false, nb := false, pred := 0, mod := 0 }),
    (0x50240840_21000000#64, .ld { ox := true, fs := false, width := 2, vd := 2, base := 4, voff := 1, stream := 0, scope := 4, policy := 0, disp := 0 }),
    (0x6C662140_01000080#64, .ldv { ox := true, fs := false, width := 3, vd := 8, base := 20, voff := 0, stream := 0, scope := 4, policy := 0, disp := 128 }),
    (0x6C804170_01000000#64, .valset { ox := false, fs := false, width := 0, vd := 16, base := 23, voff := 0, stream := 0, scope := 4, policy := 0, disp := 0 }),
    (0x64C60800_01000000#64, .gbar { ox := false, fs := false, width := 3, vd := 2, base := 0, voff := 0, stream := 0, scope := 4, policy := 0, disp := 0 }),
    (0x68240570_41000000#64, .aAdd { ox := true, fs := false, width := 2, vd := 1, base := 23, voff := 2, stream := 0, scope := 4, policy := 0, disp := 0 }),
    (0x78022220_0828C011#64, .mxMma { td := 2, fa := 2, fb := 2, acc := 1, fs := false, spa := false, ns := 0, sa := 4, sb := 5, sc := 6, mod := 0, imm := 0x011 }),
    (0x80000004_08380000#64, .mxSlice { td := 0, fa := 0, fb := 0, acc := 0, fs := false, spa := false, ns := 8, sa := 4, sb := 7, sc := 0, mod := 0, imm := 0 }),
    (0x80380000_12500801#64, .mxRc { td := 8, fa := 0, fb := 0, acc := 0, fs := false, spa := false, ns := 0, sa := 9, sb := 10, sc := 0, mod := 4, imm := 1 }),
    (0x84020928_B0800000#64, .cp { sd := 8, ss := 9, sl := 10, sw := 11, stream := 0, scope := 4, fs := false, mod := 0, imm := 0 }),
    (0x8C200000_0C000000#64, .gDone { vd := 0, va := 0, vb := 0, sa := 6, sb := 0, fs := false, mod := 0, pred := 0, imm := 0 }),
    (0x8C308000_0000C000#64, .gAttr { vd := 4, va := 0, vb := 0, sa := 0, sb := 0, fs := false, mod := 3, pred := 0, imm := 0 }),
    (0x90000100_00000000#64, .gOut { vd := 0, va := 4, vb := 0, sa := 0, sb := 0, fs := false, mod := 0, pred := 0, imm := 0 }) ]

/-- Header fields (R73). -/
def hCheck (h : DWord) : Nat := h.toNat / 2 ^ 60
def hClass (h : DWord) : Nat := h.toNat / 2 ^ 57 % 2 ^ 3
def hCount (h : DWord) : Nat := h.toNat / 2 ^ 53 % 2 ^ 4
def hWait (h : DWord) (f : Nat) : Bool := h.toNat.testBit (41 + f)
def hSeta (h : DWord) : Nat := h.toNat / 2 ^ 37 % 2 ^ 4
def hSetb (h : DWord) : Nat := h.toNat / 2 ^ 33 % 2 ^ 4
def hS (h : DWord) : Bool := h.toNat.testBit 32

/-- The DETAIL of the first failing check of a header word (R74). -/
def headerDetail (h : DWord) : Option Nat :=
  if hCheck h ≠ 0b1010 then some 1 else if 4 ≤ hClass h then some 2 else if h.toNat % 2 ^ 32 ≠ 0 then some 3 else none

/-- The terminators (R76). -/
def terminates : Instr → Bool
  | .br _ | .brz _ | .brnz _ | .bany _ | .ball _ | .call _ | .ret _ | .jmpi _ | .exit _ | .bdiv _ | .belse _ | .bjoin _ | .bloop _
  | .bbrk _ | .trap _ | .tret _ => true
  | _ => false
/-- The first terminator of a clause that stands before the last position (R74). -/
def misplacedWord (ws : List DWord) : Option DWord := ws.dropLast.find? (fun w => match decode w with | some i => terminates i | none => false)

/-- Bits h to l of an encoding; its group and function (R85). -/
def bits (w : DWord) (h l : Nat) : Nat := w.toNat / 2 ^ l % 2 ^ (h + 1 - l)
def groupOf (w : DWord) : Nat := bits w 63 58
def functionOf (w : DWord) : Nat := bits w 57 52

/-- The one clause class that admits an encoding; none where every class does (R75). -/
def onlyIn (w : DWord) : Option Nat :=
  if groupOf w = 0x07 ∧ (functionOf w = 0x0E ∨ functionOf w = 0x0F) then some 0
  else if groupOf w ≤ 0x07 then none
  else if groupOf w ≤ 0x13 ∨ 0x3C ≤ groupOf w then some 0
  else if groupOf w ≤ 0x1C then some 1
  else if groupOf w = 0x27 ∧ functionOf w ≤ 0x02 then none
  else some 2
/-- Check 2 of R99: a clause of this class admits the encoding. -/
def admitted (cls : Nat) (w : DWord) : Bool := match onlyIn w with | none => true | some k => cls == k
/-- The privileged system instructions (R245). -/
def needsPriv (w : DWord) : Bool := groupOf w == 0x27 && decide (0x08 ≤ functionOf w)

/-- An illegal value in a 16-bit source field at bit l, for a type of 64 bits or less: K of identity and mir, REG[6] and K of a scalar
broadcast (R87, R89). -/
def badSource (w64 : Bool) (w : DWord) (l : Nat) : Bool :=
  let k := bits w (l + 5) l
  match bits w (l + 8) (l + 6) with
  | 0 | 4 => k != 0
  | 7 => w.toNat.testBit (l + 15) || (if w64 then k != 0 else decide (2 ≤ k))
  | _ => false
/-- A source field at bit l that names an odd register by a pattern that reads one (R87, R90). -/
def oddSource (w : DWord) (l : Nat) : Bool := decide (bits w (l + 8) (l + 6) < 6) && bits w (l + 15) (l + 9) % 2 == 1

/-- What checks 3, 4 and 5 of R99 look at. -/
structure Checks345 where
  reserved : Bool
  excluded : Bool
  misaligned : Bool

/-- Checks 3 to 5 of R99 on an encoding, in the spec's field positions, for: the scalar ALU, compares, loads and stores (R93, R110, R116), the
moves and counts, branches and divergence (R94), mask logic, `waitf`, the integer vector ALU with two sources (R86, R136), `v.fma` (R92), loads and stores of
memory and vault (R95, R166, R167), the atomics (R172) and `cp` (R97, R224). -/
def fieldChecks (w : DWord) : Option Checks345 :=
  let g := groupOf w
  let f := functionOf w
  let is (h l : Nat) : Bool := bits w h l != 0
  if g = 0x01 ∨ (g = 0x02 ∧ (f ≤ 0x06 ∨ f = 0x0C ∨ f = 0x0D)) ∨ (g = 0x03 ∧ f ≤ 0x09) ∨ (g = 0x04 ∧ f ≤ 0x0B) then
    some ⟨w.toNat.testBit 32 || (if w.toNat.testBit 39 then is 38 33 else is 31 0), false, false⟩
  else if g = 0x02 ∧ (f = 0x08 ∨ f = 0x0E ∨ f = 0x0F ∨ f = 0x10) then some ⟨is 38 32 || is 31 0, w.toNat.testBit 39, false⟩
  else if g = 0x02 then some ⟨is 45 40 || is 38 32, !w.toNat.testBit 39, false⟩
  else if g = 0x06 then some (match f with
    | 0x00 => ⟨is 51 46 || is 45 44, false, false⟩
    | 0x01 | 0x02 => ⟨false, decide (2 ≤ bits w 45 44), false⟩
    | 0x03 | 0x04 => ⟨false, decide (2 ≤ bits w 45 44) || is 51 49, false⟩
    | 0x05 | 0x07 => ⟨is 45 44, false, false⟩
    | 0x06 => ⟨is 45 44 || is 43 0, false, false⟩
    | 0x10 | 0x14 => ⟨is 45 44, is 51 49, false⟩
    | 0x11 | 0x13 => ⟨is 51 46 || is 45 44, false, false⟩
    | _ => ⟨is 51 46 || is 45 44 || is 43 0, false, false⟩)
  else if g = 0x07 ∧ (0x08 ≤ f ∧ f ≤ 0x0B) then
    some ⟨w.toNat.testBit 32 || is 31 0, w.toNat.testBit 39 || is 51 49 || is 45 43 || is 38 36, false⟩
  else if g = 0x07 ∧ f = 0x01 then
    some ⟨is 51 40 || is 38 32, !w.toNat.testBit 39 || decide (12 ≤ bits w 3 0) || is 7 4 || is 31 14, false⟩
  else if g = 0x08 ∧ f ≤ 0x06 ∨ g = 0x09 then
    let ty := bits w 51 49
    let w64 := ty == 4 || ty == 5
    some ⟨w.toNat.testBit 9 || w.toNat.testBit 7 || (w.toNat.testBit 8 && !(g == 0x08 && decide (f ≤ 0x02))),
      !(ty == 0 || ty == 1 || w64) || is 3 0 || badSource w64 w 26 || badSource w64 w 10,
      w64 && (oddSource w 26 || oddSource w 10 || w.toNat.testBit 42)⟩
  else if g = 0x14 ∧ f ≤ 0x07 ∨ g = 0x18 ∧ f ≤ 0x07 then
    let n := bits w 51 49
    some ⟨!w.toNat.testBit 53 && is 35 29,
      n == 7 || (decide (4 ≤ f) && decide (5 ≤ n)) || decide (6 ≤ bits w 24 22)
        || (g == 0x18 && (decide (4 ≤ bits w 24 22) || is 21 20)),
      (n == 3 && w.toNat.testBit 42) || (n == 4 && is 43 42)⟩
  else if g = 0x1A then
    let n := bits w 51 49
    let op := f / 4
    let wide := n == 3 || n == 6 || n == 1
    some ⟨!w.toNat.testBit 53 && is 35 29,
      decide (6 ≤ bits w 24 22) || !(if op = 8 then n == 0 || n == 1 else n == 2 || n == 3 || (decide (op ≤ 2) && (n == 5 || n == 6))),
      if op = 7 then (if wide then is 43 42 else w.toNat.testBit 42) else wide && w.toNat.testBit 42⟩
  else if g = 0x21 ∧ f = 0 then some ⟨is 15 0, decide (3 ≤ bits w 19 16) || decide (6 ≤ bits w 23 21), false⟩
  else none

/-- Loads from memory and vault and the atomics: they list a register destination, and select SETA or SETB by their bit 52 (R79, R80, R95). -/
def listsDestination (w : DWord) : Bool :=
  (groupOf w == 0x14 && decide (functionOf w ≤ 3)) || (groupOf w == 0x18 && decide (functionOf w ≤ 3)) || groupOf w == 0x1A

/-- What the team stalled for has cleared (R301): it is not stalled, or it stalled at a `waitf` whose flag is clear with nothing outstanding, and no
access of its clause waits for a walk. -/
def CauseCleared (s : State) (c : Clause) : Prop :=
  s.cur.stalled = false
    ∨ (s.cur.slotwait = false ∧ (dieOf s s.cur.die).walkq = [] ∧ (dieOf s s.cur.die).walking = [] ∧ s.cur.ops = [] ∧ s.cur.flags = []
        ∧ ∃ f, decode (c.words.getD c.idx 0) = some (.waitf f))

/-- The team may begin a clause (R77, R82, R127): it runs, a lane of it lives, no operation is to be reissued first, it has no clause in progress, is asked to stop by nobody, its die issues, nothing that
a clause with S issued is outstanding, and no deferred fault waits. -/
def MayBegin (s : State) : Prop :=
  s.cur.status = .running ∧ allDead s.cur = false ∧ s.cur.redo = none ∧ s.cur.clause = none ∧ mustStop s s.cur = false ∧ dieRuns s s.cur.die = true
  ∧ s.cur.ops.any (·.syn) = false ∧ s.cur.deferred = []

end Sys2Proof.Claims

/-- R85 to R98, R100: decoding the word of any instruction gives the instruction back, every field at every value; and the other way round, a word that decodes is the word of
its instruction, so that no bit of a word is dropped. -/
def Obligations.DecodeAndEncodeAgree : Prop := (∀ i w, encode i = some w → decode w = some i) ∧ ∀ w i, decode w = some i → encode i = some w

/-- Words that the spec prints decode to the instructions that it prints them for. -/
def Obligations.PrintedWordsDecode : Prop := ∀ e, e ∈ printedWords → decode e.1 = some e.2

/-- R75, R85, R99, R101, R245: a word that decodes to nothing raises Illegal Instruction with DETAIL `0x01`. The checks of an instruction follow in their order: one that its
clause's class does not admit has DETAIL `0x03`, a privileged one in a launch without PRIV `0x07`; then a reserved field that is not zero `0x02`, a field
with an excluded value `0x05`, a register misaligned for its width `0x04` (for the formats and entries of `fieldChecks`), and a load or atomic that selects no flag `0x06`. TRAPADDR holds the
encoding; no effect on the destinations, and the next clause is the handler's (R310). Last, whatever check of an instruction fails, the trap is the same with its DETAIL. That the class comes before the privilege (log 86), and which fields
`0x02` and which `0x05` names (the upper bits of mask numbers, SB and IMM by I, VOFF by OX: log 12), is the model's reading. -/
def Obligations.IllegalInstructionTraps : Prop :=
  (∀ s c, running s = some c → c.pipe.isSome = true → s.sched = [] →
    decode (c.words.getD c.idx 0) = none →
    step s = .next (settle (takeTrap s (c.hdr + 8 * (c.idx + 1)) { cause := 1, detail := 1, addr := (c.words.getD c.idx 0).toNat } .instr)))
  ∧ (∀ i s c w, running s = some c → encode i = some w →
    let raises (d : Nat) : Prop := exec i s = .next (takeTrap s (c.hdr + 8 * (c.idx + 1)) { cause := 1, detail := d, addr := w.toNat } .instr)
    (admitted c.cls w = false → raises 3)
    ∧ (admitted c.cls w = true → needsPriv w = true → (curLaunch s).d.priv = false → raises 7)
    ∧ (∀ k, fieldChecks w = some k → admitted c.cls w = true →
        (k.reserved = true → raises 2)
        ∧ (k.reserved = false → k.excluded = true → raises 5)
        ∧ (k.reserved = false → k.excluded = false → k.misaligned = true → raises 4)
        ∧ (k.reserved = false → k.excluded = false → k.misaligned = false → listsDestination w = true →
            12 ≤ (if w.toNat.testBit 52 then c.setb else c.seta) → raises 6)
        ∧ (k.reserved = false → k.excluded = false → k.misaligned = false → listsDestination w = false →
            issueIllegal s i c = none)))
  ∧ (∀ i s c d w, running s = some c → issueIllegal s i c = some d → encode i = some w →
    exec i s = .next (takeTrap s (c.hdr + 8 * (c.idx + 1)) { cause := 1, detail := d, addr := w.toNat } .instr))

/-- A step runs the decoded instruction: a running team whose clause holds a pipe runs the instruction that its word decodes to, and
`settled` adds what follows at once. So it is where the schedule is empty, and where it names the team; where it names a device
step, that is run. A placed word is the very next instruction. -/
def Obligations.StepRunsTheDecodedInstruction : Prop :=
  (∀ s c i, running s = some c → c.pipe.isSome = true → decode (c.words.getD c.idx 0) = some i →
    (s.sched = [] → step s = settled (exec i s))
    ∧ (∀ rest, s.sched = .team s.cur.tid :: rest → step s = settled (exec i { s with sched := rest }))
    ∧ (∀ j rest, s.sched = .event j :: rest → step s = settled (exec j { s with sched := rest })))
  ∧ (∀ (s : State) n w i, decodeTableWord n w = some i → step (s.withFetchWord n w) = settled (exec i (s.withFetchWord n w)))

/-- No step ends in a fault or a refusal: every trap of the device is taken. -/
def Obligations.EveryStepAnswersANextState : Prop := ∀ s, ∃ t, step s = .next t

/-- R73, R74, R77, R301: a header word that fails a check, or a misplaced terminator, raises Illegal Clause; no instruction of the clause takes effect. A clause whose words are
fetched begins once its WAIT flags are clear and a pipe is free, with its header's fields; one that released its pipe takes a free one again once the
cause has cleared and goes on where it stood, and its WAIT is not applied; a clause stalled at a `waitf` whose flag holds more than n takes none. -/
def Obligations.ClausesBegin : Prop :=
  (∀ s h u, MayBegin s → fetchWord (modCur s savedDone) s.cur.pc = (.word h, u) →
    (∀ d, headerDetail h = some d → exec (.clauseBegin s.cur.tid) s = .next (takeTrap u u.cur.pc { cause := 2, detail := d, addr := h.toNat } .clause))
    ∧ (headerDetail h = none → ∀ ws v w, fetchWords (hCount h + 1) u ((s.cur.pc + 8) % 2 ^ 64) [] = (.inl ws, v) → misplacedWord ws = some w →
        exec (.clauseBegin s.cur.tid) s = .next (takeTrap v v.cur.pc { cause := 2, detail := 4, addr := w.toNat } .clause)))
  ∧ ((∀ s h u ws v p, MayBegin s → fetchWord (modCur s savedDone) s.cur.pc = (.word h, u) →
      headerDetail h = none → fetchWords (hCount h + 1) u ((s.cur.pc + 8) % 2 ^ 64) [] = (.inl ws, v) → misplacedWord ws = none →
      (∀ f, f < 12 → hWait h f = true → flagCount v.cur f = 0) → v.cur.deferred = [] → (hClass h = 1 → memoryPipeHeld v v.cur = false) →
      freePipe v v.cur (hClass h) = some p →
      Completes (.clauseBegin s.cur.tid) s (fun t => t.cur.clause = some ⟨v.cur.pc, hClass h, ws, 0, hSeta h, hSetb h, hS h, some p⟩
        ∧ others t = others v ∧ (∀ k, sreg t.cur k = sreg v.cur k) ∧ (∀ k, mreg t.cur k = mreg v.cur k) ∧ t.cur.flags = v.cur.flags))
    ∧ (∀ s c p, running s = some c → c.pipe = none → s.cur.saveobs = none → s.cur.redo = none → CauseCleared s c →
      freePipe s s.cur c.cls = some p →
      Completes (.clauseContinue s.cur.tid) s (fun t => t.cur.clause = some { c with pipe := some p } ∧ t.cur.stalled = false
        ∧ t.cur.pc = s.cur.pc ∧ t.cur.r = s.cur.r ∧ t.cur.flags = s.cur.flags ∧ others t = others s))
    ∧ (∀ s c f, running s = some c → c.pipe = none → s.cur.saveobs = none → s.cur.redo = none → s.cur.stalled = true →
      decode (c.words.getD c.idx 0) = some (.waitf f) → f.imm.toNat / 2 ^ 8 % 64 < flagCount s.cur (f.imm.toNat % 16) →
      exec (.clauseContinue s.cur.tid) s = .next s))

/-- R7, R44, R393 and the reset values of the tables: after power-on no team, launch or die, an interleaved memory with nothing
defined and in its canonical form, PWRCAP (PSTATE 0, CAP 2,200) and PWRSTEP at their reset values, every launch queue of every die empty, no event, status write, mailbox
or message waiting. The registers of R31 and the panel state of R44 (COLRET of the two spare columns, CELLRET of none: log 16, the model's choice) read so too; that registers read 0
and queues, caches and tables are empty before any team exists is the model's choice where the spec gives no value (log 15). -/
def Obligations.ResetValues : Prop :=
  (State.reset.cur.status = .absent ∧ State.reset.teams = [] ∧ State.reset.launches = [] ∧ State.reset.blocks = []
    ∧ State.reset.host.stage = .off ∧ (∀ d, isLive State.reset d = false) ∧ (∀ r, (NMap.get {} State.reset.host.regions r).cap = 2200)
    ∧ (∀ r, (NMap.get {} State.reset.host.regions r).pstate = 0)
    ∧ (∀ r, (NMap.get {} State.reset.host.regions r).window = 1000) ∧ (∀ r, (NMap.get {} State.reset.host.regions r).step = 500)
    ∧ (∀ x, NMap.get none State.reset.mem.sets x = none) ∧ (∀ d q, NMap.get [] (dieOf State.reset d).queues q = [])
    ∧ (∀ d q, NMap.get [] (dieOf State.reset d).held q = [])
    ∧ (∀ src, NMap.get 0 State.reset.evseq src = 0) ∧ (∀ src, NMap.get [] State.reset.evbuf src = []) ∧ State.reset.statusq = []
    ∧ (∀ m, NMap.get none State.reset.host.boxes m = none) ∧ State.reset.fabric.msgs = [] ∧ State.reset.fabric.badlinks = []
    ∧ (∀ k, (cellOf State.reset k).l1 = [] ∧ (cellOf State.reset k).ic = [] ∧ (cellOf State.reset k).utlb = [] ∧ (cellOf State.reset k).regq = []
        ∧ (cellOf State.reset k).wideq = [])
    ∧ (∀ d x, (dieOf State.reset d).colret.getLsbD x = (decide (36 ≤ x) && decide (x < 38)))
    ∧ (∀ d k, NMap.get false (dieOf State.reset d).cellret k = false)
    ∧ (∀ k, sreg State.reset.cur k = 0) ∧ (∀ n l, vreg State.reset.cur n l = 0) ∧ State.reset.cur.r.stack = []
    ∧ State.reset.cur.compact = false ∧ State.reset.cur.force = .free)
  ∧ (Memory.wf State.reset.mem)

/-- Every step keeps memory in its canonical form, whatever state it starts from. -/
def Obligations.StepKeepsMemoryCanonical : Prop := ∀ s t, Memory.wf s.mem → step s = .next t → Memory.wf t.mem

namespace Sys2Proof.Claims

/-! ## Vectors (R46, R87 to R92, R135 to R160) -/

/-- The team but its place, stall marks, vector registers, FPFLAGS and DEADSRC. -/
def beyondVectors (t : Team) : Team :=
  { beyondPlace t with fl := 0, deadsrc := false, r := { t.r with v := [], vpois := [], vlat := [], vown := [], vbad := [] }
                       sh := t.sh.map (fun h => { h with v := [], vpois := [], vlat := [], vown := [], vbad := [] }) }

/-- The lanes of exec(p) (R20, R45). -/
def acts (t : Team) (p l : Nat) : Bool := activeIn t (mreg t 0) l && (p == 0 || (mreg t p).getLsbD l)

/-- The register word that lane l reads through a pattern, or none where the pattern names none or a dead lane (R46). -/
def readp (t : Team) (n l pat k : Nat) : Option Nat :=
  let b := l - l % t.group
  let i := l % t.group
  let j : Option Nat := match pat with
    | 0 => some i
    | 1 => some ((i + k) % t.group)
    | 2 => some k
    | 3 => some (i ^^^ k)
    | 4 => some (t.group - 1 - i)
    | 5 => if t.group ≤ i + k then none else some (i + k)
    | _ => none
  j.bind (fun j => if t.dead.getLsbD (b + j) then none else some (1024 * n + (b + j)))

/-- What a lane rule writes: the predicate, the sources it reads through patterns, whether the destination is a pair, the
destination, each lane's value and flags. -/
structure LaneRule where
  pred : Nat
  srcs : List SrcF
  wide : Bool
  vd   : Nat
  val  : Nat → DWord
  fl   : Nat → Fl := fun _ => 0

/-- The bounds of an integer type's range and its clamp (R48). -/
def signedTy (ty : Nat) : Bool := ty == 0 || ty == 4
def width (ty : Nat) : Nat := if ty = 3 ∨ ty = 4 ∨ ty = 5 then 64 else 32
def low (ty : Nat) : Int := if signedTy ty then -(2 ^ (width ty - 1)) else 0
def high (ty : Nat) : Int := if signedTy ty then 2 ^ (width ty - 1) - 1 else 2 ^ width ty - 1
def clamp (ty : Nat) (x : Int) : Int := max (low ty) (min (high ty) x)

/-- The number that a source gives lane l under the type's signedness. -/
def numA (t : Team) (f : VR) (l : Nat) : Int := intVal f.ty.toNat (readOp t f.ty.toNat (srcF f.a) l)
def numB (t : Team) (f : VR) (l : Nat) : Int := intVal f.ty.toNat (readOp t f.ty.toNat (srcF f.b) l)
/-- The bits that a source gives lane l. -/
def rawA (t : Team) (f : VR) (l : Nat) : DWord := readOp t f.ty.toNat (srcF f.a) l
def rawB (t : Team) (f : VR) (l : Nat) : DWord := readOp t f.ty.toNat (srcF f.b) l

def vrRule (f : VR) (two : Bool) (val : Nat → DWord) : Option LaneRule :=
  some { pred := f.pred.toNat, srcs := srcF f.a :: (if two then [srcF f.b] else []), wide := width f.ty.toNat == 64, vd := f.vd.toNat, val := val }
def intRule (t : Team) (f : VR) (op : Int → Int → Int) : Option LaneRule :=
  vrRule f true (fun l => let x := op (numA t f l) (numB t f l); wrap 64 (if f.satna then clamp f.ty.toNat x else x))
def rawRule (t : Team) (f : VR) (op : DWord → DWord → DWord) : Option LaneRule := vrRule f true (fun l => op (rawA t f l) (rawB t f l))
def countRule (t : Team) (f : VR) (op : Nat → DWord → Nat) : Option LaneRule :=
  vrRule f false (fun l => BitVec.ofNat 64 (op (width f.ty.toNat) (rawA t f l)))
/-- The three words of a VF integer instruction. -/
def vfWords (t : Team) (f : VF) (l : Nat) : Word × Word × Word :=
  (readOp32 t (vfType f.ty.toNat) (srcF f.a) l, readOp32 t (vfType f.ty.toNat) (srcF f.b) l, readOp32 t (vfType f.ty.toNat) (srcFC f.c) l)
def vfRule (t : Team) (f : VF) (op : Word → Word → Word → Word) : Option LaneRule :=
  some { pred := 0, srcs := [srcF f.a, srcF f.b, srcFC f.c], wide := ty64 (vfType f.ty.toNat), vd := f.vd.toNat
         val := fun l => let (a, b, c) := vfWords t f l; (op a b c).setWidth 64 }

def rule32 (pred : Nat) (srcs : List SrcF) (vd : Nat) (val : Nat → DWord) : Option LaneRule :=
  some { pred := pred, srcs := srcs, wide := false, vd := vd, val := val }

/-- The packings of `v.pk`, d the old content (R152). -/
def packed (mode a b d : Nat) : Nat :=
  match mode with
  | 0 => b % 2 ^ 16 * 2 ^ 16 + a % 2 ^ 16
  | 1 => d / 2 ^ 16 * 2 ^ 16 + b % 2 ^ 8 * 2 ^ 8 + a % 2 ^ 8
  | _ => b % 2 ^ 8 * 2 ^ 24 + a % 2 ^ 8 * 2 ^ 16 + d % 2 ^ 16

/-- Byte k of a word, signed where the type is i32 (R152). -/
def byteOf (signed : Bool) (x : Word) (k : Nat) : Int :=
  let y : Nat := x.toNat / 2 ^ (8 * k) % 2 ^ 8
  if signed && decide (128 ≤ y) then (y : Int) - 256 else y

/-- d ± (popc(a and b) << H), saturated where the bit says so (R154). -/
def planeSum (f : VR) (both d : Word) : DWord :=
  let n : Int := (((List.range 32).countP (fun i => both.getLsbD i) * 2 ^ f.mod.toNat : Nat) : Int)
  let x := d.toInt + (if f.nb then -n else n)
  wrap 64 (if f.satna then clamp 0 x else x)

/-- Offset and width of a vector bit field, reduced to fit (R142). -/
def fit (o w : Nat) : Nat := min (min w 32) (32 - o)

/-- The lane rules of the integer, logic, shift, bit-field, move and select instructions (R129, R139 to R143, R152, R154). -/
def laneRule (t : Team) : Instr → Option LaneRule
  | .vAdd f => intRule t f (· + ·)
  | .vSub f => intRule t f (· - ·)
  | .vMul f => intRule t f (· * ·)
  | .vMulh f => vrRule f true (fun l => wrap 64 (numA t f l * numB t f l / 2 ^ width f.ty.toNat))
  | .vMin f => vrRule f true (fun l => wrap 64 (min (numA t f l) (numB t f l)))
  | .vMax f => vrRule f true (fun l => wrap 64 (max (numA t f l) (numB t f l)))
  | .vAbs f => vrRule f false (fun l =>
      let x : Int := if numA t f l < 0 then -(numA t f l) else numA t f l
      wrap 64 (if f.satna then clamp f.ty.toNat x else x))
  | .vMad f => vfRule t f (fun a b c => BitVec.ofNat 32 (a.toNat * b.toNat + c.toNat))
  | .vAnd f => rawRule t f (· &&& ·)
  | .vOr f => rawRule t f (· ||| ·)
  | .vXor f => rawRule t f (· ^^^ ·)
  | .vAndn f => rawRule t f (fun a b => a &&& ~~~ b)
  | .vShl f => rawRule t f (fun a b => BitVec.ofNat 64 (a.toNat * 2 ^ (b.toNat % width f.ty.toNat)))
  | .vShr f => rawRule t f (fun a b => BitVec.ofNat 64 (a.toNat / 2 ^ (b.toNat % width f.ty.toNat)))
  | .vSra f => rawRule t f (fun a b =>
      let x : Int := if width f.ty.toNat = 64 then a.toInt else (a.setWidth 32).toInt
      wrap 64 (x / 2 ^ (b.toNat % width f.ty.toNat)))
  | .vClz f => countRule t f (fun n a => ((List.range n).takeWhile (fun i => !a.getLsbD (n - 1 - i))).length)
  | .vPopc f => countRule t f (fun n a => (List.range n).countP (fun i => a.getLsbD i))
  | .vBrev f => countRule t f (fun n a => ((List.range n).map (fun i => if a.getLsbD (n - 1 - i) then 2 ^ i else 0)).sum)
  | .vBfe f => vfRule t f (fun a b c =>
      let o := b.toNat % 32
      let w := fit o (c.toNat % 64)
      let x : Nat := a.toNat / 2 ^ o % 2 ^ w
      wrap 32 (if f.ty = 4 ∧ 0 < w ∧ 2 ^ (w - 1) ≤ x then (x : Int) - 2 ^ w else x))
  | .vBfi f => vfRule t f (fun a b c =>
      let o := c.toNat % 32
      let mk : Word := BitVec.ofNat 32 ((2 ^ fit o (c.toNat / 2 ^ 8 % 64) - 1) * 2 ^ o)
      (b &&& ~~~ mk) ||| ((a <<< o) &&& mk))
  | .vMov f => vrRule f false (fun l => if f.satna then invertSign f.ty.toNat (rawA t f l) else rawA t f l)
  | .vLi f =>
    let x : Nat := (srcVal f.a) * 2 ^ 16 + srcVal f.b
    some { pred := f.pred.toNat, srcs := [], wide := width f.ty.toNat == 64, vd := f.vd.toNat
           val := fun _ => if f.ty = 4 then (BitVec.ofNat 32 x).signExtend 64 else BitVec.ofNat 64 (x % 2 ^ 32) }
  | .vLane f => some { pred := f.pred.toNat, srcs := [], wide := false, vd := f.vd.toNat, val := fun l => BitVec.ofNat 64 l }
  | .mTo f => some { pred := f.pred.toNat, srcs := [], wide := false, vd := f.vd.toNat
                     val := fun l => if (mreg t (f.a.reg.toNat % 8)).getLsbD l then 1 else 0 }
  | .vSel f => some { pred := f.pred.toNat, srcs := [srcF f.a, srcF f.b], wide := width f.ty.toNat == 64, vd := f.vd.toNat
                      val := fun l => if (mreg t (f.mod.toNat % 8)).getLsbD l then rawA t f l else rawB t f l }
  | .vPk f => rule32 f.pred.toNat [srcF f.a, srcF f.b] f.vd.toNat (fun l => BitVec.ofNat 64 (packed f.mod.toNat
      (readOp32 t 0 (srcF f.a) l).toNat (readOp32 t 0 (srcF f.b) l).toNat (vreg t f.vd.toNat l).toNat))
  | .vDot4 f => vfRule t f (fun a b c =>
      let p (k : Nat) : Int := byteOf (f.ty == 4) a k * byteOf (f.ty == 4) b k
      wrap 32 ((c.toNat : Int) + p 0 + p 1 + p 2 + p 3))
  | .vBpand f => rule32 f.pred.toNat [srcF f.a, srcF f.b] f.vd.toNat (fun l =>
      planeSum f (readOp32 t 0 (srcF f.a) l &&& readOp32 t 0 (srcF f.b) l) (vreg t f.vd.toNat l))
  | _ => none

/-- A float operand's elements, the sign inverted where the bit selects it (R53, R86), and each element's value, flushed under
FTZ (R60). -/
def elemsA (t : Team) (f : VR) (l : Nat) : List Nat := fElems t f.ty.toNat (srcF f.a) f.satna l
def elemsB (t : Team) (f : VR) (l : Nat) : List Nat := fElems t f.ty.toNat (srcF f.b) f.nb l
def valueIn (t : Team) (f : VR) (x : Nat) : FV := srcFV t (tyFmt f.ty.toNat) x

def floatRule (f : VR) (two : Bool) (h : Nat → List (Nat × Fl)) : Option LaneRule :=
  some { pred := f.pred.toNat, srcs := srcF f.a :: (if two then [srcF f.b] else []), wide := width f.ty.toNat == 64, vd := f.vd.toNat
         val := fun l => packElems ((h l).map (·.1)), fl := fun l => ((h l).map (·.2)).foldl (· ||| ·) 0 }
/-- Element by element over two sources, over one. -/
def floatTwo (t : Team) (f : VR) (op : Nat → Nat → Nat × Fl) : Option LaneRule :=
  floatRule f true (fun l => (elemsA t f l).zipWith op (elemsB t f l))
def floatOne (t : Team) (f : VR) (op : Nat → Nat × Fl) : Option LaneRule := floatRule f false (fun l => (elemsA t f l).map op)

/-- An approximate function's delivered element (R147, R149): the exact cases, else the value that the implementation's fixed
function gives, which nothing here constrains beyond its bound (log 6). -/
def approximate (t : Team) (f : VR) (fn : Nat) : Option LaneRule :=
  floatOne t f (fun x => approxElem fn (tyFmt f.ty.toNat) (ftzOf t (tyFmt f.ty.toNat)) x (valueIn t f x))

/-- The lane rules of the float instructions (R144, R145, R147, R150 to R153). -/
def floatLaneRule (t : Team) : Instr → Option LaneRule
  | .vFadd f => floatTwo t f (fun x y => fAdd (tyFmt f.ty.toNat) (rmode t f.mod.toNat) (ftzOf t (tyFmt f.ty.toNat)) (valueIn t f x) (valueIn t f y))
  | .vFmul f => floatTwo t f (fun x y => fMul (tyFmt f.ty.toNat) (rmode t f.mod.toNat) (ftzOf t (tyFmt f.ty.toNat)) (valueIn t f x) (valueIn t f y))
  | .vFmin f => floatTwo t f (fun x y => fMinMax (tyFmt f.ty.toNat) false x y (valueIn t f x) (valueIn t f y))
  | .vFmax f => floatTwo t f (fun x y => fMinMax (tyFmt f.ty.toNat) true x y (valueIn t f x) (valueIn t f y))
  | .vFma f =>
    let ty := vfType f.ty.toNat
    let v (s : SrcF) (l i : Nat) : FV := srcFV t (tyFmt ty) ((fElems t ty s false l).getD i 0)
    let h (l : Nat) : List (Nat × Fl) := (List.range (fElems t ty (srcF f.a) false l).length).map (fun i =>
      fFma (tyFmt ty) t.rm.toNat (ftzOf t (tyFmt ty)) (v (srcF f.a) l i) (v (srcF f.b) l i) (v (srcFC f.c) l i))
    some { pred := 0, srcs := [srcF f.a, srcF f.b, srcFC f.c], wide := ty64 ty, vd := f.vd.toNat
           val := fun l => packElems ((h l).map (·.1)), fl := fun l => ((h l).map (·.2)).foldl (· ||| ·) 0 }
  | .vFrnd f => floatOne t f (fun x => fRnd (tyFmt f.ty.toNat) (rmode t f.mod.toNat) (ftzOf t (tyFmt f.ty.toNat)) x (valueIn t f x))
  | .vFsqrt f => floatOne t f (fun x => fSqrt (tyFmt f.ty.toNat) (rmode t f.mod.toNat) (ftzOf t (tyFmt f.ty.toNat)) (valueIn t f x))
  | .vFrcp f => approximate t f 0
  | .vFrsq f => approximate t f 1
  | .vExp2 f => approximate t f 2
  | .vLog2 f => approximate t f 3
  | .vSin f => approximate t f 4
  | .vCos f => approximate t f 5
  | .vTanh f => approximate t f 6
  | .vFclass f => floatOne t f (fun x => (fClass (tyFmt f.ty.toNat) (valueIn t f x), 0))
  | .vFexp f => floatOne t f (fun x =>
      ((wrap (tyFmt f.ty.toNat).bits (fExp (tyFmt f.ty.toNat).bits (valueIn t f x))).toNat, 0))
  | .vFscale f => floatRule f true (fun l => (List.range (elemsA t f l).length).map (fun i =>
      fScale (tyFmt f.ty.toNat) (rmode t f.mod.toNat) (ftzOf t (tyFmt f.ty.toNat)) (valueIn t f ((elemsA t f l).getD i 0))
        (if (tyFmt f.ty.toNat).bits = 16 then ((rawB t f l).extractLsb' (16 * i) 16).toInt else ((rawB t f l).extractLsb' 0 32).toInt)))
  | .vCvt f =>
    let fr := cvtFrom f
    let h (l : Nat) : Nat × Fl := convert fr (cvtTo f) (rmode t f.mod.toNat) t.ftz f.satna
      ((readOp t (cvtReadTy fr) (srcF f.a) l).toNat / 2 ^ (cvtSel f * cvtBits fr))
    some { pred := f.pred.toNat, srcs := [srcF f.a], wide := cvtBits (cvtTo f) == 64, vd := f.vd.toNat
           val := fun l => BitVec.ofNat 64 (h l).1, fl := fun l => (h l).2 }
  | .vDot2 f =>
    let ty := vfType f.ty.toNat
    let h (l : Nat) : Nat × Fl := dot2 (tyFmt ty) t.rm.toNat (fElems t ty (srcF f.a) false l) (fElems t ty (srcF f.b) false l)
      (readOp32 t 2 (srcFC f.c) l).toNat
    some { pred := 0, srcs := [srcF f.a, srcF f.b, srcFC f.c], wide := ty64 ty, vd := f.vd.toNat
           val := fun l => BitVec.ofNat 64 (h l).1, fl := fun l => (h l).2 }
  | .vMxd f =>
    let el := mxElem (f.mod.toNat % 8)
    let h (l : Nat) : Nat × Fl :=
      let (v, nv) := scaled (el.value ((readOp32 t 2 (srcF f.a) l).toNat % 2 ^ el.bits))
        (scaleVal (f.mod.getLsbD 3) ((readOp32 t 2 (srcF f.b) l).toNat % 256))
      let (x, fl) := fmtF32.ofValue t.rm.toNat t.ftz v
      (x, fl ||| flIf nv flNV)
    some { pred := f.pred.toNat, srcs := [srcF f.a, srcF f.b], wide := false, vd := f.vd.toNat
           val := fun l => BitVec.ofNat 64 (h l).1, fl := fun l => (h l).2 }
  | _ => none

/-- The lanes below W on which a rule acts. -/
def actsOn (t : Team) (p : Nat) : List Nat := (List.range t.width).filter (acts t p)

/-- A lane rule's writes (R22, R26, R135): each lane of exec(pred) holds its value in vd, a pair in vd and vd + 1, computed from
the registers before; other lanes and other registers keep theirs; the lanes' flags are raised (R41). -/
def LaneWrites (s t : State) (r : LaneRule) : Prop :=
  (∀ l, l < 1024 → acts s.cur r.pred l = true →
    vreg t.cur r.vd l = BitVec.ofNat 32 (r.val l).toNat ∧ (r.wide = true → vreg t.cur (r.vd + 1) l = BitVec.ofNat 32 ((r.val l).toNat / 2 ^ 32)))
  ∧ (∀ n l, l < 1024 → (acts s.cur r.pred l = false ∨ (n ≠ r.vd ∧ ¬(r.wide = true ∧ n = r.vd + 1))) → vreg t.cur n l = vreg s.cur n l)
  ∧ t.cur.fl = ((actsOn s.cur r.pred).map r.fl).foldl (· ||| ·) s.cur.fl

/-- A lane rule's outcome: its writes, and DEADSRC set where a lane's pattern read meets a dead lane (R46). -/
def LaneOutcome (s t : State) (r : LaneRule) : Prop :=
  LaneWrites s t r ∧ t.cur.deadsrc = (s.cur.deadsrc || r.srcs.any (fun x => (actsOn s.cur r.pred).any (readsDead s.cur x)))

/-- One copy of a protected team as a team of its own (R372). -/
def copyOf (t : Team) (h : Regs) : Team := { t with r := h, sh := none }

/-- The second copy of a protected team writes the same rule's results, computed from its own registers under its own masks (R372). -/
def CopyWrites (rule : Team → Instr → Option LaneRule) (i : Instr) (s t : State) : Prop := ∀ h, s.cur.sh = some h → ∃ h' r, t.cur.sh = some h'
  ∧ rule (copyOf s.cur h) i = some r
  ∧ (∀ l, l < 1024 → acts (copyOf s.cur h) r.pred l = true → h'.vget r.vd l = BitVec.ofNat 32 (r.val l).toNat
      ∧ (r.wide = true → h'.vget (r.vd + 1) l = BitVec.ofNat 32 ((r.val l).toNat / 2 ^ 32)))
  ∧ (∀ n l, l < 1024 → (acts (copyOf s.cur h) r.pred l = false ∨ (n ≠ r.vd ∧ ¬(r.wide = true ∧ n = r.vd + 1))) → h'.vget n l = h.vget n l)

/-- The mask bit that a compare, or `m.from`, gives a lane, with its flags (R129, R141, R146). -/
def maskRule (t : Team) : Instr → Option (Nat × Nat × List SrcF × (Nat → Bool × Fl))
  | .vCmp f => some (f.pred.toNat, f.vd.toNat % 8, [srcF f.a, srcF f.b], fun l =>
      let a := numA t f l
      let b := numB t f l
      (match f.mod.toNat with
        | 0 => decide (a = b)
        | 1 => decide (a ≠ b)
        | 2 => decide (a < b)
        | 3 => decide (a ≤ b)
        | 4 => decide (a > b)
        | _ => decide (a ≥ b), 0))
  | .vFcmp f => some (f.pred.toNat, f.vd.toNat % 8, [srcF f.a, srcF f.b], fun l =>
      fCmp f.mod.toNat (valueIn t f ((elemsA t f l).getD 0 0)) (valueIn t f ((elemsB t f l).getD 0 0)))
  | .mFrom f => some (f.pred.toNat, f.vd.toNat % 8, [srcF f.a], fun l => (decide (readOp32 t 0 (srcF f.a) l ≠ 0), 0))
  | _ => none

end Sys2Proof.Claims

/-- R46, R87 to R89: what a lane reads of a 32-bit source. A pattern names a lane of the group; past the end of `sh`, and at a dead
lane, the read gives zero; an inline constant and a scalar give every lane the same word. -/
def Obligations.OperandReads : Prop := ∀ t ty (f : SrcF) l,
  (f.pat < 6 → readOp32 t ty f l = (match readp t f.reg l f.pat f.k with
    | some key => NMap.get 0 t.r.v key
    | none => 0))
  ∧ (f.pat = 7 → readOp32 t ty f l = BitVec.ofNat 32 ((sreg t (f.reg % 64)).toNat / 2 ^ (32 * (f.k % 2))))
  ∧ (f.pat = 6 → ty = 2 → f.n = 13 → readOp32 t ty f l = BitVec.ofNat 32 ((f.reg * 64 + f.k) * 2 ^ 19))
  ∧ (f.pat = 6 → ty = 0 ∨ ty = 1 → f.n = 13 → f.reg < 128 → f.k < 64 → readOp32 t ty f l
      = wrap 32 (if f.reg < 64 then ((f.reg * 64 + f.k : Nat) : Int) else ((f.reg * 64 + f.k : Nat) : Int) - 2 ^ 13))

/-- R139 to R143, R129, R152, R154: the lane-wise integer, logic, shift, bit-field, select, pack and move instructions. Scalars, masks, the
stack, tiles, flags of completion, special registers, memory and everything outside the team stay. The second copy of a protected team is written too (R372). -/
def Obligations.VectorIntegerResults : Prop := ∀ i s c r, Issues i s c → CleanVectors s.cur → s.cur.dying = [] →
  laneRule s.cur i = some r → Completes i s (fun t => LaneOutcome s t r ∧ CopyWrites laneRule i s t ∧ GoesOn c s.cur t.cur
    ∧ beyondVectors t.cur = beyondVectors s.cur ∧ others t = others s ∧ SameBytes s t)

/-- R144, R145, R147, R149 to R153: the lane-wise float instructions. What the approximate functions give inside their bounds is the
implementation's (log 6). The frame and the second copy are those of the integer instructions; what each of the functions gives is stated apart from the model's
helpers in RoundingModes and ApproximationBounds. -/
def Obligations.VectorFloatResults : Prop := ∀ i s c r, Issues i s c → CleanVectors s.cur → s.cur.dying = [] →
  floatLaneRule s.cur i = some r → Completes i s (fun t => LaneOutcome s t r ∧ CopyWrites floatLaneRule i s t ∧ GoesOn c s.cur t.cur
    ∧ beyondVectors t.cur = beyondVectors s.cur ∧ others t = others s ∧ SameBytes s t)

/-- R141, R146, R129: compares and `m.from` write the bits of exec(PRED) in md and keep the others; md = m0 traps (R20). -/
def Obligations.VectorMaskResults : Prop := ∀ i s c p d srcs g, Issues i s c → maskRule s.cur i = some (p, d, srcs, g) →
  (d = 0 → exec i s = .next (takeTrap s (c.hdr + 8 * (c.idx + 1)) { cause := 3, detail := 4 } .instr))
  ∧ (d ≠ 0 → CleanVectors s.cur → s.cur.dying = [] → Completes i s (fun t =>
      (∀ l, l < 1024 → l < s.cur.width → (mreg t.cur d).getLsbD l = if acts s.cur p l then (g l).1 else (mreg s.cur d).getLsbD l)
      ∧ (∀ k, k ≠ d → mreg t.cur k = mreg s.cur k)
      ∧ t.cur.fl = ((actsOn s.cur p).map (fun l => (g l).2)).foldl (· ||| ·) s.cur.fl
      ∧ (∀ n l, vreg t.cur n l = vreg s.cur n l) ∧ (∀ k, sreg t.cur k = sreg s.cur k) ∧ GoesOn c s.cur t.cur
      ∧ others t = others s ∧ SameBytes s t))

namespace Sys2Proof.Claims

/-! ## Exact values, rounding and the arithmetic on them (R50 to R61, R144, R147, R151), in real numbers -/

/-- R54, R55: r is the multiple of 2^k that the mode selects for x. -/
def Selects (mode : Nat) (k : Int) (x r : ℝ) : Prop :=
  ∃ q : Int, r = q * (2 : ℝ) ^ k ∧ match mode with
    | 0 => |2 * (x - r)| ≤ (2 : ℝ) ^ k ∧ (|2 * (x - r)| = (2 : ℝ) ^ k → q % 2 = 0)
    | 1 => |r| ≤ |x| ∧ |x| < |r| + (2 : ℝ) ^ k ∧ 0 ≤ r * x
    | 2 => x ≤ r ∧ r < x + (2 : ℝ) ^ k
    | _ => r ≤ x ∧ x < r + (2 : ℝ) ^ k

/-- R50: y encodes r with the sign, by its exponent field and its significand field. -/
def Encodes (F : Fmt) (y : Nat) (neg : Bool) (r : ℝ) : Prop :=
  ∃ ef mf : Nat, ef < 2 ^ F.e ∧ mf < 2 ^ F.m ∧ y = (if neg then 2 ^ (F.e + F.m) else 0) + ef * 2 ^ F.m + mf
    ∧ |r| = (if ef = 0 then (mf : ℝ) * (2 : ℝ) ^ (1 - F.bias - (F.m : Int)) else ((2 : ℝ) ^ F.m + mf) * (2 : ℝ) ^ ((ef : Int) - F.bias - (F.m : Int)))
    ∧ (neg = true → r ≤ 0) ∧ (neg = false → 0 ≤ r)

/-- A value is the real number x. -/
def Denotes (v : FV) (x : ℝ) : Prop := ∃ s m e, v = .fin s m e ∧ x = (if s then (-1 : ℝ) else 1) * (m * (2 : ℝ) ^ e)

/-- The sign of x. -/
def SignOf (neg : Bool) (x : ℝ) : Prop := (neg = true → x < 0) ∧ (neg = false → 0 < x)

/-- R55, R56, R60, R61: y is the encoding and the flags of round_to(x, F, mode), x not zero: r is the member of P that the mode
selects, u the one of an unbounded exponent range. -/
def RoundsTo (F : Fmt) (mode : Nat) (ftz : Bool) (x : ℝ) (y : Nat × Fl) : Prop :=
  ∃ r u top neg, SignOf neg x ∧ Encodes F F.max false top
    ∧ Selects mode (max (Int.log 2 |x| - F.m) (1 - F.bias - F.m)) x r ∧ Selects mode (Int.log 2 |x| - F.m) x u
    ∧ (top < |r| → y = ((if neg then 2 ^ (F.e + F.m) else 0)
        + (if F.inf = true ∧ (mode = 0 ∨ (mode = 2 ∧ neg = false) ∨ (mode = 3 ∧ neg = true)) then (2 ^ F.e - 1) * 2 ^ F.m else F.max), flOF ||| flNX))
    ∧ (|r| ≤ top → ftz = true → r ≠ 0 → |r| < (2 : ℝ) ^ (1 - F.bias) → y = ((if neg then 2 ^ (F.e + F.m) else 0), flUF ||| flNX))
    ∧ (|r| ≤ top → (ftz = false ∨ r = 0 ∨ (2 : ℝ) ^ (1 - F.bias) ≤ |r|) → Encodes F y.1 neg r
        ∧ ∃ nx uf : Bool, y.2 = flIf nx flNX ||| flIf uf flUF ∧ (nx = true ↔ r ≠ x) ∧ (uf = true ↔ r ≠ x ∧ |u| < (2 : ℝ) ^ (1 - F.bias)))

/-- The signed zero, the infinity, and the canonical NaN with NV or no flag. -/
def zeroOf (F : Fmt) (neg : Bool) : Nat × Fl := (if neg then 2 ^ (F.e + F.m) else 0, 0)
def infOf (F : Fmt) (neg : Bool) : Nat × Fl := ((if neg then 2 ^ (F.e + F.m) else 0) + (2 ^ F.e - 1) * 2 ^ F.m, 0)
def nanOf (F : Fmt) (nv : Bool) : Nat × Fl := (F.nanBits, if nv then flNV else 0)

/-- R50 to R52: the formats with their parameters, and the value of each encoding. -/
def EncodingValues : Prop :=
  (∀ e : Fmt × Nat × Nat × Int × Nat, e ∈ [(fmtF64, 11, 52, 1023, 0x7FEFFFFFFFFFFFFF), (fmtF32, 8, 23, 127, 0x7F7FFFFF), (fmtF16, 5, 10, 15, 0x7BFF), (fmtBF16, 8, 7, 127, 0x7F7F),
      (fmtE5M2, 5, 2, 15, 0x7B), (fmtE4M3, 4, 3, 7, 0x7E), (fmtE3M2, 3, 2, 3, 0x1F), (fmtE2M3, 2, 3, 1, 0x1F), (fmtE2M1, 2, 1, 1, 0x7)] →
    (e.1.e, e.1.m, e.1.bias, e.1.max) = e.2
    ∧ ∀ c, c < 2 ^ (e.1.e + e.1.m + 1) → let neg := decide (2 ^ (e.1.e + e.1.m) ≤ c); let a := c % 2 ^ (e.1.e + e.1.m)
      (a ≤ e.1.max → e.1.value c ≠ .nan true ∧ ∃ x, Denotes (e.1.value c) x ∧ Encodes e.1 c neg x ∧ (e.1.value c).neg? = neg))
  ∧ (∀ e : Fmt × Nat, e ∈ [(fmtF64, 0x7FF8000000000000), (fmtF32, 0x7FC00000), (fmtF16, 0x7E00), (fmtBF16, 0x7FC0), (fmtE5M2, 0x7E)] → e.1.nanBits = e.2 ∧ e.1.inf = true ∧ e.1.nan = true
      ∧ ∀ c, c < 2 ^ (e.1.e + e.1.m + 1) → let neg := decide (2 ^ (e.1.e + e.1.m) ≤ c); let a := c % 2 ^ (e.1.e + e.1.m); let top := (2 ^ e.1.e - 1) * 2 ^ e.1.m
        (a = top → e.1.value c = .inf neg) ∧ (top < a → e.1.value c = .nan (decide (a < top + 2 ^ (e.1.m - 1)))))
  ∧ fmtE4M3.nanBits = 0x7F ∧ fmtE4M3.inf = false ∧ fmtE4M3.nan = true ∧ fmtE4M3.value 0x7F = .nan false ∧ fmtE4M3.value 0xFF = .nan false
  ∧ (∀ F ∈ [fmtE3M2, fmtE2M3, fmtE2M1], F.inf = false ∧ F.nan = false)

/-- R60: under FTZ a subnormal source reads as a zero of its sign; every other source as itself. -/
def SourceFlush : Prop := ∀ F ∈ [fmtF64, fmtF32, fmtF16, fmtBF16], ∀ (z : Bool) c,
  if z = true ∧ c / 2 ^ F.m % 2 ^ F.e = 0 then ∃ e, flushIn F z (F.value c) = .fin (decide (c / 2 ^ (F.e + F.m) % 2 = 1)) 0 e else flushIn F z (F.value c) = F.value c

/-- R55 to R57, R61: addition. -/
def Additions : Prop := ∀ F ∈ [fmtF64, fmtF32, fmtF16, fmtBF16], ∀ mode, mode < 4 → ∀ (z : Bool) (a b : FV),
  (∀ x y, Denotes a x → Denotes b y →
    (x + y ≠ 0 → RoundsTo F mode z (x + y) (fAdd F mode z a b))
    ∧ (x + y = 0 → (x = 0 ∧ a.neg? = b.neg?) → fAdd F mode z a b = zeroOf F a.neg?)
    ∧ (x + y = 0 → ¬(x = 0 ∧ a.neg? = b.neg?) → fAdd F mode z a b = zeroOf F (mode == 3)))
  ∧ (∀ s x, Denotes b x ∨ b = .inf s → a = .inf s → fAdd F mode z a b = infOf F s ∧ fAdd F mode z b a = infOf F s)
  ∧ (∀ s, a = .inf s → b = .inf (!s) → fAdd F mode z a b = nanOf F true)
  ∧ (a.isNan = true ∨ b.isNan = true → fAdd F mode z a b = nanOf F (a.snan || b.snan))

/-- R55 to R57, R61: multiplication. -/
def Products : Prop := ∀ F ∈ [fmtF64, fmtF32, fmtF16, fmtBF16], ∀ mode, mode < 4 → ∀ (z : Bool) (a b : FV),
  (∀ x y, Denotes a x → Denotes b y →
    (x * y ≠ 0 → RoundsTo F mode z (x * y) (fMul F mode z a b))
    ∧ (x * y = 0 → fMul F mode z a b = zeroOf F (a.neg? != b.neg?)))
  ∧ (∀ s x, Denotes b x → a = .inf s → (x ≠ 0 → fMul F mode z a b = infOf F (s != b.neg?) ∧ fMul F mode z b a = infOf F (s != b.neg?))
      ∧ (x = 0 → fMul F mode z a b = nanOf F true ∧ fMul F mode z b a = nanOf F true))
  ∧ (∀ s u, a = .inf s → b = .inf u → fMul F mode z a b = infOf F (s != u))
  ∧ (a.isNan = true ∨ b.isNan = true → fMul F mode z a b = nanOf F (a.snan || b.snan))

/-- R55 to R57, R61, R144: the fused multiply-add, rounded once. 0 × ∞ is invalid whatever c is. -/
def FusedSums : Prop := ∀ F ∈ [fmtF64, fmtF32, fmtF16, fmtBF16], ∀ mode, mode < 4 → ∀ (z : Bool) (a b c : FV),
  (∀ x y w, Denotes a x → Denotes b y → Denotes c w →
    (x * y + w ≠ 0 → RoundsTo F mode z (x * y + w) (fFma F mode z a b c))
    ∧ (x * y + w = 0 → (w = 0 ∧ (a.neg? != b.neg?) = c.neg?) → fFma F mode z a b c = zeroOf F c.neg?)
    ∧ (x * y + w = 0 → ¬(w = 0 ∧ (a.neg? != b.neg?) = c.neg?) → fFma F mode z a b c = zeroOf F (mode == 3)))
  ∧ (∀ x y s, Denotes a x → Denotes b y → c = .inf s → fFma F mode z a b c = infOf F s)
  ∧ (∀ s y, a = .inf s → (Denotes b y ∧ y ≠ 0 ∨ b = .inf false ∨ b = .inf true) → let p := s != b.neg?
      (∀ w, Denotes c w ∨ c = .inf p → fFma F mode z a b c = infOf F p ∧ fFma F mode z b a c = infOf F p)
      ∧ (c = .inf (!p) → fFma F mode z a b c = nanOf F true ∧ fFma F mode z b a c = nanOf F true)
      ∧ (c.isNan = true → fFma F mode z a b c = nanOf F c.snan ∧ fFma F mode z b a c = nanOf F c.snan))
  ∧ (∀ s y, a = .inf s → Denotes b y → y = 0 → fFma F mode z a b c = nanOf F true ∧ fFma F mode z b a c = nanOf F true)
  ∧ (a.isNan = true ∨ b.isNan = true → fFma F mode z a b c = nanOf F (a.snan || b.snan || c.snan))
  ∧ (∀ x y, Denotes a x → Denotes b y → c.isNan = true → fFma F mode z a b c = nanOf F c.snan)

/-- R147, R149: the square root, correctly rounded; √−0 is −0. -/
def Roots : Prop := ∀ F ∈ [fmtF64, fmtF32, fmtF16, fmtBF16], ∀ mode, mode < 4 → ∀ (z : Bool) n, let a := flushIn F z (F.value n)
  (∀ x, Denotes a x → (0 < x → RoundsTo F mode z (Real.sqrt x) (fSqrt F mode z a)) ∧ (x = 0 → fSqrt F mode z a = zeroOf F a.neg?) ∧ (x < 0 → fSqrt F mode z a = nanOf F true))
  ∧ (a = .inf false → fSqrt F mode z a = infOf F false) ∧ (a = .inf true → fSqrt F mode z a = nanOf F true)
  ∧ (∀ sg, a = .nan sg → fSqrt F mode z a = nanOf F sg)

/-- The formats of a conversion by their codes (R151): float formats, and integers by width and sign. -/
def floatCode (c : Nat) : Option Fmt :=
  match c with | 2 => some fmtF32 | 3 => some fmtF64 | 6 => some fmtF16 | 7 => some fmtBF16 | 8 => some fmtE4M3 | 9 => some fmtE5M2 | _ => none
def intCode (c : Nat) : Option (Nat × Bool) :=
  match c with
  | 0 => some (32, true) | 1 => some (32, false) | 4 => some (64, true) | 5 => some (64, false)
  | 10 => some (16, true) | 11 => some (16, false) | 12 => some (8, true) | 13 => some (8, false) | _ => none
def lowOf (w : Nat × Bool) : Int := if w.2 then -(2 ^ (w.1 - 1)) else 0
def highOf (w : Nat × Bool) : Int := if w.2 then 2 ^ (w.1 - 1) - 1 else 2 ^ w.1 - 1
/-- The integer that the low bits hold, and the bits that hold an integer. -/
def intOf (w : Nat × Bool) (x : Nat) : Int := if w.2 && decide (2 ^ (w.1 - 1) ≤ x % 2 ^ w.1) then (x % 2 ^ w.1 : Nat) - 2 ^ w.1 else (x % 2 ^ w.1 : Nat)
def bitsFor (w : Nat × Bool) (i : Int) : Nat := (i % 2 ^ w.1).toNat

/-- R58, R59, R60, R151: the conversions between float formats and integers. -/
def Conversions : Prop := ∀ fr dst mode (ftz sat : Bool) x, mode < 4 →
  let y := convert fr dst mode ftz sat x
  (∀ F G, floatCode fr = some F → floatCode dst = some G → x < 2 ^ (F.e + F.m + 1) → let v := flushIn F (ftz && fr == 2) (F.value x)
    (∀ r, Denotes v r → (r ≠ 0 → RoundsTo G mode (ftz && dst == 2) r y) ∧ (r = 0 → y = zeroOf G v.neg?))
    ∧ (∀ s, v = .inf s → y = if G.inf = true then infOf G s else ((if s then 2 ^ (G.e + G.m) else 0) + G.max, flNV))
    ∧ (∀ sg, v = .nan sg → y = nanOf G sg))
  ∧ (∀ F w, floatCode fr = some F → intCode dst = some w → x < 2 ^ (F.e + F.m + 1) → let v := flushIn F (ftz && fr == 2) (F.value x)
    (∀ r, Denotes v r → ∃ q : Int, Selects mode 0 r q ∧ (q < lowOf w → y = (bitsFor w (lowOf w), flNV)) ∧ (highOf w < q → y = (bitsFor w (highOf w), flNV))
      ∧ (lowOf w ≤ q → q ≤ highOf w → y.1 = bitsFor w q ∧ (r = q → y.2 = 0) ∧ (r ≠ q → y.2 = flNX)))
    ∧ (∀ s, v = .inf s → y = (bitsFor w (if s then lowOf w else highOf w), flNV))
    ∧ (∀ sg, v = .nan sg → y = (0, flNV)))
  ∧ (∀ w G, intCode fr = some w → floatCode dst = some G → (intOf w x = 0 → y = (0, 0)) ∧ (intOf w x ≠ 0 → RoundsTo G mode (ftz && dst == 2) (intOf w x : ℝ) y))
  ∧ (∀ w v, intCode fr = some w → intCode dst = some v → y = (bitsFor v (if sat then max (lowOf v) (min (highOf v) (intOf w x)) else intOf w x), 0))

/-- R147: `v.frnd` gives the integral value to which the mode rounds, with the operand's sign, and raises NV alone. -/
def Integrals : Prop := ∀ F ∈ [fmtF64, fmtF32, fmtF16, fmtBF16], ∀ mode, mode < 4 → ∀ (z : Bool) n, n < 2 ^ (F.e + F.m + 1) → let a := flushIn F z (F.value n)
  (∀ x, Denotes a x → ∃ q : Int, Selects mode 0 x q ∧ Encodes F (fRnd F mode z n a).1 a.neg? q ∧ (fRnd F mode z n a).2 = 0)
  ∧ (∀ s, a = .inf s → fRnd F mode z n a = infOf F s) ∧ (∀ sg, a = .nan sg → fRnd F mode z n a = nanOf F sg)

/-- R145, R60: `v.fmin` and `v.fmax` give one of the operands, unrounded; −0 lies below +0, a NaN gives way to the other operand. -/
def Extremes : Prop := ∀ F ∈ [fmtF64, fmtF32, fmtF16, fmtBF16], ∀ (z : Bool) m n, m < 2 ^ (F.e + F.m + 1) → n < 2 ^ (F.e + F.m + 1) →
  let a := flushIn F z (F.value m); let b := flushIn F z (F.value n)
  let lo := fMinMax F false m n a b; let hi := fMinMax F true m n a b
  let nv := flIf (a.snan || b.snan) flNV
  let is (v : FV) (k : Nat) (y : Nat × Fl) : Prop := y.2 = nv ∧ (Denotes v 0 → y.1 = (zeroOf F v.neg?).1) ∧ (¬Denotes v 0 → y.1 = k)
  let below : Prop := is a m lo ∧ is b n hi
  let above : Prop := is b n lo ∧ is a m hi
  (∀ x y, Denotes a x → Denotes b y → (x < y → below) ∧ (y < x → above) ∧ (x = y → (a.neg? = true ∨ b.neg? = false → below) ∧ (a.neg? = false ∨ b.neg? = true → above)))
  ∧ (∀ y, Denotes b y ∨ b = .inf false → (a = .inf true → below) ∧ (a = .inf false → above))
  ∧ (∀ x, Denotes a x ∨ a = .inf true → (b = .inf false → below) ∧ (b = .inf true → above))
  ∧ (a.isNan = true → b.isNan = false → is b n lo ∧ is b n hi) ∧ (a.isNan = false → b.isNan = true → is a m lo ∧ is a m hi)
  ∧ (a.isNan = true → b.isNan = true → lo = (F.nanBits, nv) ∧ hi = (F.nanBits, nv))

/-- R150: `v.fscale` rounds a × 2^n once; `v.fclass` names the class; `v.fexp` gives floor(log2 |a|). -/
def Inspections : Prop := ∀ F ∈ [fmtF64, fmtF32, fmtF16, fmtBF16], ∀ (z : Bool) c, c < 2 ^ (F.e + F.m + 1) → let a := flushIn F z (F.value c)
  let b := F.e + F.m + 1
  (∀ x, Denotes a x →
    (∀ mode (n : Int), mode < 4 → (x ≠ 0 → RoundsTo F mode z (x * (2 : ℝ) ^ n) (fScale F mode z a n)) ∧ (x = 0 → fScale F mode z a n = zeroOf F a.neg?))
    ∧ (x = 0 → fClass F a = (if a.neg? then 2 ^ 3 else 2 ^ 4) ∧ fExp b a = -(2 ^ (b - 1)))
    ∧ (x ≠ 0 → (|x| < (2 : ℝ) ^ (1 - F.bias) → fClass F a = if a.neg? then 2 ^ 2 else 2 ^ 5) ∧ ((2 : ℝ) ^ (1 - F.bias) ≤ |x| → fClass F a = if a.neg? then 2 ^ 1 else 2 ^ 6)
        ∧ fExp b a = Int.log 2 |x|))
  ∧ (∀ s, a = .inf s → fClass F a = (if s then 2 ^ 0 else 2 ^ 7) ∧ fExp b a = 2 ^ (b - 1) - 1 ∧ ∀ mode n, fScale F mode z a n = infOf F s)
  ∧ (∀ sg, a = .nan sg → fClass F a = (if sg then 2 ^ 8 else 2 ^ 9) ∧ fExp b a = 2 ^ (b - 1) - 1 ∧ ∀ mode n, fScale F mode z a n = nanOf F sg)

/-- R152: `v.dot2` rounds a0 × b0 + a1 × b1 + c to f32 once. -/
def DotSums : Prop := ∀ F ∈ [fmtF16, fmtBF16], ∀ mode, mode < 4 → ∀ a0 a1 b0 b1 c, let y := dot2 F mode [a0, a1] [b0, b1] c
  let v (x : Nat) : FV := F.value x
  let anyNan : Bool := [v a0, v a1, v b0, v b1, fmtF32.value c].any FV.isNan
  (∀ p q r t w, Denotes (v a0) p → Denotes (v b0) q → Denotes (v a1) r → Denotes (v b1) t → Denotes (fmtF32.value c) w → let x := p * q + r * t + w
    (x ≠ 0 → RoundsTo fmtF32 mode false x y)
    ∧ (x = 0 → ¬(p * q = 0 ∧ r * t = 0 ∧ w = 0) → y = zeroOf fmtF32 (mode == 3))
    ∧ (p * q = 0 → r * t = 0 → w = 0 → let n0 := (v a0).neg? != (v b0).neg?; let n1 := (v a1).neg? != (v b1).neg?; let n2 := (fmtF32.value c).neg?
        y = zeroOf fmtF32 (if n0 = n1 ∧ n1 = n2 then n0 else mode == 3)))
  ∧ (anyNan = true → ([v a0, v a1, v b0, v b1] : List FV).any FV.isInf = false → (fmtF32.value c).isInf = false →
      y = nanOf fmtF32 ([v a0, v a1, v b0, v b1, fmtF32.value c].any FV.snan))
  ∧ (anyNan = false → ((v a0).isZero && (v b0).isInf || (v a0).isInf && (v b0).isZero || (v a1).isZero && (v b1).isInf || (v a1).isInf && (v b1).isZero) = true →
      y = nanOf fmtF32 true)
  ∧ (∀ p q r t s, Denotes (v a0) p → Denotes (v b0) q → Denotes (v a1) r → Denotes (v b1) t → fmtF32.value c = .inf s → y = infOf fmtF32 s)

/-- 1 with a sign. -/
def isOne (F : Fmt) (s : Bool) : Nat × Fl := ((if s then 2 ^ (F.e + F.m) else 0) + F.bias.toNat * 2 ^ F.m, 0)

/-- R149: the exact cases of function fn (0 frcp, 1 frsq, 2 exp2, 3 log2, 4 sin, 5 cos, 6 tanh) of a value, with their flags. -/
def ExactCases (F : Fmt) (fn : Nat) (a : FV) (y : Nat × Fl) : Prop :=
  (∀ sg, a = .nan sg → y = nanOf F sg)
  ∧ (∀ s, a = .inf s → y = match fn with
      | 0 => zeroOf F s
      | 1 => if s then nanOf F true else zeroOf F false
      | 2 => if s then zeroOf F false else infOf F false
      | 3 => if s then nanOf F true else infOf F false
      | 4 | 5 => nanOf F true
      | _ => isOne F s)
  ∧ (∀ x, Denotes a x →
    (x = 0 → y = match fn with
      | 0 | 1 => ((infOf F a.neg?).1, flDZ)
      | 2 | 5 => isOne F false
      | 3 => ((infOf F true).1, flDZ)
      | _ => zeroOf F a.neg?)
    ∧ (x < 0 → fn = 1 ∨ fn = 3 → y = nanOf F true)
    ∧ (∀ k : Int, |x| = (2 : ℝ) ^ k →
      (fn = 0 → 1 - F.bias ≤ -k → -k ≤ F.bias → Encodes F y.1 a.neg? (1 / x) ∧ y.2 = 0)
      ∧ (fn = 1 → 0 < x → k % 2 = 0 → Encodes F y.1 false ((2 : ℝ) ^ (-(k / 2))) ∧ y.2 = 0)
      ∧ (fn = 3 → 0 < x → Encodes F y.1 (decide (k < 0)) (k : ℝ) ∧ y.2 = 0))
    ∧ (∀ k : Int, fn = 2 → x = k → x ≠ 0 → 1 - F.bias - F.m ≤ k → k ≤ F.bias → Encodes F y.1 false ((2 : ℝ) ^ k) ∧ y.2 = 0))

/-- The inputs, zeros apart, whose results R149 lists as exact. -/
def Listed (F : Fmt) (fn : Nat) (x : ℝ) : Prop :=
  (fn = 0 ∧ ∃ k : Int, |x| = (2 : ℝ) ^ k ∧ 1 - F.bias ≤ -k ∧ -k ≤ F.bias) ∨ (fn = 1 ∧ ∃ k : Int, x = (2 : ℝ) ^ k ∧ k % 2 = 0)
  ∨ (fn = 2 ∧ ∃ k : Int, x = k ∧ 1 - F.bias - F.m ≤ k ∧ k ≤ F.bias) ∨ (fn = 3 ∧ ∃ k : Int, x = (2 : ℝ) ^ k)

/-- The functions of a format: all seven in f32, two in f64 (R148). -/
def functionOf64 (F : Fmt) (fn : Nat) : Prop := (F = fmtF32 ∧ fn ≤ 6) ∨ (F = fmtF64 ∧ fn ≤ 1)

/-- R147, R149: the exact cases in f32 and f64, the flags of every other result, a subnormal result flushed under FTZ; an element of a packed type rounds an f32 result of which they hold. -/
def ApproximationsExact : Prop :=
  (∀ F fn n, functionOf64 F fn → n < 2 ^ (F.e + F.m + 1) →
    ExactCases F fn (F.value n) (approxElem fn F false n (F.value n))
    ∧ (∀ x, Denotes (F.value n) x → x ≠ 0 → (fn = 1 ∨ fn = 3 → 0 < x) → ¬Listed F fn x →
        let y := approxElem fn F false n (F.value n); let g := y.1 % 2 ^ (F.e + F.m)
        g ≤ (2 ^ F.e - 1) * 2 ^ F.m ∧ y.2 = flNX ||| flIf (g == (2 ^ F.e - 1) * 2 ^ F.m) flOF ||| flIf (decide (g < 2 ^ F.m)) flUF)
    ∧ (∀ a, a = flushIn F true (F.value n) → let y := approxElem fn F false n a; let u := approxElem fn F true n a; let g := y.1 % 2 ^ (F.e + F.m)
        (g = 0 ∨ 2 ^ F.m ≤ g → u = y) ∧ (0 < g → g < 2 ^ F.m → u.1 + g = y.1 ∧ u.2 = y.2 ||| flUF ||| flNX)))
  ∧ (∀ F ∈ [fmtF16, fmtBF16], ∀ fn n, fn ≤ 6 → n < 2 ^ 16 → ∃ y, ExactCases fmtF32 fn (F.value n) y ∧ let u := (approxElem fn F false n (F.value n)).1
      (∀ r, Denotes (fmtF32.value y.1) r → (r ≠ 0 → ∃ fl, RoundsTo F 0 false r (u, fl)) ∧ (r = 0 → u = (zeroOf F (fmtF32.value y.1).neg?).1))
      ∧ (∀ s, fmtF32.value y.1 = .inf s → u = (infOf F s).1) ∧ ((fmtF32.value y.1).isNan = true → u = F.nanBits))

end Sys2Proof.Claims

/-- R50 to R61, R144, R145, R147, R149 to R152: the formats and the value of each encoding; addition, multiplication, the fused multiply-add, the square
root, `v.fscale`, `v.dot2` and the conversions as the exact real result, rounded once by R55 and R56 with the zeros of R57, the special values and the
flags of R58 to R61; `v.frnd`, `v.fmin` and `v.fmax`, `v.fclass` and `v.fexp`; the exact cases of the approximate functions. Beside it the rounding that they share: of a nonnegative significand at its sh-th place, to nearest with ties to
even, toward zero, toward +∞ and toward −∞ by the sign; exact where nothing is cut off. -/
def Obligations.RoundingModes : Prop := (EncodingValues ∧ SourceFlush ∧ Additions ∧ Products ∧ FusedSums ∧ Roots ∧ Conversions ∧ Integrals ∧ Extremes ∧ Inspections
    ∧ DotSums ∧ ApproximationsExact) ∧ ∀ (neg : Bool) (m sh : Nat),
  let q (mode : Nat) : Nat := (roundShift mode neg m sh false).1
  (2 * m ≤ 2 * (q 0 * 2 ^ sh) + 2 ^ sh ∧ 2 * (q 0 * 2 ^ sh) ≤ 2 * m + 2 ^ sh)
  ∧ ((2 * (q 0 * 2 ^ sh) = 2 * m + 2 ^ sh ∨ 2 * m = 2 * (q 0 * 2 ^ sh) + 2 ^ sh) → q 0 % 2 = 0)
  ∧ (q 1 * 2 ^ sh ≤ m ∧ m < (q 1 + 1) * 2 ^ sh)
  ∧ (neg = false → (m ≤ q 2 * 2 ^ sh ∧ q 2 * 2 ^ sh < m + 2 ^ sh) ∧ (q 3 * 2 ^ sh ≤ m ∧ m < (q 3 + 1) * 2 ^ sh))
  ∧ (neg = true → (m ≤ q 3 * 2 ^ sh ∧ q 3 * 2 ^ sh < m + 2 ^ sh) ∧ (q 2 * 2 ^ sh ≤ m ∧ m < (q 2 + 1) * 2 ^ sh))
  ∧ ∀ mode, (roundShift mode neg m sh false).2 = decide (2 ^ sh ∣ m)

namespace Sys2Proof.Claims

/-- The exact result of an approximate function (R147). -/
def Gives (fn : Nat) (x v : ℝ) : Prop :=
  match fn with
  | 0 => v = 1 / x
  | 1 => v = 1 / Real.sqrt x
  | 2 => v = (2 : ℝ) ^ x
  | 3 => v = Real.logb 2 x
  | 4 => v = Real.sin x
  | 5 => v = Real.cos x
  | _ => v = Real.tanh x

/-- R148: w lies within the bound of the exact result v, widened by one part in 2^40 (log 6). -/
def WithinBound (F : Fmt) (fn : Nat) (x v w : ℝ) : Prop :=
  let room : ℝ := 1 + (2 : ℝ) ^ (-40 : Int)
  let ulp : ℝ := (2 : ℝ) ^ (max (Int.log 2 |v|) (1 - F.bias) - F.m)
  if F = fmtF64 then |w - v| < room * |v| * (2 : ℝ) ^ (-28 : Int)
  else match fn with
    | 0 => |w - v| ≤ room * ulp
    | 3 => (1 / 2 ≤ x ∧ x ≤ 2 → |w - v| ≤ room * (2 : ℝ) ^ (-22 : Int)) ∧ (x < 1 / 2 ∨ 2 < x → |w - v| ≤ room * (2 * ulp))
    | 4 | 5 => |w - v| ≤ room * (2 : ℝ) ^ (-21 : Int)
    | _ => |w - v| ≤ room * (2 * ulp)

end Sys2Proof.Claims

/-- R148: every finite result of an approximate function of a finite, nonzero input in its domain lies within the bound that the spec states, in units of the exact real result's last place.
The model decides the bound by a reference value, whose own error the statement allows for by one part in 2^40 (log 6: the model's choice). -/
def Obligations.ApproximationBounds : Prop := ∀ F fn n x v, functionOf64 F fn → n < 2 ^ (F.e + F.m + 1) → Denotes (F.value n) x → x ≠ 0 → (fn = 1 ∨ fn = 3 → 0 < x) →
  Gives fn x v → ∀ w, Denotes (F.value (approxElem fn F false n (F.value n)).1) w → WithinBound F fn x v w

namespace Sys2Proof.Claims

/-! ## Groups and shapes (R138, R153 to R160) -/

/-- The participating lanes of lane l's group, ascending (R138). -/
def participants (t : Team) (p l : Nat) : List Nat := (actsOn t p).filter (fun j => j / t.group == l / t.group)
/-- The bits that a participant reads at the type's width. -/
def operandBits (t : Team) (f : VR) (l : Nat) : Nat := (readOp t f.ty.toNat (srcF f.a) l).toNat

/-- The vote of lane l's group (R159). -/
def vote (t : Team) (f : VR) (l : Nat) : Nat :=
  let ps := participants t f.pred.toNat l
  let x := operandBits t f
  let n := min t.group 32
  match f.mod.toNat with
  | 0 => if ∃ j, j ∈ ps ∧ x j ≠ 0 then 1 else 0
  | 1 => if ∀ j, j ∈ ps → x j ≠ 0 then 1 else 0
  | 2 => if ∀ j, j ∈ ps → ∀ k, k ∈ ps → x j = x k then 1 else 0
  | _ => ((List.range n).map (fun j => if l - l % n + j ∈ ps ∧ x (l - l % n + j) ≠ 0 then 2 ^ j else 0)).sum

/-- x(i) of R160: the participant's operand at a position of the group that starts at b, flushed under FTZ, or none. -/
def leafAt (t : Team) (f : VR) (b i : Nat) : Option DWord × Fl :=
  (if acts t f.pred.toNat (b + i) then some (flushBits t f.ty.toNat (readOp t f.ty.toNat (srcF f.a) (b + i))) else none, 0)

/-- The node over positions i·2^k to (i + 1)·2^k − 1 of the fixed tree (R160). -/
def nodeOf (t : Team) (f : VR) (b : Nat) : Nat → Nat → Option DWord × Fl
  | 0, i => leafAt t f b i
  | k + 1, i => combOpt t f.ty.toNat f.mod.toNat (nodeOf t f b k (2 * i)) (nodeOf t f b k (2 * i + 1))

/-- The accumulator of a scan after a list of participants, with the flags of its steps (R160). -/
def accumulated (t : Team) (f : VR) (ps : List Nat) : Option DWord × Fl :=
  ps.foldl (fun acc j => combOpt t f.ty.toNat (f.mod.toNat % 8) acc (some (flushBits t f.ty.toNat (readOp t f.ty.toNat (srcF f.a) j)), 0)) (none, 0)

/-- What `v.scan` writes to lane l (R160). -/
def scanned (t : Team) (f : VR) (l : Nat) : DWord :=
  let ps := participants t f.pred.toNat l
  if f.mod.getLsbD 3 then (accumulated t f (ps.filter (· < l))).1.getD (combIdent f.ty.toNat (f.mod.toNat % 8))
  else (accumulated t f (ps.filter (· ≤ l))).1.getD 0

/-- A result of a float type as it is written (R52, R61): each element that is a NaN as the canonical one, with NV where it signals
(log 68: one participant's own NaN too). -/
def asWritten (ty : Nat) (x : DWord) : DWord × Fl :=
  if tyFloat ty then
    let es := (elems ty x).map (fun e => match (tyFmt ty).value e with | .nan sg => nanOf (tyFmt ty) sg | _ => (e, 0))
    (packElems (es.map (·.1)), (es.map (·.2)).foldl (· ||| ·) 0)
  else (x, 0)
/-- The root of the fixed tree of lane l's group, as `v.red` writes it, and its flags (R160). -/
def treeResult (t : Team) (f : VR) (l : Nat) : DWord × Fl :=
  let r := nodeOf t f (l - l % t.group) (Nat.log2 t.group) 0
  let w := asWritten f.ty.toNat (r.1.getD 0)
  (w.1, r.2 ||| w.2)

/-- The lane that lane l reads in `v.shfl` (R158). -/
def shuffleFrom (t : Team) (f : VR) (l : Nat) : Nat :=
  let g := t.group
  let i := l % g
  let x := (readOp32 t 1 (srcF f.b) l).toNat
  l - i + (match f.mod.toNat with
    | 0 => x % g
    | 1 => i ^^^ (x % g)
    | 2 => if x ≤ i then i - x else i
    | _ => if i + x < g then i + x else i)

/-- The word of lane j of a group under R46 with the identity pattern: zero for a dead lane. -/
def laneWord (t : Team) (f : VR) (j : Nat) : Nat := if t.dead.getLsbD j then 0 else (vreg t f.a.reg.toNat j).toNat

/-- The bits of lane j of a group for a type: a pair for a 64-bit type. -/
def laneBits (t : Team) (f : VR) (j : Nat) : Nat :=
  if width f.ty.toNat = 64 then laneWord t f j + (if t.dead.getLsbD j then 0 else (vreg t (f.a.reg.toNat + 1) j).toNat) * 2 ^ 32
  else laneWord t f j

/-- The participants of lane l's row of 32 lanes, ascending, and the f32 value that a lane gives (R153). -/
def rowOf (t : Team) (f : VR) (l : Nat) : List Nat := (actsOn t f.pred.toNat).filter (fun j => j / 32 == l / 32)
def rowValue (t : Team) (f : VR) (l : Nat) : FV := srcFV t fmtF32 ((fElems t 2 (srcF f.a) false l).getD 0 0)
/-- The scale byte X of a block of finite values (R153). -/
def blockScale (el : MxElem) (xs : List FV) : Int :=
  if xs.all FV.isZero then 0 else max 0 (min 254 (fvTop (fvMax xs) - el.emax + 127))
/-- The word of a lane, and the flags of its row (R153). -/
def quantized (t : Team) (f : VR) (l : Nat) : Nat × Fl :=
  let el := mxElem f.mod.toNat
  let xs := (rowOf t f l).map (rowValue t f)
  let nv := flIf (xs.any FV.snan) flNV
  if ∃ x, x ∈ xs ∧ (x.isNan || x.isInf) = true then (255 * 2 ^ 8, nv)
  else
    let X := blockScale el xs
    (X.toNat * 2 ^ 8 + (mxCode el (rowValue t f l) X).1, nv ||| flIf (xs.any (fun x => (mxCode el x X).2)) flNX)

/-- Element j of a bit-plane block, and bit i of its plane word k (R69, R154). -/
def planeElem (t : Team) (f : VR) (b j : Nat) : Word := readOp32 t 0 (srcF f.a) (b + j)
def packedWord (t : Team) (f : VR) (l : Nat) : Nat :=
  let p := f.mod.toNat
  let i := l % 64
  if i < 2 * p then ((List.range 32).map (fun c => if (planeElem t f (l - i) (32 * (i % 2) + c)).getLsbD (p - 1 - i / 2) then 2 ^ c else 0)).sum else 0
/-- Bit i of plane word k as lanes 2k and 2k + 1 supply it. -/
def planeBit (t : Team) (f : VR) (b k i : Nat) : Bool := (planeElem t f b (2 * k + i / 32)).getLsbD (i % 32)
def unpackedInt (t : Team) (f : VR) (l : Nat) : Int :=
  let p := f.mod.toNat
  let i := l % 64
  let bit (k : Nat) : Int := if planeBit t f (l - i) k i then 1 else 0
  ((List.range p).map (fun k => bit k * 2 ^ (p - 1 - k))).sum - bit 0 * 2 ^ p

/-- A rule over a 64-bit-aware destination. -/
def typedRule (f : VR) (val : Nat → DWord) (fl : Nat → Fl) : Option LaneRule :=
  some { pred := f.pred.toNat, srcs := [srcF f.a], wide := width f.ty.toNat == 64, vd := f.vd.toNat, val := val, fl := fl }
def flaggedRule (f : VR) (val : Nat → Nat) (fl : Nat → Fl) : Option LaneRule :=
  some { pred := f.pred.toNat, srcs := [srcF f.a], wide := false, vd := f.vd.toNat, val := fun l => BitVec.ofNat 64 (val l), fl := fl }

/-- The rules of the instructions that combine the lanes of a group (R153, R154, R158 to R160). -/
def groupRule (t : Team) : Instr → Option LaneRule
  | .vVote f => flaggedRule f (vote t f) (fun _ => 0)
  | .vRed f => typedRule f (fun l => (treeResult t f l).1) (fun l => (treeResult t f l).2)
  | .vScan f => typedRule f (fun l => (asWritten f.ty.toNat (scanned t f l)).1)
      (fun l => (accumulated t f (participants t f.pred.toNat l)).2 ||| (asWritten f.ty.toNat (scanned t f l)).2)
  | .vShfl f => typedRule f (fun l => BitVec.ofNat 64 (laneBits t f (shuffleFrom t f l))) (fun _ => 0)
  | .vMxq f => flaggedRule f (fun l => (quantized t f l).1) (fun l => (quantized t f l).2)
  | .vBpk f => flaggedRule f (packedWord t f) (fun _ => 0)
  | .vBpu f => flaggedRule f (fun l => (wrap 32 (unpackedInt t f l)).toNat) (fun _ => 0)
  | _ => none

/-- Whether a read of a group instruction meets a dead lane (R46). -/
def groupDead (t : Team) : Instr → Bool
  | .vVote f | .vRed f | .vScan f | .vMxq f => (actsOn t f.pred.toNat).any (readsDead t (srcF f.a))
  | .vShfl f => (actsOn t f.pred.toNat).any (fun l => t.dead.getLsbD (shuffleFrom t f l) || readsDead t (srcF f.b) l)
  | .vBpk f => (actsOn t f.pred.toNat).any (fun l => (List.range 64).any (fun j => t.dead.getLsbD (l - l % 64 + j)))
  | .vBpu f => (actsOn t f.pred.toNat).any (fun l => (List.range (2 * f.mod.toNat)).any (fun j => t.dead.getLsbD (l - l % 64 + j)))
  | _ => false

/-- The group sizes that an instruction takes; another raises Illegal Operand (R153, R154). -/
def groupFits (g : Nat) : Instr → Bool
  | .vMxq _ => decide (32 ≤ g)
  | .vBpk _ | .vBpu _ => decide (g = 64)
  | _ => true

/-! ## Shapes (R155, R156) -/

/-- Field i of 32 bits of a shape image, and the fault that the image takes (R155). -/
def imageField (d : List Byte) (i : Nat) : Nat := (List.range 4).foldr (fun k x => (d.getD (4 * i + k) 0).toNat + 2 ^ 8 * x) 0
def imageFault (d : List Byte) : Option Nat :=
  let D := imageField d 0 % 4 + 1
  if 4 ≤ imageField d 0 ∨ imageField d 1 ≠ 0 ∨ (List.range 64).any (fun i => decide (40 ≤ i ∧ d.getD i 0 ≠ 0)) then some 2
  else if (List.range 4).any (fun i => decide ((i < D ∧ imageField d (2 + i) = 0) ∨ (D ≤ i ∧ (imageField d (2 + i) ≠ 0 ∨ imageField d (6 + i) ≠ 0)))) then some 3
  else none
/-- The entry that a shape image makes: its extents and strides, and the reciprocals of R156. -/
def IsShape (d : List Byte) (e : Shape) : Prop :=
  e.dims = imageField d 0 % 4 + 1
  ∧ (∀ i, i < e.dims → e.ext.getD i 0 = imageField d (2 + i) ∧ e.str.getD i 0 = (BitVec.ofNat 32 (imageField d (6 + i))).toInt)
  ∧ (∀ i, i + 1 < e.dims → imageField d (2 + i) ≤ 2 ^ e.sh.getD i 0 ∧ 2 ^ e.sh.getD i 0 < 2 * imageField d (2 + i)
      ∧ 2 ^ (32 + e.sh.getD i 0) ≤ e.m.getD i 0 * imageField d (2 + i)
      ∧ e.m.getD i 0 * imageField d (2 + i) < 2 ^ (32 + e.sh.getD i 0) + imageField d (2 + i))

/-- The coordinate of dimension i of a linear index: the quotient by the extents below, reduced by its own but for the last. -/
def coordinate (e : Shape) (x i : Nat) : Nat :=
  let q := x / ((e.ext.take i).foldl (· * ·) 1)
  if e.dims ≤ i then 0 else if i + 1 = e.dims then q else q % e.ext.getD i 1
/-- What `v.tidx` writes for a selector (R156). -/
def tensorValue (e : Shape) (sel x : Nat) : Word :=
  match sel with
  | 0 => wrap 32 (((List.range e.dims).map (fun i => (coordinate e x i : Int) * e.str.getD i 0)).sum)
  | 5 => if coordinate e x (e.dims - 1) < e.ext.getD (e.dims - 1) 0 then 1 else 0
  | k => BitVec.ofNat 32 (coordinate e x (k - 1))

end Sys2Proof.Claims

/-- R138, R153, R154, R158 to R160: votes, the fixed reduction tree, scans in lane order, shuffles, block quantization and bit planes.
They combine the participating lanes of each group, write the participants only, a NaN as the canonical one (log 68), and raise the flags
of their steps; `v.mxq` of a
group of 16, and bit planes of a group other than 64, raise Illegal Operand with DETAIL `0x06`. -/
def Obligations.GroupResults : Prop := ∀ i s c r, Issues i s c → groupRule s.cur i = some r →
  s.cur.group = 16 ∨ s.cur.group = 32 ∨ s.cur.group = 64 →
  (groupFits s.cur.group i = false → exec i s = .next (takeTrap s (c.hdr + 8 * (c.idx + 1)) { cause := 3, detail := 6 } .instr))
  ∧ (groupFits s.cur.group i = true → CleanVectors s.cur → s.cur.dying = [] →
    Completes i s (fun t => LaneWrites s t r ∧ t.cur.deadsrc = (s.cur.deadsrc || groupDead s.cur i) ∧ GoesOn c s.cur t.cur
      ∧ beyondVectors t.cur = beyondVectors s.cur ∧ others t = others s ∧ SameBytes s t))

/-- R155, R156: `shp.set` installs the entry that its image of 64 bytes makes; a misaligned address, one outside the vault, a reserved field that is set and an extent
that is wrong trap in that order. `v.tidx` finds the coordinates of a linear index by division, from an entry with the reciprocals of its image; an invalid
entry raises Shape Fault with DETAIL `0x01`. -/
def Obligations.TensorIndexing : Prop :=
  (∀ f s c, Issues (.shpSet f) s c →
    let a := (sreg s.cur f.sa.toNat).toNat % 2 ^ 32
    let at_ := c.hdr + 8 * (c.idx + 1)
    (a % 16 ≠ 0 → exec (.shpSet f) s = .next (takeTrap s at_ { cause := 7, addr := a } .instr))
    ∧ (a % 16 = 0 → teamVault s a 64 = none → exec (.shpSet f) s = .next (takeTrap s at_ { cause := 8, addr := a } .instr))
    ∧ ∀ k, a % 16 = 0 → teamVault s a 64 = some k → s.mem.vpois = [] → s.mem.vbad = [] →
      let d := (List.range 64).map (fun i => vaultByte s (k + i))
      (∀ x, imageFault d = some x → exec (.shpSet f) s = .next (takeTrap s at_ { cause := 0xE, detail := x } .instr))
      ∧ (imageFault d = none → s.cur.dying = [] → (block? s s.cur.blk).isSome = true → Completes (.shpSet f) s (fun t =>
          (∃ e, NMap.get none (curBlock t).shapes (f.imm.toNat % 16) = some e ∧ IsShape d e)
          ∧ (∀ n, n ≠ f.imm.toNat % 16 → NMap.get none (curBlock t).shapes n = NMap.get none (curBlock s).shapes n)
          ∧ beyondPlace t.cur = beyondPlace s.cur ∧ GoesOn c s.cur t.cur ∧ SameBytes s t)))
  ∧ (∀ f s c, Issues (.vTidx f) s c →
    let n := f.b.reg.toNat * 64 + f.b.k.toNat
    (NMap.get none (curBlock s).shapes n = none →
      exec (.vTidx f) s = .next (takeTrap s (c.hdr + 8 * (c.idx + 1)) { cause := 0xE, detail := 1 } .instr))
    ∧ ∀ e d, NMap.get none (curBlock s).shapes n = some e → IsShape d e → imageFault d = none → CleanVectors s.cur → s.cur.dying = [] →
      Completes (.vTidx f) s (fun t =>
        LaneOutcome s t { pred := f.pred.toNat, srcs := [srcF f.a], wide := false, vd := f.vd.toNat
                          val := fun l => (tensorValue e f.mod.toNat (readOp32 s.cur 1 (srcF f.a) l).toNat).setWidth 64 }
        ∧ GoesOn c s.cur t.cur ∧ beyondVectors t.cur = beyondVectors s.cur ∧ others t = others s ∧ SameBytes s t))


namespace Sys2Proof.Claims

/-! ## Memory (R115, R116, R161 to R177) -/

/-- Every byte of HBM as its home holds it, and every byte of every vault. -/
def SameHomes (s t : State) : Prop := ∀ x o, o < 2 ^ 36 → homeByte t x o = homeByte s x o
def SameVaults (s t : State) : Prop := ∀ k, vaultByte t k = vaultByte s k

/-- No memory holds poison or an error to be found (R361, R362). -/
def CleanMemory (s : State) : Prop :=
  s.mem.hpois = [] ∧ s.mem.hbad = [] ∧ s.mem.vpois = [] ∧ s.mem.vbad = []
  ∧ ∀ x l, l ∈ (siteOf s x).lines → l.pois = 0 ∧ l.bad = []
/-- A slice holds one line of an index, with 128 bytes of data unless it is absent (R273). -/
def Tidy (s : State) : Prop :=
  ∀ x, ((siteOf s x).lines.map (·.line)).Nodup ∧ ∀ l, l ∈ (siteOf s x).lines → l.st ≠ 2 → l.data.length = 128
/-- Its lines lie inside the stack. -/
def OnStacks (s : State) : Prop := ∀ x l, l ∈ (siteOf s x).lines → l.line < 2 ^ 29
/-- A set begins at whole lines of its members. -/
def WholeLines (s : State) : Prop := ∀ k x, NMap.get none s.mem.sets k = some x → ∀ b, b ∈ x.bases → b % 128 = 0
/-- No block of an L1 holds an error (R361). -/
def CleanL1 (s : State) : Prop := ∀ k b, b ∈ (cellOf s k).l1 → b.bad = []
def GoodMemory (s : State) : Prop := CleanMemory s ∧ Tidy s ∧ OnStacks s ∧ WholeLines s ∧ CleanL1 s

/-- Nothing orders an access of the team after another: none of the team's operations numbered below id is on its stream or is a fence, an arrival or
an `enq`, and no team has an access that ran ahead (R176, R250, R252, R253). -/
def NothingBefore (s : State) (id stream : Nat) : Prop :=
  (∀ u, u ∈ allTeams s → u.early = []) ∧ ∀ p, p ∈ s.cur.ops → p.id < id → p.stream ≠ stream ∧ ∀ f g, p.i ≠ .fence f ∧ p.i ≠ .fenceX f ∧ p.i ≠ .barArr f ∧ p.i ≠ .enq g
/-- An access may take its step: nothing is ordered before it, or its order lets it (log 5). -/
def Unheld (s : State) (o : Op) : Prop := NothingBefore s o.id o.stream ∨ gateOpen s o = true

/-- The line of an address leaves every L1 of a die, and nothing else leaves an L1 (R251, R271). -/
def LeavesL1s (s t : State) (die pa : Nat) : Prop :=
  ∀ ck b, b ∈ (cellOf t ck).l1 ↔ b ∈ (cellOf s ck).l1 ∧ ¬(ck / 4608 = die ∧ b.pa / 128 = pa / 128)

/-- The permission that an access lacks (R162, R285). -/
def denied (l : Leaf) (w : Want) (priv : Bool) : Option Nat :=
  if (w = .read ∨ w = .atomic) ∧ l.r = false then some 1
  else if (w = .write ∨ w = .atomic) ∧ l.w = false then some 2
  else if w = .fetch ∧ ¬(l.x = true ∧ l.mt = 0) then some 2
  else if l.priv ∧ !priv then some 4 else none

/-- The checks of R162 on a global address by a cell: the trap of the first that fails. -/
def globalFault (s : State) (ck : Nat) (w : Want) (n : Nat) (cached : Option Nat) (lane : Option Nat) (va : Nat) : Option TrapInfo :=
  if 2 ^ 56 ≤ va then some { cause := 9, detail := 1, addr := va, lane := lane, replay := true }
  else if va % n ≠ 0 then some { cause := 7, addr := va, lane := lane }
  else match transl s ck va with
    | .miss => none
    | .fail => some { cause := 9, detail := if w = .read then 3 else 4, addr := va, lane := lane, replay := true }
    | .hit l => match denied l w (curLaunch s).d.priv, cached with
      | some d, _ => some { cause := 0xA, detail := d, addr := va, lane := lane, replay := true }
      | none, some d => if l.mt = 0 then none else some { cause := 0xB, detail := d, addr := va, lane := lane }
      | none, none => none
/-- Its physical address and memory type, once no check fails. -/
def globalPlace (s : State) (ck va : Nat) : Option (Nat × Nat) :=
  match transl s ck va with
  | .hit l => some (l.pbase + (va - l.vbase), l.mt)
  | _ => none

/-- The size of the page that a cell's translation of an address names (R277). -/
def pageOf (s : State) (ck va : Nat) : Nat := match transl s ck va with
  | .hit l => l.size
  | _ => 65536

/-- What an access instruction asks: its bytes, the permission, the DETAIL where it needs normal cached memory, whether it goes to a
vault, acts once for the team, drops what fails; and what each lane sends. -/
structure Access where
  f : MEM
  n : Nat
  want : Want := .read
  cached : Option Nat := none
  vault : Bool := false
  team : Bool := false
  drops : Bool := false
  lines : Bool := false
  data : Nat → List Byte := fun _ => []

/-- k bytes from the registers that start at vd, little-endian. -/
def sent (t : Team) (vd k : BitVec 7 → Nat) (f : MEM) (l : Nat) : List Byte :=
  (List.range (k f.vd)).map (fun i => BitVec.ofNat 8 ((vreg t (vd f.vd + i / 4) l).toNat / 2 ^ (8 * (i % 4))))
def sends (t : Team) (f : MEM) (k l : Nat) : List Byte := sent t (·.toNat) (fun _ => k) f l

/-- Bytes of a width code (R166), and of an atomic's type (R172). -/
def sizeOfWidth (w : Nat) : Nat := if w < 5 then 2 ^ w else if w < 7 then 2 ^ (w - 5) else 0
def sizeOfAtom (w : Nat) : Nat := if w = 1 ∨ w = 3 ∨ w = 6 then 8 else 4

def atomAccess (t : Team) (f : MEM) (operands : Nat) : Option Access :=
  let n := sizeOfAtom f.width.toNat
  some { f := f, n := n, want := .atomic, cached := some 1, data := sends t f (operands * n) }

/-- The access instructions. -/
def accessOf (t : Team) : Instr → Option Access
  | .ld f => some { f := f, n := sizeOfWidth f.width.toNat }
  | .st f => some { f := f, n := sizeOfWidth f.width.toNat, want := .write, data := sends t f (sizeOfWidth f.width.toNat) }
  | .lds f => some { f := f, n := sizeOfWidth f.width.toNat, vault := true }
  | .sts f => some { f := f, n := sizeOfWidth f.width.toNat, vault := true, data := sends t f (sizeOfWidth f.width.toNat) }
  | .ldv f => some { f := f, n := sizeOfWidth f.width.toNat, cached := some 1 }
  | .aCasv f => some { f := f, n := sizeOfWidth f.width.toNat, want := .atomic, cached := some 1, data := sends t f (8 + sizeOfWidth f.width.toNat) }
  | .aAdd f | .aMin f | .aMax f | .aAnd f | .aOr f | .aXor f | .aXchg f | .aFadd f | .aInc f => atomAccess t f 1
  | .aCas f => atomAccess t f 2
  | .prf f => some { f := f, n := 1, team := !f.ox, drops := true, lines := true }
  | .disc f => some { f := f, n := 1, want := .write, cached := some 2, team := !f.ox, lines := true }
  | .wb f => some { f := f, n := 1, cached := some 2, team := !f.ox, lines := true }
  | _ => none

/-- The ordering of an atomic: 1 and 3 acquire, 2 and 3 release (R174). -/
def ordering : Instr → Nat
  | .aCasv f | .aAdd f | .aMin f | .aMax f | .aAnd f | .aOr f | .aXor f | .aXchg f | .aFadd f | .aInc f | .aCas f => f.policy.toNat
  | _ => 0

/-- The lanes of an access, the address of each (R161), the cell that sends it, and what its checks say. -/
def accessLanes (t : Team) (x : Access) : List Nat := if x.team then (if actsOn t 0 = [] then [] else [0]) else actsOn t 0
def accessAddr (t : Team) (x : Access) (l : Nat) : Nat :=
  let b : Nat := if x.vault then (sreg t x.f.base.toNat).toNat % 2 ^ 32 else (sreg t x.f.base.toNat).toNat
  let o : Int := if x.team then 0 else if x.f.ox then (vreg t x.f.voff.toNat l).toInt else ((x.n * l : Nat) : Int)
  (((b : Int) + o + x.f.disp.toInt) % (if x.vault then 2 ^ 32 else 2 ^ 64)).toNat
def accessCell (t : Team) (x : Access) (l : Nat) : Nat := ckey t.die (if x.team then t.cell else laneCell t l)
def accessFault (s : State) (x : Access) (l : Nat) : Option TrapInfo :=
  let va := accessAddr s.cur x l
  let lane := if x.team then none else some l
  if x.vault then
    if va % x.n ≠ 0 then some { cause := 7, addr := va, lane := lane }
    else if laneVault s l va x.n = none then some { cause := 8, addr := va, lane := lane } else none
  else globalFault s (accessCell s.cur x l) x.want x.n x.cached lane va
def accessPlace (s : State) (x : Access) (l : Nat) : Option (Nat × Nat) :=
  if x.vault then (laneVault s l (accessAddr s.cur x l) x.n).map (fun k => (k, vaultMt))
  else globalPlace s (accessCell s.cur x l) (accessAddr s.cur x l)

/-- The accesses of an instruction, by ascending lanes; `prf` drops what fails. -/
def accesses (s : State) (x : Access) : List Acc :=
  (accessLanes s.cur x).filterMap (fun l => if (accessFault s x l).isSome then none
    else (accessPlace s x l).map (fun p => { lane := l, va := accessAddr s.cur x l, pa := p.1, mt := p.2, data := x.data l, page := if x.f.ox && !x.vault then pageOf s (accessCell s.cur x l) (accessAddr s.cur x l) else 65536 }))

/-- An operation is a fence of a kind on the streams of a set (R176): 0 acquire, 1 release. -/
def IsFence (o : Op) (k ss : Nat) : Prop := ∃ f, o.i = .fence f ∧ o.arg = [k, ss] ∧ o.flag = none

/-- The flags after an operation is issued with a flag-select bit: its flag is one higher (R79). -/
def Raised (s t : State) (fs : Bool) : Prop :=
  ∀ k, k < 12 → flagCount t.cur k = flagCount s.cur k + (if selFlag s fs = k then 1 else 0)

/-- An operation stands for an instruction: its place, flag, stream, scope and lanes. -/
def StandsFor (s : State) (c : Clause) (i : Instr) (fs : Bool) (stream scope : Nat) (o : Op) : Prop :=
  o.i = i ∧ o.pc = c.hdr + 8 * (c.idx + 1) ∧ o.flag = (if selFlag s fs < 12 then some (selFlag s fs) else none)
  ∧ o.stream = stream ∧ o.scope = scope ∧ o.started = false ∧ o.syn = c.syn ∧ o.kills = [] ∧ o.pois = []
  ∧ ∀ l, l < 1024 → o.mask.getLsbD l = acts s.cur 0 l

/-- The team but its place, stall marks, operations and flags. -/
def beyondOps (t : Team) : Team := { beyondPlace t with ops := [], nextOp := 0, flags := [], issued := [] }

end Sys2Proof.Claims

/-- R79, R161, R162, R168, R172, R174, R177: a load, store, prefetch, versioned access, atomic, discard or write-back whose addresses pass their checks becomes an operation
with each lane's access; its flag rises; registers and memory stay. An atomic with release or acquire has a fence on its own stream before or after it. The
lowest lane whose address fails a check takes the trap of the check, and nothing is sent. A `prf`, `disc` or `wb` that acts once for the team makes no check
and no access where no lane is active (log 72: the model's choice). -/
def Obligations.MemoryAccessesIssue : Prop :=
  (∀ i s c x, Issues i s c → accessOf s.cur i = some x → CleanVectors s.cur → s.cur.dying = [] →
    (∀ l, l ∈ accessLanes s.cur x → (x.drops = true ∧ (accessFault s x l).isSome) ∨ (accessFault s x l = none ∧ (accessPlace s x l).isSome)) →
    Completes i s (fun t =>
      (∃ pre o post, t.cur.ops = s.cur.ops ++ pre ++ o :: post ∧ StandsFor s c i x.f.fs x.f.stream.toNat x.f.scope.toNat o ∧ o.acc = accesses s x
        ∧ (if 2 ≤ ordering i then ∃ p, pre = [p] ∧ IsFence p 1 (2 ^ x.f.stream.toNat) else pre = [])
        ∧ (if ordering i % 2 = 1 then ∃ p, post = [p] ∧ IsFence p 0 (2 ^ x.f.stream.toNat) else post = []))
      ∧ Raised s t x.f.fs ∧ GoesOn c s.cur t.cur ∧ beyondOps t.cur = beyondOps s.cur ∧ t.mem = s.mem
      ∧ (ordering i % 2 = 0 ∨ x.f.scope.toNat < 2 → others t = others s)))
  ∧ (∀ i s c x l, Issues i s c → accessOf s.cur i = some x → x.drops = false → CleanVectors s.cur →
    l ∈ accessLanes s.cur x → (∀ k, k ∈ accessLanes s.cur x → k < l → accessFault s x k = none ∧ (accessPlace s x k).isSome) →
    (∀ y, accessFault s x l = some y → exec i s = .next (takeTrap s (c.hdr + 8 * (c.idx + 1)) y .instr))
    ∧ (accessFault s x l = none → accessPlace s x l = none →
        Completes i s (fun t => t.cur.stalled = true ∧ t.cur.clause = some { c with pipe := none } ∧ t.cur.pc = s.cur.pc ∧ t.cur.r = s.cur.r
          ∧ t.cur.ops = s.cur.ops ∧ t.cur.flags = s.cur.flags ∧ t.mem = s.mem)))

namespace Sys2Proof.Claims

/-- The byte that a read of a cell sees at offset i of a place: its L1 block's where the L1 holds all n bytes, its home's, HBM's own
under a device type that bypasses slices, zero in a device window (R163, R272, R286). -/
def seenByte (s : State) (ck pa mt n i : Nat) : Byte :=
  match mt with
  | 0 => match l1Block? (cellOf s ck) pa n with
    | some b => b.data.getD (pa + i - b.pa) 0
    | none => match locate s pa with
      | some (x, o) => homeByte s x (o + i)
      | none => 0
  | 1 => match locate s pa with
    | some (x, o) => cellsGet s.mem.hbm (hkey x (o + i))
    | none => 0
  | _ => 0

/-- The bytes that an access of n bytes at a place writes: at their home under normal memory, where the line's version is one higher, in HBM itself
where slices are bypassed, nowhere in a device window (R116, R165, R286). -/
def Stored (s t : State) (pa mt n : Nat) (d : Nat → Byte) : Prop :=
  (∀ x o, mt = 0 → locate s pa = some (x, o) →
    (∀ y p, p < 2 ^ 36 → homeByte t y p = if y = x ∧ o ≤ p ∧ p < o + n then d (p - o) else homeByte s y p)
    ∧ (homeVer t x (o / 128)).1 = (homeVer s x (o / 128)).1 + 1)
  ∧ (∀ x o, mt = 1 → locate s pa = some (x, o) →
    (∀ y p, p < 2 ^ 36 → cellsGet t.mem.hbm (hkey y p) = if y = x ∧ o ≤ p ∧ p < o + n then d (p - o) else cellsGet s.mem.hbm (hkey y p))
    ∧ ∀ y, (siteOf t y).lines = (siteOf s y).lines)
  ∧ (mt = 2 → SameHomes s t) ∧ SameVaults s t

/-- The address of a scalar access (R115). -/
def scalarPlace (t : Team) (f : SR) : Nat := (sreg t f.sa.toNat + second (sreg t) f).toNat
def loadSize : LdW → Nat
  | .b8 | .i8 => 1
  | .b16 | .i16 => 2
  | .b32 | .i32 => 4
  | .b64 => 8
def storeSize : StW → Nat
  | .b8 => 1
  | .b16 => 2
  | .b32 => 4
  | .b64 => 8
def loadSigned : LdW → Bool
  | .i8 | .i16 | .i32 => true
  | _ => false
/-- Bit j of a loaded value of n bytes. -/
def loadedBit (sg : Bool) (n : Nat) (b : Nat → Byte) (j : Nat) : Bool :=
  if j < 8 * n then (b (j / 8)).getLsbD (j % 8) else sg && (b (n - 1)).getLsbD 7

/-- A scalar access's trap may be replayed whatever its cause (R115). -/
def replayable (x : TrapInfo) : TrapInfo := { x with replay := true }

/-- A team of its own runs an operation that nothing holds back and that has delivered nothing. -/
def Stands (s : State) (id : Nat) (o : Op) : Prop :=
  s.cur.status ≠ .absent ∧ (s.cur.ops.map (·.id)).Nodup ∧ o ∈ s.cur.ops ∧ o.id = id ∧ (o.acc.map (·.lane)).Nodup ∧ o.gave = [] ∧ o.ready = none ∧ Unheld s o

/-- Nothing but one operation of the team's list changes. -/
def OneOpChanges (s t : State) (id : Nat) : Prop :=
  (∀ p, p.id ≠ id → (p ∈ t.cur.ops ↔ p ∈ s.cur.ops)) ∧ t.cur.ops.map (·.id) = s.cur.ops.map (·.id) ∧ t.cur.flags = s.cur.flags
  ∧ t.cur.r = s.cur.r ∧ t.cur.clause = s.cur.clause ∧ t.cur.pc = s.cur.pc

/-- The access of a lane after its step. -/
def accAfter (t : State) (id lane : Nat) : Option Acc := (t.cur.ops.find? (fun o => o.id == id)).bind (fun o => o.acc.find? (fun a => a.lane == lane))

/-- R115, R116, R163, R165, R251: the step of an `s.ld` at its place takes the bytes that the team's cell sees; that of an `s.st` writes its bytes at their home, and the
line leaves every L1 of the die, the cell's own too (log 51); every other byte of memory stays. -/
def ScalarSteps : Prop := ∀ s id n o a, Stands s id o → o.acc = [a] → a.done = false → a.pa % n = 0 → a.mt < 3 → a.data.length = n →
  (a.mt ≠ 2 → lostAt s a.pa = false) → GoodMemory s → 
  (∀ k f, o.i = .sLd k f → n = loadSize k → Completes (.homeRequest s.cur.tid id 0) s (fun t => OneOpChanges s t id ∧ SameHomes s t ∧ SameVaults s t
    ∧ accAfter t id a.lane = some { a with done := true, data := (List.range n).map (seenByte s (ckey s.cur.die s.cur.cell) a.pa a.mt n) }))
  ∧ (∀ k f, o.i = .sSt k f → n = storeSize k → (∀ x p, locate s a.pa = some (x, p) → p + n ≤ 2 ^ 36) → Completes (.homeRequest s.cur.tid id 0) s (fun t => OneOpChanges s t id
    ∧ accAfter t id a.lane = some { a with done := true } ∧ Stored s t a.pa a.mt n (fun j => a.data.getD j 0) ∧ LeavesL1s s t s.cur.die a.pa))

end Sys2Proof.Claims

/-- R78, R79, R115, R116, R301, R372: `s.ld` and `s.st` check their address at issue and take its trap there, which may be replayed; else each becomes an access
of the team on the launch's stream at device scope, which no flag counts, and the team goes on. (When its step may come: log 5.) `s.ld` completes by writing the bytes, extended,
to S(SD) of both copies; until then an instruction that names that register stalls. `s.st` completes by leaving the list. -/
def Obligations.ScalarLoadsAndStores : Prop :=
  (∀ i f n w s c, ((∃ k, i = .sLd k f ∧ n = loadSize k ∧ w = .read) ∨ (∃ k, i = .sSt k f ∧ n = storeSize k ∧ w = .write)) → Issues i s c →
    let ck := ckey s.cur.die s.cur.cell
    let a := scalarPlace s.cur f
    (∀ x, globalFault s ck w n none none a = some x → exec i s = .next (takeTrap s (c.hdr + 8 * (c.idx + 1)) (replayable x) .instr))
    ∧ ∀ pa mt, globalFault s ck w n none none a = none → globalPlace s ck a = some (pa, mt) → s.cur.dying = [] →
      Completes i s (fun t => (∃ o, t.cur.ops = s.cur.ops ++ [o] ∧ o.i = i ∧ o.flag = none ∧ o.syn = false ∧ o.stream = (curLaunch s).d.stream ∧ o.scope = 4 ∧ o.id = s.cur.nextOp
          ∧ o.acc = [{ va := a, pa := pa, mt := mt, data := if w = .read then List.replicate n 0
              else (List.range n).map (fun j => BitVec.ofNat 8 ((sreg s.cur f.sd.toNat).toNat / 2 ^ (8 * j))) }])
        ∧ t.cur.flags = s.cur.flags ∧ GoesOn c s.cur t.cur ∧ beyondOps t.cur = beyondOps s.cur ∧ others t = others s))
  ∧ (∀ s id o a, Stands s id o → o.acc = [a] → a.done = true → o.kills = [] → o.pois = [] → o.killAll = false → o.flag = none → s.cur.absent = [] → s.cur.dying = [] →
    (∀ k f, o.i = .sLd k f → a.data.length = loadSize k → Completes (.longLatencyCompletion s.cur.tid id) s (fun t =>
      (f.sd ≠ 63 → ∀ j, j < 64 → (sreg t.cur f.sd.toNat).getLsbD j = loadedBit (loadSigned k) (loadSize k) (fun i => a.data.getD i 0) j)
      ∧ (∀ h, s.cur.sh = some h → ∃ g, t.cur.sh = some g ∧ g.sget f.sd.toNat = sreg t.cur f.sd.toNat ∧ ∀ n, n ≠ f.sd.toNat → g.sget n = h.sget n)
      ∧ (∀ n, n ≠ f.sd.toNat → sreg t.cur n = sreg s.cur n) ∧ beyondScalars { t.cur with ops := s.cur.ops } = beyondScalars s.cur
      ∧ t.cur.ops = s.cur.ops.filter (fun p => p.id != id) ∧ t.cur.clause = s.cur.clause ∧ t.cur.pc = s.cur.pc ∧ others t = others s))
    ∧ (∀ k f, o.i = .sSt k f → Completes (.longLatencyCompletion s.cur.tid id) s (fun t =>
      t.cur = { s.cur with ops := s.cur.ops.filter (fun p => p.id != id) } ∧ others t = others s)))
  ∧ (∀ i s c o k f, running s = some c → issueIllegal s i c = none → issueOther s.cur (chk (curLaunch s).d.stage i) = none → o ∈ s.cur.ops → o.i = .sLd k f → f.sd ≠ 63 →
    (∃ g : SR, i = .sMov g ∧ (f.sd = g.sa ∨ f.sd = g.sd)) ∨ (∃ g : SR, i = .sAdd g ∧ (f.sd = g.sa ∨ (g.i = false ∧ f.sd = g.sb) ∨ f.sd = g.sd)) ∨ (∃ g : BR, i = .brz g ∧ f.sd = g.creg) →
    Completes i s (fun t => t.cur = stallTeam s.cur ∧ others t = others s))

namespace Sys2Proof.Claims

/-! ## Accesses at their places (R163, R166 to R174, R249) -/

/-- No two blocks of an L1 hold a byte in common, and each stands in one line (R270). -/
def TidyL1 (s : State) : Prop := ∀ k b, b ∈ (cellOf s k).l1 → b.pa % 128 + b.data.length ≤ 128
  ∧ ∀ d, d ∈ (cellOf s k).l1 → b ≠ d → b.pa + b.data.length ≤ d.pa ∨ d.pa + d.data.length ≤ b.pa

/-- The signed reading of a value of n bytes. -/
def asSigned (n x : Nat) : Int := if 2 ^ (8 * n - 1) ≤ x then (x : Int) - 2 ^ (8 * n) else x

/-- `new` of R173 from the old value and the operand; none: no write. -/
def atomResult (n old x : Nat) : Instr → Option (Option Nat)
  | .aAdd _ => some (some ((old + x) % 2 ^ (8 * n)))
  | .aMin f => some (some (if 5 ≤ f.width.toNat then (if asSigned n old ≤ asSigned n x then old else x) else min old x))
  | .aMax f => some (some (if 5 ≤ f.width.toNat then (if asSigned n old ≤ asSigned n x then x else old) else max old x))
  | .aAnd _ => some (some (old &&& x))
  | .aOr _ => some (some (old ||| x))
  | .aXor _ => some (some (old ^^^ x))
  | .aXchg _ => some (some x)
  | .aCas _ => some (if old = x % 2 ^ (8 * n) then some (x / 2 ^ (8 * n)) else none)
  | .aInc _ => some (some (if x ≤ old then 0 else old + 1))
  | .aFadd _ => let F := if n = 8 then fmtF64 else fmtF32
                some (some (fAdd F 0 false (F.value old) (F.value x)).1)
  | _ => none

/-- n bytes as a number, the first the least. -/
def valueOf (n : Nat) (b : Nat → Byte) : Nat := ((List.range n).map (fun i => (b i).toNat * 2 ^ (8 * i))).sum

/-- OP and SIZE of a gather packet: 0 read, 1 write, 2 atomic, 3 versioned; the element's size as a power (R277). -/
def headOf : Instr → Nat
  | .ld f => Nat.log2 (sizeOfWidth f.width.toNat)
  | .st f => 8 + Nat.log2 (sizeOfWidth f.width.toNat)
  | .ldv f | .aCasv f => 24 + Nat.log2 (sizeOfWidth f.width.toNat)
  | .aAdd f | .aMin f | .aMax f | .aAnd f | .aOr f | .aXor f | .aXchg f | .aCas f | .aFadd f | .aInc f => 16 + Nat.log2 (sizeOfAtom f.width.toNat)
  | _ => 0

/-- The object of 16 bytes at a vault key, as a number. -/
def vaultObject (s : State) (k : Nat) : Nat := valueOf 16 (fun i => vaultByte s (k + i))
/-- Only those 16 bytes of all vaults may change. -/
def OnlyObject (s t : State) (k : Nat) : Prop := (∀ q, (q < k ∨ k + 16 ≤ q) → vaultByte t q = vaultByte s q) ∧ SameHomes s t

/-- The address of a team's access of a vault (R161), and the lowest active lane. -/
def objectAddr (t : Team) (f : MEM) : Nat := ((((sreg t f.base.toNat).toNat % 2 ^ 32 : Nat) + f.disp.toInt) % 2 ^ 32).toNat
def lowest (t : Team) : Option Nat := (actsOn t 0).head?

/-- What a completing operation writes to registers: the first register, how many, each lane's value (R166, R168, R170, R173, R181). -/
def delivered (s : State) (o : Op) : Option (Nat × Nat × List (Nat × Nat)) :=
  let lanes (g : Nat → Nat) : List (Nat × Nat) := o.acc.map (fun a => (a.lane, g (bytesVal a.data)))
  let live : List Nat := (List.range s.cur.width).filter (fun l => o.mask.getLsbD l && !s.cur.dead.getLsbD l)
  match o.i with
  | .ld f | .lds f => some (f.vd.toNat, (sizeOfWidth f.width.toNat + 3) / 4, lanes (fun x =>
      if f.width = 5 then ((BitVec.ofNat 8 x).signExtend 32).toNat else if f.width = 6 then ((BitVec.ofNat 16 x).signExtend 32).toNat else x))
  | .ldv f | .aCasv f => some (f.vd.toNat, 2 + sizeOfWidth f.width.toNat / 4, lanes id)
  | .aAdd f | .aMin f | .aMax f | .aAnd f | .aOr f | .aXor f | .aXchg f | .aCas f | .aFadd f | .aInc f =>
    some (f.vd.toNat, sizeOfAtom f.width.toNat / 4, lanes id)
  | .valset f => some (f.vd.toNat, 1, live.map (fun l => (l, match o.acc.find? (fun a => a.data != [0]) with
      | none => 0
      | some a => a.lane + 1)))
  | .swRead f => some (f.vd.toNat, 4, match o.acc with
      | [] => []
      | a :: _ => live.map (fun l => (l, bytesVal a.data)))
  | .st _ | .sts _ | .prf _ | .disc _ | .wb _ | .swArm _ | .swAdd _ | .qInit _ => some (0, 0, [])
  | _ => none

/-- The operation leaves the list and its flag falls. -/
def Retires (s t : State) (o : Op) : Prop :=
  t.cur.ops = s.cur.ops.filter (fun p => p.id != o.id)
  ∧ ∀ f, flagCount t.cur f = if o.flag = some f then flagCount s.cur f - 1 else flagCount s.cur f
/-- An access, or an engine command, has been performed: each of its accesses has taken its step, and a query holds all that it reads. An engine
command is performed as it completes. -/
def Performed (p : Op) : Prop := isEngine p.i = false ∧ if isMatrix p.i = true then p.ready.isSome = true else ∀ a, a ∈ p.acc → a.done = true

end Sys2Proof.Claims

/-- R169 to R171, R175, R176: a fence becomes an operation of its kind, 0 acquire, 1 release, 2 both, on its stream or on the streams of its set; an acquire
at cluster scope or wider drops the L1s of the team's cells. A release completes once every covered access and engine command issued before it has been performed, an
acquire once every such load, atomic or `ldv` has returned, and not before. `valset` waits for every earlier `ldv`, reads and checks its table of at most 32 entries,
and becomes an operation with one access for each, which compares the line's version with the expected one at its home. (When its steps may come: log 5.) -/
def Obligations.FencesAndValidation : Prop :=
  (∀ i s c f ss, Issues i s c → s.cur.dying = [] →
    (i = .fence f ∧ ss = 2 ^ f.stream.toNat) ∨ (i = .fenceX f ∧ ss = f.disp.toNat % 2 ^ 16) →
    Completes i s (fun t => (∃ o, t.cur.ops = s.cur.ops ++ [o] ∧ StandsFor s c i f.fs f.stream.toNat f.scope.toNat o ∧ o.arg = [f.width.toNat, ss])
      ∧ Raised s t f.fs ∧ GoesOn c s.cur t.cur ∧ beyondOps t.cur = beyondOps s.cur ∧ t.mem = s.mem
      ∧ (∀ ck, (cellOf t ck).l1 = if f.width.toNat ≠ 1 ∧ 2 ≤ f.scope.toNat ∧ (ck = ckey s.cur.die s.cur.cell ∨ (s.cur.pair = true ∧ ck = ckey s.cur.die (s.cur.cell + 1)))
          then [] else (cellOf s ck).l1)))
  ∧ (∀ s id o k ss, s.cur.status ≠ .absent → (s.cur.ops.map (·.id)).Nodup → o ∈ s.cur.ops → o.id = id → (∃ f, o.i = .fence f ∨ o.i = .fenceX f) → o.arg = [k, ss] →
    let before (p : Op) : Prop := p ∈ s.cur.ops ∧ p.id < id ∧ ss.testBit p.stream = true ∧ (readsMem p.i || writesMem p.i || isEngine p.i) = true
    let met : Prop := ∀ p, before p → (k ≠ 0 → Performed p) ∧ (k ≠ 1 → readsMem p.i = false)
    (met → Completes (.longLatencyCompletion s.cur.tid id) s (fun t => Retires s t o ∧ t.mem = s.mem ∧ t.cur.r = s.cur.r ∧ t.dies = s.dies
      ∧ ∀ ck, (cellOf t ck).l1 = if k ≠ 1 ∧ 2 ≤ o.scope ∧ (ck = ckey s.cur.die s.cur.cell ∨ (s.cur.pair = true ∧ ck = ckey s.cur.die (s.cur.cell + 1)))
          then [] else (cellOf s ck).l1))
    ∧ (¬met → exec (.longLatencyCompletion s.cur.tid id) s = .next s))
  ∧ (∀ f s c k, Issues (.valset f) s c → s.cur.dying = [] → CleanMemory s → objectAddr s.cur f % 16 = 0 → teamVault s (objectAddr s.cur f) 16 = some k →
    let n := vaultObject s k
    let entry (i : Nat) : Nat := vaultObject s (k + 16 + 16 * i)
    let ck := ckey s.cur.die s.cur.cell
    ((∃ o g, o ∈ s.cur.ops ∧ o.i = .ldv g) → Completes (.valset f) s (fun t => t.cur = stallTeam s.cur ∧ others t = others s))
    ∧ ((∀ o g, o ∈ s.cur.ops → o.i ≠ .ldv g) → (n = 0 ∨ 32 < n) → exec (.valset f) s = .next (takeTrap s (c.hdr + 8 * (c.idx + 1)) { cause := 3, detail := 7 } .instr))
    ∧ ((∀ o g, o ∈ s.cur.ops → o.i ≠ .ldv g) → 0 < n → n ≤ 32 → teamVault s (objectAddr s.cur f) (16 + 16 * n) = some k →
      (∀ i, i < n → globalFault s ck .read 1 (some 1) none (entry i % 2 ^ 64) = none ∧ (globalPlace s ck (entry i % 2 ^ 64)).isSome) →
      Completes (.valset f) s (fun t => (∃ o, t.cur.ops = s.cur.ops ++ [o] ∧ StandsFor s c (.valset f) f.fs f.stream.toNat f.scope.toNat o ∧ o.acc.length = n
          ∧ ∀ i, i < n → ∃ a, o.acc[i]? = some a ∧ a.lane = i ∧ a.va = entry i % 2 ^ 64 ∧ globalPlace s ck a.va = some (a.pa, a.mt) ∧ a.done = false
            ∧ bytesVal a.data = entry i / 2 ^ 64)
        ∧ Raised s t f.fs ∧ GoesOn c s.cur t.cur ∧ beyondOps t.cur = beyondOps s.cur ∧ others t = others s)))
  ∧ (∀ s id k o f a x p, Stands s id o → o.i = .valset f → (stepGroups s o)[k]? = some [a] → locate s a.pa = some (x, p) → (siteOf s x).lost = false →
    GoodMemory s → Completes (.homeRequest s.cur.tid id k) s (fun t => OneOpChanges s t id ∧ SameHomes s t ∧ SameVaults s t
      ∧ accAfter t id a.lane = some { a with done := true, data := [if (homeVer s x (p / 128)).1.toNat = bytesVal a.data then 0 else 1] }))

/-- R164, R249, R277, R278: a home request performs the accesses of one group of an operation, and a gather packet those that go to one home and page:
they are done, the operation's others and every other operation stay. A packet is a header of OP, SIZE, COUNT and PAGE, an entry of LANE
and OFFSET for each lane, and then what the lanes send, in their order. That a packet acts in one step, where R278 has one for each line, is the model's choice (log 78). The groups of lanes that go together, and what holds one back, are the model's reading (log 5). -/
def Obligations.HomeStepsPerform : Prop := ∀ s id o, Stands s id o → memOp o.i = true →
  (∀ n g, (stepGroups s o)[n]? = some g → Completes (.homeRequest s.cur.tid id n) s (fun t => OneOpChanges s t id
      ∧ ∀ l, accAfter t id l = if g.any (fun a => a.lane == l) then (accAfter t id l).map (fun a => { a with done := true }) else accAfter s id l))
  ∧ (perLane o.i = true → (∀ a, a ∈ o.acc → (a.page = 2 ^ 16 ∨ a.page = 2 ^ 25) ∧ a.pa < 2 ^ 52 ∧ a.lane < 1024) → ∀ n k, (distinct ((o.acc.filter (fun a => !a.done)).map (packetKey s)))[n]? = some k →
      Completes (.gatherPacket s.cur.tid id n) s (fun t => OneOpChanges s t id
        ∧ ∀ l, accAfter t id l = if (o.acc.filter (fun a => !a.done)).any (fun a => a.lane == l && packetKey s a == k)
            then (accAfter t id l).map (fun a => { a with done := true }) else accAfter s id l))
  ∧ (perLane o.i = true → ∀ a r, (∀ b, b ∈ a :: r → b.pa / b.page = a.pa / a.page ∧ b.page = a.page) → (a.page = 2 ^ 16 ∨ a.page = 2 ^ 25) → a.pa < 2 ^ 52 → (a :: r).length ≤ 1024 →
      ∃ h, gatherPacket o.i (a :: r) = { words := h :: (a :: r).map (fun b => BitVec.ofNat 64 (b.lane % 1024 * 2 ^ 54 + b.pa % b.page)), data := (a :: r).flatMap (·.data) }
        ∧ h.toNat = headOf o.i * 2 ^ 59 + r.length * 2 ^ 49 + a.pa / a.page * a.page / 2 ^ 16)

/-- R172, R173: an atomic of a lane reads its n bytes and writes `new` at the home in one step, and answers the old value; a failed
comparison writes nothing. Every other byte stays. (When its step may come: log 5.) -/
def Obligations.AtomicsAtHome : Prop := ∀ s id k o a x p, Stands s id o → (stepGroups s o)[k]? = some [a] → a.mt = 0 →
  locate s a.pa = some (x, p) → (siteOf s x).lost = false → GoodMemory s → ∀ n, n = 4 ∨ n = 8 → a.pa % n = 0 → p + n ≤ 2 ^ 36 →
  (∃ y, accessOf s.cur o.i = some y ∧ y.n = n) →
  let old := valueOf n (fun i => homeByte s x (p + i))
  ∀ new, atomResult n old (bytesVal a.data) o.i = some new →
  Completes (.homeRequest s.cur.tid id k) s (fun t => OneOpChanges s t id ∧ SameVaults s t
    ∧ accAfter t id a.lane = some { a with data := (List.range n).map (fun i => homeByte s x (p + i)), done := true }
    ∧ (match new with
        | none => SameHomes s t
        | some v => Stored s t a.pa 0 n (fun i => BitVec.ofNat 8 (v / 2 ^ (8 * i))) ∧ LeavesL1s s t s.cur.die a.pa))

/-- R163 to R168, R250, R251: at its place a load takes the bytes that its cell sees, a store writes its lanes' bytes with the highest lane last, `ldv` takes the
version with the data, `a.casv` writes where the version is as expected; a write raises its line's version, and the line leaves every L1 of the die,
the team's own too (log 51); vault accesses read and write their vault; the step of an `s.ld` takes what the team's cell sees, that of an `s.st` writes its bytes. (When a step may come: log 5.) -/
def Obligations.LoadsAndStoresPerformed : Prop := ScalarSteps ∧ ∀ s id k o g, Stands s id o → (stepGroups s o)[k]? = some g → GoodMemory s → TidyL1 s →
  (∀ a, a ∈ g → a.mt = 0 → (∃ x p, locate s a.pa = some (x, p) ∧ (siteOf s x).lost = false ∧ p + 16 ≤ 2 ^ 36)) →
  (∀ f, o.i = .ld f → let n := sizeOfWidth f.width.toNat
    (∀ a, a ∈ g → a.mt = 0 ∧ a.pa % n = 0) → Completes (.homeRequest s.cur.tid id k) s (fun t => OneOpChanges s t id ∧ SameHomes s t ∧ SameVaults s t
      ∧ ∀ a, a ∈ g → accAfter t id a.lane = some { a with done := true, data := (List.range n).map (fun i =>
          if f.policy = 3 then (match locate s a.pa with
            | some (x, p) => homeByte s x (p + i)
            | none => 0)
          else seenByte s (ckey s.cur.die (laneCell s.cur a.lane)) a.pa 0 n i) }))
  ∧ (∀ f, o.i = .st f → let n := sizeOfWidth f.width.toNat
    (∀ a, a ∈ g → a.mt = 0 ∧ a.pa % n = 0 ∧ a.data.length = n) → Completes (.homeRequest s.cur.tid id k) s (fun t => OneOpChanges s t id ∧ SameVaults s t
      ∧ ∀ y p, p < 2 ^ 36 → homeByte t y p = (match g.reverse.find? (fun a => match locate s a.pa with
            | some (x, q) => decide (y = x ∧ q ≤ p ∧ p < q + n)
            | none => false) with
          | some a => a.data.getD (((locate s a.pa).map (fun z => p - z.2)).getD 0) 0
          | none => homeByte s y p)
      ∧ ∀ a, a ∈ g → LeavesL1s s t s.cur.die a.pa ∧ ∀ x p, locate s a.pa = some (x, p) → (homeVer t x (p / 128)).1 = (homeVer s x (p / 128)).1 + 1))
  ∧ (∀ f a, o.i = .lds f → g = [a] → Completes (.homeRequest s.cur.tid id k) s (fun t => OneOpChanges s t id ∧ SameHomes s t ∧ SameVaults s t
      ∧ accAfter t id a.lane = some { a with done := true, data := (List.range (sizeOfWidth f.width.toNat)).map (fun i => vaultByte s (a.pa + i)) }))
  ∧ (∀ f a, o.i = .sts f → g = [a] → Completes (.homeRequest s.cur.tid id k) s (fun t => OneOpChanges s t id ∧ SameHomes s t
      ∧ ∀ q, vaultByte t q = if a.pa ≤ q ∧ q < a.pa + a.data.length then a.data.getD (q - a.pa) 0 else vaultByte s q))
  ∧ (∀ f, o.i = .ldv f → let n := sizeOfWidth f.width.toNat
    (n = 4 ∨ n = 8) → (∀ a, a ∈ g → a.mt = 0 ∧ a.pa % n = 0) →
    Completes (.homeRequest s.cur.tid id k) s (fun t => OneOpChanges s t id ∧ SameHomes s t ∧ SameVaults s t
      ∧ ∀ a x p, a ∈ g → locate s a.pa = some (x, p) → accAfter t id a.lane = some { a with done := true, data := valBytes 8 (homeVer s x (p / 128)).1.toNat ++ (List.range n).map (fun i => homeByte s x (p + i)) }))
  ∧ (∀ f a x p, o.i = .aCasv f → g = [a] → a.mt = 0 → let n := sizeOfWidth f.width.toNat
    (n = 4 ∨ n = 8) → a.pa % n = 0 → locate s a.pa = some (x, p) → a.data.length = 8 + n →
    Completes (.homeRequest s.cur.tid id k) s (fun t => OneOpChanges s t id ∧ SameVaults s t
      ∧ accAfter t id a.lane = some { a with done := true, data := valBytes 8 (homeVer s x (p / 128)).1.toNat ++ (List.range n).map (fun i => homeByte s x (p + i)) }
      ∧ (if (homeVer s x (p / 128)).1.toNat = bytesVal (a.data.take 8) then Stored s t a.pa 0 n (fun i => a.data.getD (8 + i) 0) ∧ LeavesL1s s t s.cur.die a.pa else SameHomes s t)))

/-- R79, R81, R163, R166 to R170, R173, R181: an access completes once every part has taken its step: each lane's registers hold what it fetched, no other
register changes, the operation goes and its flag falls by one. Before that its words may come one by one. -/
def Obligations.AccessesComplete : Prop := ∀ s id o vd k ls, Stands s id o → o.acc.all (·.done) = true → o.kills = [] → o.pois = [] → o.killAll = false →
  s.cur.absent = [] → s.cur.dying = [] → delivered s o = some (vd, k, ls) → (∀ l, l ∈ ls → l.1 < 1024) →
  (∀ l x j, (l, x) ∈ ls → j < k → ∃ n, Completes (.homeRequest s.cur.tid id n) s (fun t =>
    vreg t.cur (vd + j) l = BitVec.ofNat 32 (x / 2 ^ (32 * j)) ∧ (∀ m h, h < 1024 → (m ≠ vd + j ∨ h ≠ l) → vreg t.cur m h = vreg s.cur m h)
    ∧ (∀ p, p.id ≠ id → (p ∈ t.cur.ops ↔ p ∈ s.cur.ops)) ∧ (∃ p, p ∈ t.cur.ops ∧ p = { o with gave := p.gave }) ∧ t.cur.flags = s.cur.flags ∧ t.mem = s.mem))
  ∧ Completes (.longLatencyCompletion s.cur.tid id) s (fun t =>
    (∀ l x j, (l, x) ∈ ls → j < k → vreg t.cur (vd + j) l = BitVec.ofNat 32 (x / 2 ^ (32 * j)))
    ∧ (∀ n l, l < 1024 → (n < vd ∨ vd + k ≤ n ∨ l ∉ ls.map (·.1)) → vreg t.cur n l = vreg s.cur n l)
    ∧ t.cur.ops = s.cur.ops.filter (fun p => p.id != id)
    ∧ (∀ f, flagCount t.cur f = if o.flag = some f then flagCount s.cur f - 1 else flagCount s.cur f)
    ∧ (∀ n, sreg t.cur n = sreg s.cur n) ∧ (∀ n, mreg t.cur n = mreg s.cur n) ∧ t.cur.clause = s.cur.clause ∧ t.cur.pc = s.cur.pc ∧ t.mem = s.mem)

/-- R270, R273: every step keeps each slice with one line of an index, each line that is not absent with its 128 bytes, and each L1 with disjoint blocks
of one line. -/
def Obligations.StepKeepsCachesTidy : Prop := ∀ s t, Tidy s → TidyL1 s → step s = .next t → Tidy t ∧ TidyL1 t

namespace Sys2Proof.Claims

/-! ## Sync words and queues (R179 to R184) -/

/-- Field of 32 bits of a sync word. -/
def swField (x i : Nat) : Nat := x / 2 ^ (32 * i) % 2 ^ 32

/-- A sync word after an arrival of m bytes (R180): TARGET, COUNT, GEN, OVF. -/
def Arrived (x m y : Nat) : Prop :=
  let tg := swField x 0
  let c := swField x 1 + m
  swField y 0 = tg
  ∧ swField y 1 = (if tg = 0 then c % 2 ^ 32 else if tg ≤ c then c % tg else c)
  ∧ swField y 2 = (if tg ≠ 0 ∧ tg ≤ c then (swField x 2 + c / tg) % 2 ^ 32 else swField x 2)
  ∧ y / 2 ^ 96 = (if tg ≠ 0 ∧ tg < c then x / 2 ^ 96 ||| 1 else x / 2 ^ 96)

/-- A sync-word instruction's operand bytes. -/
def syncData (t : Team) (l : Nat) : Instr → List Byte
  | .swArm f | .swAdd f => sends t f 4 l
  | _ => []
def syncForm : Instr → Option MEM
  | .swArm f | .swAdd f | .swRead f => some f
  | _ => none

/-- Descriptor fields of 16 bits (R182): VALID at 0, ALLOW at 1, COUNT at 2, TAIL at 3, HEAD at 4, SLOTS at 5; RING above. -/
def qField (x i : Nat) : Nat := x / 2 ^ (16 * i) % 2 ^ 16
def qRingOf (x : Nat) : Nat := x / 2 ^ 96

end Sys2Proof.Claims

/-- R178, R180, R181: sync-word instructions. `sw.arm`, `sw.add` and `sw.read` become operations with the lowest active lane's operand; at the vault
an arm sets TARGET and clears COUNT and OVF, an arrival counts and raises GEN at the target; `sw.wait` writes GEN to every active lane once
it differs from the lane's operand, and else stalls; a message that arrives, the first of those to its die (R346), counts as an arrival. -/
def Obligations.SyncWords : Prop :=
  (∀ i s c f, Issues i s c → syncForm i = some f → CleanVectors s.cur → s.cur.dying = [] →
    let a := objectAddr s.cur f
    (a % 16 ≠ 0 → exec i s = .next (takeTrap s (c.hdr + 8 * (c.idx + 1)) { cause := 7, addr := a } .instr))
    ∧ (a % 16 = 0 → teamVault s a 16 = none → exec i s = .next (takeTrap s (c.hdr + 8 * (c.idx + 1)) { cause := 8, addr := a } .instr))
    ∧ ∀ k l, a % 16 = 0 → teamVault s a 16 = some k → lowest s.cur = some l →
      Completes i s (fun t => (∃ o, t.cur.ops = s.cur.ops ++ [o] ∧ StandsFor s c i f.fs f.stream.toNat f.scope.toNat o
          ∧ o.acc = [{ lane := l, va := a, pa := k, mt := vaultMt, data := syncData s.cur l i }])
        ∧ Raised s t f.fs ∧ GoesOn c s.cur t.cur ∧ beyondOps t.cur = beyondOps s.cur ∧ others t = others s))
  ∧ (∀ s id k o a, Stands s id o → (stepGroups s o)[k]? = some [a] → CleanMemory s → let x := vaultObject s a.pa
    (∀ f, o.i = .swArm f → Completes (.homeRequest s.cur.tid id k) s (fun t => OnlyObject s t a.pa ∧ let y := vaultObject t a.pa
      swField y 0 = bytesVal a.data % 2 ^ 32 ∧ swField y 1 = 0 ∧ swField y 2 = swField x 2 ∧ y / 2 ^ 96 = x / 2 ^ 96 / 2 * 2))
    ∧ (∀ f, o.i = .swAdd f → Completes (.homeRequest s.cur.tid id k) s (fun t => OnlyObject s t a.pa ∧ Arrived x (bytesVal a.data) (vaultObject t a.pa)))
    ∧ (∀ f, o.i = .swRead f → Completes (.homeRequest s.cur.tid id k) s (fun t => SameVaults s t ∧ SameHomes s t
        ∧ (accAfter t id a.lane).map (·.data) = some ((List.range 16).map (fun i => vaultByte s (a.pa + i))))))
  ∧ (∀ f s c k l, Issues (.swWait f) s c → CleanVectors s.cur → s.cur.dying = [] → CleanMemory s → objectAddr s.cur f % 16 = 0 →
    teamVault s (objectAddr s.cur f) 16 = some k → lowest s.cur = some l → (NothingBefore s s.cur.nextOp f.stream.toNat ∨ gateOpen s (stallOp (.swWait f) f [k] s) = true) →
    let g := swField (vaultObject s k) 2
    if g = (vreg s.cur f.vd.toNat l).toNat then
      Completes (.swWait f) s (fun t => t.cur.stalled = true ∧ t.cur.clause = some { c with pipe := none } ∧ t.cur.r = s.cur.r ∧ SameVaults s t)
    else Completes (.swWait f) s (fun t => (∀ j, j < 1024 → acts s.cur 0 j = true → vreg t.cur f.vd.toNat j = BitVec.ofNat 32 g)
      ∧ (∀ n j, j < 1024 → (n ≠ f.vd.toNat ∨ acts s.cur 0 j = false) → vreg t.cur n j = vreg s.cur n j) ∧ GoesOn c s.cur t.cur ∧ SameVaults s t ∧ SameHomes s t))
  ∧ (∀ s n k m w x, CleanMemory s → s.fabric.msgs[n]? = some (.arrive w k m x) → (∀ j y, j < n → s.fabric.msgs[j]? = some y → ∀ k' m' x', y ≠ .arrive w k' m' x') →
    (∀ u, u ∈ allTeams s → u.early = []) →
    Completes (.syncWordArrival n) s (fun t => OnlyObject s t k ∧ Arrived (vaultObject s k) m (vaultObject t k) ∧ t.fabric.msgs = s.fabric.msgs.eraseIdx n ∧ t.cur = s.cur
      ∧ t.host.newkicks = s.host.newkicks ++ x.toList))

/-- R182, R183: scratchpad queues. `q.init` sends the descriptor of its operands; a push writes the entry at TAIL and a pop reads the one at HEAD, for the first
team that waits; each moves the index round the ring, and COUNT and ALLOW by one. With none to take, it joins the queue and stalls;
an invalid descriptor raises Queue Fault with DETAIL `0x01`. -/
def Obligations.ScratchpadQueues : Prop :=
  (∀ f s c k l r, Issues (.qInit f) s c → CleanVectors s.cur → s.cur.dying = [] → objectAddr s.cur f % 16 = 0 → teamVault s (objectAddr s.cur f) 16 = some k →
    lowest s.cur = some l → let slots := (vreg s.cur f.vd.toNat l).toNat % 2 ^ 16
    let allow := (vreg s.cur f.vd.toNat l).toNat / 2 ^ 16
    let ring := (vreg s.cur (f.vd.toNat + 1) l).toNat
    (slots = 0 ∨ 32768 < slots ∨ allow = 0 ∨ slots < allow ∨ ring % 2 = 1 →
      exec (.qInit f) s = .next (takeTrap s (c.hdr + 8 * (c.idx + 1)) { cause := 0xD, detail := 2 } .instr))
    ∧ (1 ≤ slots → slots ≤ 32768 → 1 ≤ allow → allow ≤ slots → ring % 2 = 0 → teamVault s ring (2 * slots) = some r → r / 2 ^ 18 = k / 2 ^ 18 →
      (r + 2 * slots ≤ k ∨ k + 16 ≤ r) → Completes (.qInit f) s (fun t => ∃ o a, t.cur.ops = s.cur.ops ++ [o] ∧ StandsFor s c (.qInit f) f.fs f.stream.toNat f.scope.toNat o
        ∧ o.acc = [a] ∧ a.pa = k ∧ a.mt = vaultMt ∧ let x := bytesVal a.data
          x < 2 ^ 128 ∧ qField x 0 = 1 ∧ qField x 1 = allow ∧ qField x 2 = 0 ∧ qField x 3 = 0 ∧ qField x 4 = 0 ∧ qField x 5 = slots ∧ qRingOf x = ring)))
  ∧ (∀ s id k o a f, Stands s id o → (stepGroups s o)[k]? = some [a] → o.i = .qInit f → a.data.length = 16 →
    Completes (.homeRequest s.cur.tid id k) s (fun t => OnlyObject s t a.pa ∧ vaultObject t a.pa = bytesVal a.data))
  ∧ (∀ push f s c k l, let i := if push then Instr.qPush f else Instr.qPop f
    Issues i s c → CleanVectors s.cur → s.cur.dying = [] → CleanMemory s → s.cur.sh = none → objectAddr s.cur f % 16 = 0 →
    teamVault s (objectAddr s.cur f) 16 = some k → lowest s.cur = some l → (NothingBefore s s.cur.nextOp f.stream.toNat ∨ gateOpen s (stallOp i f [k] s) = true) → k % 2 ^ 18 + 16 ≤ 196608 →
    let x := vaultObject s k
    let slot := if push then qField x 3 else qField x 4
    (qField x 0 ≠ 1 → Completes i s (fun t => field t.cur.trapcause 7 0 = 0xD ∧ field t.cur.trapcause 15 8 = 1 ∧ t.mem = s.mem))
    ∧ (qField x 0 = 1 → (if push then qField x 1 else qField x 2) = 0 → Completes i s (fun t => t.cur.stalled = true ∧ t.cur.clause = some { c with pipe := none }
        ∧ t.cur.r = s.cur.r ∧ t.mem = s.mem ∧ (∃ q, q ∈ t.qwait ∧ q.2.1 = s.cur.tid)))
    ∧ ∀ r, qField x 0 = 1 → (if push then qField x 1 else qField x 2) ≠ 0 → firstInQueue s k push = true → ringKey s (decide (objectAddr s.cur f < 2 ^ 31)) k (qRingOf x) slot = some r →
      (NothingBefore s s.cur.nextOp f.stream.toNat ∨ gateOpen s (stallOp i f [k, r] s) = true) →
      (r + 2 ≤ k ∨ k + 16 ≤ r) → 1 ≤ qField x 5 → qField x 5 ≤ 32768 → slot < qField x 5 → qField x 2 + qField x 1 ≤ qField x 5 →
      Completes i s (fun t => (∀ q, q ≠ r → q ≠ r + 1 → (q < k ∨ k + 16 ≤ q) → vaultByte t q = vaultByte s q) ∧ SameHomes s t ∧ GoesOn c s.cur t.cur
        ∧ (∀ q, q ∈ t.qwait → q.2.1 ≠ s.cur.tid)
        ∧ (let y := vaultObject t k
           qField y 0 = 1 ∧ qField y 5 = qField x 5 ∧ qRingOf y = qRingOf x
           ∧ (if push then qField y 3 = (slot + 1) % qField x 5 ∧ qField y 4 = qField x 4 ∧ qField y 2 = qField x 2 + 1 ∧ qField y 1 = qField x 1 - 1
              else qField y 4 = (slot + 1) % qField x 5 ∧ qField y 3 = qField x 3 ∧ qField y 2 = qField x 2 - 1 ∧ qField y 1 = qField x 1 + 1))
        ∧ (if push then valueOf 2 (fun i => vaultByte t (r + i)) = (vreg s.cur f.vd.toNat l).toNat % 2 ^ 16 ∧ t.cur.r = s.cur.r
           else valueOf 2 (fun i => vaultByte t (r + i)) = valueOf 2 (fun i => vaultByte s (r + i))
             ∧ (∀ j, j < 1024 → acts s.cur 0 j = true → vreg t.cur f.vd.toNat j = BitVec.ofNat 32 (valueOf 2 (fun i => vaultByte s (r + i))))
             ∧ ∀ n j, j < 1024 → (n ≠ f.vd.toNat ∨ acts s.cur 0 j = false) → vreg t.cur n j = vreg s.cur n j)))

namespace Sys2Proof.Claims

/-! ## Barriers (R185 to R189, R357, R358) -/

/-- The reduction of values under a code: 0 none, 1 and, 2 or, 3 sum, 4 sum of counts (R187). -/
def reduced (red : Nat) (l : List Nat) : Nat :=
  match red with
  | 1 => l.foldr (fun x y => x &&& y) (2 ^ 32 - 1)
  | 2 => l.foldr (fun x y => x ||| y) 0
  | _ => l.sum % 2 ^ 64
/-- What a team contributes: the reduction of its active lanes' words, the count of those that are not 0 for popc, nothing without one. -/
def contributed (t : Team) (f : MEM) : Nat :=
  let xs := (actsOn t 0).map (fun l => (vreg t f.vd.toNat l).toNat)
  match f.width.toNat with
  | 0 => 0
  | 4 => xs.countP (· ≠ 0)
  | r => reduced r xs
def contributors (t : Team) (f : MEM) : Nat := if f.width = 0 then 0 else (actsOn t 0).length

/-- The block barrier that an instruction names, as the current team's block holds it. -/
def barrierOf (s : State) (f : MEM) : Bar := NMap.get {} (curBlock s).bars (f.disp.toNat % 4)
/-- The team's arrival at it that no wait has cleared: its phase and reduction. -/
def arrivalOf (s : State) (f : MEM) : Option (Nat × Nat) := NMap.get none (barrierOf s f).last s.cur.tid

/-- A wait's end (R187, R189): the acquire is set up, and every active lane holds the result in vd and vd + 1, if there is one. -/
def WaitEnds (s t : State) (f : MEM) (scope value : Nat) : Prop :=
  (∃ p, t.cur.ops = s.cur.ops ++ [p] ∧ IsFence p 0 65535 ∧ p.scope = scope) ∧ t.cur.flags = s.cur.flags
  ∧ (f.width ≠ 0 → ∀ l, l < 1024 → acts s.cur 0 l = true → vreg t.cur f.vd.toNat l = BitVec.ofNat 32 value
      ∧ vreg t.cur (f.vd.toNat + 1) l = BitVec.ofNat 32 (value / 2 ^ 32))
  ∧ (∀ n l, l < 1024 → (f.width = 0 ∨ acts s.cur 0 l = false ∨ (n ≠ f.vd.toNat ∧ n ≠ f.vd.toNat + 1)) → vreg t.cur n l = vreg s.cur n l)
  ∧ (∀ k, sreg t.cur k = sreg s.cur k) ∧ (∀ k, mreg t.cur k = mreg s.cur k) ∧ t.mem = s.mem

/-- A stall: nothing but the mark, and the pipe given back (R301). -/
def Stalls (s t : State) (c : Clause) : Prop :=
  t.cur.stalled = true ∧ t.cur.clause = some { c with pipe := none } ∧ t.cur.r = s.cur.r ∧ t.cur.ops = s.cur.ops ∧ t.cur.flags = s.cur.flags ∧ t.mem = s.mem

/-- The team's accesses numbered below id are performed: none stands (R189); or each that stands has taken its step. -/
def ReleaseMet (t : Team) (id : Nat) : Prop := (∀ p, p ∈ t.ops → id ≤ p.id) ∨ releaseMet t id = true
/-- A load or store of the team numbered below id has not taken its step. -/
def ReleaseOwed (t : Team) (id : Nat) : Prop := ∃ p f a, p ∈ t.ops ∧ p.id < id ∧ (p.i = .st f ∨ p.i = .ld f) ∧ a ∈ p.acc ∧ a.done = false

/-- The grid of the team's barrier: its launch, or a pixel block by itself (R313, R338). -/
def gridOf (s : State) : Nat := if (curBlock s).pixel then s.cur.blk else (curBlock s).lid

/-- The phase that completes with a list of arrivals, none with another reduction than the first. -/
def PhaseOf (p : Nat) (arr : List Arrival) (e : PhaseEnd) : Prop :=
  e.phase = p ∧ (∀ a r, arr = a :: r → e.mismatch = arr.any (fun b => b.red != a.red) ∧ e.value = reduced a.red (arr.map (·.value)))

end Sys2Proof.Claims

/-- R185 to R189, R338, R357, R358: `bar.arr` records the team's arrival with its contribution, which counts once the release is met; `bar.wt` stalls until the phase of the arrival has
completed, and `bar` arrives once its release is met, and waits. A second arrival, a wait with none, and reductions that differ raise Barrier Fault with DETAIL `0x03`, `0x02`, `0x01`. `gbar` sends its arrival up
the panel tree and waits; the apex completes the phase when the arrivals and ended teams equal the grid's, and sends the release to every live die of the launch, of a pixel block to its own, which
records the releases in their order; then the wait ends there. The model's readings: a phase of reductions that differ completes, and a trap clears the arrival (log 44);
the tree is a count at the launch (log 28). -/
def Obligations.Barriers : Prop :=
  (∀ f s c, CleanVectors s.cur → s.cur.dying = [] → (block? s s.cur.blk).isSome = true → s.cur.sh = none →
    let at_ := c.hdr + 8 * (c.idx + 1)
    let b := barrierOf s f
    (Issues (.barArr f) s c →
      (arrivalOf s f ≠ none → exec (.barArr f) s = .next (takeTrap s at_ { cause := 0xC, detail := 3 } .instr))
      ∧ (arrivalOf s f = none → Completes (.barArr f) s (fun t =>
          (∃ o, t.cur.ops = s.cur.ops ++ [o] ∧ o.i = .barArr f ∧ o.flag = (if selFlag s f.fs < 12 then some (selFlag s f.fs) else none)) ∧ Raised s t f.fs ∧ GoesOn c s.cur t.cur
          ∧ (barrierOf t f).arr = b.arr ++ [{ team := s.cur.tid, red := f.width.toNat, lanes := contributors s.cur f, value := contributed s.cur f, counted := false }]
          ∧ arrivalOf t f = some (b.phase, f.width.toNat) ∧ (barrierOf t f).phase = b.phase ∧ beyondOps t.cur = beyondOps s.cur ∧ t.mem = s.mem)))
    ∧ (∀ id o, Stands s id o → o.i = .barArr f → ReleaseMet s.cur id → Completes (.longLatencyCompletion s.cur.tid id) s (fun t =>
          t.cur.ops = s.cur.ops.filter (fun p => p.id != id) ∧ t.cur.r = s.cur.r ∧ t.mem = s.mem
          ∧ (let arr := b.arr.map (fun a => if a.team == s.cur.tid then { a with counted := true } else a)
             if arr ≠ [] ∧ (∀ a, a ∈ arr → a.counted = true) ∧ (∀ u, u ∈ teamsOf s s.cur.blk → u.status = .ended ∨ ∃ a, a ∈ arr ∧ a.team = u.tid)
             then (barrierOf t f).phase = b.phase + 1 ∧ (barrierOf t f).arr = [] ∧ ∃ e, (barrierOf t f).ended = [e] ∧ PhaseOf b.phase arr e
             else (barrierOf t f).phase = b.phase ∧ (barrierOf t f).arr = arr)))
    ∧ (Issues (.barWt f) s c →
      (arrivalOf s f = none → exec (.barWt f) s = .next (takeTrap s at_ { cause := 0xC, detail := 2 } .instr))
      ∧ ∀ p r, arrivalOf s f = some (p, r) →
        (b.phase ≤ p → Completes (.barWt f) s (fun t => Stalls s t c ∧ t.blocks = s.blocks))
        ∧ ∀ e, p < b.phase → b.ended = [e] → e.phase = p →
          (e.mismatch = true ∨ r ≠ f.width.toNat → Completes (.barWt f) s (fun t => field t.cur.trapcause 7 0 = 0xC ∧ field t.cur.trapcause 15 8 = 1))
          ∧ (e.mismatch = false → r = f.width.toNat → Completes (.barWt f) s (fun t => WaitEnds s t f 1 e.value ∧ GoesOn c s.cur t.cur ∧ arrivalOf t f = none)))
    ∧ (Issues (.bar f) s c → s.cur.barin = none →
      (arrivalOf s f ≠ none → exec (.bar f) s = .next (takeTrap s at_ { cause := 0xC, detail := 3 } .instr))
      ∧ (arrivalOf s f = none → ReleaseOwed s.cur s.cur.nextOp → Completes (.bar f) s (fun t => Stalls s t c ∧ t.cur.barin = none ∧ t.blocks = s.blocks))
      ∧ (arrivalOf s f = none → ReleaseMet s.cur s.cur.nextOp →
        let arr := b.arr ++ [{ team := s.cur.tid, red := f.width.toNat, lanes := contributors s.cur f, value := contributed s.cur f, counted := true }]
        let all := ∀ u, u ∈ teamsOf s s.cur.blk → u.status = .ended ∨ ∃ a, a ∈ arr ∧ a.team = u.tid
        (¬all → Completes (.bar f) s (fun t => Stalls s t c ∧ (barrierOf t f).arr = arr ∧ arrivalOf t f = some (b.phase, f.width.toNat) ∧ t.cur.barin = some (f.disp.toNat % 4)))
        ∧ (all → (∀ a, a ∈ b.arr → a.counted = true ∧ a.red = f.width.toNat) → Completes (.bar f) s (fun t =>
            WaitEnds s t f 1 (reduced f.width.toNat (arr.map (·.value))) ∧ GoesOn c s.cur t.cur ∧ (barrierOf t f).phase = b.phase + 1 ∧ arrivalOf t f = none)))))
  ∧ ((∀ f s c, Issues (.gbar f) s c → CleanVectors s.cur → s.cur.dying = [] → s.cur.sh = none →
      (s.cur.barin = none → ReleaseOwed s.cur s.cur.nextOp → Completes (.gbar f) s (fun t => Stalls s t c ∧ t.cur.barin = none ∧ t.fabric.msgs = s.fabric.msgs))
      ∧ (s.cur.barin = none → ReleaseMet s.cur s.cur.nextOp → Completes (.gbar f) s (fun t => Stalls s t c ∧ t.cur.barin = some 4
        ∧ t.fabric.msgs = s.fabric.msgs ++ [.treeUp (gridOf s) s.cur.tid
            { team := s.cur.tid, red := f.width.toNat, lanes := contributors s.cur f, value := contributed s.cur f, counted := true }]))
      ∧ ∀ p r g, s.cur.barin = some 4 → grid? s (gridOf s) = some g → NMap.get none g.bar.last s.cur.tid = some (p, r) →
        (gridDone g s.cur.die p = none → Completes (.gbar f) s (fun t => Stalls s t c))
        ∧ ∀ e, gridDone g s.cur.die p = some e →
          (e.mismatch = true ∨ r ≠ f.width.toNat → Completes (.gbar f) s (fun t => field t.cur.trapcause 7 0 = 0xC ∧ field t.cur.trapcause 15 8 = 1))
          ∧ (e.mismatch = false → r = f.width.toNat → Completes (.gbar f) s (fun t => WaitEnds s t f 4 e.value ∧ GoesOn c s.cur t.cur)))
    ∧ (∀ s n k tid a l g, s.fabric.msgs[n]? = some (.treeUp k tid a) → gridLaunch? s k = some l → grid? s k = some g →
      let arr := g.bar.arr ++ [a]
      Completes (.treeArrival n) s (fun t => ∃ u, grid? t k = some u ∧ NMap.get none u.bar.last tid = some (g.bar.phase, a.red) ∧ t.cur = s.cur ∧ t.mem = s.mem
        ∧ (if arr.length + g.ended < l.d.dx * l.d.dy * l.d.dz * l.d.nteams
           then u.bar.arr = arr ∧ u.bar.phase = g.bar.phase ∧ t.fabric.msgs = s.fabric.msgs.eraseIdx n
           else u.bar.arr = [] ∧ u.bar.phase = g.bar.phase + 1 ∧ ∃ e, PhaseOf g.bar.phase arr e
             ∧ ∀ m, m ∈ t.fabric.msgs ↔ m ∈ s.fabric.msgs.eraseIdx n ∨ ∃ d, isLive s d = true ∧ m = .treeDown k d e
                 ∧ ((launch? s k = some l ∧ d < 144 ∧ l.d.dies.testBit d = true) ∨ (launch? s k = none ∧ d = (blockOf s k).die)))))
    ∧ (∀ s n k die e g, s.fabric.msgs[n]? = some (.treeDown k die e) → grid? s k = some g →
      (∀ j y, j < n → s.fabric.msgs[j]? = some y → ∀ e', y ≠ .treeDown k die e') →
      Completes (.gbarRelease n) s (fun t => ∃ u, grid? t k = some u ∧ gridDone u die e.phase = some e ∧ (∀ d p, d ≠ die → gridDone u d p = gridDone g d p)
        ∧ t.fabric.msgs = s.fabric.msgs.eraseIdx n ∧ t.cur = s.cur ∧ t.mem = s.mem)))

namespace Sys2Proof.Claims

/-! ## Tiles and matrix operations (R190 to R215) -/

/-- A tile of a team, in its primary copy: elements by row and column; none where it is not held. -/
def accTile (t : Team) (td : Nat) : Option Tile := NMap.get none t.r.tile td
def wideTile (t : Team) (q : Nat) : Option WTile := NMap.get none t.r.wide q
def accElem (t : Team) (td i j : Nat) : Word := ((accTile t td).getD {}).get i j
def wideElem (t : Team) (q i j : Nat) : WElem := ((wideTile t q).getD {}).get i j

/-- The team but its place, stall marks and tiles. -/
def beyondTiles (t : Team) : Team := { beyondPlace t with r := { t.r with tile := [], wide := [] }
                                                          sh := t.sh.map (fun h => { h with tile := [], wide := [] }) }

/-- The element that an empty wide tile holds (R191, R212): zero, with the least exponent and the sign of −0. -/
def emptyWElem : WElem := { v := 0, z := 4094, spec := 0, sticky := false, zneg := true }

/-- First lane of the group that owns the tile that an instruction names, and the rows that it acts on (R192): in a pixel block
a lane without a fragment owns none (R338). -/
def ownerBase (t : Team) (td : Nat) : Nat := if td < 8 then ((accTile t td).getD {}).base else ((wideTile t (td - 8)).getD {}).base
def rowsOf (t : Team) (td : Nat) (m : Mask) : List Nat :=
  (List.range 16).filter (fun i => m.getLsbD (ownerBase t td + i) && decide (ownerBase t td + i < t.width) && !t.dead.getLsbD (ownerBase t td + i)
    && !t.nofrag.getLsbD (ownerBase t td + i))
def execRows (t : Team) (td : Nat) : List Nat := rowsOf t td (execM t 0)

/-- The vault ranges that a matrix instruction checks, in order, by the lane whose cell's vault they name (R194, R195, R198, R206); those that become
accesses. Where several operands fail, the order among them is the model's (log 75); GROUPS of 0 traps for an empty row set too (log 76). -/
def matrixRanges (s : State) : Instr → Option (MX × Nat × List Rng × (Rng → Bool))
  | .mxZero f => some (f, ownerBase s.cur f.td.toNat, [], fun _ => true)
  | .mxWz f => some (f, ownerBase s.cur f.td.toNat, [], fun _ => true)
  | .mxLd f | .mxSt f =>
    if f.mod = 1 then some (f, ownerBase s.cur f.td.toNat, (execRows s.cur f.td.toNat).map (fun r =>
      { role := 16 * r, va := (sreg s.cur f.sa.toNat + sreg s.cur f.sb.toNat * BitVec.ofNat 64 r).toNat % 2 ^ 32
        n := if f.td.toNat < 8 then 64 else 256, al := 16 }) ++ tileStride s f, fun _ => true) else none
  | .mxMma f => some (f, ownerBase s.cur f.td.toNat,
      mmaRanges f (sreg s.cur f.sa.toNat) (sreg s.cur f.sb.toNat) (sreg s.cur f.sc.toNat) (execRows s.cur f.td.toNat), fun _ => true)
  | .mxBpmma f => some (f, ownerBase s.cur f.td.toNat,
      bpRanges f (sreg s.cur f.sa.toNat) (sreg s.cur f.sb.toNat) (sreg s.cur f.sc.toNat) (execRows s.cur f.td.toNat), fun _ => true)
  | .mxSlice f => some (f, 0, if execM s.cur 0 = 0 then [] else sliceRanges f (sreg s.cur f.sa.toNat) (sreg s.cur f.sb.toNat), fun r => decide (r.role ≤ 16))
  | .mxRc f => some (f, ownerBase s.cur f.td.toNat, (if execRows s.cur f.td.toNat = [] then [] else
      (execRows s.cur f.td.toNat).map (fun r => { role := r, va := rowAddr (sreg s.cur f.sa.toNat) r, n := 128, al := 8 }) ++ badStride (sreg s.cur f.sa.toNat) 8
        ++ boundRows s f), fun _ => true)
  | .mxBnd f => some (f, ownerBase s.cur f.td.toNat, boundRows s f, fun _ => true)
  | .mxDmma f => some (f, ownerBase s.cur f.td.toNat, (if execRows s.cur f.td.toNat = [] then [] else
      let nb := f.imm.toNat % 16 + 1
      let a := wAddr (sreg s.cur f.sa.toNat)
      let b := wAddr (sreg s.cur f.sb.toNat)
      { role := 0, va := a, n := 0, al := 32 } :: { role := 0, va := b, n := 0, al := 32 }
        :: (execRows s.cur f.td.toNat).flatMap (fun i => (List.range nb).flatMap (dmRanges 0 (if f.spa then 16 else 32) nb f.ns.toNat a i))
        ++ (List.range 16).flatMap (fun j => (List.range nb).flatMap (dmRanges 1 32 nb f.ns.toNat b j))
        ++ (if f.spa then (execRows s.cur f.td.toNat).map (fun i =>
            { role := dmRole 2 i 0 0, va := ((sreg s.cur f.sc.toNat).toNat / 2 ^ 32 + 4 * nb * i) % 2 ^ 32, n := 4 * nb }) else [])), fun _ => true)
  | _ => none
where
  tileStride (s : State) (f : MX) : List Rng :=
    let a (i : Nat) : Nat := (sreg s.cur f.sa.toNat + sreg s.cur f.sb.toNat * BitVec.ofNat 64 i).toNat
    if execRows s.cur f.td.toNat = [] ∨ (sreg s.cur f.sb.toNat).toNat % 16 = 0 then []
    else [{ role := 0, va := (if a 1 % 16 = 0 then a 0 else a 1) % 2 ^ 32, n := 0, al := 16 }]
  boundRows (s : State) (f : MX) : List Rng :=
    if f.imm = 1 then (execRows s.cur f.td.toNat).map (fun r =>
      { role := 16 + r, va := (wAddr (sreg s.cur f.sb.toNat) + 32 * r) % 2 ^ 32, n := 32, al := 2 }) else []

/-- `mx.bpmma` with a plane count of 0 in an operand word (R195). -/
def planeless (s : State) : Instr → Bool
  | .mxBpmma f => wGroups (sreg s.cur f.sa.toNat) == 0 || wGroups (sreg s.cur f.sb.toNat) == 0
  | _ => false

/-- The access of a range. -/
def rangeAcc (s : State) (lane : Nat) (r : Rng) : Acc :=
  { lane := r.role, va := r.va, pa := (laneVault s lane r.va r.n).getD 0, mt := vaultMt, data := List.replicate r.n 0 }

/-- The 16 words of a row of 64 bytes, or of 128-bit elements of one of 256 bytes, from memory (R191, R198). -/
def rowWord (b : Nat → Byte) (j : Nat) : Word := BitVec.ofNat 32 (valueOf 4 (fun k => b (4 * j + k)))
def rowWide (b : Nat → Byte) (j : Nat) : WElem :=
  let x := valueOf 16 (fun k => b (16 * j + k))
  { v := BitVec.ofNat 112 (x / 2 ^ 16), z := BitVec.ofNat 12 (x / 2 ^ 4), spec := BitVec.ofNat 2 (x / 4), sticky := x.testBit 1, zneg := x.testBit 0 }

/-- An operation of the team that completes now: nothing holds it back, no earlier one names its tile, its tile and operands hold no poison. -/
def Ready (s : State) (id : Nat) (o : Op) : Prop :=
  Stands s id o ∧ tileBusy s o = false ∧ s.cur.dying = [] ∧ s.cur.sh = none
  ∧ (∀ td x, accTile s.cur td = some x → x.pois = [] ∧ x.bad = []) ∧ (∀ q x, wideTile s.cur q = some x → x.pois = [] ∧ x.bad = [])

/-- A team holds a tile; an operation names it. -/
def HasTile (t : Team) (td : Nat) : Prop := if td < 8 then (accTile t td).isSome = true else (wideTile t (td - 8)).isSome = true
def Names (o : Op) (td : Nat) : Prop := ∃ f, f.td.toNat = td ∧ (o.i = .mxZero f ∨ o.i = .mxLd f ∨ o.i = .mxSt f ∨ o.i = .mxMma f ∨ o.i = .mxBpmma f ∨ o.i = .mxDmma f
  ∨ o.i = .mxWz f ∨ o.i = .mxRc f ∨ o.i = .mxBnd f)
/-- The wide tiles that teams hold in a cell, one of a protected team twice: none of a team that has ended or is saved (R190, R217). -/
def wideHeld (s : State) (ck : Nat) : Nat :=
  ((allTeams s).map (fun u => if u.status = .ended ∨ u.status = .saved ∨ (blockOf s u.blk).status = .waiting then 0
    else u.r.wide.countP (fun e => match e.2 with
      | some x => ckey u.die (laneCell u x.base) == ck
      | none => false) * (if u.prot then 2 else 1))).sum

/-- It has left the list and its flag has fallen; nothing else of the team but tiles, MXT and MXB changes. -/
def Left (s t : State) (o : Op) : Prop :=
  t.cur.ops = s.cur.ops.filter (fun p => p.id != o.id)
  ∧ (∀ f, flagCount t.cur f = if o.flag = some f then flagCount s.cur f - 1 else flagCount s.cur f)
  ∧ { beyondOps (beyondTiles t.cur) with mxt := 0, mxb := 0 } = { beyondOps (beyondTiles s.cur) with mxt := 0, mxb := 0 }

/-- The same where MXT and MXB stay too. -/
def LeftPlain (s t : State) (o : Op) : Prop := Left s t o ∧ t.cur.mxt = s.cur.mxt ∧ t.cur.mxb = s.cur.mxb

/-- It has left the list, completed or with a deferred fault (R196); nothing else of the team but tiles, MXT and that fault changes. -/
def LeftOrFaulted (s t : State) (o : Op) : Prop :=
  t.cur.ops = s.cur.ops.filter (fun p => p.id != o.id)
  ∧ (∀ f, flagCount t.cur f = if o.flag = some f then flagCount s.cur f - 1 else flagCount s.cur f)
  ∧ { beyondOps (beyondTiles t.cur) with mxt := 0, deferred := [] } = { beyondOps (beyondTiles s.cur) with mxt := 0, deferred := [] }
  ∧ (t.cur.deferred = s.cur.deferred ∨ ∃ d, t.cur.deferred = s.cur.deferred ++ [d] ∧ d.op = o ∧ d.cause = 0xF ∧ d.replay = false ∧ d.lane = none
      ∧ t.cur.r = s.cur.r ∧ t.cur.mxt = s.cur.mxt)

/-- Element (i, j) of an i32 accumulator after one block of 32 products (R200, R201). -/
def intBlock (c : Int) (a b : List Int) : Int := max (-(2 ^ 31 - 1)) (min (2 ^ 31 - 1) (c + ((a.zip b).map (fun p => p.1 * p.2)).sum))
/-- Element k of block b of a row of 8-bit integers, signed where the code is i8. -/
def intElem (c : Nat) (b : Nat → Byte) (blk k : Nat) : Int := if c = 0 then (b (32 * blk + k)).toInt else ((b (32 * blk + k)).toNat : Int)
def intRow (c : Nat) (b : Nat → Byte) (blk : Nat) : List Int := (List.range 32).map (intElem c b blk)

/-- The bytes of the access with a role. -/
def roleByte (s : State) (o : Op) (role i : Nat) : Byte := vaultByte s (((o.acc.find? (fun a => a.lane == role)).getD {}).pa + i)
def roleThere (o : Op) (role n : Nat) : Prop := ∃ a, o.acc.find? (fun a => a.lane == role) = some a ∧ a.data.length = n ∧ a.mt = vaultMt

/-! ## Products, in real numbers (R62 to R71, R199 to R213) -/

/-- Bits of an element of a format code, the codes that travel in scaled lines, and blocks of a line (R67, R96). -/
def elemBits (c : Nat) : Nat := if c = 4 ∨ c = 5 then 6 else if c = 6 ∨ c = 7 then 4 else if c = 8 then 2 else 8
def inLines (c : Nat) : Bool := decide (6 ≤ c ∧ c ≤ 8)
def lineHolds (c : Nat) : Nat := if c = 8 then 28 else 15
/-- Bytes of a row of nb blocks, kept elements only where it is sparse (R66, R67, R202). -/
def rowBytes (c nb : Nat) (sparse : Bool) : Nat :=
  if inLines c then 256 * ((nb + lineHolds c - 1) / lineHolds c) else 4 * elemBits c / (if sparse then 2 else 1) * nb

/-- A row of an operand: its format, its bytes, the metadata of a sparse row, its scales and whether they are E4M3 scales. -/
structure OperandRow where
  c : Nat
  data : Nat → Byte
  kept : Option (Nat → Byte) := none
  scales : Option (Nat → Byte) := none
  e4m3 : Bool := false

/-- The metadata nibble of a group (R202). -/
def nibble (m : Nat → Byte) (q : Nat) : Nat := (m (q / 2)).toNat / 16 ^ (q % 2) % 16
/-- The code at a position of a block, packed from the least significant bits (R49, R66, R67); of a sparse row none where the position was
dropped (R202). -/
def OperandRow.code (r : OperandRow) (b p : Nat) : Option Nat :=
  let w := elemBits r.c
  match r.kept with
  | none =>
    let start := if inLines r.c then 256 * (b / lineHolds r.c) + 4 * w * (b % lineHolds r.c) else 4 * w * b
    some (valueOf (4 * w) (fun i => r.data (start + i)) / 2 ^ (w * p) % 2 ^ w)
  | some m =>
    let x := nibble m (8 * b + p / 4)
    let at_ (e : Nat) : Nat := valueOf (2 * w) (fun i => r.data (2 * w * b + i)) / 2 ^ (w * e) % 2 ^ w
    if p % 4 = x % 4 then some (at_ (2 * (p / 4))) else if p % 4 = x / 4 then some (at_ (2 * (p / 4) + 1)) else none
/-- The tag of a block's line, and its scale byte with its format (R67, R68): none for a scale of 1. -/
def OperandRow.tag (r : OperandRow) (b : Nat) : Nat := (r.data (256 * (b / lineHolds r.c) + 255)).toNat
def OperandRow.scale (r : OperandRow) (b : Nat) : Option (Nat × Bool) :=
  if inLines r.c then some ((r.data (256 * (b / lineHolds r.c) + (if r.c = 8 then 224 else 240) + b % lineHolds r.c)).toNat, (r.tag b).testBit 6)
  else r.scales.map (fun s => ((s b).toNat, r.e4m3))
/-- Each line's tag names the row's format, with no reserved bit or byte set (R68); each nibble's indices rise (R202). -/
def OperandRow.Sound (r : OperandRow) (nb : Nat) : Prop :=
  (inLines r.c = true → ∀ b, b < nb → r.tag b % 8 = r.c - 6 ∧ r.tag b / 8 % 8 = 0 ∧ (r.c = 8 → ∀ i, i < 3 → r.data (256 * (b / lineHolds r.c) + 252 + i) = 0))
  ∧ (∀ m, r.kept = some m → ∀ q, q < 8 * nb → nibble m q % 4 < nibble m q / 4)

/-- The two's complement of w bits. -/
def signedOf (w x : Nat) : Int := if 2 ^ (w - 1) ≤ x then (x : Int) - 2 ^ w else x
/-- The number of an integer code (R199). -/
def intCodeOf (c : Nat) : Option Nat → Int
  | none => 0
  | some x => if c = 0 then signedOf 8 x else x
/-- The value of a code (R50, R51, R65), and of a position that a sparse row dropped (R202). -/
def codeValue (c : Nat) : Option Nat → FV
  | none => .fin false 0 0
  | some x =>
    let int (w : Nat) (e : Int) : FV := .fin (decide (signedOf w x < 0)) (signedOf w x).natAbs e
    match c with
    | 2 => fmtE4M3.value x
    | 3 => fmtE5M2.value x
    | 4 => fmtE3M2.value x
    | 5 => fmtE2M3.value x
    | 6 => fmtE2M1.value x
    | 7 => int 4 (-2)
    | 8 => int 2 (-1)
    | _ => int 8 (-6)
/-- A value under a block scale, an E4M3 scale or an E8M0 one (R62 to R64): the NaN scale makes it NaN, and so does a zero scale an infinity. -/
def underScale (v : FV) : Option (Nat × Bool) → FV
  | none => v
  | some (x, false) => if x = 255 then .nan false else match v with
    | .fin s m e => .fin s m (e + ((x : Int) - 127))
    | v => v
  | some (x, true) => match fmtE4M3.value (x % 128), v with
    | .fin _ k g, .fin s m e => .fin s (m * k) (e + g)
    | .fin _ 0 _, _ => .nan false
    | .fin _ _ _, v => v
    | _, _ => .nan false
/-- A code of the largest magnitude of E2M1, INT4 or INT2, and a scale at the end of its range (R203). -/
def largestCode (c x : Nat) : Bool := if c = 6 then x % 8 == 7 else if c = 7 then x == 7 || x == 8 else x == 1 || x == 2
def scaleAtEnd : Option (Nat × Bool) → Bool
  | some (x, true) => x % 128 == 0x01 || x % 128 == 0x7E
  | some (x, false) => x == 0x00 || x == 0xFE
  | none => false

/-- The blocks of a row as the products see them: the positions of a block, their values before and under the scale, whether the operand is narrow, and
which blocks meet the tests SAT and SCLAMP (R203). -/
structure OperandBlocks where
  width : Nat
  raw : Nat → Nat → FV
  val : Nat → Nat → FV
  narrow : Bool
  atLargest : Nat → Bool
  clamped : Nat → Bool
def OperandRow.blocks (r : OperandRow) : OperandBlocks where
  width := 32
  raw b p := codeValue r.c (r.code b p)
  val b p := underScale (codeValue r.c (r.code b p)) (r.scale b)
  narrow := inLines r.c
  atLargest b := (List.range 32).any (fun p => match r.code b p with
    | some x => largestCode r.c x
    | none => false)
  clamped b := scaleAtEnd (r.scale b)

/-- The exact sum of a block's products (R57, R200): NaN, an infinity, or a number whose zero has its sign. -/
def BlockSum (mode : Nat) (a b : OperandBlocks) (k : Nat) (d : FV) : Prop :=
  let x (p : Nat) : FV := a.val k p
  let y (p : Nat) : FV := b.val k p
  let neg (p : Nat) : Bool := (x p).neg? != (y p).neg?
  let nan := ∃ p, p < a.width ∧ ((x p).isNan = true ∨ (y p).isNan = true ∨ ((x p).isZero = true ∧ (y p).isInf = true) ∨ ((x p).isInf = true ∧ (y p).isZero = true))
  let inf (s : Bool) := ∃ p, p < a.width ∧ ((x p).isInf = true ∨ (y p).isInf = true) ∧ neg p = s
  (nan ∨ (inf false ∧ inf true) → d.isNan = true) ∧ (¬nan → inf false → ¬inf true → d = .inf false) ∧ (¬nan → inf true → ¬inf false → d = .inf true)
  ∧ (¬nan → ¬inf false → ¬inf true → ∃ u v : Nat → ℝ, (∀ p, p < a.width → Denotes (x p) (u p) ∧ Denotes (y p) (v p))
      ∧ Denotes d ((List.range a.width).map (fun p => u p * v p)).sum
      ∧ (((List.range a.width).map (fun p => u p * v p)).sum = 0 →
          ((∀ p, p < a.width → u p * v p = 0 ∧ neg p = true) → d.neg? = true) ∧ ((∀ p, p < a.width → u p * v p = 0 ∧ neg p = false) → d.neg? = false)
          ∧ ((∃ p, p < a.width ∧ (u p * v p ≠ 0 ∨ neg p = true)) → (∃ p, p < a.width ∧ (u p * v p ≠ 0 ∨ neg p = false)) → d.neg? = decide (mode = 3))))

/-- accumulate(c, D) of a float accumulator (R201), and the MXT bits that it raises: 1 ACCINF, 2 ACCSAT. -/
def Accumulates (acc mode c : Nat) (d : FV) (y w : Nat) : Prop :=
  let F := if acc = 1 then fmtF32 else if acc = 2 then fmtF16 else fmtBF16
  let plus := F.value c = .inf false ∨ d = .inf false
  let minus := F.value c = .inf true ∨ d = .inf true
  let nan := (F.value c).isNan = true ∨ d.isNan = true ∨ (plus ∧ minus)
  (nan → y = F.nanBits ∧ w = 0) ∧ (¬nan → plus → y = (infOf F false).1 ∧ w = 0) ∧ (¬nan → minus → y = (infOf F true).1 ∧ w = 0)
  ∧ ∀ r D, Denotes (F.value c) r → Denotes d D →
    (r = 0 → D = 0 → (F.value c).neg? = d.neg? → y = (zeroOf F d.neg?).1 ∧ w = 0)
    ∧ (r + D = 0 → (r ≠ 0 ∨ (F.value c).neg? ≠ d.neg?) → y = (zeroOf F (decide (mode = 3))).1 ∧ w = 0)
    ∧ (r + D ≠ 0 → ∃ z fl neg, RoundsTo F mode false (r + D) (z, fl) ∧ SignOf neg (r + D)
        ∧ (fl.getLsbD 2 = false → y = z ∧ w = 0)
        ∧ (fl.getLsbD 2 = true → y = (if acc = 1 then (infOf F neg).1 else (zeroOf F neg).1 + F.max) ∧ w = if acc = 1 then 1 else 2))
/-- The same over n blocks in ascending order (R200). -/
def Folds (acc mode : Nat) (d : Nat → FV) : Nat → Nat → Nat → Nat → Prop
  | 0, c, y, w => y = c ∧ w = 0
  | n + 1, c, y, w => ∃ m u v, Folds acc mode d n c m u ∧ Accumulates acc mode m (d n) y v ∧ w = u ||| v

/-- The tests of a block of two operands, by their bits in MXT: 2 SAT, 3 SCLAMP, 4 HEADROOM (R203). -/
def TestHolds (a b : OperandBlocks) (k : Nat) : Nat → Prop
  | 2 => (a.narrow = true ∧ a.atLargest k = true) ∨ (b.narrow = true ∧ b.atLargest k = true)
  | 3 => (a.narrow = true ∧ a.clamped k = true) ∨ (b.narrow = true ∧ b.clamped k = true)
  | 4 => (a.narrow = true ∨ b.narrow = true) ∧ ∃ u v : Nat → ℝ, (∀ p, p < a.width → Denotes (a.raw k p) (u p) ∧ Denotes (b.raw k p) (v p))
      ∧ 0 < ((List.range a.width).map (fun p => |u p * v p|)).sum
      ∧ 64 * |((List.range a.width).map (fun p => u p * v p)).sum| ≤ ((List.range a.width).map (fun p => |u p * v p|)).sum
  | _ => False
/-- What the products of a row set make of the elements and of MXT (R200, R201, R203): each element is folded over its blocks; a bit of MXT is set where something
raised it, and TCOUNT counts the blocks of elements for which a test holds. -/
def ProductsAre (acc mode nb : Nat) (rows : List Nat) (a b : Nat → OperandBlocks) (old new : Nat → Nat → Nat) (mxt mxt' : DWord) : Prop :=
  ∃ (d : Nat → Nat → Nat → FV) (w : Nat → Nat → Nat) (T : Finset (Nat × Nat × Nat)),
    (∀ i j, i ∈ rows → j < 16 → (∀ k, k < nb → BlockSum mode (a i) (b j) k (d i j k)) ∧ Folds acc mode (d i j) nb (old i j) (new i j) (w i j))
    ∧ (∀ m, m < 2 → (mxt'.getLsbD m = true ↔ mxt.getLsbD m = true ∨ ∃ i j, i ∈ rows ∧ j < 16 ∧ (w i j).testBit m = true))
    ∧ (∀ m, 2 ≤ m → m < 5 → (mxt'.getLsbD m = true ↔ mxt.getLsbD m = true ∨ ∃ i j k, i ∈ rows ∧ j < 16 ∧ k < nb ∧ TestHolds (a i) (b j) k m))
    ∧ (∀ i j k, (i, j, k) ∈ T ↔ i ∈ rows ∧ j < 16 ∧ k < nb ∧ ∃ m, TestHolds (a i) (b j) k m)
    ∧ field mxt' 31 16 = min 65535 (field mxt 31 16 + T.card)
/-- Rounding of an operation (R54, R91). -/
def modeOf (o : Op) (f : MX) : Nat := if f.mod = 0 then o.rm else f.mod.toNat % 4

/-- The rows of `mx.mma` as an operation's accesses name them: A by its row, B by its column (R194, R199). -/
def mmaA (s : State) (o : Op) (f : MX) (i : Nat) : OperandRow :=
  { c := f.fa.toNat, data := roleByte s o i, kept := if f.spa then some (roleByte s o (64 + i)) else none
    scales := if f.imm.getLsbD 4 then some (roleByte s o (32 + i)) else none, e4m3 := f.imm.getLsbD 5 }
def mmaB (s : State) (o : Op) (f : MX) (j : Nat) : OperandRow :=
  { c := f.fb.toNat, data := roleByte s o (16 + j), scales := if f.imm.getLsbD 4 then some (roleByte s o (48 + j)) else none, e4m3 := f.imm.getLsbD 5 }
/-- The accesses that `mx.mma` makes of its rows, and no other (R194, R202). -/
def MmaAccesses (s : State) (o : Op) (f : MX) (rows : List Nat) : Prop :=
  let nb := f.imm.toNat % 16 + 1
  let there (role n : Nat) (b : Bool) : Prop := if b then roleThere o role n else ∀ a, a ∈ o.acc → a.lane ≠ role
  (∀ i, i ∈ rows → roleThere o i (rowBytes f.fa.toNat nb f.spa) ∧ there (32 + i) nb (f.imm.getLsbD 4 && !inLines f.fa.toNat) ∧ there (64 + i) (4 * nb) f.spa
    ∧ (mmaA s o f i).Sound nb)
  ∧ (∀ j, j < 16 → roleThere o (16 + j) (rowBytes f.fb.toNat nb false) ∧ there (48 + j) nb (f.imm.getLsbD 4 && !inLines f.fb.toNat) ∧ (mmaB s o f j).Sound nb)

/-- R199 to R202: `mx.mma` in each of its format combinations, with valid tags and metadata: element (i, j) is the accumulator after the blocks' sums of
products of row i of A and column j of B, in order, whatever its elements and scales hold; MXT gains what R201 and R203 raise (R52, R57, R64). -/
def MatrixProducts : Prop := ∀ s id o f, Ready s id o → CleanMemory s → o.i = .mxMma f → f.td.toNat < 8 → HasTile s.cur f.td.toNat →
  let td := f.td.toNat
  let nb := f.imm.toNat % 16 + 1
  let rows := rowsOf s.cur td o.mask
  (f.acc = 0 ∧ f.fa.toNat < 2 ∧ f.fb.toNat < 2 ∧ f.imm.getLsbD 4 = false) ∨ ((f.acc = 1 ∨ f.acc = 2 ∨ f.acc = 3) ∧ 2 ≤ f.fa.toNat ∧ f.fa.toNat ≤ 9 ∧ 2 ≤ f.fb.toNat ∧ f.fb.toNat ≤ 9) →
  (f.spa = true → inLines f.fa.toNat = false) → MmaAccesses s o f rows →
  Completes (.longLatencyCompletion s.cur.tid id) s (fun t => Left s t o ∧ SameHomes s t ∧ SameVaults s t
    ∧ (∀ k, k ≠ td → accTile t.cur k = accTile s.cur k) ∧ t.cur.r.wide = s.cur.r.wide ∧ t.cur.mxb = s.cur.mxb
    ∧ (∀ i j, i < 16 → j < 16 → i ∉ rows → accElem t.cur td i j = accElem s.cur td i j)
    ∧ (f.acc = 0 → ∀ i j, i ∈ rows → j < 16 → accElem t.cur td i j = wrap 32 ((List.range nb).foldl (fun c b => intBlock c
        ((List.range 32).map (fun p => intCodeOf f.fa.toNat ((mmaA s o f i).code b p))) ((List.range 32).map (fun p => intCodeOf f.fb.toNat ((mmaB s o f j).code b p)))) (accElem s.cur td i j).toInt))
    ∧ (f.acc = 0 → (t.cur.mxt.getLsbD 1 = true ↔ s.cur.mxt.getLsbD 1 = true ∨ ∃ i j k, i ∈ rows ∧ j < 16 ∧ k < nb ∧
          let x := (List.range k).foldl (fun c b => intBlock c ((List.range 32).map (fun p => intCodeOf f.fa.toNat ((mmaA s o f i).code b p)))
            ((List.range 32).map (fun p => intCodeOf f.fb.toNat ((mmaB s o f j).code b p)))) (accElem s.cur td i j).toInt
            + ((List.range 32).map (fun p => intCodeOf f.fa.toNat ((mmaA s o f i).code k p) * intCodeOf f.fb.toNat ((mmaB s o f j).code k p))).sum
          x < -(2 ^ 31 - 1) ∨ 2 ^ 31 - 1 < x)
        ∧ (∀ m, m < 5 → m ≠ 1 → t.cur.mxt.getLsbD m = s.cur.mxt.getLsbD m) ∧ field t.cur.mxt 31 16 = field s.cur.mxt 31 16)
    ∧ (f.acc ≠ 0 → let n := if f.acc = 1 then 32 else 16
        ProductsAre f.acc.toNat (modeOf o f) nb rows (fun i => (mmaA s o f i).blocks) (fun j => (mmaB s o f j).blocks)
          (fun i j => (accElem s.cur td i j).toNat % 2 ^ n) (fun i j => (accElem t.cur td i j).toNat) s.cur.mxt t.cur.mxt))

/-- The integer that the first p planes give element e of a group, the most significant first (R69, R70). -/
def planesInt (p : Nat) (plane : Nat → Nat → Byte) (g e : Nat) : Int :=
  let bit (k : Nat) : Int := if (plane k (8 * g + e / 8)).getLsbD (e % 8) then 1 else 0
  ((List.range p).map (fun k => bit k * 2 ^ (p - 1 - k))).sum - bit 0 * 2 ^ p

/-- The groups of a row of planes: each element is p planes' integer times 2^(1 − p), under the group's scale. -/
def planeBlocks (p : Nat) (plane : Nat → Nat → Byte) (sc : Nat → Byte) : OperandBlocks :=
  let raw (g e : Nat) : FV := .fin (decide (planesInt p plane g e < 0)) (planesInt p plane g e).natAbs (1 - (p : Int))
  { width := 64, raw := raw, val := fun g e => underScale (raw g e) (some ((sc g).toNat, false)), narrow := decide (p ≤ 4), atLargest := fun _ => false
    clamped := fun g => scaleAtEnd (some ((sc g).toNat, false)) }

/-- R69, R70, R200, R201, R203: `mx.bpmma`: groups of 64 elements, each p planes' integer times 2^(1 − p) and the group's scale. -/
def PlaneProducts : Prop := ∀ s id o f, Ready s id o → CleanMemory s → o.i = .mxBpmma f → f.td.toNat < 8 → HasTile s.cur f.td.toNat →
  let td := f.td.toNat
  let ng := f.imm.toNat % 16 + 1
  let pa := f.ns.toNat
  let pb := f.imm.toNat / 16 % 16
  let rows := rowsOf s.cur td o.mask
  f.acc = 1 ∨ f.acc = 2 ∨ f.acc = 3 → 2 ≤ pa → pa ≤ 8 → 2 ≤ pb → pb ≤ 8 →
  (∀ i, i ∈ rows → roleThere o (32 + i) ng ∧ ∀ k, k < pa → roleThere o (128 + 16 * i + k) (8 * ng)) →
  (∀ j, j < 16 → roleThere o (48 + j) ng ∧ ∀ k, k < pb → roleThere o (512 + 16 * j + k) (8 * ng)) →
  Completes (.longLatencyCompletion s.cur.tid id) s (fun t => Left s t o ∧ SameHomes s t ∧ SameVaults s t
    ∧ (∀ k, k ≠ td → accTile t.cur k = accTile s.cur k) ∧ t.cur.r.wide = s.cur.r.wide ∧ t.cur.mxb = s.cur.mxb
    ∧ (∀ i j, i < 16 → j < 16 → i ∉ rows → accElem t.cur td i j = accElem s.cur td i j)
    ∧ (let n := if f.acc = 1 then 32 else 16
       ProductsAre f.acc.toNat (modeOf o f) ng rows (fun i => planeBlocks pa (fun k => roleByte s o (128 + 16 * i + k)) (roleByte s o (32 + i)))
         (fun j => planeBlocks pb (fun k => roleByte s o (512 + 16 * j + k)) (roleByte s o (48 + j)))
         (fun i j => (accElem s.cur td i j).toNat % 2 ^ n) (fun i j => (accElem t.cur td i j).toNat) s.cur.mxt t.cur.mxt))

/-- Places in a slice image of nb blocks of c elements (R205). -/
def expAt (b i : Nat) : Nat := 2 * (16 * b + i)
def classAt (c nb b i e : Nat) : Nat := 32 * nb + 16 * c * b + c * i + e
def digitAt (c nb j b i e : Nat) : Nat := (32 + 16 * c) * nb + 16 * c * (nb * (j - 1) + b) + c * i + e

/-- R205, R206: `mx.slice` writes each block-row's exponent, classes and digits. -/
def SliceCuts : Prop := ∀ s id o f out, Ready s id o → CleanMemory s → o.i = .mxSlice f → o.acc.find? (fun a => a.lane == 16) = some out → out.mt = vaultMt → 1 ≤ f.ns.toNat → f.ns.toNat ≤ 8 →
  let c := if f.spa then 16 else 32
  let nb := f.imm.toNat % 16 + 1
  let n := f.ns.toNat
  (∀ i, i < 16 → roleThere o i (8 * c * nb)) →
  Completes (.longLatencyCompletion s.cur.tid id) s (fun t => LeftPlain s t o ∧ SameHomes s t ∧ t.cur.r = s.cur.r
    ∧ (∀ q, (q < out.pa ∨ out.pa + ((32 + 16 * c) * nb + 16 * c * nb * n) ≤ q) → vaultByte t q = vaultByte s q)
    ∧ ∀ i b, i < 16 → b < nb →
      let x (e : Nat) : Nat := valueOf 8 (fun k => roleByte s o i (8 * (c * b + e) + k))
      let image (q : Nat) : Byte := vaultByte t (out.pa + q)
      let exponent := valueOf 2 (fun k => image (expAt b i + k))
      (∀ e, e < c → (image (classAt c nb b i e)).toNat = x e / 2 ^ 63 * 128 + (match fmtF64.value (x e) with
          | .nan _ => 3
          | .inf _ => 2
          | .fin _ m _ => if m = 0 then 0 else 1))
      ∧ ((∀ e v, e < c → Denotes (fmtF64.value (x e)) v → v = 0) → exponent = 0x8000 ∧ ∀ e j, e < c → 1 ≤ j → j ≤ n → image (digitAt c nb j b i e) = 0)
      ∧ ((∃ e v, e < c ∧ Denotes (fmtF64.value (x e)) v ∧ v ≠ 0) → ∃ E : Int, exponent = (E % 2 ^ 16).toNat
          ∧ (∀ e v, e < c → Denotes (fmtF64.value (x e)) v → |v| < (2 : ℝ) ^ (E + 1)) ∧ (∃ e v, e < c ∧ Denotes (fmtF64.value (x e)) v ∧ (2 : ℝ) ^ E ≤ |v|)
          ∧ (∀ e, e < c → (fmtF64.value (x e)).isNan = true ∨ (fmtF64.value (x e)).isInf = true → ∀ j, 1 ≤ j → j ≤ n → image (digitAt c nb j b i e) = 0)
          ∧ ∀ e v, e < c → Denotes (fmtF64.value (x e)) v → ∃ T : Nat, (T : ℝ) ≤ |v| * (2 : ℝ) ^ (7 * (n : Int) - E - 1) ∧ |v| * (2 : ℝ) ^ (7 * (n : Int) - E - 1) < (T : ℝ) + 1
            ∧ ∀ j, 1 ≤ j → j ≤ n → (image (digitAt c nb j b i e)).toInt = (if x e / 2 ^ 63 = 1 then (-1 : Int) else 1) * (T / 2 ^ (7 * (n - j)) % 128 : Nat)))

/-- A block-row of a slice image as `mx.dmma` reads it, over the 32 dense positions (R205, R207): its exponent's bytes, its classes, its digits. -/
structure SlicedRow where
  expo : Nat
  cls : Nat → Nat
  dig : Nat → Nat → Int
/-- The place of dense position k among the elements of a block-row: itself, or that of the kept element there, if any (R202). -/
def placeOf (m : Option (Nat → Byte)) (b k : Nat) : Option Nat :=
  match m with
  | none => some k
  | some m => let x := nibble m (8 * b + k / 4); if k % 4 = x % 4 then some (2 * (k / 4)) else if k % 4 = x / 4 then some (2 * (k / 4) + 1) else none
/-- The role of a part of a block-row: side, row, block, part; part 0 the exponent, 1 the classes, 1 + j digit j. -/
def partRole (side i b part : Nat) : Nat := 4096 * side + 256 * i + 16 * b + part
def slicedRow (s : State) (o : Op) (side i b : Nat) (m : Option (Nat → Byte)) : SlicedRow where
  expo := valueOf 2 (roleByte s o (partRole side i b 0))
  cls k := match placeOf m b k with
    | none => 0
    | some e => (roleByte s o (partRole side i b 1) e).toNat
  dig j k := match placeOf m b k with
    | none => 0
    | some e => (roleByte s o (partRole side i b (1 + j)) e).toInt
/-- The block-row is there and raises no Tile Fault (R196). -/
def SoundPart (s : State) (o : Op) (side i b c n : Nat) : Prop :=
  let e := (BitVec.ofNat 16 (valueOf 2 (roleByte s o (partRole side i b 0)))).toInt
  roleThere o (partRole side i b 0) 2 ∧ (e = -32768 ∨ (-1074 ≤ e ∧ e ≤ 1023))
  ∧ roleThere o (partRole side i b 1) c ∧ (∀ k, k < c → (roleByte s o (partRole side i b 1) k).toNat / 4 % 32 = 0)
  ∧ ∀ j, 1 ≤ j → j ≤ n → roleThere o (partRole side i b (1 + j)) c ∧ ∀ k, k < c → roleByte s o (partRole side i b (1 + j)) k ≠ 0x80

/-- The exact sum of the slice pairs that are formed, and the highest nonzero digit of a position (R207). -/
def pairSum (n : Nat) (a b : SlicedRow) : Int :=
  ((List.range n).map (fun j => ((List.range n).map (fun l => if j + l + 2 ≤ n + 1 then
    ((List.range 32).map (fun k => a.dig (j + 1) k * b.dig (l + 1) k)).sum * 2 ^ (7 * (n - 1 - j - l)) else 0)).sum)).sum

/-- The least number of 16 significant bits that is not below a bound plus x (R210). -/
def Raises (b b' : Bound) (x : ℝ) : Prop :=
  b'.sig < 2 ^ 16 ∧ (b.sig : ℝ) * (2 : ℝ) ^ b.exp + x ≤ (b'.sig : ℝ) * (2 : ℝ) ^ b'.exp
  ∧ ∀ m : Nat, ∀ e : Int, m < 2 ^ 16 → (b.sig : ℝ) * (2 : ℝ) ^ b.exp + x ≤ (m : ℝ) * (2 : ℝ) ^ e → (b'.sig : ℝ) * (2 : ℝ) ^ b'.exp ≤ (m : ℝ) * (2 : ℝ) ^ e

/-- churn_add(I, w) on an element (R208): the window moves to the least weight at which the exact sum fits. -/
def ChurnAdds (e e' : WElem) (i w : Int) : Prop :=
  let lam : Int := (e.z.toNat : Int) - 2250
  let x : ℝ := (e.v.toInt : ℝ) * (2 : ℝ) ^ lam + (i : ℝ) * (2 : ℝ) ^ w
  let fits (l : Int) : Prop := -(2 : ℝ) ^ (111 + l) ≤ x ∧ x < (2 : ℝ) ^ (111 + l)
  if i = 0 ∨ e.z = 4095 then e' = e
  else ∃ l, min lam w ≤ l ∧ fits l ∧ (∀ k, min lam w ≤ k → fits k → l ≤ k) ∧ e'.spec = e.spec ∧ e'.zneg = e.zneg
    ∧ (1844 < l → e'.z = 4095 ∧ (x < 0 → e'.v.toInt = -(2 ^ 111)) ∧ (0 ≤ x → e'.v.toInt = 2 ^ 111 - 1) ∧ e'.sticky = e.sticky ∧ e'.bound = e.bound)
    ∧ (l ≤ 1844 → ((e'.z.toNat : Nat) : Int) = l + 2250 ∧ (e'.v.toInt : ℝ) * (2 : ℝ) ^ l ≤ x ∧ x < ((e'.v.toInt : ℝ) + 1) * (2 : ℝ) ^ l
        ∧ ((e'.v.toInt : ℝ) * (2 : ℝ) ^ l = x → e'.sticky = e.sticky ∧ e'.bound = e.bound)
        ∧ ((e'.v.toInt : ℝ) * (2 : ℝ) ^ l ≠ x → e'.sticky = true ∧ Raises e.bound e'.bound ((2 : ℝ) ^ l)))

/-- The classes of the products of a block (R209). -/
def productNan (x y : Nat) : Prop := x % 4 = 3 ∨ y % 4 = 3 ∨ (x % 4 = 0 ∧ y % 4 = 2) ∨ (x % 4 = 2 ∧ y % 4 = 0)
def productNeg (x y : Nat) : Prop := x / 128 ≠ y / 128
def productInf (x y : Nat) : Prop := ¬productNan x y ∧ (x % 4 = 2 ∨ y % 4 = 2)
def productZero (x y : Nat) : Prop := ¬productNan x y ∧ ¬productInf x y ∧ (x % 4 = 0 ∨ y % 4 = 0)
/-- The side path of a block (R209). -/
def SidePath (e e' : WElem) (a b : SlicedRow) : Prop :=
  let plus := e.spec = 2 ∨ ∃ k, k < 32 ∧ productInf (a.cls k) (b.cls k) ∧ ¬productNeg (a.cls k) (b.cls k)
  let minus := e.spec = 3 ∨ ∃ k, k < 32 ∧ productInf (a.cls k) (b.cls k) ∧ productNeg (a.cls k) (b.cls k)
  let nan := e.spec = 1 ∨ (∃ k, k < 32 ∧ productNan (a.cls k) (b.cls k)) ∨ (plus ∧ minus)
  (nan → e'.spec = 1) ∧ (¬nan → plus → e'.spec = 2) ∧ (¬nan → minus → e'.spec = 3) ∧ (¬nan → ¬plus → ¬minus → e'.spec = 0)
  ∧ (e'.zneg = true ↔ e.zneg = true ∧ ∀ k, k < 32 → productZero (a.cls k) (b.cls k) ∧ productNeg (a.cls k) (b.cls k))
  ∧ e'.v = e.v ∧ e'.z = e.z ∧ e'.sticky = e.sticky ∧ e'.bound = e.bound

/-- One block folded into an element (R207). -/
def BlockFolds (n : Nat) (a b : SlicedRow) (e e' : WElem) : Prop :=
  let ea := (BitVec.ofNat 16 a.expo).toInt
  let eb := (BitVec.ofNat 16 b.expo).toInt
  ∃ u, SidePath u e' a b ∧ (if a.expo = 0x8000 ∨ b.expo = 0x8000 then u = e
    else ∃ v, ChurnAdds e v (pairSum n a b) (ea + eb + 2 - 7 * ((n : Int) + 1))
      ∧ u = { v with bound := u.bound } ∧ Raises v.bound u.bound (32 * ((n : ℝ) + 2) * (2 : ℝ) ^ (ea + eb + 2 - 7 * (n : Int))))
def BlocksFold (n : Nat) (a b : Nat → SlicedRow) : Nat → WElem → WElem → Prop
  | 0, e, e' => e' = e
  | k + 1, e, e' => ∃ m, BlocksFold n a b k e m ∧ BlockFolds n (a k) (b k) m e'

/-- R207 to R210: `mx.dmma` with valid images and metadata. -/
def WideProducts : Prop := ∀ s id o f, Ready s id o → CleanMemory s → o.i = .mxDmma f → 8 ≤ f.td.toNat → HasTile s.cur f.td.toNat → 1 ≤ f.ns.toNat → f.ns.toNat ≤ 8 →
  let q := f.td.toNat - 8
  let nb := f.imm.toNat % 16 + 1
  let n := f.ns.toNat
  let rows := rowsOf s.cur f.td.toNat o.mask
  let m (i : Nat) : Option (Nat → Byte) := if f.spa then some (roleByte s o (partRole 2 i 0 0)) else none
  (∀ i b, i ∈ rows → b < nb → SoundPart s o 0 i b (if f.spa then 16 else 32) n) → (∀ j b, j < 16 → b < nb → SoundPart s o 1 j b 32 n) →
  (∀ a, a ∈ o.acc → ∃ side i b part, a.lane = partRole side i b part ∧ part < n + 2 ∧ b < nb ∧ ((side = 0 ∧ i ∈ rows) ∨ (side = 1 ∧ i < 16) ∨ (side = 2 ∧ b = 0 ∧ part = 0 ∧ i ∈ rows))) →
  (f.spa = true → ∀ i, i ∈ rows → roleThere o (partRole 2 i 0 0) (4 * nb) ∧ ∀ g, g < 8 * nb → nibble (roleByte s o (partRole 2 i 0 0)) g % 4 < nibble (roleByte s o (partRole 2 i 0 0)) g / 4) →
  Completes (.longLatencyCompletion s.cur.tid id) s (fun t => Left s t o ∧ SameHomes s t ∧ SameVaults s t ∧ (∀ k, k ≠ q → wideTile t.cur k = wideTile s.cur k)
    ∧ t.cur.r.tile = s.cur.r.tile ∧ t.cur.mxt = s.cur.mxt ∧ t.cur.mxb = s.cur.mxb
    ∧ (∀ i j, i < 16 → j < 16 → i ∉ rows → wideElem t.cur q i j = wideElem s.cur q i j)
    ∧ ∀ i j, i ∈ rows → j < 16 → BlocksFold n (fun b => slicedRow s o 0 i b (m i)) (fun b => slicedRow s o 1 j b none) nb (wideElem s.cur q i j) (wideElem t.cur q i j))

/-- The faults of a row of scaled lines, in the order in which it is read: DETAIL, and the line's address (R68; log 73 for a line that meets both). -/
def tagFaults (r : OperandRow) (va nb : Nat) : List (Nat × Nat) :=
  if inLines r.c then (List.range ((nb + lineHolds r.c - 1) / lineHolds r.c)).filterMap (fun k =>
    let tag := (r.data (256 * k + 255)).toNat
    let d : Nat := if tag / 8 % 8 ≠ 0 ∨ 3 ≤ tag % 8 ∨ (tag % 8 = 2 ∧ (List.range 3).any (fun i => r.data (256 * k + 252 + i) != 0) = true) then 0x21
      else if tag % 8 ≠ r.c - 6 then 0x22 else 0
    if d = 0 then none else some (d, (va + 256 * k) % 2 ^ 32))
  else []
/-- The faults of a row's metadata (R202). -/
def nibbleFaults (m : Nat → Byte) (va nb : Nat) : List (Nat × Nat) :=
  ((List.range (8 * nb)).filter (fun q => decide (nibble m q / 4 ≤ nibble m q % 4))).map (fun q => (0x25, (va + q / 2) % 2 ^ 32))
def vaOf (o : Op) (role : Nat) : Nat := ((o.acc.find? (fun a => a.lane == role)).getD {}).va
/-- The faults of `mx.mma` in its reading order (R196): A, its metadata, B. -/
def mmaFaults (s : State) (o : Op) (f : MX) (rows : List Nat) : List (Nat × Nat) :=
  let nb := f.imm.toNat % 16 + 1
  if rows = [] then [] else
    rows.flatMap (fun i => tagFaults (mmaA s o f i) (vaOf o i) nb) ++ (if f.spa then rows.flatMap (fun i => nibbleFaults (roleByte s o (64 + i)) (vaOf o (64 + i)) nb) else [])
      ++ (List.range 16).flatMap (fun j => tagFaults (mmaB s o f j) (vaOf o (16 + j)) nb)
/-- The faults of one part of a slice image: the exponent, the classes, or a digit plane (R71, R196). -/
def partFaults (s : State) (o : Op) (a : Acc) : List (Nat × Nat) :=
  let b (i : Nat) : Byte := roleByte s o a.lane i
  let n := a.data.length
  if a.lane % 16 = 0 then (let e := (BitVec.ofNat 16 (valueOf 2 b)).toInt; if e = -32768 ∨ (-1074 ≤ e ∧ e ≤ 1023) then [] else [(0x26, a.va % 2 ^ 32)])
  else if a.lane % 16 = 1 then ((List.range n).filter (fun i => (b i).toNat / 4 % 32 != 0)).map (fun i => (0x24, (a.va + i) % 2 ^ 32))
  else ((List.range n).filter (fun i => b i == 0x80)).map (fun i => (0x23, (a.va + i) % 2 ^ 32))
/-- The faults of `mx.dmma` in its reading order: the parts of A as its accesses name them, row by row and block by block, A's metadata, the parts of B. -/
def dmmaFaults (s : State) (o : Op) (f : MX) (rows : List Nat) : List (Nat × Nat) :=
  if rows = [] then [] else
    (o.acc.filter (fun a => decide (a.lane < 4096))).flatMap (partFaults s o)
      ++ (if f.spa then rows.flatMap (fun i => nibbleFaults (roleByte s o (partRole 2 i 0 0)) (vaOf o (partRole 2 i 0 0)) (f.imm.toNat % 16 + 1)) else [])
      ++ (o.acc.filter (fun a => decide (4096 ≤ a.lane ∧ a.lane < 8192))).flatMap (partFaults s o)

/-- R71, R196, R202: `mx.mma` or `mx.dmma` whose data raise a Tile Fault defers the first in its reading order, with that byte's DETAIL and address, and writes nothing; its
flag falls. With none it defers nothing. The team takes the earliest issued of its pending faults at its exit, as at every observation point: TRAPPC is the faulting instruction's address,
REPLAY 0. -/
def DataFaults : Prop :=
  (∀ s id o f l, Ready s id o → CleanMemory s → HasTile s.cur f.td.toNat → let rows := rowsOf s.cur f.td.toNat o.mask
    let nb := f.imm.toNat % 16 + 1
    let there (side i : Nat) : Prop := ∀ b part, b < nb → part < f.ns.toNat + 2 →
      roleThere o (partRole side i b part) (if part = 0 then 2 else if f.spa = true ∧ side = 0 then 16 else 32)
    (o.i = .mxMma f ∧ f.td.toNat < 8 ∧ l = mmaFaults s o f rows
        ∧ (∀ i, i ∈ rows → roleThere o i (rowBytes f.fa.toNat nb f.spa) ∧ (f.spa = true → roleThere o (64 + i) (4 * nb))) ∧ (∀ j, j < 16 → roleThere o (16 + j) (rowBytes f.fb.toNat nb false)))
      ∨ (o.i = .mxDmma f ∧ 8 ≤ f.td.toNat ∧ l = dmmaFaults s o f rows ∧ 1 ≤ f.ns.toNat ∧ f.ns.toNat ≤ 8 ∧ (∀ i, i ∈ rows → there 0 i) ∧ (∀ j, j < 16 → there 1 j)
        ∧ (∀ a, a ∈ o.acc → ∃ side i b part, a.lane = partRole side i b part ∧ part < f.ns.toNat + 2 ∧ i < 16 ∧ b < nb ∧ side < 3)
        ∧ (f.spa = true → ∀ i, i ∈ rows → roleThere o (partRole 2 i 0 0) (4 * nb))) →
    Completes (.longLatencyCompletion s.cur.tid id) s (fun t => LeftOrFaulted s t o ∧ SameHomes s t ∧ SameVaults s t
      ∧ (l = [] → t.cur.deferred = s.cur.deferred)
      ∧ ∀ d a r, l = (d, a) :: r → t.cur.r = s.cur.r ∧ t.cur.mxt = s.cur.mxt ∧ t.cur.mxb = s.cur.mxb
          ∧ t.cur.deferred = s.cur.deferred ++ [{ op := o, cause := 0xF, detail := d, addr := a, lane := none, replay := false }]))
  ∧ (∀ s c f d, Issues (.exit f) s c → s.cur.ops = [] → s.cur.flags = [] → d ∈ s.cur.deferred → (∀ e, e ∈ s.cur.deferred → e ≠ d → d.op.id < e.op.id) →
    exec (.exit f) s = .next (takeTrap { s with cur := { s.cur with deferred := s.cur.deferred.filter (fun e => e.op.id != d.op.id) } } d.op.pc
      { cause := d.cause, detail := d.detail, addr := d.addr, lane := d.lane, replay := d.replay } (.deferred d.op)))

/-- The FP64 value of a wide element (R213): STICKY adds an amount below any spacing. -/
def Recombines (mode : Nat) (e : WElem) (y : Nat) : Prop :=
  let x : ℝ := (e.v.toInt : ℝ) * (2 : ℝ) ^ ((e.z.toNat : Int) - 2250)
  match e.spec.toNat with
  | 1 => y = 0x7FF8000000000000
  | 2 => y = 0x7FF0000000000000
  | 3 => y = 0xFFF0000000000000
  | _ => if e.z = 4095 then
      let neg := decide (e.v.toInt < 0)
      y = (if neg then 2 ^ 63 else 0) + (if mode = 0 ∨ (mode = 2 ∧ neg = false) ∨ (mode = 3 ∧ neg = true) then 0x7FF0000000000000 else 0x7FEFFFFFFFFFFFFF)
    else if e.sticky then ∃ d : ℝ, 0 < d ∧ ∀ u : ℝ, 0 < u → u < d → ∃ fl, RoundsTo fmtF64 mode false (x + u) (y, fl)
    else (x = 0 → y = if e.zneg = true ∨ mode = 3 then 2 ^ 63 else 0) ∧ (x ≠ 0 → ∃ fl, RoundsTo fmtF64 mode false x (y, fl))
/-- The plane entry of a wide element (R213): the least β with B at most 2^β. -/
def BoundEntry (e : WElem) (y : Nat) : Prop :=
  if e.spec ≠ 0 ∨ e.z = 4095 then y = 0x7FFF
  else if e.bound.sig = 0 then y = 0x8000
  else ∃ b : Int, y = (b % 2 ^ 16).toNat ∧ (e.bound.sig : ℝ) * (2 : ℝ) ^ e.bound.exp ≤ (2 : ℝ) ^ b ∧ (2 : ℝ) ^ (b - 1) < (e.bound.sig : ℝ) * (2 : ℝ) ^ e.bound.exp

/-- The vault ranges of an operation's accesses do not meet. -/
def Apart (o : Op) (n : Acc → Nat) : Prop := ∀ a b, a ∈ o.acc → b ∈ o.acc → a ≠ b → a.pa + n a ≤ b.pa ∨ b.pa + n b ≤ a.pa

/-- R198, R213, R214: the rows that `mx.st`, `mx.rc` and `mx.bnd` write, each at its place, and the 16-byte pieces that `mx.ld` and `mx.st` move at their homes. -/
def RowsMove : Prop := ∀ s id o, Ready s id o → GoodMemory s →
  (∀ f, o.i = .mxSt f → f.td.toNat < 10 → HasTile s.cur f.td.toNat → let td := f.td.toNat
    let n := if td < 8 then 64 else 256
    (∀ a, a ∈ o.acc → a.mt = vaultMt ∧ a.lane / 16 ∈ rowsOf s.cur td o.mask) → Apart o (fun _ => n) →
    Completes (.longLatencyCompletion s.cur.tid id) s (fun t => LeftPlain s t o ∧ SameHomes s t ∧ t.cur.r = s.cur.r
      ∧ (∀ q, (∀ a, a ∈ o.acc → q < a.pa ∨ a.pa + n ≤ q) → vaultByte t q = vaultByte s q)
      ∧ ∀ a j, a ∈ o.acc → j < 16 → if td < 8 then rowWord (fun k => vaultByte t (a.pa + k)) j = accElem s.cur td (a.lane / 16) j
          else rowWide (fun k => vaultByte t (a.pa + k)) j = { wideElem s.cur (td - 8) (a.lane / 16) j with bound := {} }))
  ∧ (∀ f a x p, o.i = .mxSt f → f.td.toNat < 10 → HasTile s.cur f.td.toNat → o.acc = [a] → a.mt = 0 → a.lane / 16 ∈ rowsOf s.cur f.td.toNat o.mask → a.pa % 16 = 0 → a.done = false →
    locate s a.pa = some (x, p) → (siteOf s x).lost = false → p + 16 ≤ 2 ^ 36 → let td := f.td.toNat
    Completes (.longLatencyCompletion s.cur.tid id) s (fun t => LeftPlain s t o ∧ SameVaults s t ∧ t.cur.r = s.cur.r ∧ LeavesL1s s t s.cur.die a.pa
      ∧ (∀ y q, q < 2 ^ 36 → (y ≠ x ∨ q < p ∨ p + 16 ≤ q) → homeByte t y q = homeByte s y q)
      ∧ (td < 8 → ∀ j, j < 4 → rowWord (fun k => homeByte t x (p + k)) j = accElem s.cur td (a.lane / 16) (4 * (a.lane % 16) + j))
      ∧ (8 ≤ td → rowWide (fun k => homeByte t x (p + k)) 0 = { wideElem s.cur (td - 8) (a.lane / 16) (a.lane % 16) with bound := {} })))
  ∧ (∀ f, o.i = .mxLd f → f.td.toNat < 10 → HasTile s.cur f.td.toNat → let td := f.td.toNat
    (∀ i, i ∈ rowsOf s.cur td o.mask → o.acc.filter (fun a => a.lane / 16 == i) ≠ []) →
    (∀ a, a ∈ o.acc → a.mt = 0 ∧ a.done = false ∧ a.pa % 16 = 0 ∧ ∃ x p, locate s a.pa = some (x, p) ∧ (siteOf s x).lost = false ∧ p + 16 ≤ 2 ^ 36) →
    (∀ i, i ∈ rowsOf s.cur td o.mask → (o.acc.filter (fun a => a.lane / 16 == i)).map (fun a => a.lane % 16) = List.range (if td < 8 then 4 else 16)) →
    Completes (.longLatencyCompletion s.cur.tid id) s (fun t => LeftPlain s t o ∧ SameHomes s t ∧ SameVaults s t
      ∧ ∀ i j a x p, i ∈ rowsOf s.cur td o.mask → a ∈ o.acc → locate s a.pa = some (x, p) → j < 4 →
        (td < 8 → a.lane = 16 * i + a.lane % 16 → accElem t.cur td i (4 * (a.lane % 16) + j) = rowWord (fun k => homeByte s x (p + k)) j)
        ∧ (8 ≤ td → a.lane = 16 * i + a.lane % 16 → wideElem t.cur (td - 8) i (a.lane % 16) = { rowWide (fun k => homeByte s x (p + k)) 0 with bound := {} })))
  ∧ (∀ f, o.i = .mxRc f ∨ o.i = .mxBnd f → 8 ≤ f.td.toNat → f.td.toNat < 10 → HasTile s.cur f.td.toNat → rowsOf s.cur f.td.toNat o.mask ≠ [] →
    (∀ a, a ∈ o.acc → a.lane < 32 ∧ a.lane % 16 ∈ rowsOf s.cur f.td.toNat o.mask) → Apart o (fun a => if a.lane < 16 then 128 else 32) →
    Completes (.longLatencyCompletion s.cur.tid id) s (fun t => Left s t o ∧ SameHomes s t ∧ t.cur.r = s.cur.r ∧ t.cur.mxt = s.cur.mxt
      ∧ (∀ q, (∀ a, a ∈ o.acc → q < a.pa ∨ a.pa + (if a.lane < 16 then 128 else 32) ≤ q) → vaultByte t q = vaultByte s q)
      ∧ (∀ a j, a ∈ o.acc → j < 16 → let e := wideElem s.cur (f.td.toNat - 8) (a.lane % 16) j
          if a.lane < 16 then Recombines (modeOf o f) e (valueOf 8 (fun k => vaultByte t (a.pa + 8 * j + k))) else BoundEntry e (valueOf 2 (fun k => vaultByte t (a.pa + 2 * j + k))))
      ∧ (let bound (e : WElem) : Prop := e.spec = 0 ∧ e.z ≠ 4095 ∧ e.bound.sig ≠ 0
         ((∀ i j, i ∈ rowsOf s.cur f.td.toNat o.mask → j < 16 → ¬bound (wideElem s.cur (f.td.toNat - 8) i j)) → field t.cur.mxb 63 48 = 0x8000)
         ∧ ((∃ i j, i ∈ rowsOf s.cur f.td.toNat o.mask ∧ j < 16 ∧ bound (wideElem s.cur (f.td.toNat - 8) i j)) →
            (∃ i j, i ∈ rowsOf s.cur f.td.toNat o.mask ∧ j < 16 ∧ bound (wideElem s.cur (f.td.toNat - 8) i j) ∧ BoundEntry (wideElem s.cur (f.td.toNat - 8) i j) (field t.cur.mxb 63 48))
            ∧ ∀ i j y, i ∈ rowsOf s.cur f.td.toNat o.mask → j < 16 → bound (wideElem s.cur (f.td.toNat - 8) i j) → BoundEntry (wideElem s.cur (f.td.toNat - 8) i j) y →
              (BitVec.ofNat 16 y).toInt ≤ (BitVec.ofNat 16 (field t.cur.mxb 63 48)).toInt))))

end Sys2Proof.Claims

/-- R32, R192, R197: `tacq` gives an accumulator tile, or a wide tile as soon as the cell has one free, to a group of lanes, its elements empty; an ordinal outside
the launch's, a tile held already, a second wide tile of a protected team and a group outside the team trap, in that order. `trel` gives a tile back once no
outstanding operation names it. The head of a cell's wide-tile queue is granted while the cell has a tile free. `mx.chk` moves MXT to a scalar and clears it. -/
def Obligations.TilesHeld : Prop := ∀ f s c, s.cur.dying = [] → let td := f.td.toNat
  let g := f.imm.toNat % 64
  let ck := ckey s.cur.die (laneCell s.cur (g * s.cur.group))
  (Issues (.tacq f) s c → s.cur.granted = none →
    (td < 8 → (curLaunch s).d.tiles ≤ td → exec (.tacq f) s = .next (takeTrap s (c.hdr + 8 * (c.idx + 1)) { cause := 0xF, detail := 2 } .instr))
    ∧ (td < 10 → (8 ≤ td ∨ td < (curLaunch s).d.tiles) → HasTile s.cur td →
        exec (.tacq f) s = .next (takeTrap s (c.hdr + 8 * (c.idx + 1)) { cause := 0xF, detail := 3 } .instr))
    ∧ (td < 10 → (8 ≤ td ∨ td < (curLaunch s).d.tiles) → ¬HasTile s.cur td → (td < 8 ∨ s.cur.prot = false) → s.cur.width / s.cur.group ≤ g →
        exec (.tacq f) s = .next (takeTrap s (c.hdr + 8 * (c.idx + 1)) { cause := 3, detail := 8 } .instr))
    ∧ (8 ≤ td → td < 10 → ¬HasTile s.cur td → s.cur.prot = true → (∃ q x, wideTile s.cur q = some x) →
        exec (.tacq f) s = .next (takeTrap s (c.hdr + 8 * (c.idx + 1)) { cause := 0xF, detail := 4 } .instr))
    ∧ (8 ≤ td → td < 10 → ¬HasTile s.cur td → s.cur.prot = true → s.cur.r.wide = [] → s.cur.width / s.cur.group ≤ g →
        exec (.tacq f) s = .next (takeTrap s (c.hdr + 8 * (c.idx + 1)) { cause := 3, detail := 8 } .instr))
    ∧ (td < 8 → td < (curLaunch s).d.tiles → ¬HasTile s.cur td → g < s.cur.width / s.cur.group →
        Completes (.tacq f) s (fun t => HasTile t.cur td ∧ ownerBase t.cur td = g * s.cur.group ∧ (∀ i j, accElem t.cur td i j = 0)
          ∧ (∀ k, k ≠ td → accTile t.cur k = accTile s.cur k) ∧ (∀ q, wideTile t.cur q = wideTile s.cur q)
          ∧ beyondTiles t.cur = beyondTiles s.cur ∧ GoesOn c s.cur t.cur ∧ others t = others s))
    ∧ (8 ≤ td → td < 10 → ¬HasTile s.cur td → s.cur.prot = false → s.cur.sh = none → g < s.cur.width / s.cur.group → (cellOf s ck).wideq = [] →
        s.cur.status ≠ .absent → (∀ u, u ∈ s.teams → u.tid ≠ s.cur.tid) →
        (wideHeld s ck < 2 → Completes (.tacq f) s (fun t => HasTile t.cur td ∧ ownerBase t.cur td = g * s.cur.group
          ∧ (∀ i j, i < 16 → j < 16 → wideElem t.cur (td - 8) i j = emptyWElem) ∧ (∀ q, q ≠ td - 8 → wideTile t.cur q = wideTile s.cur q)
          ∧ (∀ k, accTile t.cur k = accTile s.cur k) ∧ beyondTiles t.cur = beyondTiles s.cur ∧ GoesOn c s.cur t.cur ∧ t.mem = s.mem))
        ∧ (2 ≤ wideHeld s ck → Completes (.tacq f) s (fun t => t.cur = stallTeam s.cur ∧ (cellOf t ck).wideq = [(s.cur.tid, 16 * (g * s.cur.group) + (td - 8))] ∧ t.mem = s.mem))))
  ∧ (Issues (.trel f) s c → td < 10 →
    ((∃ o, o ∈ s.cur.ops ∧ Names o td) → Completes (.trel f) s (fun t => t.cur = stallTeam s.cur ∧ others t = others s))
    ∧ ((∀ o, o ∈ s.cur.ops → namesTile o td = false) → (∀ k, (cellOf s k).wideq = []) → Completes (.trel f) s (fun t => ¬HasTile t.cur td
        ∧ (∀ k, k < 8 → k ≠ td → accTile t.cur k = accTile s.cur k) ∧ (∀ q, q < 2 → q + 8 ≠ td → wideTile t.cur q = wideTile s.cur q)
        ∧ beyondTiles t.cur = beyondTiles s.cur ∧ GoesOn c s.cur t.cur ∧ others t = others s)))
  ∧ (∀ k tid x rest u, (cellOf s k).wideq = (tid, x) :: rest → team? s tid = some u → u.prot = false → wideHeld s k < 2 → u.sh = none →
    Completes (.wideTileQueueGrant k) s (fun t => (cellOf t k).wideq = rest ∧ (∃ v, team? t tid = some v ∧ v.granted = some (8 + x % 16)
      ∧ (∃ y, wideTile v (x % 16) = some y ∧ y.base = x / 16) ∧ beyondTiles { v with granted := none } = beyondTiles { u with granted := none } ∧ v.pc = u.pc) ∧ t.mem = s.mem))
  ∧ (Issues (.mxChk f) s c → Completes (.mxChk f) s (fun t => sreg t.cur f.sc.toNat = reads f.sc.toNat s.cur.mxt ∧ t.cur.mxt = 0
      ∧ (∀ k, k ≠ f.sc.toNat → sreg t.cur k = sreg s.cur k) ∧ beyondScalars { t.cur with mxt := 0 } = beyondScalars { s.cur with mxt := 0 } ∧ GoesOn c s.cur t.cur
      ∧ others t = others s ∧ SameBytes s t))

/-- R193 to R195, R198, R206, R211 to R214: a matrix instruction whose vault ranges are aligned and inside its lane's vault becomes an operation with one access for
each; the first misaligned range, then the first that stands outside, traps with its address, and so does a STRIDE that is not aligned, with the address that log 43 names (the model's reading); GROUPS of 0 traps whatever the row set (log 76, the model's choice). `mx.ld` and `mx.st` of global rows send pieces of 16 bytes. Of several operands the first in the model's order is the one
that traps (log 75). -/
def Obligations.MatrixOperationsIssue : Prop :=
  (∀ i s c f lane l keep, Issues i s c → s.cur.dying = [] → matrixRanges s i = some (f, lane, l, keep) →
    (planeless s i = true → exec i s = .next (takeTrap s (c.hdr + 8 * (c.idx + 1)) { cause := 3, detail := 0xF } .instr))
    ∧ (planeless s i = false → ∀ r, l.find? (fun r => r.va % r.al != 0) = some r →
        exec i s = .next (takeTrap s (c.hdr + 8 * (c.idx + 1)) { cause := 7, addr := r.va } .instr))
    ∧ (planeless s i = false → (∀ r, r ∈ l → r.va % r.al = 0) → ∀ r, l.find? (fun r => r.n != 0 && (laneVault s lane r.va r.n).isNone) = some r →
        exec i s = .next (takeTrap s (c.hdr + 8 * (c.idx + 1)) { cause := 8, addr := firstBadAt s lane r.va r.n } .instr))
    ∧ (planeless s i = false → (∀ r, r ∈ l → r.va % r.al = 0 ∧ (r.n = 0 ∨ (laneVault s lane r.va r.n).isSome)) →
        Completes i s (fun t => (∃ o, t.cur.ops = s.cur.ops ++ [o] ∧ StandsFor s c i f.fs (curLaunch s).d.stream 1 o
            ∧ o.sc = [sreg s.cur f.sa.toNat, sreg s.cur f.sb.toNat, sreg s.cur f.sc.toNat] ∧ o.rm = s.cur.rm.toNat
            ∧ o.acc = (l.filter (fun r => r.n != 0 && keep r)).map (rangeAcc s lane))
          ∧ Raised s t f.fs ∧ GoesOn c s.cur t.cur ∧ beyondOps t.cur = beyondOps s.cur ∧ others t = others s)))
  ∧ (∀ i f w s c, (i = .mxLd f ∧ w = .read) ∨ (i = .mxSt f ∧ w = .write) → Issues i s c → s.cur.dying = [] → f.mod = 0 →
    let n := if f.td.toNat < 8 then 4 else 16
    let ck := ckey s.cur.die (laneCell s.cur (ownerBase s.cur f.td.toNat))
    let at_ (r k : Nat) : Nat := ((sreg s.cur f.sa.toNat + sreg s.cur f.sb.toNat * BitVec.ofNat 64 r).toNat + 16 * k) % 2 ^ 64
    (∀ r k, r ∈ execRows s.cur f.td.toNat → k < n → globalFault s ck w 16 none none (at_ r k) = none ∧ (globalPlace s ck (at_ r k)).isSome) →
    (execRows s.cur f.td.toNat ≠ [] → (sreg s.cur f.sb.toNat).toNat % 16 ≠ 0 →
      exec i s = .next (takeTrap s (c.hdr + 8 * (c.idx + 1)) { cause := 7, addr := if (sreg s.cur f.sa.toNat + sreg s.cur f.sb.toNat).toNat % 16 = 0
        then (sreg s.cur f.sa.toNat).toNat else (sreg s.cur f.sa.toNat + sreg s.cur f.sb.toNat).toNat } .instr))
    ∧ ((execRows s.cur f.td.toNat = [] ∨ (sreg s.cur f.sb.toNat).toNat % 16 = 0) → Completes i s (fun t => (∃ o, t.cur.ops = s.cur.ops ++ [o] ∧ StandsFor s c i f.fs (curLaunch s).d.stream 1 o
        ∧ ∀ a, a ∈ o.acc ↔ ∃ r k, r ∈ execRows s.cur f.td.toNat ∧ k < n ∧ a.lane = 16 * r + k ∧ a.va = at_ r k ∧ globalPlace s ck a.va = some (a.pa, a.mt)
          ∧ a.data = [] ∧ a.done = false)
      ∧ Raised s t f.fs ∧ GoesOn c s.cur t.cur ∧ beyondOps t.cur = beyondOps s.cur ∧ others t = others s)))

/-- R62 to R71, R193, R198 to R202, R205 to R214: matrix operations complete once nothing holds them back and no earlier one names their tile. `mx.zero` and `mx.wz` empty the rows
that the instruction acts on; `mx.ld` and `mx.st` move rows between a tile and the vault, or pieces of them between a tile and their homes; `mx.mma` and `mx.bpmma` fold, block by
block, the products of A's row and B's column into each element, integers saturated and floats rounded once for each block; `mx.slice` cuts rows into digits, `mx.dmma` folds them into the
window of a wide element, `mx.rc` rounds it and `mx.bnd` bounds it. Special values, the signs of zeros, MXT and the deferred faults with their DETAIL and address are as R196, R200, R201 and
R203 say. A global `mx.st` removes the line from the own cell's L1 too (log 51, the model's reading). They change no row but those, and only the vault bytes of their accesses. Operands are read and results written as
the operation completes unless parts of them were before (log 42). -/
def Obligations.MatrixOperationsComplete : Prop := (MatrixProducts ∧ PlaneProducts ∧ SliceCuts ∧ WideProducts ∧ RowsMove ∧ DataFaults) ∧ ∀ s id o, Ready s id o → CleanMemory s →
  (∀ f, o.i = .mxZero f → f.td.toNat < 8 → HasTile s.cur f.td.toNat → Completes (.longLatencyCompletion s.cur.tid id) s (fun t => Left s t o ∧ t.mem = s.mem
      ∧ (∀ k, k ≠ f.td.toNat → accTile t.cur k = accTile s.cur k) ∧ t.cur.r.wide = s.cur.r.wide ∧ t.cur.mxt = s.cur.mxt ∧ t.cur.mxb = s.cur.mxb
      ∧ ∀ i j, i < 16 → j < 16 → accElem t.cur f.td.toNat i j = if i ∈ rowsOf s.cur f.td.toNat o.mask then 0 else accElem s.cur f.td.toNat i j))
  ∧ (∀ f, o.i = .mxWz f → 8 ≤ f.td.toNat → HasTile s.cur f.td.toNat → Completes (.longLatencyCompletion s.cur.tid id) s (fun t => Left s t o ∧ t.mem = s.mem
      ∧ (∀ q, q ≠ f.td.toNat - 8 → wideTile t.cur q = wideTile s.cur q) ∧ t.cur.r.tile = s.cur.r.tile ∧ t.cur.mxt = s.cur.mxt ∧ t.cur.mxb = s.cur.mxb
      ∧ ∀ i j, i < 16 → j < 16 → wideElem t.cur (f.td.toNat - 8) i j = if i ∈ rowsOf s.cur f.td.toNat o.mask then emptyWElem else wideElem s.cur (f.td.toNat - 8) i j))
  ∧ (∀ f, o.i = .mxLd f → f.td.toNat < 10 → HasTile s.cur f.td.toNat → let td := f.td.toNat
    (∀ i, i ∈ rowsOf s.cur td o.mask → ∃ a, o.acc.filter (fun a => a.lane / 16 == i) = [a] ∧ a.mt = vaultMt) →
    Completes (.longLatencyCompletion s.cur.tid id) s (fun t => LeftPlain s t o ∧ SameHomes s t ∧ SameVaults s t
      ∧ ∀ i j a, i < 16 → j < 16 → o.acc.filter (fun a => a.lane / 16 == i) = [a] → i ∈ rowsOf s.cur td o.mask →
        if td < 8 then accElem t.cur td i j = rowWord (fun k => vaultByte s (a.pa + k)) j
        else wideElem t.cur (td - 8) i j = { rowWide (fun k => vaultByte s (a.pa + k)) j with bound := {} }))
  ∧ (∀ f a, o.i = .mxSt f → f.td.toNat < 10 → HasTile s.cur f.td.toNat → let td := f.td.toNat
    o.acc = [a] → a.mt = vaultMt → a.lane / 16 ∈ rowsOf s.cur td o.mask →
    Completes (.longLatencyCompletion s.cur.tid id) s (fun t => LeftPlain s t o ∧ SameHomes s t ∧ t.cur.r = s.cur.r
      ∧ (∀ q, (q < a.pa ∨ a.pa + (if td < 8 then 64 else 256) ≤ q) → vaultByte t q = vaultByte s q)
      ∧ ∀ j, j < 16 → if td < 8 then rowWord (fun k => vaultByte t (a.pa + k)) j = accElem s.cur td (a.lane / 16) j
        else rowWide (fun k => vaultByte t (a.pa + k)) j = { wideElem s.cur (td - 8) (a.lane / 16) j with bound := {} }))
  ∧ (∀ f, o.i = .mxMma f → f.acc = 0 → f.fa.toNat < 2 → f.fb.toNat < 2 → f.spa = false → f.imm.getLsbD 4 = false → f.td.toNat < 8 →
    HasTile s.cur f.td.toNat → let td := f.td.toNat
    let nb := f.imm.toNat % 16 + 1
    (∀ i, i ∈ rowsOf s.cur td o.mask → roleThere o i (32 * nb)) → (∀ j, j < 16 → roleThere o (16 + j) (32 * nb)) → (∀ a, a ∈ o.acc → a.lane < 32) →
    Completes (.longLatencyCompletion s.cur.tid id) s (fun t => Left s t o ∧ SameHomes s t ∧ SameVaults s t
      ∧ (∀ k, k ≠ td → accTile t.cur k = accTile s.cur k) ∧ t.cur.r.wide = s.cur.r.wide ∧ t.cur.mxb = s.cur.mxb
      ∧ ∀ i j, i < 16 → j < 16 → accElem t.cur td i j = if i ∈ rowsOf s.cur td o.mask
          then wrap 32 ((List.range nb).foldl (fun c b => intBlock c (intRow f.fa.toNat (roleByte s o i) b) (intRow f.fb.toNat (roleByte s o (16 + j)) b)) (accElem s.cur td i j).toInt)
          else accElem s.cur td i j))
  ∧ (∀ f, o.i = .mxMma f ∨ o.i = .mxBpmma f → f.td.toNat < 8 → HasTile s.cur f.td.toNat → Completes (.longLatencyCompletion s.cur.tid id) s (fun t =>
      LeftOrFaulted s t o ∧ SameHomes s t ∧ SameVaults s t ∧ (∀ k, k ≠ f.td.toNat → accTile t.cur k = accTile s.cur k) ∧ t.cur.r.wide = s.cur.r.wide
      ∧ (o.i = .mxBpmma f → t.cur.deferred = s.cur.deferred)
      ∧ ∀ i j, i < 16 → j < 16 → i ∉ rowsOf s.cur f.td.toNat o.mask → accElem t.cur f.td.toNat i j = accElem s.cur f.td.toNat i j))
  ∧ (∀ f, o.i = .mxDmma f → 8 ≤ f.td.toNat → HasTile s.cur f.td.toNat → Completes (.longLatencyCompletion s.cur.tid id) s (fun t =>
      LeftOrFaulted s t o ∧ SameHomes s t ∧ SameVaults s t ∧ (∀ q, q ≠ f.td.toNat - 8 → wideTile t.cur q = wideTile s.cur q) ∧ t.cur.r.tile = s.cur.r.tile
      ∧ t.cur.mxt = s.cur.mxt
      ∧ ∀ i j, i < 16 → j < 16 → i ∉ rowsOf s.cur f.td.toNat o.mask → wideElem t.cur (f.td.toNat - 8) i j = wideElem s.cur (f.td.toNat - 8) i j))
  ∧ (∀ f x, o.i = .mxBnd f → 8 ≤ f.td.toNat → wideTile s.cur (f.td.toNat - 8) = some x → o.acc = [] → rowsOf s.cur f.td.toNat o.mask ≠ [] →
    Completes (.longLatencyCompletion s.cur.tid id) s (fun t => Left s t o ∧ t.mem = s.mem ∧ t.cur.r = s.cur.r ∧ t.cur.mxt = s.cur.mxt
      ∧ (f.td.toNat < 10 → field t.cur.mxb 7 6 = 2 + (f.td.toNat - 8))
      ∧ let rs := (rowsOf s.cur f.td.toNat o.mask).map (fun i => NMap.get {} x.row i)
        t.cur.mxb.getLsbD 0 = rs.any (·.nonfin) ∧ t.cur.mxb.getLsbD 1 = rs.any (·.shiftloss) ∧ t.cur.mxb.getLsbD 2 = rs.any (·.triangle)
        ∧ t.cur.mxb.getLsbD 3 = rs.any (·.ovf) ∧ field t.cur.mxb 47 32 = min 65535 (rs.map (·.lossy)).sum))
  ∧ (∀ f a, o.i = .mxSlice f → o.acc.find? (fun a => a.lane == 16) = some a → Completes (.longLatencyCompletion s.cur.tid id) s (fun t => LeftPlain s t o ∧ SameHomes s t ∧ t.cur.r = s.cur.r
      ∧ ∀ q, (q < a.pa ∨ a.pa + imageLen (if f.spa then 16 else 32) (f.imm.toNat % 16 + 1) f.ns.toNat ≤ q) → vaultByte t q = vaultByte s q))
  ∧ (∀ f a, o.i = .mxRc f → 8 ≤ f.td.toNat → HasTile s.cur f.td.toNat → o.acc = [a] → a.lane < 16 → a.lane ∈ rowsOf s.cur f.td.toNat o.mask →
    Completes (.longLatencyCompletion s.cur.tid id) s (fun t => Left s t o ∧ SameHomes s t ∧ t.cur.r = s.cur.r ∧ t.cur.mxt = s.cur.mxt
      ∧ (∀ q, (q < a.pa ∨ a.pa + 128 ≤ q) → vaultByte t q = vaultByte s q)
      ∧ ∀ j, j < 16 → valueOf 8 (fun k => vaultByte t (a.pa + 8 * j + k)) = rcValue (if f.mod = 0 then o.rm else f.mod.toNat % 4) (wideElem s.cur (f.td.toNat - 8) a.lane j)))

namespace Sys2Proof.Claims

/-! ## Engines, collectives, task queues (R218 to R231) -/

/-- What an engine command names (R220, R224 to R226, R231): a field beyond its limits, a die that is not permitted, its vault ranges with the completion
word last; the misaligned global address that the trap of a field reports, 0 where there is none (R220, log 89). -/
structure Command where
  f    : ENG
  bad  : Prop
  at_  : Nat
  dead : Prop
  rs   : List ERng
  sw   : List ERng

/-- The completion word of 16 bytes: none for s63 (R218). -/
def completionWord (t : Team) (f : ENG) (die : Nat) : List ERng :=
  if f.sw = 63 then [] else [{ die := die, va := (sreg t f.sw.toNat).toNat % 2 ^ 32, n := 16, al := 16, wr := true }]

/-- The engine commands but collectives. -/
def commandOf (s : State) : Instr → Option Command
  | .cp f =>
    let d := f.mod.toNat % 4
    let a := (sreg s.cur f.sd.toNat).toNat
    let b := (sreg s.cur f.ss.toNat).toNat
    let n := (sreg s.cur f.sl.toNat).toNat
    let into : ERng := { die := s.cur.die, va := a % 2 ^ 32, n := n, al := 16, wr := true }
    let from_ : ERng := { die := s.cur.die, va := b % 2 ^ 32, n := n, al := 16, wr := false }
    some ⟨f, n % 16 ≠ 0 ∨ n = 0 ∨ 196608 < n ∨ (d = 0 ∧ b % 16 ≠ 0) ∨ (d = 1 ∧ a % 16 ≠ 0), (if d = 0 ∧ b % 16 ≠ 0 then b else if d = 1 ∧ a % 16 ≠ 0 then a else 0), False,
      (if d = 0 then [into] else if d = 1 then [from_] else [into, from_]), completionWord s.cur f s.cur.die⟩
  | .cp2d f =>
    let d := f.mod.toNat % 4
    let w := (sreg s.cur f.sl.toNat).toNat
    let rb := w % 2 ^ 16
    let nr := w / 2 ^ 16 % 2 ^ 16
    let gs := w / 2 ^ 32
    let a := (sreg s.cur f.sd.toNat).toNat
    let b := (sreg s.cur f.ss.toNat).toNat
    let n := 16 * ((nr - 1) * f.imm.toNat + rb)
    some ⟨f, rb = 0 ∨ 12288 < rb ∨ nr = 0 ∨ gs % 16 ≠ 0 ∨ 196608 < n ∨ (if d = 0 then b else a) % 16 ≠ 0, (if (if d = 0 then b else a) % 16 ≠ 0 then (if d = 0 then b else a) else 0), False,
      [{ die := s.cur.die, va := (if d = 0 then a else b) % 2 ^ 32, n := n, al := 16, wr := d == 0 }], completionWord s.cur f s.cur.die⟩
  | .cpX f =>
    let a := (sreg s.cur f.sd.toNat).toNat
    let b := (sreg s.cur f.ss.toNat).toNat
    let w := (sreg s.cur f.sw.toNat).toNat
    let n := (sreg s.cur f.sl.toNat).toNat
    let da := a / 2 ^ 32 % 2 ^ 8
    let db := b / 2 ^ 32 % 2 ^ 8
    let dw := w / 2 ^ 32 % 2 ^ 8
    some ⟨f, n % 16 ≠ 0 ∨ n = 0 ∨ 196608 < n, 0,
      isLive s da = false ∨ isLive s db = false ∨ (da ≠ s.cur.die ∧ db ≠ s.cur.die) ∨ (f.sw ≠ 63 ∧ (isLive s dw = false ∨ (dw ≠ s.cur.die ∧ dw ≠ da))),
      [{ die := da, va := a % 2 ^ 32, n := n, al := 16, wr := true }, { die := db, va := b % 2 ^ 32, n := n, al := 16, wr := false }],
      completionWord s.cur f dw⟩
  | .skimG f =>
    let w := (sreg s.cur f.sd.toNat).toNat
    let n := f.imm.toNat % 2 ^ 14 + 1
    some ⟨f, False, 0, False, [{ die := s.cur.die, va := w % 2 ^ 32, n := 2 ^ (f.mod.toNat % 8) * n, al := 16, wr := true },
      { die := s.cur.die, va := w / 2 ^ 32, n := 4 * n, al := 4, wr := false }], completionWord s.cur f s.cur.die⟩
  | .skimS f =>
    let w := (sreg s.cur f.ss.toNat).toNat
    let n := f.imm.toNat % 2 ^ 14 + 1
    some ⟨f, False, 0, False, [{ die := s.cur.die, va := w % 2 ^ 32, n := 2 ^ (f.mod.toNat % 8) * n, al := 16, wr := false },
      { die := s.cur.die, va := w / 2 ^ 32, n := 4 * n, al := 4, wr := false }], completionWord s.cur f s.cur.die⟩
  | .enq f =>
    let sel := (sreg s.cur f.ss.toNat).toNat
    some ⟨f, sel / 64 % 4 ≠ 0, 0, isLive s (sel / 256 % 256) = false,
      [{ die := s.cur.die, va := (sreg s.cur f.sd.toNat).toNat % 2 ^ 32, n := 128, al := 128, wr := false }], completionWord s.cur f s.cur.die⟩
  | _ => none

/-- A range fails where its address is misaligned or its bytes stand outside what the block may name. -/
def rangeFails (s : State) (r : ERng) : Bool := r.va % r.al != 0 || (engKey s r.die r.va r.n).isNone
def rangeTrap (s : State) (r : ERng) : TrapInfo :=
  if r.va % r.al ≠ 0 then { cause := 7, addr := r.va } else { cause := 8, addr := engFirstBad s r }

/-- An engine operation of the current team that has started, or that may. -/
def EngineStands (s : State) (id : Nat) (o : Op) : Prop :=
  s.cur.status ≠ .absent ∧ (s.cur.ops.map (·.id)).Nodup ∧ o ∈ s.cur.ops ∧ o.id = id ∧ o.gave = [] ∧ o.walks = []
/-- No access of any team has run ahead (R252). -/
def NoneAhead (s : State) : Prop := ∀ u, u ∈ allTeams s → u.early = []

/-- It ends: it leaves the list, and its flag falls. -/
def Ends (s t : State) (o : Op) : Prop :=
  t.cur.ops = s.cur.ops.filter (fun p => p.id != o.id)
  ∧ (∀ f, flagCount t.cur f = if o.flag = some f then flagCount s.cur f - 1 else flagCount s.cur f)
  ∧ { beyondOps t.cur with deferred := [] } = { beyondOps s.cur with deferred := [] }

/-- Bytes [k, k + n) of the vaults, and the sync word's 16, are all that changes of the vaults. -/
def OnlyRange (s t : State) (k n : Nat) (sw : Option Nat) : Prop :=
  ∀ q, (q < k ∨ k + n ≤ q) → (∀ w, sw = some w → q < w ∨ w + 16 ≤ q) → vaultByte t q = vaultByte s q

/-- The sync word, if there is one, counts an arrival of n bytes; `before` is the state in which it stood. -/
def Counts (before t : State) (sw : Option Nat) (n : Nat) : Prop := ∀ w, sw = some w → Arrived (vaultObject before w) n (vaultObject t w)

/-- The home of an address that a leaf maps. -/
def placeAt (s : State) (l : Leaf) (a : Nat) : Option (Nat × Nat) := locate s (l.pbase + (a - l.vbase))

/-- Byte j of a movement of m bytes stands at global address g j; l j is its leaf, the first of the cell's micro-TLB that covers it, of whichever page, with the
permission, and no member that holds them is lost (R219, R285). -/
def Mapped (s : State) (g : Nat → Nat) (m : Nat) (w : Want) (l : Nat → Leaf) : Prop :=
  (∀ j, j < m → (l j).mt = 0 ∧ (l j).vbase % 128 = 0 ∧ (l j).pbase % 128 = 0 ∧ denied (l j) w (curLaunch s).d.priv = none ∧ g j < 2 ^ 56
    ∧ (cellOf s (ckey s.cur.die s.cur.cell)).utlb.find? (fun n => n.vbase ≤ g j && g j < n.vbase + n.size) = some (l j)
    ∧ ∃ x p, placeAt s (l j) (g j) = some (x, p) ∧ (siteOf s x).lost = false ∧ p < 2 ^ 36)
  ∧ ∀ j k, j < m → k < m → g j / 128 = g k / 128 → l j = l k

/-- No two lines of the addresses of a movement have one home. -/
def OwnLines (s : State) (g : Nat → Nat) (m : Nat) (l : Nat → Leaf) : Prop :=
  ∀ j k x p q, j < m → k < m → placeAt s (l j) (g j) = some (x, p) → placeAt s (l k) (g k) = some (x, q) → p / 128 = q / 128 → g j / 128 = g k / 128

/-- Byte j comes from global address g j to vault key v j; where several bytes come to one key, the last stays (R225). -/
def MovesIn (s t : State) (m : Nat) (g v : Nat → Nat) (l : Nat → Leaf) : Prop :=
  ∀ j x p, j < m → placeAt s (l j) (g j) = some (x, p) → (∀ k, j < k → k < m → v k ≠ v j) → vaultByte t (v j) = homeByte s x p

/-- Byte j goes from vault key v j to global address g j; where several go to one address, the last stays. Each line that is written takes one write event and
leaves every L1 of the die, and no other byte of global memory changes (R165, R219, R225, R251). -/
def MovesOut (s t : State) (m : Nat) (g v : Nat → Nat) (l : Nat → Leaf) : Prop :=
  (∀ j x p, j < m → placeAt s (l j) (g j) = some (x, p) → (∀ k, j < k → k < m → g k ≠ g j) → homeByte t x p = vaultByte s (v j))
  ∧ (∀ x p, p < 2 ^ 36 → (∀ j, j < m → placeAt s (l j) (g j) ≠ some (x, p)) → homeByte t x p = homeByte s x p)
  ∧ (∀ j x p, j < m → placeAt s (l j) (g j) = some (x, p) → (homeVer t x (p / 128)).1 = (homeVer s x (p / 128)).1 + 1)
  ∧ ∀ ck b, b ∈ (cellOf t ck).l1 ↔ b ∈ (cellOf s ck).l1 ∧ ¬(ck / 4608 = s.cur.die ∧ ∃ j, j < m ∧ b.pa / 128 = ((l j).pbase + (g j - (l j).vbase)) / 128)

/-- Byte j of a movement by rows of 16·RB bytes: its global address, row by row the stride GS apart, and its vault key, 16·IMM16 apart (R225). -/
def rowAddr (o : Op) (base : DWord) (j : Nat) : Nat :=
  let w := (o.sc.getD 2 0).toNat
  let rb := 16 * (w % 2 ^ 16)
  ((base.toInt + (BitVec.ofNat 32 (w / 2 ^ 32)).toInt * (j / rb : Nat)) % 2 ^ 64).toNat + j % rb
def rowKey (o : Op) (f : ENG) (j : Nat) : Nat :=
  let rb := 16 * ((o.sc.getD 2 0).toNat % 2 ^ 16)
  engKeyA o + 16 * (j / rb) * f.imm.toNat + j % rb

/-- The address of byte j of the elements of z bytes that a list of indices names from a base (R225). -/
def elementAddr (s : State) (o : Op) (base : DWord) (z j : Nat) : Nat :=
  ((base.toInt + (BitVec.ofNat 32 (valueOf 4 (fun b => vaultByte s (engKeyB o + 4 * (j / z) + b)))).toInt * (z : Nat)) % 2 ^ 64).toNat + j % z

end Sys2Proof.Claims

/-- R218, R220, R222, R224 to R226, R231: an engine command checks its fields, its dies and its ranges in that order; then it becomes an operation that has captured its
operands, with the keys of its ranges and of its completion word; with 32 outstanding for the cell it stalls. The address that a bad field reports is the model's choice (log 89). An own-form address of `cp.x` on another die is outside
(log 46). -/
def Obligations.EngineCommandsIssue : Prop := ∀ i s c m, Issues i s c → s.cur.dying = [] → commandOf s i = some m →
  let at_ := c.hdr + 8 * (c.idx + 1)
  (m.bad → exec i s = .next (takeTrap s at_ { cause := 0x10, detail := 1, addr := m.at_ } .instr))
  ∧ (¬m.bad → m.dead → exec i s = .next (takeTrap s at_ { cause := 0x10, detail := 2 } .instr))
  ∧ (¬m.bad → ¬m.dead → ∀ r, (m.rs ++ m.sw).find? (rangeFails s) = some r → exec i s = .next (takeTrap s at_ (rangeTrap s r) .instr))
  ∧ (¬m.bad → ¬m.dead → (∀ r, r ∈ m.rs ++ m.sw → rangeFails s r = false) →
    (32 ≤ cellEngines s s.cur.die s.cur.cell → Completes i s (fun t => t.cur = stallTeam s.cur ∧ others t = others s))
    ∧ (cellEngines s s.cur.die s.cur.cell < 32 → Completes i s (fun t =>
        (∃ o, t.cur.ops = s.cur.ops ++ [o] ∧ StandsFor s c i m.f.fs m.f.stream.toNat m.f.scope.toNat o ∧ o.acc = []
          ∧ o.sc = [sreg s.cur m.f.sd.toNat, sreg s.cur m.f.ss.toNat, sreg s.cur m.f.sl.toNat]
          ∧ (∀ r, m.rs[0]? = some r → engKey s r.die r.va r.n = some (engKeyA o)) ∧ (∀ r, m.rs[1]? = some r → engKey s r.die r.va r.n = some (engKeyB o))
          ∧ engSync o = m.sw.head?.bind (fun r => engKey s r.die r.va r.n))
        ∧ Raised s t m.f.fs ∧ GoesOn c s.cur t.cur ∧ beyondOps t.cur = beyondOps s.cur ∧ t.mem = s.mem ∧ t.dies = s.dies)))

/-- R218, R219, R221, R222, R224 to R226, R231: an engine operation starts once nothing holds it back and no earlier one of the block conflicts with it; then it moves its bytes, counts
them at its completion word and releases its flag. A copy inside the vaults moves the source as it stood; copies from and to mapped memory, of one page or of several, by one run or by rows, gathers and
scatters move each byte, the last row or index staying where two meet (`OwnLines` shuts out only lines with one home); a global address beyond 2^56 defers Translation Fault, to be replayed. `enq` sends its descriptor to a queue, which takes the oldest while it holds
fewer than 256; then the team's own `enq` counts 128 bytes at its completion word and releases its flag. An operation none of whose parts has taken its step moves all of it as it completes (log 42); its order to the team's other accesses is log 5's. -/
def Obligations.EngineOperationsRun : Prop :=
  (∀ s id o, EngineStands s id o → isEngine o.i = true → o.started = false → Unheld s o → engBlocked s o = false →
    ((∃ f, o.i = .cp f ∨ o.i = .cp2d f ∨ o.i = .cpX f ∨ o.i = .skimG f ∨ o.i = .skimS f) → Completes (.engineOperationStart s.cur.tid id) s (fun t =>
      (∀ p, p ∈ t.cur.ops ↔ (p ∈ s.cur.ops ∧ p.id ≠ id) ∨ p = { o with started := true }) ∧ t.cur.flags = s.cur.flags ∧ others t = others s))
    ∧ (∀ f, o.i = .enq f → CleanMemory s → fenceMet s.cur o 1 (2 ^ o.stream) = true →
        let sel := (o.sc.getD 1 0).toNat
        let d := sel / 256 % 256
        isLive s d = true → Completes (.engineOperationStart s.cur.tid id) s (fun t =>
          NMap.get [] (dieOf t d).held (sel % 64) = NMap.get [] (dieOf s d).held (sel % 64)
            ++ [{ entry := { bits := BitVec.ofNat 1024 (valueOf 128 (fun i => vaultByte s (engKeyA o + i))), priv := (curLaunch s).d.priv }, team := some (s.cur.tid, id) }]
          ∧ (∀ p, p ∈ t.cur.ops ↔ (p ∈ s.cur.ops ∧ p.id ≠ id) ∨ p = { o with started := true }) ∧ t.mem = s.mem)))
  ∧ (∀ s id o, EngineStands s id o → o.started = true → NoneAhead s → GoodMemory s → (∀ w, engSync o = some w → (w + 16 ≤ engKeyA o ∨ engKeyA o + 2 ^ 18 ≤ w)) →
    (∀ f, o.i = .cp f → f.mod.toNat % 4 = 2 ∨ f.mod.toNat % 4 = 3 → let n := (o.sc.getD 2 0).toNat
      n ≤ 196608 → Completes (.engineOperationComplete s.cur.tid id) s (fun t => Ends s t o ∧ SameHomes s t ∧ OnlyRange s t (engKeyA o) n (engSync o)
        ∧ (∀ i, i < n → vaultByte t (engKeyA o + i) = vaultByte s (engKeyB o + i)) ∧ Counts s t (engSync o) n))
    ∧ (∀ f, o.i = .cpX f → isLive s (((o.sc.getD 0 0).toNat / 2 ^ 32) % 2 ^ 8) = true → isLive s (((o.sc.getD 1 0).toNat / 2 ^ 32) % 2 ^ 8) = true →
      (∀ w, engSync o = some w → isLive s (w / 2 ^ 18 / 4608) = true) → let n := (o.sc.getD 2 0).toNat
      n ≤ 196608 → Completes (.engineOperationComplete s.cur.tid id) s (fun t => Ends s t o ∧ SameHomes s t ∧ OnlyRange s t (engKeyA o) n (engSync o)
        ∧ (∀ i, i < n → vaultByte t (engKeyA o + i) = vaultByte s (engKeyB o + i)) ∧ Counts s t (engSync o) n))
    ∧ (∀ f l, o.i = .cp f → let n := (o.sc.getD 2 0).toNat
      let v (j : Nat) : Nat := engKeyA o + j
      n ≤ 196608 →
      (f.mod.toNat % 4 = 0 → let g (j : Nat) : Nat := (o.sc.getD 1 0).toNat + j
        Mapped s g n .read l → Completes (.engineOperationComplete s.cur.tid id) s (fun t => Ends s t o ∧ SameHomes s t ∧ OnlyRange s t (engKeyA o) n (engSync o) ∧ Counts s t (engSync o) n
          ∧ MovesIn s t n g v l))
      ∧ (f.mod.toNat % 4 = 1 → let g (j : Nat) : Nat := (o.sc.getD 0 0).toNat + j
        Mapped s g n .write l → OwnLines s g n l → Completes (.engineOperationComplete s.cur.tid id) s (fun t => Ends s t o ∧ OnlyRange s t 0 0 (engSync o) ∧ Counts s t (engSync o) n
          ∧ MovesOut s t n g v l)))
    ∧ (∀ f l, o.i = .cp2d f → let w := (o.sc.getD 2 0).toNat
      let n := 16 * (w % 2 ^ 16) * (w / 2 ^ 16 % 2 ^ 16)
      let span := 16 * ((w / 2 ^ 16 % 2 ^ 16 - 1) * f.imm.toNat + w % 2 ^ 16)
      span ≤ 196608 →
      (f.mod.toNat % 4 = 0 → Mapped s (rowAddr o (o.sc.getD 1 0)) n .read l →
        Completes (.engineOperationComplete s.cur.tid id) s (fun t => Ends s t o ∧ SameHomes s t ∧ OnlyRange s t (engKeyA o) span (engSync o) ∧ Counts s t (engSync o) n
          ∧ MovesIn s t n (rowAddr o (o.sc.getD 1 0)) (rowKey o f) l))
      ∧ (f.mod.toNat % 4 = 1 → Mapped s (rowAddr o (o.sc.getD 0 0)) n .write l → OwnLines s (rowAddr o (o.sc.getD 0 0)) n l →
        Completes (.engineOperationComplete s.cur.tid id) s (fun t => Ends s t o ∧ OnlyRange s t 0 0 (engSync o) ∧ Counts s t (engSync o) n
          ∧ MovesOut s t n (rowAddr o (o.sc.getD 0 0)) (rowKey o f) l)))
    ∧ (∀ f, o.i = .cp f → f.mod.toNat % 4 = 0 → 2 ^ 56 ≤ (o.sc.getD 1 0).toNat → 0 < (o.sc.getD 2 0).toNat →
      Completes (.engineOperationComplete s.cur.tid id) s (fun t => Ends s t o ∧ SameHomes s t ∧ SameVaults s t ∧ ∃ d, t.cur.deferred = s.cur.deferred ++ [d] ∧ d.op = o ∧ d.cause = 9
        ∧ d.detail = 1 ∧ d.addr = (o.sc.getD 1 0).toNat ∧ d.replay = true))
    ∧ (∀ f l, o.i = .skimG f ∨ o.i = .skimS f → let z := 2 ^ (f.mod.toNat % 8)
      let n := z * (f.imm.toNat % 2 ^ 14 + 1)
      let v (j : Nat) : Nat := engKeyA o + j
      z ≤ 128 → n ≤ 196608 →
      (o.i = .skimG f → let g := elementAddr s o (o.sc.getD 1 0) z
        (engKeyB o + 4 * (n / z) ≤ engKeyA o ∨ engKeyA o + n ≤ engKeyB o) → (∀ j, j < n → (g j - j % z) % z = 0) → Mapped s g n .read l →
        Completes (.engineOperationComplete s.cur.tid id) s (fun t => Ends s t o ∧ SameHomes s t ∧ OnlyRange s t (engKeyA o) n (engSync o) ∧ Counts s t (engSync o) n ∧ MovesIn s t n g v l))
      ∧ (o.i = .skimS f → let g := elementAddr s o (o.sc.getD 0 0) z
        (∀ j, j < n → (g j - j % z) % z = 0) → Mapped s g n .write l → OwnLines s g n l →
        Completes (.engineOperationComplete s.cur.tid id) s (fun t => Ends s t o ∧ OnlyRange s t 0 0 (engSync o) ∧ Counts s t (engSync o) n ∧ MovesOut s t n g v l))))
  ∧ (∀ s q h rest, NMap.get [] (dieOf s (q / 64)).held (q % 64) = h :: rest → (NMap.get [] (dieOf s (q / 64)).queues (q % 64)).length < 256 → h.box = none → logicOn s (q / 64) = true →
    let into (t : State) : Prop := NMap.get [] (dieOf t (q / 64)).held (q % 64) = rest
      ∧ NMap.get [] (dieOf t (q / 64)).queues (q % 64) = NMap.get [] (dieOf s (q / 64)).queues (q % 64) ++ [h.entry]
    (h.team = none → Completes (.taskQueueAppend q) s (fun t => into t ∧ t.cur = s.cur ∧ t.mem = s.mem))
    ∧ ∀ id o, h.team = some (s.cur.tid, id) → EngineStands s id o → NoneAhead s → CleanMemory s → Completes (.taskQueueAppend q) s (fun t => into t ∧ Ends s t o ∧ SameHomes s t
        ∧ OnlyRange s t 0 0 (engSync o) ∧ Counts s t (engSync o) 128))

namespace Sys2Proof.Claims

/-- The completion word of a command passes its checks: none for s63, else its key (R218, R220). -/
def WordAt (s : State) (f : ENG) (kw : Option Nat) : Prop :=
  (f.sw = 63 ∧ kw = none) ∨ (f.sw ≠ 63 ∧ let a := (sreg s.cur f.sw.toNat).toNat % 2 ^ 32
    a % 16 = 0 ∧ kw = teamVault s a 16 ∧ kw ≠ none)

/-- The completion word lies apart from n bytes at a key. -/
def WordApart (o : Op) (k n : Nat) : Prop := ∀ w, engSync o = some w → w + 16 ≤ k ∨ k + n ≤ w

/-- A collective of a group and an attempt. -/
def IsColl (o : Op) (grp att : Nat) : Prop := (∃ f, o.i = .coll f) ∧ (opColl o).group = grp ∧ (opColl o).attempt = att

/-- Byte i, and element k, of a die's contribution to a collective. -/
def contribByte (o : Op) (die i : Nat) : Byte := ((o.acc.find? (fun a => a.lane == die)).getD {}).data.getD i 0
def contribElem (d : Coll) (o : Op) (k die : Nat) : Nat := valueOf d.size (fun i => contribByte o die (d.size * k + i))
/-- The format of a float type; none for an integer type (R227). -/
def collFmt (ty : Nat) : Option Fmt := if ty = 2 then some fmtF32 else if ty = 3 then some fmtF64 else none
/-- One step of the fold of two elements (R228): integers wrap and compare as their type reads them, floats add to nearest, or as `v.fmin` and `v.fmax`. -/
def collStep (d : Coll) (x y : Nat) : Nat :=
  let key (v : Nat) : Int := if d.ty = 0 ∨ d.ty = 4 then asSigned d.size v else v
  match collFmt d.ty, d.op with
  | some F, 1 => (fMinMax F false x y (F.value x) (F.value y)).1
  | some F, 2 => (fMinMax F true x y (F.value x) (F.value y)).1
  | some F, _ => (fAdd F 0 false (F.value x) (F.value y)).1
  | none, 1 => if key y < key x then y else x
  | none, 2 => if key x < key y then y else x
  | none, _ => (x + y) % 2 ^ (8 * d.size)
/-- The fold in ascending die ordinal; of one die alone its element, a NaN as the canonical one (R52). -/
def collFoldOf (d : Coll) : List Nat → Nat
  | [] => 0
  | [x] => match collFmt d.ty with
    | some F => if (F.value x).isNan then F.nanBits else x
    | none => x
  | x :: l => l.foldl (collStep d) x
/-- Byte j of DST on a die (R228): all-reduce, broadcast, all-gather by ranks, or the rank's part of a reduce-scatter. -/
def resultByte (d : Coll) (o : Op) (die j : Nat) : Byte :=
  let e := d.size
  let fold (k : Nat) : Byte := BitVec.ofNat 8 (collFoldOf d (d.members.map (contribElem d o k)) / 2 ^ (8 * (j % e)))
  match d.op with
  | 3 => contribByte o d.root j
  | 4 => contribByte o (d.members.getD (j / (d.count * e)) 0) (j % (d.count * e))
  | 5 => fold ((d.members.countP (· < die)) * (d.count / d.p) + j / e)
  | _ => fold (j / e)

/-- No earlier message of the fabric goes from the same source to the same destination on the channel of collectives (R346). -/
def FirstOfItsWay (s : State) (n : Nat) (m : Msg) : Prop := ∀ x, x ∈ s.fabric.msgs.take n → collEnds s x ≠ none → collEnds s x ≠ collEnds s m

end Sys2Proof.Claims

/-- R227 to R230: a collective checks its descriptor and becomes an operation; it starts with its die's attempt by sending its contribution to the other dies, and ends with
STATUS 2 where a die is gone or its attempt is past. A packet joins the operation that it matches, and ends it with STATUS 3 where the descriptors differ; the operation
completes with STATUS 1 once every contribution is in: DST holds the fold in ascending die ordinal, ROOT's bytes, every die's bytes by its rank, or the rank's part of
the fold; at each end its completion word counts the bytes of DST. An abort starts by a token to each live die of DIES,
which ends each running collective of its attempt with STATUS 2 and counts the attempt on, or does nothing under another; it completes once each has taken it, and
the byte count at its completion word is free (log 6). Log 22: a COUNT of 0 is found with the descriptor. -/
def Obligations.CollectivesRun : Prop :=
  (∀ i f s c k, (i = .coll f ∨ i = .collAbort f) → Issues i s c → s.cur.dying = [] → CleanMemory s → NoneAhead s → ∀ kw, WordAt s f kw → let a := (sreg s.cur f.sd.toNat).toNat % 2 ^ 32
    let at_ := c.hdr + 8 * (c.idx + 1)
    (a % 64 ≠ 0 → exec i s = .next (takeTrap s at_ { cause := 7, addr := a } .instr))
    ∧ (a % 64 = 0 → teamVault s a 64 = some k → let x := valueOf 64 (fun j => vaultByte s (k + j))
      let d := collOf x
      (6 ≤ d.op ∨ 6 ≤ d.ty ∨ d.rsv = true → exec i s = .next (takeTrap s at_ { cause := 0x10, detail := 3, addr := a } .instr))
      ∧ ∀ ka kb, checkColl s a d = .inr (ka, kb) → cellEngines s s.cur.die s.cur.cell < 32 → Completes i s (fun t =>
        (∃ o, t.cur.ops = s.cur.ops ++ [o] ∧ StandsFor s c i f.fs f.stream.toNat f.scope.toNat o ∧ engKeyA o = ka ∧ engKeyB o = kb ∧ engSync o = kw ∧ opColl o = d)
        ∧ Raised s t f.fs ∧ GoesOn c s.cur t.cur ∧ beyondOps t.cur = beyondOps s.cur ∧ SameHomes s t
        ∧ (i = .collAbort f → SameVaults s t)
        ∧ (i = .coll f → valueOf 4 (fun j => vaultByte t (k + 20 + j)) = 0 ∧ ∀ q, (q < k + 20 ∨ k + 24 ≤ q) → vaultByte t q = vaultByte s q))))
  ∧ (∀ s id o f, EngineStands s id o → o.i = .coll f → o.started = false → Unheld s o → engBlocked s o = false → CleanMemory s → WordApart o (opDesc o + 20) 4 →
    let d := opColl o
    let past := (∃ e, e ∈ d.members ∧ isLive s e = false) ∨ ageOf d.attempt (attemptOf s s.cur.die (curBlock s).lid d.group) = .older
    (past → Completes (.engineOperationStart s.cur.tid id) s (fun t => Ends s t o ∧ valueOf 4 (fun j => vaultByte t (opDesc o + 20 + j)) = 2 ∧ Counts s t (engSync o) d.dstLen ∧ t.fabric = s.fabric))
    ∧ (¬past → ageOf d.attempt (attemptOf s s.cur.die (curBlock s).lid d.group) = .equal → let bytes := (List.range d.srcLen).map (fun j => vaultByte s (engKeyA o + j))
      Completes (.engineOperationStart s.cur.tid id) s (fun t => t.cur.flags = s.cur.flags ∧ t.mem = s.mem
        ∧ (∃ p, p ∈ t.cur.ops ∧ p.id = id ∧ p.started = true ∧ p.acc = [{ lane := s.cur.die, data := bytes, done := true }])
        ∧ t.fabric.msgs = s.fabric.msgs ++ (d.members.filter (fun e => e != s.cur.die)).map (fun e =>
            .coll (curBlock s).lid d.group d.attempt (opNth o) s.cur.die e d.same bytes []))))
  ∧ (∀ s n lid grp att k src dst key data ps, s.fabric.msgs[n]? = some (.coll lid grp att k src dst key data ps) →
    FirstOfItsWay s n (.coll lid grp att k src dst key data ps) → (isLive s dst = false ∨ ageOf att (attemptOf s dst lid grp) = .older → Completes (.collectivePacket n) s (fun t =>
      t.fabric.msgs = s.fabric.msgs.eraseIdx n ∧ t.cur = s.cur ∧ t.mem = s.mem))
    ∧ ∀ id o, isLive s dst = true → ageOf att (attemptOf s dst lid grp) = .equal → EngineStands s id o → o.started = true → s.teams = [] →
      collOps s dst lid (fun o => (opColl o).group == grp && (opColl o).attempt == att && opNth o == k) = [(s.cur.tid, id)] →
      ((opColl o).same = key → Completes (.collectivePacket n) s (fun t => t.fabric.msgs = s.fabric.msgs.eraseIdx n
        ∧ (∃ p, p ∈ t.cur.ops ∧ p.id = id ∧ p.acc = o.acc ++ [{ lane := src, data := data, done := true }]) ∧ t.mem = s.mem))
      ∧ ((opColl o).same ≠ key → NoneAhead s → CleanMemory s → WordApart o (opDesc o + 20) 4 → Completes (.collectivePacket n) s (fun t => t.fabric.msgs = s.fabric.msgs.eraseIdx n ∧ Ends s t o
          ∧ valueOf 4 (fun j => vaultByte t (opDesc o + 20 + j)) = 3 ∧ Counts s t (engSync o) (opColl o).dstLen)))
  ∧ (∀ s id o f, EngineStands s id o → o.i = .coll f → o.started = true → NoneAhead s → CleanMemory s → let d := opColl o
    let n := d.dstLen
    d.op < 6 → d.ty < 6 → (d.op = 5 → d.count % d.p = 0) → WordApart o (opDesc o + 20) 4 → WordApart o (engKeyB o) n →
    (∀ e, e ∈ d.members → ∃ a, a ∈ o.acc ∧ a.lane = e) → (opDesc o + 24 ≤ engKeyB o ∨ engKeyB o + n ≤ opDesc o + 20) →
    Completes (.engineOperationComplete s.cur.tid id) s (fun t => Ends s t o ∧ valueOf 4 (fun j => vaultByte t (opDesc o + 20 + j)) = 1 ∧ SameHomes s t ∧ Counts s t (engSync o) n
      ∧ (∀ j, j < n → vaultByte t (engKeyB o + j) = resultByte d o s.cur.die j)
      ∧ ∀ q, (q < engKeyB o ∨ engKeyB o + n ≤ q) → (q < opDesc o + 20 ∨ opDesc o + 24 ≤ q) → (∀ w, engSync o = some w → q < w ∨ w + 16 ≤ q) → vaultByte t q = vaultByte s q))
  ∧ (∀ s id o f, EngineStands s id o → o.i = .collAbort f →
    (o.started = false → Unheld s o → engBlocked s o = false → let ds := (opColl o).members.filter (fun e => isLive s e)
      Completes (.engineOperationStart s.cur.tid id) s (fun t => t.cur.flags = s.cur.flags ∧ t.mem = s.mem
        ∧ (∀ p, p ∈ t.cur.ops ↔ (p ∈ s.cur.ops ∧ p.id ≠ id) ∨ p = { o with started := true, acc := ds.map (fun e => { lane := e }) })
        ∧ t.fabric.msgs = s.fabric.msgs ++ ds.map (fun e => .token (curBlock s).lid (opColl o).group (opColl o).attempt e s.cur.tid id)))
    ∧ (o.started = true → NoneAhead s → CleanMemory s → (∀ a, a ∈ o.acc → a.done = true ∨ isLive s a.lane = false) →
      Completes (.engineOperationComplete s.cur.tid id) s (fun t => Ends s t o ∧ SameHomes s t ∧ OnlyRange s t 0 0 (engSync o) ∧ ∃ n, Counts s t (engSync o) n)))
  ∧ (∀ s n lid grp att dst tid id, s.fabric.msgs[n]? = some (.token lid grp att dst tid id) → FirstOfItsWay s n (.token lid grp att dst tid id) → NoneAhead s →
    Completes (.abortToken n) s (fun t =>
      (attemptOf s dst lid grp = att → attemptOf t dst lid grp = (att + 1) % 65536) ∧ (attemptOf s dst lid grp ≠ att → attemptOf t dst lid grp = attemptOf s dst lid grp ∧ SameVaults s t)
      ∧ t.fabric.msgs = s.fabric.msgs.eraseIdx n
      ∧ (s.teams = [] → s.cur.status ≠ .absent → s.cur.die = dst → (curBlock s).lid = lid → (s.cur.ops.map (·.id)).Nodup → CleanMemory s →
        (∀ o, o ∈ s.cur.ops → IsColl o grp att → (attemptOf s dst lid grp = att →
            (∀ p, p ∈ t.cur.ops → p.id ≠ o.id)
            ∧ ((∀ p, p ∈ s.cur.ops → IsColl p grp att → WordApart p (opDesc o + 20) 4 ∧ (p.id = o.id ∨ opDesc p + 4 ≤ opDesc o ∨ opDesc o + 4 ≤ opDesc p)) →
                valueOf 4 (fun j => vaultByte t (opDesc o + 20 + j)) = 2)
            ∧ ((∀ p, p ∈ s.cur.ops → IsColl p grp att → p.id = o.id) → WordApart o (opDesc o + 20) 4 → Counts s t (engSync o) (opColl o).dstLen)))
        ∧ ∀ o, o ∈ s.cur.ops → ¬(IsColl o grp att ∧ attemptOf s dst lid grp = att) →
            ∃ p, p ∈ t.cur.ops ∧ p = (if tid = s.cur.tid ∧ o.id = id then { o with acc := o.acc.map (fun a => if a.lane = dst then { a with done := true } else a) } else o))))

namespace Sys2Proof.Claims

/-! ## Graphics instructions (R232 to R235, R320 to R323) -/

/-- The last of the acting lanes, ascending, whose VB names v: that lane's write is the one that stays (R233). -/
def lastLane (t : Team) (f : SYS) (v : Nat) : Option Nat :=
  ((actsOn t f.pred.toNat).filter (fun l => (vreg t f.vb.toNat l).toNat == v)).getLast?
/-- The lowest acting lane whose VB is no vertex or primitive of a meshlet. -/
def lowestBad (t : Team) (f : SYS) : Option Nat := (actsOn t f.pred.toNat).find? (fun l => decide (256 ≤ (vreg t f.vb.toNat l).toNat))
/-- Four registers of a lane from r. -/
def four (t : Team) (r l : Nat) : List Word := [vreg t r l, vreg t (r + 1) l, vreg t (r + 2) l, vreg t (r + 3) l]

/-- The mesh stage before the block's `g.done` (R232). -/
def inMesh (s : State) : Prop := (curLaunch s).d.stage = 2 ∧ (curBlock s).mesh.done = false
def inPixel (s : State) : Prop := (curLaunch s).d.stage = 3

/-- All outside the team, but a part of its own block and the count of free values. -/
def beyondBlock (g : Block → Block) (s : State) : State :=
  { others s with blocks := s.blocks.map (fun b => if b.bid = s.cur.blk then g b else b), free := 0 }
/-- The team but its place, and all else but its block's meshlet, are as before. -/
def OnlyMesh (s t : State) : Prop :=
  beyondPlace t.cur = beyondPlace s.cur ∧ beyondBlock (fun b => { b with mesh := {} }) t = beyondBlock (fun b => { b with mesh := {} }) s
/-- The same for its block's fragments: those of lanes that do not act keep all, the others all but the outputs, mark and depth. -/
def OnlyFrags (s t : State) (f : SYS) : Prop :=
  beyondPlace t.cur = beyondPlace s.cur ∧ beyondBlock (fun b => { b with frags := [] }) t = beyondBlock (fun b => { b with frags := [] }) s
  ∧ (curBlock t).frags.length = (curBlock s).frags.length
  ∧ ∀ k, (∀ l, l < s.cur.width → acts s.cur f.pred.toNat l = true → k ≠ s.cur.idx * s.cur.width + l) → (curBlock t).frags[k]? = (curBlock s).frags[k]?

/-- The fragment that lane l of a pixel block holds (R330). -/
def laneFrag (s : State) (l : Nat) : Option Frag := (curBlock s).frags.getD (s.cur.idx * s.cur.width + l) none
/-- The value of an FP32 word. -/
def f32Val (w : Word) : FV := fmtF32.value w.toNat
/-- R320: X, Y, zs and rw of a vertex with a clip-space position; a position that has none voids its primitives. The rounded reciprocal and the
rounding of X and Y stand here; that `fMul` and `fFma` are the product and the exact sum, each rounded once, is a statement of its own (RoundingModes). -/
def SetsUp (view pos : List Word) (X Y : Int) (z rw : Word) : Prop :=
  let v (i : Nat) : FV := f32Val (pos.getD i 0)
  let screen (i : Nat) : Nat := (fFma fmtF32 0 false (f32Val (view.getD (2 * i) 0)) (fmtF32.value (fMul fmtF32 0 false (v i) (f32Val rw)).1)
    (f32Val (view.getD (2 * i + 1) 0))).1
  (∀ i, i < 3 → ∃ x, Denotes (v i) x) ∧ (∃ w fl, Denotes (v 3) w ∧ 0 < w ∧ RoundsTo fmtF32 0 false (1 / w) (rw.toNat, fl))
  ∧ (∃ x, Denotes (fmtF32.value (screen 0)) x ∧ |x| < 32768 ∧ Selects 0 0 (x * 256) X)
  ∧ (∃ y, Denotes (fmtF32.value (screen 1)) y ∧ |y| < 32768 ∧ Selects 0 0 (y * 256) Y)
  ∧ (fmtF32.value (screen 2)).isNan = false ∧ z.toNat = screen 2
/-- R321, R322: the record of primitive k of a meshlet; a primitive that has none is void. -/
def IsRecord (p : Pass) (b : Block) (k : Nat) (r : Rec) : Prop :=
  ∃ w, NMap.get none b.mesh.prim k = some w ∧ w.getLsbD 31 = false ∧ ∃ X Y : Nat → Int, ∃ z rw : Nat → Word,
    let vertex (i : Nat) : Nat := w.toNat / 2 ^ (8 * i) % 256
    let A := (X 1 - X 0) * (Y 2 - Y 0) - (Y 1 - Y 0) * (X 2 - X 0)
    let least (c : Nat → Int) : Int := max 0 (min (c 0) (min (c 1) (c 2)) / 256)
    let most (c : Nat → Int) (e : Nat) : Int := min (e : Int) (max (c 0) (max (c 1) (c 2)) / 256)
    (∀ i, i < 3 → ∃ q, NMap.get none b.mesh.pos (vertex i) = some q ∧ SetsUp p.view q (X i) (Y i) (z i) (rw i))
    ∧ A ≠ 0 ∧ (r.face = true ↔ if p.front = 0 then 0 < A else A < 0) ∧ (p.cull = 1 → r.face = true) ∧ (p.cull = 2 → r.face = false)
    ∧ least X ≤ most X p.width ∧ least Y ≤ most Y p.height
    ∧ r.xy = [X 0, Y 0, X 1, Y 1, X 2, Y 2] ∧ r.z = [z 0, z 1, z 2] ∧ r.rw = [rw 0, rw 1, rw 2]
    ∧ r.tiles.map (Int.ofNat ·) = [least X / 64, least Y / 64, most X p.width / 64, most Y p.height / 64]
    ∧ r.draw = b.draw ∧ r.prim = b.prim + k ∧ r.src = b.die ∧ r.nattr = b.mesh.slots ∧ r.attrs.length = 3 * r.nattr
    ∧ ∀ i j, i < 3 → j < r.nattr → r.attrs.getD (r.nattr * i + j) 0 = (NMap.get none b.mesh.attr (32 * vertex i + j)).getD 0
/-- R319, R321: the dies that own at least one tile of a rectangle, each once. -/
def TileOwners (p : Pass) (tiles l : List Nat) : Prop :=
  l.Nodup ∧ ∀ d, d ∈ l ↔ d ≠ 255 ∧ ∃ tx ty, tiles.getD 0 0 ≤ tx ∧ tx ≤ tiles.getD 2 0 ∧ tiles.getD 1 0 ≤ ty ∧ ty ≤ tiles.getD 3 0
    ∧ p.tot.getD (ty * (p.width / 64 + 1) + tx) 255 = d
/-- The open pass has a block's draw as one of its launch, and no end mark has ended it. -/
def DrawOpen (s : State) (b : Block) (p : Pass) : Prop :=
  s.parlour.pass = some p ∧ ∃ d, d ∈ p.draws ∧ d.lid = b.lid ∧ d.ord = b.draw ∧ d.ended = false
/-- Slot k of a fragment (R235). -/
def fragSlot (g : Frag) (k : Nat) : Word :=
  if k < 32 then g.attr.getD k 0 else if k = 32 then BitVec.ofNat 32 g.x else if k = 33 then BitVec.ofNat 32 g.y
  else if k = 34 then g.zi else if g.front then 1 else 0

end Sys2Proof.Claims

/-- R232 to R235, R320 to R323: the graphics instructions belong to a stage, the mesh ones before the block's `g.done`; elsewhere they trap. `g.vtx`, `g.prim` and mesh `g.attr`
write the meshlet's positions, words and slots, the highest lane last; pixel `g.attr` reads the slots of each lane's fragment; `g.out`, `g.kill` and `g.zq` set its
output, mark and depth; `g.done` closes the meshlet, sets its primitives up, sends the records of those that are not void to the owners of their
tile rectangles and then the block's mark to every owner, and completes once all have left. -/
def Obligations.GraphicsInstructions : Prop := ∀ f s c, CleanVectors s.cur → s.cur.dying = [] → (block? s s.cur.blk).isSome = true →
  let at_ := c.hdr + 8 * (c.idx + 1)
  let n := f.mod.toNat % 4 + 1
  let k := f.imm.toNat % 64
  (∀ i, i = .gVtx f ∨ i = .gPrim f → Issues i s c →
    (¬inMesh s → exec i s = .next (takeTrap s at_ { cause := 3, detail := 9 } .instr))
    ∧ (inMesh s → ∀ l, lowestBad s.cur f = some l → exec i s = .next (takeTrap s at_ { cause := 3, detail := 0xA, lane := some l } .instr))
    ∧ (inMesh s → lowestBad s.cur f = none → Completes i s (fun t => GoesOn c s.cur t.cur ∧ OnlyMesh s t
        ∧ (i = .gVtx f → { (curBlock t).mesh with pos := [] } = { (curBlock s).mesh with pos := [] }
            ∧ ∀ v, NMap.get none (curBlock t).mesh.pos v = (match lastLane s.cur f v with
              | some l => some (four s.cur f.va.toNat l)
              | none => NMap.get none (curBlock s).mesh.pos v))
        ∧ (i = .gPrim f → { (curBlock t).mesh with prim := [] } = { (curBlock s).mesh with prim := [] }
            ∧ ∀ v, NMap.get none (curBlock t).mesh.prim v = (match lastLane s.cur f v with
              | some l => some (vreg s.cur f.va.toNat l)
              | none => NMap.get none (curBlock s).mesh.prim v)))))
  ∧ (Issues (.gAttr f) s c →
    (¬inMesh s → ¬inPixel s → exec (.gAttr f) s = .next (takeTrap s at_ { cause := 3, detail := 9 } .instr))
    ∧ (inMesh s → 32 < k + n → ∀ l, (actsOn s.cur f.pred.toNat).head? = some l →
        exec (.gAttr f) s = .next (takeTrap s at_ { cause := 3, detail := 0xA, lane := some l } .instr))
    ∧ (inMesh s → k + n ≤ 32 → ∀ l, lowestBad s.cur f = some l →
        exec (.gAttr f) s = .next (takeTrap s at_ { cause := 3, detail := 0xA, lane := some l } .instr))
    ∧ (inMesh s → k + n ≤ 32 → lowestBad s.cur f = none → Completes (.gAttr f) s (fun t => GoesOn c s.cur t.cur ∧ OnlyMesh s t
        ∧ { (curBlock t).mesh with attr := [], slots := 0 } = { (curBlock s).mesh with attr := [], slots := 0 }
        ∧ (curBlock t).mesh.slots = (if actsOn s.cur f.pred.toNat = [] then (curBlock s).mesh.slots else max (curBlock s).mesh.slots (k + n))
        ∧ ∀ v j, j < 32 → NMap.get none (curBlock t).mesh.attr (32 * v + j) = (match lastLane s.cur f v with
            | some l => if k ≤ j ∧ j < k + n then some (vreg s.cur (f.va.toNat + (j - k)) l) else NMap.get none (curBlock s).mesh.attr (32 * v + j)
            | none => NMap.get none (curBlock s).mesh.attr (32 * v + j))))
    ∧ (inPixel s → 35 < k ∨ (32 ≤ k ∧ 1 < n) ∨ (k < 32 ∧ 32 < k + n) → ∀ l, (actsOn s.cur f.pred.toNat).head? = some l →
        exec (.gAttr f) s = .next (takeTrap s at_ { cause := 3, detail := 0xA, lane := some l } .instr))
    ∧ (inPixel s → (k < 32 ∧ k + n ≤ 32) ∨ (k ≤ 35 ∧ n = 1) → Completes (.gAttr f) s (fun t => GoesOn c s.cur t.cur
        ∧ beyondVectors t.cur = beyondVectors s.cur ∧ beyondBlock id t = beyondBlock id s
        ∧ (∀ l g j, l < s.cur.width → acts s.cur f.pred.toNat l = true → laneFrag s l = some g → j < n → vreg t.cur (f.vd.toNat + j) l = fragSlot g (k + j))
        ∧ ∀ r l, l < 1024 → (acts s.cur f.pred.toNat l = false ∨ r < f.vd.toNat ∨ f.vd.toNat + n ≤ r) → vreg t.cur r l = vreg s.cur r l)))
  ∧ (∀ i, i = .gOut f ∨ i = .gKill f ∨ i = .gZq f → Issues i s c →
    (¬inPixel s → exec i s = .next (takeTrap s at_ { cause := 3, detail := 9 } .instr))
    ∧ (inPixel s → Completes i s (fun t => GoesOn c s.cur t.cur ∧ OnlyFrags s t f
        ∧ ∀ l g, l < s.cur.width → acts s.cur f.pred.toNat l = true → laneFrag s l = some g → ∃ h, laneFrag t l = some h
          ∧ (i = .gOut f → { h with outs := [] } = { g with outs := [] }
              ∧ ∀ q, NMap.get none h.outs q = if q = f.imm.toNat % 4 then some (four s.cur f.va.toNat l) else NMap.get none g.outs q)
          ∧ (i = .gKill f → h = { g with dead := true })
          ∧ (i = .gZq f → h = { g with z := vreg s.cur f.va.toNat l }))))
  ∧ (Issues (.gDone f) s c → let m := (sreg s.cur f.sa.toNat).toNat % 512
    ((curLaunch s).d.stage ≠ 2 → exec (.gDone f) s = .next (takeTrap s at_ { cause := 3, detail := 9 } .instr))
    ∧ ((curLaunch s).d.stage = 2 → 256 < m → exec (.gDone f) s = .next (takeTrap s at_ { cause := 3, detail := 0xA } .instr))
    ∧ ((curLaunch s).d.stage = 2 → m ≤ 256 → Completes (.gDone f) s (fun t =>
        (∃ o, t.cur.ops = s.cur.ops ++ [o] ∧ StandsFor s c (.gDone f) f.fs 0 0 o ∧ o.arg = [if (curBlock s).mesh.done then 0 else 1])
        ∧ Raised s t f.fs ∧ GoesOn c s.cur t.cur ∧ beyondOps t.cur = beyondOps s.cur
        ∧ (curBlock t).mesh = { (curBlock s).mesh with done := true } ∧ { beyondBlock (fun b => { b with mesh := {} }) t with fabric := s.fabric }
            = beyondBlock (fun b => { b with mesh := {} }) s
        ∧ ((curBlock s).mesh.done = true ∨ (∀ p, ¬DrawOpen s (curBlock s) p) → t.fabric = s.fabric)
        ∧ ((curBlock s).mesh.done = false → ∀ p, DrawOpen s (curBlock s) p → let b := curBlock s
            ∃ recs : Nat → Option Rec, ∃ owners : Rec → List Nat,
              (∀ k, k < m → (∀ r, recs k = some r → IsRecord p b k r) ∧ (recs k = none → ∀ r, ¬IsRecord p b k r))
              ∧ (∀ r, TileOwners p r.tiles (owners r))
              ∧ t.fabric.msgs = s.fabric.msgs
                ++ ((List.range m).filterMap recs).flatMap (fun r => (owners r).map (fun o => .record b.die o r b.bid))
                ++ p.owners.map (fun o => .mark 1 b.die o b.draw b.prim 0 b.bid)))))
  ∧ (∀ id o, Stands s id o → o.i = .gDone f → o.arg = [0] ∨ (o.arg = [1] ∧ meshSent s s.cur.blk = true) →
      Completes (.longLatencyCompletion s.cur.tid id) s (fun t => t.cur.ops = s.cur.ops.filter (fun p => p.id != id)
        ∧ (∀ k, flagCount t.cur k = if o.flag = some k then flagCount s.cur k - 1 else flagCount s.cur k)
        ∧ beyondOps t.cur = beyondOps s.cur ∧ others t = others s))

namespace Sys2Proof.Claims

/-! ## Texture and ray queries (R236 to R244) -/

/-- An operation stands for an instruction that the lanes of exec(p) issue, each with the bytes of its operand registers. -/
def QueryFor (s : State) (c : Clause) (i : Instr) (f : SYS) (regs : List Nat) (o : Op) : Prop :=
  o.i = i ∧ o.pc = c.hdr + 8 * (c.idx + 1) ∧ o.flag = (if selFlag s f.fs < 12 then some (selFlag s f.fs) else none)
  ∧ o.stream = (curLaunch s).d.stream ∧ o.kills = [] ∧ o.pois = [] ∧ (∀ l, l < 1024 → o.mask.getLsbD l = acts s.cur f.pred.toNat l)
  ∧ o.acc.map (·.lane) = actsOn s.cur f.pred.toNat
  ∧ ∀ a, a ∈ o.acc → a.data = regs.flatMap (fun r => (List.range 4).map (fun j => BitVec.ofNat 8 ((vreg s.cur r a.lane).toNat / 2 ^ (8 * j))))

/-- Operand word i of a lane's part of an operation. -/
def opWord (a : Acc) (i : Nat) : Word := BitVec.ofNat 32 (valueOf 4 (fun j => a.data.getD (4 * i + j) 0))

/-- The operation completes: each of its lanes holds its words in vd onward; no other vector register, no memory, and nothing else of the team but its
operations, flags and queries changes. -/
def Answers (s t : State) (o : Op) (vd n : Nat) (w : Acc → Nat → Word) : Prop :=
  t.cur.ops = s.cur.ops.filter (fun p => p.id != o.id)
  ∧ (∀ f, flagCount t.cur f = if o.flag = some f then flagCount s.cur f - 1 else flagCount s.cur f)
  ∧ (∀ a j, a ∈ o.acc → j < n → vreg t.cur (vd + j) a.lane = w a j)
  ∧ (∀ r l, l < 1024 → (l ∉ o.acc.map (·.lane) ∨ r < vd ∨ vd + n ≤ r) → vreg t.cur r l = vreg s.cur r l)
  ∧ { beyondOps (beyondVectors t.cur) with rays := [] } = { beyondOps (beyondVectors s.cur) with rays := [] } ∧ t.mem = s.mem

/-- Width and height of a texture's level (R236). -/
def levelW (t : Tex) (l : Nat) : Nat := max 1 ((t.width + 1) / 2 ^ l)
def levelH (t : Tex) (l : Nat) : Nat := max 1 ((t.height + 1) / 2 ^ l)
/-- The texture whose descriptor an operation has read. -/
def opTex (o : Op) : Tex := texOf (((List.range 4).map (fun j => (o.sc.getD j 0).toNat * 2 ^ (64 * j))).sum)

/-- Bytes of a texel by its format (R236), the pitch and the size of a level, the address of a texel (R237). -/
def bytesOfTexel (fmt : Nat) : Nat := [4, 8, 16, 4, 1, 4].getD fmt 4
def levelPitch (t : Tex) (l : Nat) : Nat := if l = 0 then t.rpitch else 16 * ((levelW t l * bytesOfTexel t.fmt + 15) / 16)
def levelSize (t : Tex) (l : Nat) : Nat := 256 * ((levelPitch t l * levelH t l + 255) / 256)
def texelAddr (t : Tex) (x y layer l : Nat) : Nat :=
  t.base + 256 * t.lpitch * layer + ((List.range l).map (levelSize t)).sum + y * levelPitch t l + x * bytesOfTexel t.fmt

/-- Channel c of a texel's bytes: a value and what it is divided by (R236). -/
def channelOf (fmt : Nat) (b : Nat → Byte) (c : Nat) : FV × Nat :=
  let half (i : Nat) : FV × Nat := (fmtF16.value ((b (2 * i)).toNat + 2 ^ 8 * (b (2 * i + 1)).toNat), 1)
  let single (i : Nat) : FV × Nat := (fmtF32.value (valueOf 4 (fun j => b (4 * i + j))), 1)
  let byte (i : Nat) : FV × Nat := (.fin false (b i).toNat 0, 255)
  let const (k : Nat) : FV × Nat := (.fin false k 0, 1)
  match fmt with
  | 0 => byte c
  | 1 => half c
  | 2 => single c
  | 3 => if c = 0 then single 0 else const (if c = 3 then 1 else 0)
  | 4 => if c = 0 then byte 0 else const (if c = 3 then 1 else 0)
  | _ => if c < 2 then half c else const (if c = 3 then 1 else 0)

/-- n bytes at an address that a lane's cell maps by a leaf, at a member that is present, in one line. -/
def ReadsAt (s : State) (ck va n : Nat) (l : Leaf) : Prop :=
  va + n ≤ 2 ^ 56 ∧ (cellOf s ck).utlb.find? (fun m => m.vbase ≤ va && va < m.vbase + m.size) = some l ∧ l.mt = 0 ∧ denied l .read (curLaunch s).d.priv = none
  ∧ (l.pbase + (va - l.vbase)) % n = 0 ∧ ∃ x p, placeAt s l va = some (x, p) ∧ (siteOf s x).lost = false ∧ p + n ≤ 2 ^ 36
/-- Byte i of what stands there. -/
def mappedByte (s : State) (l : Leaf) (va i : Nat) : Byte := match placeAt s l va with
  | some (x, p) => homeByte s x (p + i)
  | none => 0

/-- Where an index on an extent lands by its wrap mode; none: the border (R237). -/
def landing (mode : Nat) (i : Int) (n : Nat) : Option Nat :=
  match mode with
  | 0 => some (i % (n : Int)).toNat
  | 1 => some (max 0 (min i ((n : Int) - 1))).toNat
  | 2 => some (if i % (2 * (n : Int)) < n then i % (2 * (n : Int)) else 2 * (n : Int) - 1 - i % (2 * (n : Int))).toNat
  | _ => if 0 ≤ i ∧ i < n then some i.toNat else none

/-- A part of a sample: its texel's place (x, y, level), or the border, and its weight in units of 2^−24. -/
abbrev Part := Option (Nat × Nat × Nat) × Nat
def partAt (t : Tex) (i j : Int) (l w : Nat) : Part :=
  (match landing t.wrapu i (levelW t l), landing t.wrapv j (levelH t l) with
    | some x, some y => some (x, y, l)
    | _, _ => none, w)

/-- i and a: the floor of x and q8 of the rest, a result of 1 carried into i (R238). -/
def Near8 (x : ℝ) (i : Int) (a : Nat) : Prop := a < 256 ∧ Selects 0 (-8) x (i + a / 256)

/-- lam (R238): a NaN LOD is read as 0. -/
def LevelOf (t : Tex) (lod : FV) (lam : ℝ) : Prop :=
  (∀ x, Denotes lod x → lam = max 0 (min (x + t.bias / 256) t.levels)) ∧ (lod.isNan = true → lam = max 0 (min ((t.bias : ℝ) / 256) t.levels))
  ∧ (lod = .inf false → lam = t.levels) ∧ (lod = .inf true → lam = 0)

/-- The four texels about a place at a level, with a weight of w / 256 (R238). -/
def Bilinear (t : Tex) (u v : ℝ) (l w : Nat) (ps : List Part) : Prop :=
  ∃ i a j b, Near8 (u * levelW t l - 1 / 2) i a ∧ Near8 (v * levelH t l - 1 / 2) j b
    ∧ ps = [partAt t i j l ((256 - a) * (256 - b) * w), partAt t (i + 1) j l (a * (256 - b) * w), partAt t i (j + 1) l ((256 - a) * b * w), partAt t (i + 1) (j + 1) l (a * b * w)]

/-- The parts of a sample by its filter (R238). -/
def Sample (t : Tex) (u v lam : ℝ) (ps : List Part) : Prop :=
  match t.filter with
  | 0 => ∃ l : Nat, (l : ℝ) ≤ lam + 1 / 2 ∧ lam + 1 / 2 < l + 1 ∧ ps = [partAt t ⌊u * levelW t l⌋ ⌊v * levelH t l⌋ l (2 ^ 24)]
  | 1 => ∃ l : Nat, (l : ℝ) ≤ lam + 1 / 2 ∧ lam + 1 / 2 < l + 1 ∧ Bilinear t u v l 256 ps
  | _ => ∃ (l f : Nat) (p q : List Part), Near8 lam l f ∧ Bilinear t u v l (256 - f) p ∧ Bilinear t u v (min (l + 1) t.levels) f q ∧ ps = p ++ q

/-- Channel c of the part of a sample: zero on the border. -/
def partChannel (s : State) (l : Leaf) (t : Tex) (layer c : Nat) (p : Part) : FV × Nat := match p.1 with
  | none => (.fin false 0 0, 1)
  | some (x, y, k) => channelOf t.fmt (mappedByte s l (texelAddr t x y layer k)) c

/-- The word that is the exact weighted sum, rounded once to FP32; a NaN or opposed infinities make it the canonical NaN; parts without
weight take none (R238). -/
def Filtered (ps : List (FV × Nat × Nat)) (y : Word) : Prop :=
  let qs := ps.filter (fun p => p.2.2 != 0)
  ((∃ p, p ∈ qs ∧ p.1.isNan = true) ∨ (∃ p q, p ∈ qs ∧ q ∈ qs ∧ p.1 = .inf true ∧ q.1 = .inf false) → y = 0x7FC00000)
  ∧ (∀ sg, (∀ p, p ∈ qs → p.1 = .inf sg ∨ ∃ x, Denotes p.1 x) → (∃ p, p ∈ qs ∧ p.1 = .inf sg) → y = if sg then 0xFF800000 else 0x7F800000)
  ∧ ∀ xs : List ℝ, List.Forall₂ (fun (p : FV × Nat × Nat) (x : ℝ) => Denotes p.1 x) qs xs →
      let e : ℝ := (List.zipWith (fun (p : FV × Nat × Nat) (x : ℝ) => x / (p.2.1 : ℝ) * ((p.2.2 : ℝ) / 2 ^ 24)) qs xs).sum
      (e ≠ 0 → ∃ fl, RoundsTo fmtF32 0 false e (y.toNat, fl)) ∧ (e = 0 → y.toNat % 2 ^ 31 = 0)

/-- An FP32 word is a NaN, an infinity, or a zero. -/
def nanWord (w : Word) : Bool := decide (0x7F800000 < w.toNat % 2 ^ 31)
def infWord (w : Word) : Bool := w.toNat % 2 ^ 31 == 0x7F800000
def zeroWord (w : Word) : Bool := w.toNat % 2 ^ 31 == 0
/-- A ray that meets nothing (R242): a NaN among its words, or no direction. -/
def deadRay (a : Acc) : Bool :=
  (List.range 8).any (fun i => nanWord (opWord a i)) || (zeroWord (opWord a 3) && zeroWord (opWord a 4) && zeroWord (opWord a 5))
/-- A value is the real number x, rounded once to FP32 (R243); a zero stays one. -/
def Rounded (x : ℝ) (v : FV) : Prop := (x ≠ 0 → ∃ w fl, RoundsTo fmtF32 0 false x (w, fl) ∧ v = fmtF32.value w) ∧ (x = 0 → v.isZero = true)
/-- U × A + V × B + W × C without rounding. -/
def exactNum (u v w a b c : FV) : FV := (sumFV 0 [(mulFV u a).1, (mulFV v b).1, (mulFV w c).1]).1

/-- R243: the operations of the triangle test round once; the sums of products that it forms exactly do not. -/
def RayArithmetic : Prop := ∀ a b x y, Denotes a x → Denotes b y →
  Rounded (x * y) (f32Mul a b) ∧ Rounded (x + y) (f32Add a b) ∧ Rounded (x - y) (f32Sub a b) ∧ (y ≠ 0 → Rounded (x / y) (f32Quot a b))
  ∧ (∀ c d z w, Denotes c z → Denotes d w → Denotes (exactDet a b c d) (x * y - z * w))
  ∧ ∀ c d e f z w p q, Denotes c z → Denotes d w → Denotes e p → Denotes f q → Denotes (exactNum a b c d e f) (x * w + y * p + z * q)

/-- The triangle test (R243) of three vertices for a ray: t, u, v and the facing of a hit. -/
def triangleHit (o d : Nat → FV) (vert : Nat → Nat → FV) : Option (Word × Word × Word × Bool) :=
  let big (i j : Nat) : Bool := (d i).abs.lt (d j).abs
  let kz := if big 0 2 && big 1 2 then 2 else if big 0 1 then 1 else 0
  let kx := if (d kz).negv then (kz + 2) % 3 else (kz + 1) % 3
  let ky := if (d kz).negv then (kz + 1) % 3 else (kz + 2) % 3
  let P (i k : Nat) : FV := f32Sub (vert i k) (o k)
  let X (i : Nat) : FV := f32Sub (P i kx) (f32Mul (f32Quot (d kx) (d kz)) (P i kz))
  let Y (i : Nat) : FV := f32Sub (P i ky) (f32Mul (f32Quot (d ky) (d kz)) (P i kz))
  let Z (i : Nat) : FV := f32Mul (f32Quot (.fin false 1 0) (d kz)) (P i kz)
  let rounded (i j : Nat) : FV := f32Sub (f32Mul (X i) (Y j)) (f32Mul (Y i) (X j))
  let exact (i j : Nat) : FV := exactDet (X i) (Y j) (Y i) (X j)
  let edge := if (rounded 2 1).isZero || (rounded 0 2).isZero || (rounded 1 0).isZero then exact else rounded
  let U := edge 2 1; let V := edge 0 2; let W := edge 1 0
  let det := f32Add (f32Add U V) W
  if ((U.negv || V.negv || W.negv) && (U.pos || V.pos || W.pos)) || det.isZero then none
  else some (f32w (f32Quot (exactNum U V W (Z 0) (Z 1) (Z 2)) det), f32w (f32Quot V det), f32w (f32Quot W det), det.pos)

/-- Bits h to l of a node or leaf (R240, R241). -/
def bitField (x h l : Nat) : Nat := x / 2 ^ l % 2 ^ (h + 1 - l)
/-- The node and the leaf at an address, as memory holds them. -/
def bvhNode (s : State) (l : Leaf) (a : Nat) : Nat := valueOf 128 (mappedByte s l a)
def bvhLeaf (s : State) (l : Leaf) (a : Nat) : Nat := valueOf 64 (mappedByte s l a)
def nodeRight (n : Nat) : Prop := bitField n 1023 736 = 0 ∧ bitField n 319 288 = 0 ∧ bitField n 159 136 = 0 ∧ bitField n 287 224 % 64 = 0 ∧ bitField n 223 160 % 128 = 0
def leafRight (n : Nat) : Prop := bitField n 511 353 = 0 ∧ bitField n 351 320 = 0
/-- Child c of a node: that it exists, that it is a run of leaves, the address of an internal child, the first leaf of a run and its number (R240). -/
def hasChild (n c : Nat) : Prop := c < 8 ∧ n.testBit (120 + c) = true
def leafCount (n c : Nat) : Nat := bitField n (707 + 4 * c) (704 + 4 * c) + 1
def childNode (n c : Nat) : Nat := bitField n 223 160 + 128 * ((List.range c).filter (fun k => n.testBit (120 + k) && !n.testBit (128 + k))).length
def firstLeaf (n c : Nat) : Nat := bitField n 287 224 + 64 * (((List.range c).filter (fun k => n.testBit (120 + k) && n.testBit (128 + k))).map (leafCount n)).sum

/-- A number of the box of child c: lo x, y, z, then hi x, y, z; and the exponent of an axis (R240). -/
def boxNum (n c k : Nat) : Nat := bitField n (327 + 48 * c + 8 * k) (320 + 48 * c + 8 * k)
def boxExp (n k : Nat) : Int := (BitVec.ofNat 8 (bitField n (103 + 8 * k) (96 + 8 * k))).toInt
/-- The exact segment of a query from tmin to the current limit meets the box of child c (R243). -/
def SegmentMeets (q : RayQ) (n c : Nat) : Prop :=
  let lim : FV := match q.commit with | some h => f32v h.t | none => rayMax q
  ∃ x : ℝ, rayMin q ≠ .inf false ∧ lim ≠ .inf true ∧ (∀ m, Denotes (rayMin q) m → m ≤ x) ∧ (∀ m, Denotes lim m → x ≤ m)
    ∧ ∀ k org o d, k < 3 → Denotes (f32v (BitVec.ofNat 32 (bitField n (32 * k + 31) (32 * k)))) org → Denotes (rayO q k) o → Denotes (rayD q k) d →
      org + (boxNum n c k : ℝ) * (2 : ℝ) ^ boxExp n k ≤ o + x * d ∧ o + x * d ≤ org + (boxNum n c (3 + k) : ℝ) * (2 : ℝ) ^ boxExp n k

/-- The nodes and leaves of a tree; where `met` picks children, those below children that it picks. -/
inductive TreeNode (s : State) (l : Leaf) (met : Nat → Nat → Prop) (root : Nat) : Nat → Prop
  | root : TreeNode s l met root root
  | child (a c : Nat) : TreeNode s l met root a → hasChild (bvhNode s l a) c → (bvhNode s l a).testBit (128 + c) = false → met (bvhNode s l a) c →
      TreeNode s l met root (childNode (bvhNode s l a) c)
def TreeLeaf (s : State) (l : Leaf) (met : Nat → Nat → Prop) (root b : Nat) : Prop :=
  ∃ a c j, TreeNode s l met root a ∧ hasChild (bvhNode s l a) c ∧ (bvhNode s l a).testBit (128 + c) = true ∧ met (bvhNode s l a) c
    ∧ j < leafCount (bvhNode s l a) c ∧ b = firstLeaf (bvhNode s l a) c + 64 * j
def Any (_ _ : Nat) : Prop := True

/-- The hit of a leaf for a query (R241, R243): what `.cullb` leaves. -/
def leafHit (s : State) (l : Leaf) (q : RayQ) (b : Nat) (h : Hit) : Prop :=
  let n := bvhLeaf s l b
  triangleHit (rayO q) (rayD q) (fun i k => f32v (BitVec.ofNat 32 (bitField n (96 * i + 32 * k + 31) (96 * i + 32 * k)))) = some (h.t, h.u, h.v, h.front)
  ∧ h.leaf = b ∧ h.prim = BitVec.ofNat 32 (bitField n 319 288) ∧ h.opq = n.testBit 352 ∧ (q.cullb = true → h.front = true)
/-- It is valid: t lies in the interval, and its key (t, leaf address) is below that of a committed hit (R244). -/
def validHit (q : RayQ) (h : Hit) : Prop :=
  (rayMin q).le (f32v h.t) = true ∧ (f32v h.t).le (rayMax q) = true
  ∧ ∀ c, q.commit = some c → (f32v h.t).lt (f32v c.t) = true ∨ ((f32v h.t).eqv (f32v c.t) = true ∧ h.leaf < c.leaf)

/-- STATUS, t, primitive and flags of an answer (R242). -/
def answerOf (status : Nat) (h : Option Hit) : List Word := match h with
  | none => [BitVec.ofNat 32 status, 0, 0, 0]
  | some h => [BitVec.ofNat 32 status, h.t, h.prim, BitVec.ofNat 32 ((if h.front then 1 else 0) + (if h.opq then 2 else 0))]

/-- q is what traversing from q0 leaves (R242 to R244): a committed hit and a candidate are hits of the tree's leaves; an end without `.first` leaves no valid hit
in a leaf that the segment meets and that was not decided before. -/
def Traversed (s : State) (l : Leaf) (q0 q : RayQ) : Prop :=
  (q.ray, q.root, q.first, q.cullb, q.opq) = (q0.ray, q0.root, q0.first, q0.cullb, q0.opq)
  ∧ (∀ h, q.commit = some h → q0.commit = some h ∨ (TreeLeaf s l Any q.root h.leaf ∧ leafHit s l q h.leaf h ∧ validHit q0 h ∧ (h.opq || q.opq) = true))
  ∧ (∀ h, q.cand = some h → q.done = false ∧ TreeLeaf s l Any q.root h.leaf ∧ leafHit s l q h.leaf h ∧ validHit q h ∧ (h.opq || q.opq) = false ∧ h.leaf ∉ q0.seen ∧ q.res = answerOf 2 (some h))
  ∧ (q.cand = none → q.done = true ∧ q.res = (match q.commit with | none => [0, 0, 0, 0] | some h => answerOf 1 (some h))
      ∧ (q.first = false ∨ q.commit = none → ∀ b h, TreeLeaf s l (SegmentMeets q) q.root b → b ∉ q0.seen → leafHit s l q b h → ¬validHit q h))

/-- A lane's query, its candidate and its committed hit. -/
def queryOf (s : State) (l : Nat) : RayQ := (NMap.get none s.cur.rays l).getD {}
/-- The query of a lane that has ended with a hit, or none. -/
def Ended (t : State) (l : Nat) (h : Option Hit) : Prop := (queryOf t l).done = true ∧ (queryOf t l).cand = none ∧ (queryOf t l).commit = h

end Sys2Proof.Claims

/-- R236, R237: a texture instruction checks the place of its descriptor, reads it, and checks it; then it becomes an operation with each lane's operands. R240 to
R242: `ray.trace` checks its root; the ray instructions become operations. `tx.dim` answers a level's extents and counts; `tx.ld` answers zeros outside the level,
and a texel of 32-bit channels as memory holds it; `tx.smp` answers zeros for coordinates that are no numbers, and else the weighted sum of the filter's texels,
in exact reals, rounded once. R240, R241, R243, R244: a ray that meets nothing answers STATUS 0; another is traversed to an end or a candidate, by the watertight
test of the leaves' triangles, and no leaf whose box it meets is missed (which of the candidates comes first is free, log 6); `ray.cont` keeps a query that has ended, and commits a candidate that the first hit ends; `ray.hit` answers u and v. A query of
which nothing has been read before reads all of it as it completes, the order of its reads being the model's (log 78); that a traversal ends on every graph of nodes, with circles and shared nodes too, is the model's reading (log 83). -/
def Obligations.TextureAndRayQueries : Prop := RayArithmetic ∧
  (∀ i f regs s c, (i = .txSmp f ∧ regs = [f.va.toNat, f.va.toNat + 1, f.va.toNat + 2, f.vb.toNat]) ∨ (i = .txLd f ∧ regs = [f.va.toNat, f.va.toNat + 1, f.va.toNat + 2, f.vb.toNat])
      ∨ (i = .txDim f ∧ regs = [f.vb.toNat]) → Issues i s c → CleanVectors s.cur → s.cur.dying = [] →
    let a := (sreg s.cur f.sa.toNat).toNat % 2 ^ 32
    let at_ := c.hdr + 8 * (c.idx + 1)
    (a % 32 ≠ 0 → exec i s = .next (takeTrap s at_ { cause := 7, addr := a } .instr))
    ∧ (a % 32 = 0 → teamVault s a 32 = none → exec i s = .next (takeTrap s at_ { cause := 8, addr := firstBad s a 32 } .instr))
    ∧ (a % 32 = 0 → CleanMemory s → ∀ k, teamVault s a 32 = some k → let x := valueOf 32 (fun j => vaultByte s (k + j))
      (badTex x = true → exec i s = .next (takeTrap s at_ { cause := 3, detail := 0xB, addr := a } .instr))
      ∧ (badTex x = false → Completes i s (fun t => (∃ o, t.cur.ops = s.cur.ops ++ [o] ∧ QueryFor s c i f regs o
            ∧ o.sc = (List.range 4).map (fun j => BitVec.ofNat 64 (x / 2 ^ (64 * j))))
          ∧ Raised s t f.fs ∧ GoesOn c s.cur t.cur ∧ beyondOps t.cur = beyondOps s.cur ∧ SameHomes s t ∧ SameVaults s t))))
  ∧ (∀ i f regs s c, (i = .rayTrace f ∧ regs = (List.range 8).map (fun j => f.va.toNat + j)) ∨ (i = .rayCont f ∧ regs = [f.vb.toNat]) ∨ (i = .rayHit f ∧ regs = []) →
      Issues i s c → CleanVectors s.cur → s.cur.dying = [] → let a := (sreg s.cur f.sa.toNat).toNat
    (i = .rayTrace f → a % 128 ≠ 0 → exec i s = .next (takeTrap s (c.hdr + 8 * (c.idx + 1)) { cause := 7, addr := a } .instr))
    ∧ (i ≠ .rayTrace f ∨ a % 128 = 0 → Completes i s (fun t => (∃ o, t.cur.ops = s.cur.ops ++ [o] ∧ QueryFor s c i f regs o
          ∧ (i = .rayTrace f → o.sc = [BitVec.ofNat 64 a]))
        ∧ Raised s t f.fs ∧ GoesOn c s.cur t.cur ∧ beyondOps t.cur = beyondOps s.cur ∧ others t = others s)))
  ∧ (∀ s id o, Stands s id o → o.held = [] → o.walks = [] → CleanVectors s.cur → s.cur.dying = [] → (∀ a, a ∈ o.acc → a.lane < 1024) → (∀ e, e ∈ s.cur.ops → id ≤ e.id) →
    (∀ f, o.i = .txDim f → Completes (.longLatencyCompletion s.cur.tid id) s (fun t => Answers s t o f.vd.toNat 4 (fun a j => let l := (opWord a 0).toNat
        if (opTex o).levels < l then 0
        else [BitVec.ofNat 32 (levelW (opTex o) l), BitVec.ofNat 32 (levelH (opTex o) l), BitVec.ofNat 32 ((opTex o).levels + 1), BitVec.ofNat 32 ((opTex o).layers + 1)].getD j 0)))
    ∧ (∀ f, o.i = .txLd f → (∀ a, a ∈ o.acc → (opTex o).levels < (opWord a 3).toNat ∨ levelW (opTex o) (opWord a 3).toNat ≤ (opWord a 0).toNat
          ∨ levelH (opTex o) (opWord a 3).toNat ≤ (opWord a 1).toNat) →
        Completes (.longLatencyCompletion s.cur.tid id) s (fun t => Answers s t o f.vd.toNat 4 (fun _ _ => 0)))
    ∧ (∀ f b l x p, o.i = .txLd f → o.acc = [b] → (opTex o).fmt = 2 → GoodMemory s → (cellOf s (ckey s.cur.die (laneCell s.cur b.lane))).l1 = [] →
        (opWord b 3).toNat ≤ (opTex o).levels → (opWord b 0).toNat < levelW (opTex o) (opWord b 3).toNat → (opWord b 1).toNat < levelH (opTex o) (opWord b 3).toNat →
        let va := texelAddr (opTex o) (opWord b 0).toNat (opWord b 1).toNat (min (opWord b 2).toNat (opTex o).layers) (opWord b 3).toNat
        va + 16 ≤ 2 ^ 56 → (cellOf s (ckey s.cur.die (laneCell s.cur b.lane))).utlb.find? (fun m => m.vbase ≤ va && va < m.vbase + m.size) = some l → l.mt = 0 →
        denied l .read (curLaunch s).d.priv = none → locate s (l.pbase + (va - l.vbase)) = some (x, p) → (l.pbase + (va - l.vbase)) % 16 = 0 →
        (siteOf s x).lost = false → p + 16 ≤ 2 ^ 36 →
        Completes (.longLatencyCompletion s.cur.tid id) s (fun t => (∀ j, j < 4 → vreg t.cur (f.vd.toNat + j) b.lane = BitVec.ofNat 32 (valueOf 4 (fun q => homeByte s x (p + 4 * j + q))))
          ∧ (∀ r k, k < 1024 → (k ≠ b.lane ∨ r < f.vd.toNat ∨ f.vd.toNat + 4 ≤ r) → vreg t.cur r k = vreg s.cur r k)
          ∧ t.cur.ops = s.cur.ops.filter (fun p => p.id != o.id) ∧ SameHomes s t ∧ SameVaults s t))
    ∧ (∀ f, o.i = .txSmp f → (∀ a, a ∈ o.acc → nanWord (opWord a 0) = true ∨ infWord (opWord a 0) = true ∨ nanWord (opWord a 1) = true ∨ infWord (opWord a 1) = true) →
        Completes (.longLatencyCompletion s.cur.tid id) s (fun t => Answers s t o f.vd.toNat 4 (fun _ _ => 0)))
    ∧ (∀ f b l u v lam ps, o.i = .txSmp f → o.acc = [b] → GoodMemory s → (cellOf s (ckey s.cur.die (laneCell s.cur b.lane))).l1 = [] →
        let x := opTex o
        let layer := min (opWord b 2).toNat x.layers
        x.fmt < 6 → x.filter < 3 → Denotes (f32v (opWord b 0)) u → Denotes (f32v (opWord b 1)) v → LevelOf x (f32v (opWord b 3)) lam → Sample x u v lam ps →
        (∀ p i j k, p ∈ ps → p.1 = some (i, j, k) → p.2 ≠ 0 → ReadsAt s (ckey s.cur.die (laneCell s.cur b.lane)) (texelAddr x i j layer k) (bytesOfTexel x.fmt) l) →
        Completes (.longLatencyCompletion s.cur.tid id) s (fun t =>
          (∀ c, c < 4 → Filtered (ps.map (fun p => ((partChannel s l x layer c p).1, (partChannel s l x layer c p).2, p.2))) (vreg t.cur (f.vd.toNat + c) b.lane))
          ∧ (∀ r k, k < 1024 → (k ≠ b.lane ∨ r < f.vd.toNat ∨ f.vd.toNat + 4 ≤ r) → vreg t.cur r k = vreg s.cur r k)
          ∧ t.cur.ops = s.cur.ops.filter (fun p => p.id != o.id) ∧ SameHomes s t ∧ SameVaults s t))
    ∧ (∀ b l q0 vd, o.acc = [b] → GoodMemory s → (cellOf s (ckey s.cur.die (laneCell s.cur b.lane))).l1 = [] →
        (∃ f, o.i = .rayTrace f ∧ vd = f.vd.toNat ∧ deadRay b = false
            ∧ q0 = { ray := (List.range 8).map (opWord b), root := (o.sc.getD 0 0).toNat, first := f.mod.getLsbD 0, cullb := f.mod.getLsbD 1, opq := f.mod.getLsbD 2, done := false })
          ∨ (∃ f q h, o.i = .rayCont f ∧ vd = f.vd.toNat ∧ q = queryOf s b.lane ∧ q.cand = some h ∧ ((opWord b 0 = 0 ∧ q0 = { q with cand := none })
              ∨ (opWord b 0 ≠ 0 ∧ q.first = false ∧ q0 = { q with cand := none, commit := some h }))) →
        q0.root % 128 = 0 → (∀ a, TreeNode s l Any q0.root a → ReadsAt s (ckey s.cur.die (laneCell s.cur b.lane)) a 128 l ∧ nodeRight (bvhNode s l a)) →
        (∀ a, TreeLeaf s l Any q0.root a → ReadsAt s (ckey s.cur.die (laneCell s.cur b.lane)) a 64 l ∧ leafRight (bvhLeaf s l a)) →
        Completes (.longLatencyCompletion s.cur.tid id) s (fun t => let q := queryOf t b.lane
          Traversed s l q0 q ∧ (∀ j, j < 4 → vreg t.cur (vd + j) b.lane = q.res.getD j 0)
          ∧ (∀ r k, k < 1024 → (k ≠ b.lane ∨ r < vd ∨ vd + 4 ≤ r) → vreg t.cur r k = vreg s.cur r k)
          ∧ (∀ k, k ≠ b.lane → queryOf t k = queryOf s k) ∧ t.cur.ops = s.cur.ops.filter (fun p => p.id != o.id) ∧ SameHomes s t ∧ SameVaults s t))
    ∧ (∀ f, o.i = .rayTrace f → (∀ a, a ∈ o.acc → deadRay a = true) → Completes (.longLatencyCompletion s.cur.tid id) s (fun t =>
        Answers s t o f.vd.toNat 4 (fun _ _ => 0) ∧ ∀ a, a ∈ o.acc → Ended t a.lane none))
    ∧ (∀ f, o.i = .rayCont f → (∀ a, a ∈ o.acc → (queryOf s a.lane).cand = none ∨ ((queryOf s a.lane).first = true ∧ opWord a 0 ≠ 0)) →
        Completes (.longLatencyCompletion s.cur.tid id) s (fun t =>
          Answers s t o f.vd.toNat 4 (fun a j => (match (queryOf s a.lane).cand with
            | none => (queryOf s a.lane).res
            | some h => answerOf 1 (some h)).getD j 0)
          ∧ ∀ a h, a ∈ o.acc → (queryOf s a.lane).cand = some h → Ended t a.lane (some h)))
    ∧ (∀ f, o.i = .rayHit f → Completes (.longLatencyCompletion s.cur.tid id) s (fun t =>
        Answers s t o f.vd.toNat 2 (fun a j => match (queryOf s a.lane).cand <|> (queryOf s a.lane).commit with
          | none => 0
          | some h => if j = 0 then h.u else h.v)
        ∧ t.cur.rays = s.cur.rays)))

namespace Sys2Proof.Claims

/-! ## The system instructions, debug registers and halts (R245 to R247, R379 to R381) -/

/-- A source gives out one record: it takes the source's next sequence number, and stands last in its buffer unless that is full (R382, R383). -/
def Emitted (s t : State) (src : Nat) (e : Event) : Prop :=
  let b := NMap.get [] s.evbuf src
  let n := NMap.get 0 s.evseq src
  NMap.get [] t.evbuf src = (if b.length < 256 then b ++ [{ e with src := src, seq := n }] else b)
  ∧ NMap.get 0 t.evseq src = (n + 1) % 2 ^ 48 ∧ NMap.get 0 t.evdrop src = (if b.length < 256 then NMap.get 0 s.evdrop src else NMap.get 0 s.evdrop src + 1)
  ∧ ∀ x, x ≠ src → NMap.get [] t.evbuf x = NMap.get [] s.evbuf x ∧ NMap.get 0 t.evseq x = NMap.get 0 s.evseq x ∧ NMap.get 0 t.evdrop x = NMap.get 0 s.evdrop x

/-- What a `tlbi` drops (R246): the pages that hold an address, or all; in the issuing cluster, the die, every live die. -/
def tlbiPage (kind : Nat) : Bool := kind == 0 || kind == 1 || kind == 3
def tlbiDie (s : State) (kind d : Nat) : Bool := if kind ≤ 2 then d == s.cur.die else isLive s d
def tlbiCluster (s : State) (kind d cl : Nat) : Bool := tlbiDie s kind d && (kind != 0 || cl == clusterOf s.cur.cell)
def tlbiLeaf (kind va : Nat) (l : Leaf) : Bool := !tlbiPage kind || (decide (l.vbase ≤ va) && decide (va < l.vbase + l.size))
/-- A walk-cache entry of a level stands for the table that covers 2^25, 2^38 or 2^51 bytes. -/
def tlbiEntry (kind va : Nat) (e : Nat × Nat × Nat) : Bool :=
  !tlbiPage kind || e.2.1 == va / 2 ^ (match e.1 with | 2 => 51 | 1 => 38 | _ => 25)

/-- What a `cinv` empties (R246). -/
def cinvL1 (s : State) (kind k : Nat) : Bool :=
  k / 4608 == s.cur.die && (kind == 1 || (kind == 0 && (k % 4608 == s.cur.cell || (s.cur.pair && k % 4608 == s.cur.cell + 1))))
def cinvIc (s : State) (kind k : Nat) : Bool := (kind == 2 && k / 4608 == s.cur.die) || (kind == 3 && isLive s (k / 4608))

/-- The watchdogs of die d are suspended (R381): a die that halts has told it so, or a launch active on it has a halted die. -/
def watchdogsHeld (s : State) (d : Nat) : Bool :=
  !(dieOf s d).suspby.isEmpty || s.launches.any (fun l => l.status == .active && !l.pixel && l.d.dies.testBit d
    && (List.range 144).any (fun e => l.d.dies.testBit e && isLive s e && (dieOf s e).halted))
/-- The value of a debug register (R379). -/
def debugValue (s : State) (d num : Nat) : Nat :=
  if num = 1 then (dieOf s d).uecnt % 2 ^ 16 * 2 ^ 32 + (dieOf s d).cecnt % 2 ^ 16 * 2 ^ 16 + (if watchdogsHeld s d then 2 else 0)
    + (if (dieOf s d).halted then 1 else 0)
  else if num = 2 then NMap.get 0 s.evseq (d * 64) else 0

/-- An operation, or a team, but for the walks delivered to it. -/
def beyondWalks (t : Team) : Team := { t with walks := [], ops := t.ops.map (fun o => { o with walks := [] }) }
/-- A leaf that a team or an operation of it holds. -/
def HoldsLeaf (t : Team) (l : Leaf) : Prop := (∃ e, e ∈ t.walks ∧ e.2 = some l) ∨ ∃ o e, o ∈ t.ops ∧ e ∈ o.walks ∧ e.2 = some l
/-- Die d starts to halt (R380): a notice goes to every live die of the DIES of each launch active on it. -/
def HaltStarts (s t : State) (d : Nat) : Prop :=
  (dieOf t d).halting = true ∧ (dieOf t d).acked = []
  ∧ (∀ x, x ∈ (dieOf t d).notices ↔ x < 144 ∧ isLive s x = true ∧ ∃ l, l ∈ (dieOf s d).active ∧ (launchOf s l).d.dies.testBit x = true)
  ∧ t.fabric.msgs = s.fabric.msgs ++ (dieOf t d).notices.map (fun x => .notice d x) ∧ (dieOf t d).halted = (dieOf s d).halted
/-- A halt of die d is released: no die stays suspended by it, and a halted one leaves a record of kind `0x0B`. -/
def HaltEnds (s t : State) (d : Nat) : Prop :=
  (dieOf t d).halted = false ∧ (dieOf t d).halting = false ∧ (∀ x, x ≠ d → d ∉ (dieOf t x).suspby)
  ∧ ((dieOf s d).halted = true → Emitted s t (d * 64) { kind := 0xB }) ∧ t.mem = s.mem

end Sys2Proof.Claims

/-- R245 to R247, R379, R380: `tlbi` and `cinv` become operations, and complete by dropping the translations, the walks under way, the L1s or the instruction caches that their kind
names, and nothing else. `sleep` stalls until its count has run out. `dbgr` checks its die, then its register, and reads or writes it. A commanded halt sends notices, takes
effect once all are acknowledged and the clause that commanded it is over, and ends with RESUME, written from another die; both leave a record. The model has no
clock, so that a sleeper's count may run out at any time (logs 7 and 60: the model's choice). -/
def Obligations.SystemInstructions : Prop :=
  (∀ i f s c, Issues i s c → s.cur.dying = [] → let x := sreg s.cur f.sa.toNat
    let at_ := c.hdr + 8 * (c.idx + 1)
    let d := x.toNat / 2 ^ 16 % 2 ^ 8
    let goes (sc : List DWord) : Prop := Completes i s (fun t => (∃ o, t.cur.ops = s.cur.ops ++ [o] ∧ StandsFor s c i f.fs (curLaunch s).d.stream 0 o ∧ o.sc = sc)
      ∧ Raised s t f.fs ∧ GoesOn c s.cur t.cur ∧ beyondOps t.cur = beyondOps s.cur ∧ others t = others s)
    (i = .tlbi f → goes [x]) ∧ (i = .cinv f → goes [])
    ∧ (i = .dbgrRd f ∨ i = .dbgrWr f →
      (isLive s d = false → exec i s = .next (takeTrap s at_ { cause := 3, detail := 0xD } .instr))
      ∧ (isLive s d = true → 3 ≤ x.toNat % 2 ^ 12 → exec i s = .next (takeTrap s at_ { cause := 3, detail := 0xE } .instr))
      ∧ (isLive s d = true → x.toNat % 2 ^ 12 < 3 → goes [x, sreg s.cur f.sb.toNat]))
    ∧ (i = .sleep f → (x.toNat % 2 ^ 32 = 0 ∨ s.cur.slept = true → Completes i s (fun t => GoesOn c s.cur t.cur ∧ beyondPlace t.cur = beyondPlace s.cur ∧ others t = others s))
      ∧ (x.toNat % 2 ^ 32 ≠ 0 → s.cur.slept = false → Completes i s (fun t => Stalls s t c))))
  ∧ (∀ f s, s.cur.status = .running → s.cur.stalled = true → currentInstr s.cur = some (.sleep f) → (∀ u, u ∈ s.teams → u.tid ≠ s.cur.tid) →
      exec (.sleepExpiry s.cur.tid) s = .next { s with cur := { s.cur with slept := true } })
  ∧ (∀ s id o f, Stands s id o → o.i = .tlbi f → f.mod.toNat % 8 ≤ 4 → s.cur.cell < 4608 → let kind := f.mod.toNat % 8
      let va := (o.sc.getD 0 0).toNat
      Completes (.longLatencyCompletion s.cur.tid id) s (fun t => Retires { s with cur := beyondWalks s.cur } { t with cur := beyondWalks t.cur } o
        ∧ t.mem = s.mem ∧ t.cur.r = s.cur.r
        ∧ (∀ k, (cellOf t k).utlb = (cellOf s k).utlb.filter (fun l => !(tlbiCluster s kind (k / 4608) (clusterOf (k % 4608)) && tlbiLeaf kind va l))
            ∧ { cellOf t k with utlb := [] } = { cellOf s k with utlb := [] })
        ∧ (∀ k, NMap.get [] t.ctlb k = (NMap.get [] s.ctlb k).filter (fun l => !(tlbiCluster s kind (k / 1152) (k % 1152) && tlbiLeaf kind va l)))
        ∧ (∀ d, (∀ w, NMap.get [] (dieOf t d).wcache w = (NMap.get [] (dieOf s d).wcache w).filter (fun e => !(tlbiDie s kind d && tlbiEntry kind va e)))
            ∧ (tlbiDie s kind d = true → (dieOf t d).walking = []))
        ∧ ∀ l, HoldsLeaf t.cur l → tlbiLeaf kind va l = false ∨ (2 < kind ∧ isLive s s.cur.die = false)))
  ∧ (∀ s id o f, Stands s id o → o.i = .cinv f → s.cur.cell < 4607 → Completes (.longLatencyCompletion s.cur.tid id) s (fun t => Retires s t o ∧ t.mem = s.mem ∧ t.cur.r = s.cur.r
      ∧ (∀ k, (cellOf t k).l1 = (if cinvL1 s (f.mod.toNat % 4) k then [] else (cellOf s k).l1) ∧ (cellOf t k).ic = (if cinvIc s (f.mod.toNat % 4) k then [] else (cellOf s k).ic)
        ∧ { cellOf t k with l1 := [], ic := [] } = { cellOf s k with l1 := [], ic := [] })
      ∧ t.dies = s.dies ∧ t.ctlb = s.ctlb))
  ∧ (∀ s id o f, Stands s id o → CleanVectors s.cur → let x := (o.sc.getD 0 0).toNat
    let d := x / 2 ^ 16 % 2 ^ 8
    (o.i = .dbgrRd f → isLive s d = true → o.ready = none → Completes (.longLatencyCompletion s.cur.tid id) s (fun t => Retires s t o
      ∧ (∀ l, l < s.cur.width → o.mask.getLsbD l = true → s.cur.dead.getLsbD l = false → vreg64 t.cur f.vd.toNat l = BitVec.ofNat 64 (debugValue s d (x % 2 ^ 12)))
      ∧ (∀ n l, l < 1024 → n ≠ f.vd.toNat → n ≠ f.vd.toNat + 1 → vreg t.cur n l = vreg s.cur n l)
      ∧ beyondOps (beyondVectors t.cur) = beyondOps (beyondVectors s.cur) ∧ others t = others s))
    ∧ (o.i = .dbgrWr f → isLive s d = true →
      (x % 2 ^ 12 ≠ 0 ∨ (o.sc.getD 1 0).toNat % 4 = 0 → Completes (.longLatencyCompletion s.cur.tid id) s (fun t => Retires s t o ∧ others t = others s))
      ∧ (x % 2 ^ 12 = 0 → (o.sc.getD 1 0).toNat % 4 = 1 → (dieOf s d).halted = false → (dieOf s d).halting = false →
          Completes (.longLatencyCompletion s.cur.tid id) s (fun t => Retires s t o ∧ HaltStarts s t d))
      ∧ (x % 2 ^ 12 = 0 → (o.sc.getD 1 0).toNat % 4 = 2 → (dieOf s d).halted = true → s.cur.die ≠ d →
          Completes (.longLatencyCompletion s.cur.tid id) s (fun t => Retires s t o ∧ HaltEnds s t d))
      ∧ (x % 2 ^ 12 = 0 → (o.sc.getD 1 0).toNat % 4 = 2 → s.cur.die = d →
          Completes (.longLatencyCompletion s.cur.tid id) s (fun t => Retires s t o ∧ others t = others s))))
  ∧ (∀ s d, isLive s d = true → (dieOf s d).halted = false → (dieOf s d).halting = false → Completes (.dbgctlHalt d) s (fun t => HaltStarts s t d ∧ t.cur = s.cur ∧ t.mem = s.mem))
  ∧ (∀ s n src dst, s.fabric.msgs[n]? = some (.notice src dst) → src ≠ dst → (∀ k, k < n → s.fabric.msgs[k]? ≠ some (.notice src dst)) → Completes (.haltNotice n) s (fun t => src ∈ (dieOf t dst).suspby ∧ dst ∈ (dieOf t src).acked
      ∧ t.fabric.msgs = s.fabric.msgs.eraseIdx n ∧ t.cur = s.cur ∧ t.mem = s.mem))
  ∧ (∀ s d, (dieOf s d).halting = true → (∀ x, x ∈ (dieOf s d).notices → x ∈ (dieOf s d).acked ∨ isLive s x = false) →
      (∀ w u, (dieOf s d).haltby = some w → u ∈ allTeams s → u.tid = w → u.clause = none) → Completes (.halt d) s (fun t =>
      (dieOf t d).halted = true ∧ (dieOf t d).halting = false ∧ Emitted s t (d * 64) { kind := 0xA } ∧ t.cur = s.cur ∧ t.mem = s.mem))
  ∧ (∀ s d, (dieOf s d).halted = true ∨ (dieOf s d).halting = true → Completes (.dbgctlResume d) s (fun t => HaltEnds s t d ∧ t.cur = s.cur))

namespace Sys2Proof.Claims

/-! ## Translation, dealing, pre-emption (R31, R178, R283 to R309, R375) -/

/-- The entry of 8 bytes at a physical address, at a member that is present (R285). -/
def EntryAt (s : State) (a e : Nat) : Prop :=
  ∃ x p, locate s a = some (x, p) ∧ (siteOf s x).lost = false ∧ p < 2 ^ 36 ∧ valueOf 8 (fun i => homeByte s x (p + i)) = e
/-- A range lies in a set's capacity. -/
def InSet (s : State) (a n : Nat) : Prop :=
  ∃ st, NMap.get none s.mem.sets (a / 2 ^ 44) = some st ∧ (∀ c, c ∈ st.caps → a % 2 ^ 44 + n ≤ c * st.members.length) ∧ st.caps ≠ [] ∧ a / 2 ^ 44 < 255
/-- The entry that stands at an address names a table of n bytes: V, and ADDR, and no other bit (R284). -/
def TableAt (s : State) (a n tab : Nat) : Prop := EntryAt s a (tab + 1) ∧ tab < 2 ^ 52 ∧ tab % n = 0 ∧ 4096 ≤ n ∧ InSet s tab n
/-- The entry that stands at an address is a leaf of n bytes for va (R284). -/
def LeafAt (s : State) (a n va : Nat) (l : Leaf) : Prop :=
  EntryAt s a (l.pbase + l.mt * 2 ^ 8 + (if l.priv then 2 ^ 7 else 0) + (if l.x then 2 ^ 5 else 0) + (if l.w then 2 ^ 4 else 0) + (if l.r then 2 ^ 3 else 0) + 3)
  ∧ l.size = n ∧ l.vbase = va / n * n ∧ l.pbase < 2 ^ 52 ∧ l.pbase % n = 0 ∧ l.mt < 3 ∧ (InSet s l.pbase n ∨ (l.pbase / 2 ^ 44 = 255 ∧ l.mt = 2))
/-- The tables give va the leaf: at level 0 a page of 64 KiB, at level 1 one of 32 MiB (R283). -/
def TablesMap (s : State) (va : Nat) (l : Leaf) : Prop :=
  ∃ t2 t1, TableAt s (s.mem.root + 8 * (va / 2 ^ 51 % 2 ^ 5)) (2 ^ 16) t2 ∧ TableAt s (t2 + 8 * (va / 2 ^ 38 % 2 ^ 13)) (2 ^ 16) t1
    ∧ (LeafAt s (t1 + 8 * (va / 2 ^ 25 % 2 ^ 13)) (2 ^ 25) va l
      ∨ ∃ t0, TableAt s (t1 + 8 * (va / 2 ^ 25 % 2 ^ 13)) (2 ^ 12) t0 ∧ LeafAt s (t0 + 8 * (va / 2 ^ 16 % 2 ^ 9)) (2 ^ 16) va l)

/-- A team at its start (R31): every base register 0, m0 every lane that lives and has a fragment where its block is a pixel block's, its pc the kernel's. -/
def Starts (l : Launch) (b : Block) (i : Nat) (u : Team) : Prop :=
  u.blk = b.bid ∧ u.idx = i ∧ u.status = .running ∧ u.pc = l.d.kaddr ∧ u.clause = none ∧ u.die = b.die ∧ u.cell = b.cell
  ∧ (∀ n, sreg u n = 0) ∧ (∀ n k, vreg u n k = 0) ∧ (∀ n, n ≠ 0 → mreg u n = 0) ∧ (∀ k, k < 1024 → (mreg u 0).getLsbD k = (decide (k < u.width) && !u.dead.getLsbD k && !u.nofrag.getLsbD k))
  ∧ u.width = (if l.d.prot then l.d.w / 2 else l.d.w) ∧ u.group = l.d.g ∧ u.xblk = l.d.xregs ∧ u.ops = [] ∧ u.fl = 0 ∧ u.rm = 0

/-- The reserved bits of a launch descriptor (R289). -/
def reservedBits : List (Nat × Nat) :=
  [(1023, 824), (767, 720), (575, 544), (511, 504), (479, 474), (447, 445), (439, 439), (431, 430), (415, 414), (399, 399), (319, 312), (255, 248), (191, 184), (127, 120), (63, 56)]

/-- The checks of a descriptor whose edge list is empty, in their order, each with its code (R291): the parity of the visible rows of a paired team (R16, R18) is the model's
reading (log 74); a pixel-stage descriptor, whose DIES is 0, comes to `0x09` (R313). -/
def launchChecks (s : State) (x : Nat) (priv : Bool) : List (Nat × Bool) :=
  let b (h l : Nat) : Nat := bitField x h l
  let w := 32 * (b 388 384 + 1)
  let g := 16 * 2 ^ b 390 389
  let pair := b 391 391 == 1 || decide (512 < w)
  let prot := b 434 434 == 1
  let n := b 395 392 + 1
  let stage := b 433 432
  [(1, reservedBits.any (fun r => b r.1 r.2 != 0) || b 390 389 == 3 || b 417 416 == 3 || b 419 418 == 3),
   (2, w % g != 0 || (pair && w / 32 % 2 == 1) || (pair && prot && w / 64 % 2 == 1) || (prot && (w / 2 % 32 != 0 || w / 2 % g != 0))),
   (3, decide (512 < n * ((if pair then 8 else 16) * (w / 32)) * (1 + b 398 396)) || decide (768 < b 409 400) || decide (16 < n * b 413 410 * (if prot then 2 else 1))),
   (4, decide (63 < b 453 448 + b 459 454) || decide (71 < b 466 460 + b 473 467)),
   (5, stage != 3 && (List.range 144).all (fun e => !x.testBit (576 + e) || !isLive s e)),
   (6, b 823 768 % 64 != 0 || b 183 128 % 8 != 0 || b 119 64 % 8 != 0 || b 55 0 % 8 != 0 || b 55 0 == 0 || b 247 192 % 64 != 0 || b 311 256 % 128 != 0
      || (b 311 256 != 0) != (stage == 2)),
   (7, b 351 320 == 0 || b 367 352 == 0 || b 383 368 == 0 || decide (2 ^ 32 ≤ b 351 320 * b 367 352 * b 383 368)),
   (8, b 435 435 == 1 && !priv),
   (9, stage == 3 || (b 503 480 != 0 && stage != 2)),
   (10, decide (512 < b 429 420))]

/-- The blocks and the teams that stand in a cell (R297). -/
def blocksThere (s : State) (die c : Nat) : List Block := s.blocks.filter (fun b => b.status == .resident && b.die == die && (b.cell == c || (b.pair && b.cell + 1 == c)))
def teamsThere (s : State) (die c : Nat) : List Team := (allTeams s).filter (fun t => (blocksThere s die c).any (fun b => b.bid == t.blk))

/-- A cell admits a block of a launch (R297): it is live and in the window, and has room for its teams, granules (R30) and tiles (R190); it does not drain, and no pass reserves it
(R327). -/
def cellTakes (s : State) (l : Launch) (die c : Nat) : Bool :=
  let d := l.d
  let tiles := d.tiles * (if d.prot then 2 else 1)
  cellPresent s die c && decide (d.wrow0 ≤ c / 72 ∧ c / 72 ≤ d.wrow0 + d.wrows ∧ d.wcol0 ≤ c % 72 ∧ c % 72 ≤ d.wcol0 + d.wcols)
    && !(cellOf s (ckey die c)).drain && (l.pixel || !(reservedIn s die).contains c)
    && decide ((teamsThere s die c).length + d.nteams ≤ 16)
    && decide (((teamsThere s die c).map (fun t => blockGranules t * (1 + t.xblk))).sum + d.nteams * ((if d.paired then 8 else 16) * (32 * (d.wcode + 1) / 32)) * (1 + d.xregs) ≤ 512)
    && decide (((blocksThere s die c).map (fun b => ((allTeams s).filter (fun t => t.blk == b.bid && t.status != .ended)).length
          * ((launchOf s b.lid).d.tiles * (if (launchOf s b.lid).d.prot then 2 else 1)))).sum + d.nteams * tiles ≤ 16)

/-- The base that a block of a launch would get: the lowest free run of its vault bytes in the cell, of a pair in both (R297). -/
def baseThere (s : State) (l : Launch) (die c : Nat) : Option Nat :=
  let cs := if l.d.paired then [c, c + 1] else [c]
  if (l.d.paired && c % 2 == 1) || !cs.all (cellTakes s l die) then none
  else (List.range 769).find? (fun a => decide (a + l.d.vunits ≤ 768)
    && cs.all (fun e => (blocksThere s die e).all (fun b => decide (a + l.d.vunits ≤ b.vbase) || decide (b.vbase + b.vsize ≤ a))))

/-- The offer of a cluster (R297): a gang of size p, else of size f, on its admitting cells of lowest position. -/
def offerOf (s : State) (l : Launch) (die cl : Nat) : Option (Nat × List Nat) :=
  let cs := ((List.range 4).map (cellAt cl)).filter (fun c => (baseThere s l die c).isSome)
  if 2 ^ l.d.gangp ≤ cs.length then some (l.d.gangp, cs.take (2 ^ l.d.gangp))
  else if 2 ^ l.d.gangf ≤ cs.length then some (l.d.gangf, cs.take (2 ^ l.d.gangf)) else none

/-- The only block of its gang, with one team, the current one. -/
def Alone (s : State) (b : Block) : Prop :=
  block? s s.cur.blk = some b ∧ b.bid = s.cur.blk ∧ gangBlocks s b.lid b.gang = [b] ∧ teamsOf s b.bid = [s.cur] ∧ s.cur.status ≠ .absent ∧ b.pair = false
  ∧ (∀ u, u ∈ s.teams → u.tid ≠ s.cur.tid) ∧ ∀ c, c ∈ s.blocks → c.bid = b.bid → c = b
/-- Byte j of a block's allocation in its one cell. -/
def allocByte (s : State) (b : Block) (j : Nat) : Byte := vaultByte s (vltKey b.die b.cell (256 * b.vbase) + j)
/-- The team that stalls at an instruction. -/
def StallsAt (t : Team) (i : Instr) : Prop := t.status = .running ∧ t.stalled = true ∧ currentInstr t = some i ∧ t.deferred = []
/-- A request of a block's gang has been accepted (R305). -/
def Accepted (s t : State) (b : Block) : Prop :=
  (∀ tid u, team? s tid = some u → (∃ c, c ∈ gangBlocks s b.lid b.gang ∧ c.bid = u.blk) → u.status ≠ .ended → team? t tid = some { u with preempt := true })
  ∧ (∀ tid u, team? s tid = some u → (∀ c, c ∈ gangBlocks s b.lid b.gang → c.bid ≠ u.blk) → team? t tid = some u) ∧ t.mem = s.mem

end Sys2Proof.Claims

/-- R283 to R285, R288, R294, R297, R298: a walker takes the oldest request of its die and reads the tables, and its result goes to every request of the page and into the TLBs. A distributor takes the
head of the queue that R296 picks: a descriptor that fails a check of R291 is rejected with the code of the first, one that passes becomes active on its dies. A cluster that offers cells by R297 gets
the next gang of blocks, which start as R31 says. The model's readings: the rows of a protected pair (log 74), a misaligned STATUS (log 29), pages with PRIV
(log 25), and that an ended team's base granules count for its cell until its block ends, its tiles no longer (log 21); what becomes of an access at a full
walk queue (log 88). -/
def Obligations.WalksAndDealing : Prop :=
  (∀ s d w rest l, isLive s d = true → (dieOf s d).walkq = w :: rest → (dieOf s d).walking.length < 1024 → (dieOf s d).wcache = [] → GoodMemory s → s.mem.root % 256 = 0 → w.page < 2 ^ 40 →
    TablesMap s (w.page * 65536) l → Completes (.pageWalk d) s (fun t =>
      (dieOf t d).walkq = rest ∧ (∃ k, k < 16 ∧ (dieOf t d).walking = (dieOf s d).walking ++ [{ walker := k, page := w.page, by_ := w.by_, ops := w.ops, res := some l }])
      ∧ { t.cur with slotwait := false } = { s.cur with slotwait := false } ∧ ((dieOf s d).walkq.length ≠ 4096 → t.cur = s.cur) ∧ SameHomes s t ∧ SameVaults s t))
  ∧ (∀ s d w rest, isLive s d = true → (dieOf s d).walkq = w :: rest → (dieOf s d).walking.length < 1024 → (dieOf s d).wcache = [] → GoodMemory s → s.mem.root % 256 = 0 →
    (∃ e, EntryAt s (s.mem.root + 8 * (w.page * 65536 / 2 ^ 51 % 2 ^ 5)) e ∧ e % 2 = 0) → Completes (.pageWalk d) s (fun t =>
      (dieOf t d).walkq = rest ∧ (∃ k, k < 16 ∧ (dieOf t d).walking = (dieOf s d).walking ++ [{ walker := k, page := w.page, by_ := w.by_, ops := w.ops, res := none }])
      ∧ { t.cur with slotwait := false } = { s.cur with slotwait := false } ∧ ((dieOf s d).walkq.length ≠ 4096 → t.cur = s.cur) ∧ SameHomes s t ∧ SameVaults s t))
  ∧ (∀ s d w rest, isLive s d = true → (dieOf s d).walking = w :: rest → (∀ l, w.res = some l → l.size = 2 ^ 16) → (∀ b, b ∈ w.by_ → b.1 < 4608) → (∀ b, b ∈ w.ops → b.1 < 4608) →
    Completes (.walkResult d) s (fun t => (dieOf t d).walking = rest ∧ (dieOf t d).walkq = (dieOf s d).walkq
      ∧ (∀ b u, b ∈ w.by_ → team? s b.2 = some u → ∃ v, team? t b.2 = some v ∧ (w.page, w.res) ∈ v.walks ∧ { beyondWalks v with slotwait := false } = { beyondWalks u with slotwait := false })
      ∧ (∀ b u o, b ∈ w.ops → team? s b.2.1 = some u → o ∈ u.ops → o.id = b.2.2 → ∃ v p, team? t b.2.1 = some v ∧ p ∈ v.ops ∧ (w.page, w.res) ∈ p.walks
          ∧ { p with walks := [] } = { o with walks := [] } ∧ { beyondWalks v with slotwait := false } = { beyondWalks u with slotwait := false })
      ∧ (∀ l c, w.res = some l → (c ∈ w.by_.map (·.1) ∨ c ∈ w.ops.map (·.1)) → l ∈ (cellOf t (ckey d c)).utlb ∧ l ∈ NMap.get [] t.ctlb (1152 * d + clusterOf c))
      ∧ (w.res = none → t.cells = s.cells ∧ t.ctlb = s.ctlb) ∧ t.mem = s.mem))
  ∧ (∀ s die q e rest, isLive s die = true → dieRuns s die = true → (dieOf s die).active.length < 32 → pickQueue s die = some q → NMap.get [] (dieOf s die).queues q = e :: rest →
    let x := e.bits.toNat
    let d := descOf x
    (∀ c, ((launchChecks s x e.priv).find? (fun k => k.2)).map (fun k => k.1) = some c → c ≤ 6 ∨ (d.edge = 0 ∧ e.edgelist = none ∧ (d.kwords = 0 ∨ 512 < d.kwords)) → d.stage ≠ 2 → Completes (.launchTake die q) s (fun t =>
        NMap.get [] (dieOf t die).queues q = rest ∧ (dieOf t die).active = (dieOf s die).active ∧ t.blocks = s.blocks ∧ t.cur = s.cur ∧ t.mem = s.mem
        ∧ t.launches = s.launches ++ [{ lid := s.nextId, d := d, home := die, status := .rejected c }]
        ∧ t.statusq = s.statusq ++ [{ lid := s.nextId, state := 4, code := c }]))
    ∧ ((∀ k, k ∈ launchChecks s x e.priv → k.2 = false) → d.stage < 2 → d.edge = 0 → d.kwords = 0 → e.edge = none → e.edgelist = none → (∀ l, l ∈ s.launches → l.lid < s.nextId) →
      Completes (.launchTake die q) s (fun t => ∃ l, launch? t s.nextId = some l ∧ l.d = d ∧ l.home = die ∧ l.status = .active ∧ l.consts = [] ∧ SameHomes s t
        ∧ (∀ x, d.dies.testBit x = true → isLive s x = true → (dieOf t x).active = (dieOf s x).active ++ [s.nextId])
        ∧ (∀ x, isLive s x = true → d.dies.testBit x = false → (dieOf t x).active = (dieOf s x).active)
        ∧ NMap.get [] (dieOf t die).queues q = rest ∧ t.statusq = s.statusq)))
  ∧ (∀ s lid l die cl code cells, launch? s lid = some l → mayDeal s l = true → l.d.dies.testBit die = true → turnOf s l die cl = true → (windowClusters l.d).contains cl = true → cl < 1152 →
    offerOf s l die cl = some (code, cells) → (∀ u, u ∈ allTeams s → u.tid < s.nextId) → (∀ b, b ∈ s.blocks → b.bid < s.nextId) → l.d.paired = false → l.lid = lid →
    let n := min cells.length (l.d.blocks - l.next)
    Completes (.clusterOfferRequest lid (1152 * die + cl)) s (fun t => t.cur = s.cur ∧ SameHomes s t
      ∧ (∃ l', launch? t lid = some l' ∧ l'.next = l.next + n ∧ l'.d = l.d ∧ l'.status = .active)
      ∧ ∃ new, t.blocks = s.blocks ++ new ∧ new.length = n ∧ ∀ j b, new[j]? = some b →
        b.lid = lid ∧ b.index = l.next + j ∧ b.die = die ∧ some b.cell = cells[j]? ∧ some b.vbase = baseThere s l die b.cell ∧ b.vsize = l.d.vunits ∧ b.status = .resident ∧ b.gpos = j ∧ b.gsize = code
        ∧ b.vbase + b.vsize ≤ 768 ∧ b.bars = [] ∧ b.shapes = []
        ∧ (l.image = [] → l.rings = [] → ∀ k, k < 256 * b.vsize → allocByte t b k = 0)
        ∧ ∀ i, i < l.d.nteams → ∃ u, u ∈ t.teams ∧ u.dead = 0 ∧ Starts l b i u))

/-- R33, R178, R303 to R309, R375: a stalled team's instruction acts again once its condition holds: a sleeper whose count has run out goes on, and `sw.wait` writes a GEN that has changed. A requested team stops at its boundary, and the last one of its gang lets the block be
saved: its image holds the allocation, its cells are free, and only the save area is written (which bytes there is free, log 10). A saved block takes cells again, its allocation and teams as they were, its flags clear. A block to be re-run
starts over on another cell, its log kept (log 49: the model's reading). A held request, and that of a launch's rotation, is accepted where the save area has room.
The clocks of R303 to R305 are none of the model's: `pmarkTimeout` and `rotation` act at any time (log 60: the model's choice). -/
def Obligations.PreemptionAndResumption : Prop :=
  (∀ s i f g h, StallsAt s.cur i → (i = .swWait f ∨ i = .qPush f ∨ i = .qPop f ∨ i = .bar f ∨ i = .barWt f ∨ i = .gbar f ∨ i = .tacq g ∨ i = .sleep h) →
    (∀ u, exec i s = .next u → u.cur.tid = s.cur.tid → u.cur.status ≠ .absent → exec (.stallingInstructionEffect s.cur.tid) s = .next u))
  ∧ (∀ s c h, StallsAt s.cur (.sleep h) → Issues (.sleep h) s c → s.cur.dying = [] → s.cur.slept = true →
      Completes (.stallingInstructionEffect s.cur.tid) s (fun t => GoesOn c s.cur t.cur ∧ beyondPlace t.cur = beyondPlace s.cur ∧ others t = others s))
  ∧ (∀ s c f k l, StallsAt s.cur (.swWait f) → Issues (.swWait f) s c → CleanVectors s.cur → s.cur.dying = [] → CleanMemory s → objectAddr s.cur f % 16 = 0 →
      teamVault s (objectAddr s.cur f) 16 = some k → lowest s.cur = some l → (NothingBefore s s.cur.nextOp f.stream.toNat ∨ gateOpen s (stallOp (.swWait f) f [k] s) = true) →
      let g := swField (vaultObject s k) 2
      g ≠ (vreg s.cur f.vd.toNat l).toNat → Completes (.stallingInstructionEffect s.cur.tid) s (fun t => GoesOn c s.cur t.cur ∧ SameVaults s t ∧ SameHomes s t
        ∧ (∀ j, j < 1024 → acts s.cur 0 j = true → vreg t.cur f.vd.toNat j = BitVec.ofNat 32 g)
        ∧ ∀ n j, j < 1024 → (n ≠ f.vd.toNat ∨ acts s.cur 0 j = false) → vreg t.cur n j = vreg s.cur n j))
  ∧ (∀ s b, Alone s b → s.cur.status = .running → s.cur.preempt = true → b.wantrun = false → s.cur.ops = [] → s.cur.clause = none → s.cur.r.tile = [] → s.cur.r.wide = [] →
      s.cur.sh = none → CleanVectors s.cur → s.cur.r.sbad = [] → s.cur.deferred = [] → CleanMemory s → b.status = .resident →
      Completes (.teamStop s.cur.tid) s (fun t => t.cur.status = .saved ∧ t.cur.r = s.cur.r ∧ t.cur.pc = s.cur.pc ∧ t.cur.dead = s.cur.dead ∧ SameVaults s t
        ∧ ((∀ va, (dieOf s b.die).savebase ≤ va → va < (dieOf s b.die).savebase + (dieOf s b.die).savecap + contextOf s b → (agentAddr s .write va).1 = none) → SameHomes s t)
        ∧ (∃ b', block? t b.bid = some b' ∧ b'.status = .waiting ∧ b'.preempt = false ∧ b'.bars = b.bars ∧ b'.image.length = 256 * b.vsize
            ∧ ∀ j, j < 256 * b.vsize → b'.image.getD j 0 = allocByte s b j)
        ∧ ∀ l, launch? s b.lid = some l → ∃ l', launch? t b.lid = some l' ∧ l'.preempts = min (2 ^ 32 - 1) (l.preempts + 1)))
  ∧ (∀ s b u, block? s s.cur.blk = some b → s.cur.status = .running → s.cur.preempt = true → b.wantrun = false → s.cur.ops = [] → s.cur.clause = none → s.cur.r.tile = [] →
      s.cur.r.wide = [] → s.cur.sh = none → CleanVectors s.cur → s.cur.r.sbad = [] → s.cur.deferred = [] → b ∈ gangBlocks s b.lid b.gang → b.bid = s.cur.blk → u ∈ s.teams →
      u.blk = b.bid → isDown u = false → u.tid ≠ s.cur.tid →
      Completes (.teamStop s.cur.tid) s (fun t => t.cur.status = .saved ∧ t.cur.r = s.cur.r ∧ t.cur.pc = s.cur.pc ∧ t.blocks = s.blocks ∧ t.teams = s.teams ∧ t.mem = s.mem))
  ∧ (∀ s tid u, team? s tid = some u → u.preempt = true → u.pmark = none → Completes (.pmarkTimeout tid) s (fun t =>
      team? t tid = some { u with timeout := true } ∧ t.blocks = s.blocks ∧ t.mem = s.mem ∧ ∀ x, x ≠ tid → team? t x = team? s x))
  ∧ (∀ s b cell c, block? s b.bid = some b → (∀ x, x ∈ s.blocks → x.bid = b.bid → x = b) → gangBlocks s b.lid b.gang = [b] → b.status = .waiting → b.pair = false → b.pixel = false →
      (launchOf s b.lid).status = .active → (launchOf s b.lid).d.dies.testBit (cell / 4608) = true → turnOf s (launchOf s b.lid) (cell / 4608) (clusterOf (cell % 4608)) (some b.gang) = true →
      resumeCells s [b] (launchOf s b.lid).d (cell / 4608) (clusterOf (cell % 4608)) = some [c] → b.imgpois = [] →
      Completes (.blockResume b.bid cell) s (fun t => SameHomes s t ∧ (cellOf t (ckey (cell / 4608) c)).l1 = []
        ∧ (∃ b', block? t b.bid = some b' ∧ b'.status = .resident ∧ b'.die = cell / 4608 ∧ b'.cell = c ∧ b'.vbase = b.vbase ∧ b'.vsize = b.vsize ∧ b'.bars = b.bars
            ∧ b'.shapes = b.shapes ∧ ∀ j, j < 256 * b.vsize → allocByte t b' j = b.image.getD j 0)
        ∧ ∀ tid u, team? s tid = some u → u.blk = b.bid → u.status = .saved → ∃ v, team? t tid = some v ∧ v.status = .running ∧ v.r = u.r ∧ v.pc = u.pc ∧ v.clause = u.clause
            ∧ v.flags = [] ∧ v.dead = u.dead ∧ ∀ n y, n < 16 * (u.xblk + 1) → y < u.width / 32 → u.width ≤ 1024 → NMap.get false v.absent (32 * n + y) = true))
  ∧ (∀ s b cell, block? s b.bid = some b → (∀ x, x ∈ s.blocks → x.bid = b.bid → x = b) → gangBlocks s b.lid b.gang = [b] → b.wantrun = true → b.status = .resident → b.pair = false →
      (∀ u, u ∈ teamsOf s b.bid → isDown u = true) → (b.pixel = true → cell / 4608 = b.die) → (launchOf s b.lid).d.dies.testBit (cell / 4608) = true → isLive s (cell / 4608) = true → dieRuns s (cell / 4608) = true →
      (launchOf s b.lid).d.paired = false →
      let l := launchOf s b.lid
      let fits (c : Nat) : Prop := (∃ p, p < 4 ∧ c = cellAt (clusterOf (cell % 4608)) p) ∧ ¬(b.die = cell / 4608 ∧ b.cell = c)
        ∧ (admitBase (without s [b.bid]) l.d { needOf l with vbase := some b.vbase, vunits := b.vsize } (cell / 4608) c).isSome = true
      (∃ c, fits c) → Completes (.reRun b.bid cell) s (fun t => SameHomes s t ∧ ∃ c b', fits c ∧ block? t b.bid = some b' ∧ b'.die = cell / 4608 ∧ b'.cell = c ∧ b'.vbase = b.vbase
        ∧ b'.reruns = b.reruns + 1 ∧ b'.wantrun = false ∧ b'.bars = [] ∧ b'.log = b.log ∧ (l.image = [] → l.rings = [] → ∀ j, j < 256 * b.vsize → allocByte t b' j = 0)
        ∧ ∀ tid u, team? s tid = some u → u.blk = b.bid → ∃ v, team? t tid = some v ∧ Starts l b' u.idx v ∧ v.dead = u.dead ∧ v.rerun = some (max u.pseq (u.rerun.getD 0))))
  ∧ (∀ s b, block? s b.bid = some b → b.heldp = true → b.preempt = true → b.status = .resident → preempting s b = false → (launchOf s b.lid).d.stage ≠ 2 →
      saveRoom s b.die (gangBlocks s b.lid b.gang) = true → Completes (.heldPreemptRetry b.bid) s (fun t => Accepted s t b))
  ∧ (∀ s die w b, isLive s die = true → dieRuns s die = true → (∃ l, l ∈ s.launches ∧ l.lid = w.lid) → (∀ x y, x ∈ s.blocks → y ∈ s.blocks → x.start = y.start → x = y) →
      let waits (lid : Nat) (x : Block) : Prop := x ∈ s.blocks ∧ x.lid = lid ∧ x.status = .waiting ∧ x.die = die ∧ stuckOn s die x = true
      let there (lid : Nat) (x : Block) : Prop := x ∈ s.blocks ∧ x.lid = lid ∧ x.status = .resident ∧ x.die = die ∧ (launchOf s lid).d.stage ≠ 2
        ∧ ∃ c, c ∈ blockCells x ∧ inWindow (launchOf s lid).d c = true
      let longest (p : Block → Prop) (x : Block) : Prop := p x ∧ ∀ y, p y → x.start ≤ y.start
      let rotates (lid : Nat) (x y : Block) : Prop := longest (waits lid) x ∧ longest (there lid) y ∧ preempting s y = false
        ∧ (∀ z, z ∈ gangBlocks s y.lid y.gang → z.wantrun = false) ∧ saveRoom s die (gangBlocks s y.lid y.gang) = true
      rotates w.lid w b → (∀ l x y, l ∈ s.launches → rotates l.lid x y → w.start ≤ x.start) →
        Completes (.rotation die) s (fun t => Accepted s t b ∧ (clusterOf b.cell, w.bid) ∈ (dieOf t die).rota))

namespace Sys2Proof.Claims

/-! ## The parlour: owners, pixel blocks, the output merger (R323 to R336) -/

/-- The n-th message under way arrives now: none before it has the same producer and owner, and setup holds no refused record (R323). -/
def ArrivesNow (s : State) (n : Nat) (m : Msg) : Prop :=
  s.fabric.msgs[n]? = some m ∧ s.parlour.refused = [] ∧ (∀ e, parlourEnds m = some e → logicOn s e.2 = true) ∧ ∀ k x, k < n → s.fabric.msgs[k]? = some x → parlourEnds x ≠ parlourEnds m
/-- The message is gone, one owner may have changed, and nothing of the teams or memory. -/
def OneOwner (s t : State) (n dst : Nat) : Prop :=
  t.fabric.msgs = s.fabric.msgs.eraseIdx n ∧ t.cur = s.cur ∧ t.teams = s.teams ∧ t.mem = s.mem ∧ ∀ d, d ≠ dst → ownerOf t d = ownerOf s d

/-- NORD of a draw as an owner knows it (R324, R326). -/
def nordAt (o : Owner) (d : Nat) : Option Nat :=
  match o.dmarks.find? (fun m => m.1 == d) with
  | some m => some m.2
  | none => if o.emarks.contains d then some 0 else none
/-- The position of (d, p) less that of NEXT is a, the draws between being known (R324). -/
def Ahead (o : Owner) (d p a : Nat) : Prop :=
  ∃ ns : List Nat, ns.length = d - o.draw ∧ (∀ i, i < ns.length → nordAt o (o.draw + i) = ns[i]?) ∧ ns.sum + p = a + o.prim
/-- A sequence before NEXT. -/
def Past (o : Owner) (d p : Nat) : Prop := d < o.draw ∨ (d = o.draw ∧ p < o.prim)
/-- A record of an ended draw, or of a sequence before NEXT: it is discarded (R326). -/
def Over (o : Owner) (r : Rec) : Prop := o.emarks.contains r.draw = true ∨ Past o r.draw r.prim
/-- An owner of the open pass, whose logic is on (R395). -/
def Owns (s : State) (die : Nat) (p : Pass) : Prop := s.parlour.pass = some p ∧ p.owners.contains die = true ∧ logicOn s die = true

/-- E_ab at a point (R321), and the top-left rule (R328). -/
def edgeAt (ax ay bx b_y px py : Int) : Int := (bx - ax) * (py - ay) - (b_y - ay) * (px - ax)
def inside (ax ay bx b_y px py : Int) : Prop :=
  0 < edgeAt ax ay bx b_y px py ∨ (edgeAt ax ay bx b_y px py = 0 ∧ (b_y < ay ∨ (b_y = ay ∧ ax < bx)))
/-- Pixel (x, y) is covered by a record's triangle (R328). -/
def Covered (r : Rec) (x y : Nat) : Prop :=
  let X (i : Nat) : Int := r.xy.getD (2 * i) 0
  let Y (i : Nat) : Int := r.xy.getD (2 * i + 1) 0
  let px : Int := 256 * x + 128
  let py : Int := 256 * y + 128
  if edgeAt (X 0) (Y 0) (X 1) (Y 1) (X 2) (Y 2) < 0
  then inside (X 0) (Y 0) (X 2) (Y 2) px py ∧ inside (X 2) (Y 2) (X 1) (Y 1) px py ∧ inside (X 1) (Y 1) (X 0) (Y 0) px py
  else inside (X 0) (Y 0) (X 1) (Y 1) px py ∧ inside (X 1) (Y 1) (X 2) (Y 2) px py ∧ inside (X 2) (Y 2) (X 0) (Y 0) px py
/-- Pixel (x, y) lies in the area, in a tile of the record's rectangle that a die owns. -/
def InTile (p : Pass) (die : Nat) (r : Rec) (x y : Nat) : Prop :=
  x ≤ p.width ∧ y ≤ p.height ∧ r.tiles.getD 0 0 ≤ x / 64 ∧ x / 64 ≤ r.tiles.getD 2 0 ∧ r.tiles.getD 1 0 ≤ y / 64 ∧ y / 64 ≤ r.tiles.getD 3 0
  ∧ p.tot.getD (y / 64 * (p.width / 64 + 1) + x / 64) 255 = die

/-- A line of global memory at its home, which the tables map with a permission (R285). -/
def LineAt (s : State) (va x q : Nat) (l : Leaf) : Prop :=
  TablesMap s va l ∧ s.mem.root % 256 = 0 ∧ va < 2 ^ 56 ∧ l.mt = 0 ∧ locate s (l.pbase + (va - l.vbase)) = some (x, q) ∧ (siteOf s x).lost = false ∧ q + 128 ≤ 2 ^ 36
/-- The bytes that a tile store holds at an address of a held line. -/
def heldByte (s : State) (die a : Nat) : Option Byte := ((NMap.get [] s.parlour.stores die).find? (fun l => l.va == a / 128 * 128)).bind (fun l => l.data[a % 128]?)

/-- R335: y is channel c of a pixel's stored bytes, read as FP32. -/
def ReadsAs (fmt : Nat) (b : Nat → Byte) (c : Nat) (y : Word) : Prop :=
  match fmt with
  | 0 => ((b c).toNat = 0 → y = 0) ∧ ((b c).toNat ≠ 0 → ∃ fl, RoundsTo fmtF32 0 false (((b c).toNat : ℝ) / 255) (y.toNat, fl))
  | 1 => let h := fmtF16.value (valueOf 2 (fun i => b (2 * c + i)))
    (h.isNan = true → (f32Val y).isNan = true) ∧ (∀ sg, h = .inf sg → f32Val y = .inf sg) ∧ ∀ x, Denotes h x → Denotes (f32Val y) x ∧ (f32Val y).neg? = h.neg?
  | 2 => y.toNat = valueOf 4 (fun i => b (4 * c + i))
  | _ => (c = 0 → y.toNat = valueOf 4 b) ∧ (c = 1 ∨ c = 2 → y = 0) ∧ (c = 3 → y = 0x3F800000)
/-- R334: the value of a factor's code, exact, for the source's and the stored alpha. -/
def FactorIs (k : Nat) (sa da v : FV) : Prop :=
  let oneLess (a : FV) : Prop := (a.isNan = true → v.isNan = true) ∧ (∀ sg, a = .inf sg → v = .inf (!sg)) ∧ ∀ x, Denotes a x → Denotes v (1 - x) ∧ (x = 1 → v.neg? = false)
  match k with
  | 0 => v = .fin false 0 0
  | 1 => v = .fin false 1 0
  | 2 => v = sa
  | 3 => oneLess sa
  | 4 => v = da
  | _ => oneLess da
/-- R334: y is a × f + d × g, exact, with one FP32 rounding to nearest. -/
def Blends (a f d g : FV) (y : Word) : Prop :=
  let noProduct (p q : FV) : Prop := p.isNan = true ∨ q.isNan = true ∨ (p.isInf = true ∧ q.isZero = true) ∨ (p.isZero = true ∧ q.isInf = true)
  let infinite (p q : FV) (sg : Bool) : Prop := ¬noProduct p q ∧ (p.isInf = true ∨ q.isInf = true) ∧ (p.neg? != q.neg?) = sg
  (noProduct a f ∨ noProduct d g ∨ (∃ sg, infinite a f sg ∧ infinite d g (!sg)) → y = 0x7FC00000)
  ∧ (∀ sg, infinite a f sg ∨ infinite d g sg → ¬noProduct a f → ¬noProduct d g → ¬infinite a f (!sg) → ¬infinite d g (!sg) → y = if sg then 0xFF800000 else 0x7F800000)
  ∧ ∀ x u z w, Denotes a x → Denotes f u → Denotes d z → Denotes g w → (x * u + z * w ≠ 0 → ∃ fl, RoundsTo fmtF32 0 false (x * u + z * w) (y.toNat, fl))
      ∧ (x * u + z * w = 0 → y = if (a.neg? != f.neg?) && (d.neg? != g.neg?) then 0x80000000 else 0)
/-- R335: the bytes that a channel's value is stored as. -/
def StoredAs (fmt : Nat) (r : Word) (b : Nat → Byte) : Prop :=
  let v := f32Val r
  match fmt with
  | 0 => (v.isNan = true → (b 0).toNat = 0) ∧ (∀ sg, v = .inf sg → (b 0).toNat = if sg then 0 else 255)
    ∧ ∀ x, Denotes v x → Selects 0 0 (max 0 (min 1 x) * 255) (b 0).toNat
  | 1 => let h := valueOf 2 b
    (v.isNan = true → h = (nanOf fmtF16 false).1) ∧ (∀ sg, v = .inf sg → h = (infOf fmtF16 sg).1)
    ∧ ∀ x, Denotes v x → (x ≠ 0 → ∃ fl, RoundsTo fmtF16 0 false x (h, fl)) ∧ (x = 0 → h = (zeroOf fmtF16 v.neg?).1)
  | _ => valueOf 4 b = r.toNat
/-- The bytes of a channel and of a pixel (R335), and the channels that a target stores. -/
def channelSize (fmt : Nat) : Nat := if fmt = 0 then 1 else if fmt = 1 then 2 else 4
def pixelSize (fmt : Nat) : Nat := if fmt = 1 then 8 else if fmt = 2 then 16 else 4
def Stores (g : Target) (c : Nat) : Prop := c < 4 ∧ (g.fmt = 3 → c = 0) ∧ g.wmask.testBit c = true
/-- R334: r is what channel c of a target receives for the values v over a stored pixel. -/
def Receives (g : Target) (v : List Word) (old : Nat → Byte) (c : Nat) (r : Word) : Prop :=
  (g.blend = false → r = v.getD c 0)
  ∧ (g.blend = true → ∃ da d fs fd, ReadsAs g.fmt old 3 da ∧ ReadsAs g.fmt old c d
      ∧ FactorIs (if c = 3 then g.asrc else g.csrc) (f32Val (v.getD 3 0)) (f32Val da) fs ∧ FactorIs (if c = 3 then g.adst else g.cdst) (f32Val (v.getD 3 0)) (f32Val da) fd
      ∧ Blends (f32Val (v.getD c 0)) fs (f32Val d) fd r)

end Sys2Proof.Claims

/-- R323 to R326: records and marks arrive at their owner in order. A record at NEXT, or whose position is known and below 4,096 past NEXT, is held; one of an ended draw or before NEXT is
discarded; any other is refused, and setup offers it again. An owner passes a draw that is over, rasterises the record of NEXT, or voids what a block mark covers. A
record covers the pixels whose centres its three edges own, in tiles that the die owns (R328). -/
def Obligations.OwnersConsume : Prop :=
  (∀ s n src dst draw first count blk, ArrivesNow s n (.mark 2 src dst draw first count blk) → Completes (.drawMark n) s (fun t => OneOwner s t n dst
      ∧ ownerOf t dst = { ownerOf s dst with dmarks := (draw, count) :: (ownerOf s dst).dmarks }))
  ∧ (∀ s n src dst draw first count blk, ArrivesNow s n (.mark 1 src dst draw first count blk) → Completes (.blockMark n) s (fun t => OneOwner s t n dst
      ∧ ownerOf t dst = { ownerOf s dst with bmarks := (draw, first) :: (ownerOf s dst).bmarks }))
  ∧ (∀ s n src dst draw first count blk, ArrivesNow s n (.mark 3 src dst draw first count blk) → Completes (.endMark n) s (fun t => OneOwner s t n dst
      ∧ draw ∈ (ownerOf t dst).emarks ∧ (∀ r, r ∈ (ownerOf t dst).recs ↔ r ∈ (ownerOf s dst).recs ∧ r.draw ≠ draw)
      ∧ (∀ f, f ∈ (ownerOf t dst).ready ++ (ownerOf t dst).merge ↔ f ∈ (ownerOf s dst).ready ++ (ownerOf s dst).merge ∧ f.draw ≠ draw)
      ∧ (ownerOf t dst).draw = (ownerOf s dst).draw ∧ (ownerOf t dst).prim = (ownerOf s dst).prim ∧ (ownerOf t dst).dmarks = (ownerOf s dst).dmarks))
  ∧ (∀ s n src dst r blk, ArrivesNow s n (.record src dst r blk) → (∀ m, nordAt (ownerOf s dst) (ownerOf s dst).draw = some m → (ownerOf s dst).prim ≤ m) → let o := ownerOf s dst
    (Over o r → Completes (.primitiveRecord n) s (fun t => OneOwner s t n dst ∧ ownerOf t dst = o ∧ t.parlour.refused = []))
    ∧ (¬Over o r → ((r.draw = o.draw ∧ r.prim = o.prim) ∨ ∃ a, Ahead o r.draw r.prim a ∧ a < 4096) → Completes (.primitiveRecord n) s (fun t =>
        OneOwner s t n dst ∧ ownerOf t dst = { o with recs := r :: o.recs } ∧ t.parlour.refused = []))
    ∧ (¬Over o r → ¬(r.draw = o.draw ∧ r.prim = o.prim) → (∀ a, Ahead o r.draw r.prim a → 4096 ≤ a) → Completes (.primitiveRecord n) s (fun t =>
        OneOwner s t n dst ∧ ownerOf t dst = o ∧ t.parlour.refused = [.record src dst r blk])))
  ∧ (∀ s src dst r blk a, s.parlour.refused = [.record src dst r blk] → ¬Over (ownerOf s dst) r → Ahead (ownerOf s dst) r.draw r.prim a → a < 4096 →
      Completes (.setupReoffer 0) s (fun t => t.parlour.refused = [] ∧ ownerOf t dst = { ownerOf s dst with recs := r :: (ownerOf s dst).recs }
        ∧ (∀ d, d ≠ dst → ownerOf t d = ownerOf s d) ∧ t.fabric = s.fabric ∧ t.cur = s.cur ∧ t.mem = s.mem))
  ∧ (∀ s die p, Owns s die p → (ownerOf s die).draw < p.first + p.ndraws → let o := ownerOf s die
    let only (t : State) : Prop := (∀ d, d ≠ die → ownerOf t d = ownerOf s d) ∧ t.fabric = s.fabric ∧ t.cur = s.cur ∧ t.mem = s.mem
    let passed := o.emarks.contains o.draw = true ∨ nordAt o o.draw = some o.prim
    (passed → Completes (.ownerConsume die) s (fun t => only t ∧ ownerOf t die = { o with draw := o.draw + 1, prim := 0 }))
    ∧ (¬passed → ∀ r, o.recs.find? (fun r => r.draw == o.draw && r.prim == o.prim) = some r → Completes (.ownerConsume die) s (fun t => only t
        ∧ (ownerOf t die).draw = o.draw ∧ (ownerOf t die).prim = o.prim + 1 ∧ (∀ q, q ∈ (ownerOf t die).recs ↔ q ∈ o.recs ∧ ¬(q.draw = o.draw ∧ q.prim = o.prim))
        ∧ ∃ fs, (ownerOf t die).ready = o.ready ++ fs
          ∧ (∀ f, f ∈ fs → f.draw = r.draw ∧ f.prim = r.prim ∧ f.front = r.face ∧ f.outs = [] ∧ f.dead = false ∧ f.attr.length = r.nattr)
          ∧ (∀ f, f ∈ fs → InTile p die r f.x f.y ∧ Covered r f.x f.y ∧ nanWord f.z = false)
          ∧ (∀ x y e, InTile p die r x y → coverAt r x y = some e → depthOk (depthAt r e) = true → ∃ f, f ∈ fs ∧ f.x = x ∧ f.y = y ∧ f.z = depthAt r e)
          ∧ (fs.map (fun f => (f.x, f.y))).Nodup))
    ∧ (¬passed → (∀ r, r ∈ o.recs → ¬(r.draw = o.draw ∧ r.prim ≥ o.prim)) → ∀ first, o.bmarks = [(o.draw, first)] → first ≤ o.prim → o.prim < first + 256 →
        Completes (.ownerConsume die) s (fun t => only t ∧ ownerOf t die = { o with prim := first + 256 })))

/-- R330 to R336: the first fragments of one draw that are ready, at most a block's, start a pixel block of their draw's kernel whose lanes below their count are in m0: it is
full, or the next fragment is of another draw, or none is ready (for 256 clocks, says R330; the model has no clock, and such a block may start at any time: log 60, the model's choice). A line that the next
fragment needs is loaded from its home, and held; a changed line is written out whole. A fragment with none before it at its pixel is merged: it is dropped by the depth test, else it
stores its depth, and each channel of its target's WMASK receives its value, or its blend with the stored pixel, in the target's format; without blending the
source's bits are taken as they are (log 41: the model's choice). A pixel block takes the first cell of the window that admits it (log 39: the model's choice). -/
def Obligations.PixelsMerge : Prop :=
  (∀ s die p f rest l c v, Owns s die p → (ownerOf s die).ready = f :: rest → pixelOf s p f.draw = some l → l.status = .active → isLive s die = true → dieRuns s die = true → l.d.prot = false →
    l.d.paired = false → (windowCells l.d).findSome? (fun c => (admitBase s l.d (needOf l) die c).map (fun v => (c, v))) = some (c, v) → 0 < l.d.nteams →
    let n := l.d.w * l.d.nteams
    let fs := ((f :: rest).takeWhile (fun g => g.draw == f.draw)).take n
    (∀ u, u ∈ allTeams s → u.tid < s.nextId) → Completes (.pixelBlockStart die) s (fun t => t.cur = s.cur ∧ SameHomes s t
      ∧ (fs.length = n ∨ ∀ g, ((f :: rest).drop fs.length).head? = some g → g.draw ≠ f.draw)
      ∧ ownerOf t die = { ownerOf s die with ready := (f :: rest).drop fs.length } ∧ (dieOf t die).pxcount = (dieOf s die).pxcount + 1
      ∧ ∃ b, t.blocks = s.blocks ++ [b] ∧ b.lid = l.lid ∧ b.die = die ∧ b.cell = c ∧ b.vbase = v ∧ b.pixel = true ∧ b.index = (dieOf s die).pxcount % 2 ^ 32 ∧ b.status = .resident
        ∧ (∀ k, k < n → b.frags[k]? = some fs[k]?)
        ∧ ∀ i, i < l.d.nteams → ∃ u, u ∈ t.teams ∧ u.blk = b.bid ∧ u.idx = i ∧ u.status = .running ∧ u.pc = l.d.kaddr ∧ (∀ k, sreg u k = 0)
            ∧ ∀ k, k < 1024 → k < l.d.w → (mreg u 0).getLsbD k = decide (l.d.w * i + k < fs.length)))
  ∧ (∀ s die p f l x q, Owns s die p → (ownerOf s die).merge = [f] → (ownerOf s die).ready = [] → s.blocks = [] → (p.dtest = true ∨ p.dwrite = true) → GoodMemory s →
    let a := p.dbase + f.y * p.dpitch + 4 * f.x
    (storeLine? s die (a / 128 * 128)).isNone = true → (NMap.get [] s.parlour.stores die).length < 32768 → LineAt s (a / 128 * 128) x q l → l.r = true →
    Completes (.tileStoreLoad die (a / 128)) s (fun t => (∀ i, i < 128 → heldByte t die (a / 128 * 128 + i) = some (homeByte s x (q + i)))
      ∧ (∀ b, b / 128 ≠ a / 128 → heldByte t die b = heldByte s die b) ∧ ownerOf t die = ownerOf s die ∧ SameHomes s t ∧ SameVaults s t ∧ t.cur = s.cur))
  ∧ (∀ s die p f e, Owns s die p → (ownerOf s die).merge = [f] → (ownerOf s die).ready = [] → s.blocks = [] → (p.dtest = true ∨ p.dwrite = true) → CleanMemory s →
    let a := p.dbase + f.y * p.dpitch + 4 * f.x
    (storeLine? s die (a / 128 * 128)).isNone = true → (NMap.get [] s.parlour.stores die).length < 32768 → EntryAt s (s.mem.root + 8 * (a / 128 * 128 / 2 ^ 51 % 2 ^ 5)) e → e % 2 = 0 →
    s.mem.root % 256 = 0 → GoodMemory s → (∃ d, p.draws = [d] ∧ d.ord = f.draw ∧ ∃ l, launch? s d.lid = some l ∧ l.status = .active) →
    Completes (.tileStoreLoad die (a / 128)) s (fun t => (ownerOf t die).merge = [] ∧ SameHomes s t
      ∧ ∀ d, p.draws = [d] → ∃ l, launch? t d.lid = some l ∧ l.status = .aborted 0x13))
  ∧ (∀ s die line m x q l, (NMap.get [] s.parlour.stores die).find? (fun m => m.va == 128 * line) = some m → m.dirty = true → m.pois = [] → m.data.length = 128 → GoodMemory s →
    LineAt s (128 * line) x q l → l.w = true → Completes (.tileStoreWriteOut die line) s (fun t => (∀ i, i < 128 → homeByte t x (q + i) = m.data.getD i 0)
      ∧ (∀ y o, o < 2 ^ 36 → y ≠ x ∨ o < q ∨ q + 128 ≤ o → homeByte t y o = homeByte s y o) ∧ SameVaults s t ∧ (storeLine? t die (128 * line)).isNone = true ∧ t.cur = s.cur))
  ∧ (∀ s die line m, (NMap.get [] s.parlour.stores die).find? (fun m => m.va == 128 * line) = some m → m.dirty = false → Completes (.tileStoreWriteOut die line) s (fun t =>
      t.mem = s.mem ∧ (storeLine? t die (128 * line)).isNone = true ∧ t.cur = s.cur))
  ∧ (∀ s die p f, Owns s die p → (ownerOf s die).merge = [f] → (ownerOf s die).ready = [] → s.blocks = [] → neededLine s die p f = none →
    let a := p.dbase + f.y * p.dpitch + 4 * f.x
    let only (t : State) : Prop := ownerOf t die = { ownerOf s die with merge := [] } ∧ t.mem = s.mem ∧ t.cur = s.cur ∧ t.fabric = s.fabric
    (testDepth s die p f = false → Completes (.fragmentMerge die 0) s (fun t => only t ∧ t.parlour.stores = s.parlour.stores))
    ∧ (testDepth s die p f = true → (∀ m, m ∈ NMap.get [] s.parlour.stores die → m.data.length = 128 ∧ m.va % 128 = 0) → p.dbase % 128 = 0 → p.dpitch % 128 = 0 →
      (f.outs = [] → Completes (.fragmentMerge die 0) s (fun t => only t
        ∧ ∀ b, heldByte t die b = if p.dwrite = true ∧ a ≤ b ∧ b < a + 4
            then some (BitVec.ofNat 8 ((if nanWord f.z then (0x7FC00000 : Word) else f.z).toNat / 2 ^ (8 * (b - a)))) else heldByte s die b))
      ∧ (∀ k g v, k < 4 → p.targets[k]? = some g → g.enable = true → g.fmt < 4 → g.csrc < 6 ∧ g.cdst < 6 ∧ g.asrc < 6 ∧ g.adst < 6 → g.base % 128 = 0 → g.pitch % 128 = 0 →
          p.dwrite = false → (∀ j, NMap.get none f.outs j = if j = k then some v else none) → v.length = 4 →
          let z := channelSize g.fmt
          let h := g.base + f.y * g.pitch + pixelSize g.fmt * f.x
          Completes (.fragmentMerge die 0) s (fun t => only t
            ∧ (∀ c, Stores g c → (∀ i, i < z → (heldByte t die (h + z * c + i)).isSome = true)
                ∧ ∃ r, Receives g v (fun i => (heldByte s die (h + i)).getD 0) c r ∧ StoredAs g.fmt r (fun i => (heldByte t die (h + z * c + i)).getD 0))
            ∧ ∀ b, (∀ c, Stores g c → b < h + z * c ∨ h + z * c + z ≤ b) → heldByte t die b = heldByte s die b))))

namespace Sys2Proof.Claims

/-! ## Reliability, the panel, start-up and power (R280 to R282, R343, R351 to R355, R369, R381, R383, R393 to R399) -/

/-- The panel runs: its staged start has begun, and it has not stopped. -/
def PanelRuns (s : State) : Prop := (s.host.stage = .one ∨ s.host.stage = .two) ∧ s.fabric.stopped = false
/-- Nothing of the teams, blocks, launches or memory changes. -/
def OnlyDevice (s t : State) : Prop := t.cur = s.cur ∧ t.teams = s.teams ∧ t.blocks = s.blocks ∧ t.launches = s.launches ∧ t.mem = s.mem
/-- The rest of the panel stays connected with the attachment that continues, and every die keeps a link (R355). -/
def Holds (s : State) : Prop :=
  ∃ m, continuing s = some m ∧ (∀ d, d < 144 → (dieOf s d).dropped = false → m.testBit (dieSite d) = true ∧ ∃ l, l ∈ linksOf (dieSite d) ∧ l ∉ s.fabric.badlinks)
    ∧ ∀ x, x < 144 → (siteOf s x).lost = false → m.testBit (memSite x) = true
/-- A region of power (R44). -/
def region (s : State) (r : Nat) : Region := NMap.get {} s.host.regions r
/-- A region alone changes. -/
def OnlyRegion (s t : State) (r : Nat) : Prop :=
  OnlyDevice s t ∧ t.dies = s.dies ∧ (∀ q, q ≠ r → region t q = region s q) ∧ { t.host with regions := [] } = { s.host with regions := [] }

end Sys2Proof.Claims

/-- R280 to R282, R369, R381, R383: refresh changes nothing. The scrubber marks a clean line scrub-pending with what it reads, finds an error of a vault word, and writes a pending line back:
corrected words are whole, uncorrectable ones are poisoned; each leaves a record. A watchdog's expiry leaves a record and changes nothing else, and a source with room
reports what it dropped. A clean line that the slice holds takes the corrected word too, and its poison. The model's readings: addresses in records (log 30), and when a watchdog may expire (log 57). -/
def Obligations.ScrubbingAndWatchdogs : Prop :=
  (∀ site bank s, exec (.refreshOperation site bank) s = .next s)
  ∧ (∀ s x line, x < 144 → line * 128 < 64000000000 → (siteOf s x).lost = false →
    ((∃ l, l ∈ (siteOf s x).lines ∧ l.line = line ∧ l.st = 1) → ((siteOf s x).lines.map (·.line)).Nodup → exec (.patrolScrub x line) s = .next s)
    ∧ ((∀ l, l ∈ (siteOf s x).lines → l.line = line → l.st ≠ 1) → Completes (.patrolScrub x line) s (fun t => OnlyDevice { s with mem := {} } { t with mem := {} }
        ∧ SameHomes s t ∧ SameVaults s t ∧ t.mem.hbad = s.mem.hbad ∧ ∃ b, NMap.get none (siteOf t x).scrub line = some b
        ∧ ∀ i u, (i, u) ∈ b ↔ i < 4 ∧ ∃ e, NMap.get none s.mem.hbad ((x * 2 ^ 36 + 128 * line) / 32 + i) = some e ∧ (u = true ↔ e ≠ .corrected))))
  ∧ (∀ s d w e, isLive s d = true → w < 4608 * 2 ^ 14 → NMap.get none s.mem.vbad (d * 4608 * 2 ^ 14 + w) = some e → let a := 2 ^ 31 + w / 2 ^ 14 * 2 ^ 18 + w % 2 ^ 14 * 16
      Completes (.patrolScrub (144 + d) w) s (fun t => NMap.get none t.mem.vbad (d * 4608 * 2 ^ 14 + w) = none ∧ SameHomes s t ∧ SameVaults s t
        ∧ NMap.get false t.mem.vpois (d * 4608 * 2 ^ 14 + w) = (e != .corrected || NMap.get false s.mem.vpois (d * 4608 * 2 ^ 14 + w))
        ∧ Emitted s t (64 * d) { kind := if e = .corrected then 1 else 4, addr := a } ∧ t.cur = s.cur))
  ∧ (∀ s x line i u, NMap.get none (siteOf s x).scrub line = some [(i, u)] → i < 4 → (∀ p, p ∈ allTeams s → p.ops = []) → s.host.qps = [] → let w := (x * 2 ^ 36 + 128 * line) / 32 + i
      let held := ((siteOf s x).lines.find? (fun l => l.line == line && l.st == 0))
      Completes (.scrubWriteBack x line) s (fun t => NMap.get none (siteOf t x).scrub line = none ∧ NMap.get none t.mem.hbad w = none ∧ SameVaults s t ∧ t.mem.hbm = s.mem.hbm
        ∧ (u = true ∨ held = none → SameHomes s t)
        ∧ (∀ l, ((siteOf s x).lines.filter (fun m => m.line == line)) = [l] → l.st = 0 → l.data.length = 128 → ∃ m, (siteOf t x).lines.find? (fun m => m.line == line) = some m
            ∧ m.st = 0 ∧ m.ver = l.ver ∧ (∀ j, j < 128 → m.data.getD j 0 = if u = false ∧ j / 32 = i then cellsGet s.mem.hbm (w * 32 + j % 32) else l.data.getD j 0)
            ∧ (∀ k, k < 4 → m.pois.getLsbD k = if k = i then u || NMap.get false s.mem.hpois w else l.pois.getLsbD k)
            ∧ (u = false → NMap.get none m.bad i = none))
        ∧ NMap.get false t.mem.hpois w = (u || NMap.get false s.mem.hpois w) ∧ Emitted s t (16384 + 64 * x) { kind := if u then 4 else 1, addr := 128 * line + 32 * i } ∧ t.cur = s.cur))
  ∧ (∀ s x line, NMap.get none (siteOf s x).scrub line = some [] → (∀ p, p ∈ allTeams s → p.ops = []) → s.host.qps = [] → Completes (.scrubWriteBack x line) s (fun t => NMap.get none (siteOf t x).scrub line = none
      ∧ t.mem.hbad = s.mem.hbad ∧ t.mem.hpois = s.mem.hpois ∧ SameHomes s t ∧ SameVaults s t ∧ t.evseq = s.evseq ∧ t.cur = s.cur))
  ∧ (∀ s n u, team? s n = some u → n ≠ 0 → isLive s u.die = true → watchdogsHeld s u.die = false →
      (∃ o a, o ∈ u.ops ∧ a ∈ o.acc ∧ a.done = false ∧ a.mt ≠ vaultMt) → Completes (.responseWatchdog u.die n) s (fun t =>
      Emitted s t (64 * u.die) { kind := 0xC, launch := launchId s u.blk } ∧ OnlyDevice s t ∧ t.dies = s.dies))
  ∧ (∀ s lid l g d, launch? s lid = some l → grid? s lid = some g → l.status = .active → g.bar.arr ≠ [] → d < 144 → (∀ e, e < 144 → (l.d.dies.testBit e = true ↔ e = d)) → watchdogsHeld s d = false →
      Completes (.barrierWatchdog lid) s (fun t => Emitted s t (64 * d) { kind := 0xC, launch := l.d.id } ∧ OnlyDevice s t ∧ t.dies = s.dies))
  ∧ (∀ s src, 0 < NMap.get 0 s.evdrop src → (NMap.get [] s.evbuf src).length < 256 → Completes (.recordsDropped src) s (fun t => OnlyDevice s t ∧ t.dies = s.dies
      ∧ Emitted { s with evdrop := NMap.set 0 s.evdrop src 0 } t src { kind := 0xF, info := min (NMap.get 0 s.evdrop src) 65535 }))

/-- R343, R351, R352, R354, R355: a link's failure takes the link, and nothing else while the panel holds together. A die that is dropped lives no more, the launches that it was to run abort, and
a record tells the host; a memory site that is lost breaks the sets that hold it. The model's readings: which part of the panel goes on (log 27), and the record of a lost
site (log 58). -/
def Obligations.FailuresAreContained : Prop :=
  (∀ s l, PanelRuns s → l < 578 → l ∉ s.fabric.badlinks → Holds { s with fabric := { s.fabric with badlinks := l :: s.fabric.badlinks } } →
    exec (.linkFailure l) s = .next { s with fabric := { s.fabric with badlinks := l :: s.fabric.badlinks } })
  ∧ (∀ s l d, PanelRuns s → l < 578 → l ∉ s.fabric.badlinks → d < 144 → (dieOf s d).dropped = false → (∀ k, k ∈ linksOf (dieSite d) → k = l ∨ k ∈ s.fabric.badlinks) → Completes (.linkFailure l) s (fun t =>
      (dieOf t d).dropped = true ∧ isLive t d = false))
  ∧ (∀ s d, PanelRuns s → d < 144 → (dieOf s d).dropped = false → NMap.get [] s.evbuf 32768 = [] → (∀ u, u ∈ allTeams s → u.ops = []) → Completes (.dieDrop d) s (fun t =>
      (dieOf t d).dropped = true ∧ isLive t d = false ∧ (∀ k, k / 2 ^ 18 / 4608 = d → vaultByte t k = emptyByte)
      ∧ (∃ e, e ∈ NMap.get [] t.evbuf 32768 ∧ e.kind = 6 ∧ e.info = d)
      ∧ ∀ lid l, launch? s lid = some l → l.status = .active → l.pixel = false → l.d.dies.testBit d = true → ∃ l', launch? t lid = some l' ∧ l'.status = .aborted 0x12))
  ∧ (∀ s x, PanelRuns s → x < 144 → (siteOf s x).lost = false → Completes (.memorySiteLoss x) s (fun t => (siteOf t x).lost = true ∧ (siteOf t x).lines = [] ∧ (∀ y, y ≠ x → siteOf t y = siteOf s y)
      ∧ (∀ k st, NMap.get none s.mem.sets k = some st → ∃ st', NMap.get none t.mem.sets k = some st' ∧ st'.members = st.members ∧ st'.bases = st.bases
          ∧ st'.broken = (st.broken || st.members.contains x))
      ∧ Emitted s t 32768 { kind := 7, info := x } ∧ t.dies = s.dies ∧ t.cur = s.cur ∧ SameVaults s t))
  ∧ (∀ s x, PanelRuns s → x < 144 → (siteOf s x).lost = false → Completes (.memorySiteLoss (144 + x)) s (fun t => (siteOf t x).lost = true ∧ NMap.get false t.fabric.badbase x = true))

/-- R393 to R399: power-good begins stage 0 with the booted attachment die; a verified image begins stage 1, one that fails leaves stage 0 refused; dies train by distance from the booted die, one whose firmware is refused fails, and
the end of stage 1 drops those that failed. A region's controller moves its clock by a sixteenth, a droop alarm leaves a record, and recovery ends it; none of it changes
what a program sees. The model's readings: how the end of stage 1 is told (log 33), the clock's steps (log 36), and that a die with a refused image fails
like one that does not train, with its record (log 82). -/
def Obligations.StartUpAndPower : Prop :=
  (∀ s east west, (s.host.stage = .off → Completes (.powerGood east west) s (fun t => t.host.stage = .zero ∧ t.host.booted = (if east then some 60 else if west then some 72 else none)
        ∧ t.host.mrom = valBytes 64 (Config.sha512 Config.bootRom).toNat ∧ (NMap.get {} t.host.qps 256).isOpen = true ∧ OnlyDevice s t ∧ t.dies = s.dies))
      ∧ (s.host.stage ≠ .off → exec (.powerGood east west) s = .next s))
  ∧ (∀ s image v, s.host.stage = .zero → s.host.booted ≠ none →
    (Config.verifies image = true → s.host.rollback ≤ v → Completes (.firmwareImageVerification image v) s (fun t => t.host.stage = .one ∧ t.host.fwver = v
        ∧ t.host.mfw = valBytes 64 (Config.sha512 image).toNat ∧ OnlyDevice s t ∧ t.dies = s.dies))
    ∧ (Config.verifies image = false ∨ v < s.host.rollback → Completes (.firmwareImageVerification image v) s (fun t => t.host.stage = .refused
        ∧ Emitted s t 32768 { kind := 0x10, detail := 3 } ∧ OnlyDevice s t ∧ t.dies = s.dies)))
  ∧ (∀ s b d good image, s.host.stage = .one → s.fabric.stopped = false → s.host.booted = some b → d < 144 → settledDie s d = false →
    (∀ e, e < 144 → settledDie s e = false → hops b d < hops b e ∨ (hops b d = hops b e ∧ d ≤ e)) →
    (good = true → (Config.verifies image = false ∨ Config.imageVersion image < s.host.rollback) → Completes (.dieTraining d good image) s (fun t =>
      (dieOf t d).failed = true ∧ (dieOf t d).ready = (dieOf s d).ready ∧ (dieOf t d).live = (dieOf s d).live ∧ Emitted s t 32768 { kind := 0x10, detail := 3 }
      ∧ (∀ e, e ≠ d → dieOf t e = dieOf s e) ∧ OnlyDevice s t))
    ∧ (good = true → Config.verifies image = true ∧ s.host.rollback ≤ Config.imageVersion image) → Completes (.dieTraining d good image) s (fun t =>
      (dieOf t d).ready = (if good then true else (dieOf s d).ready) ∧ (dieOf t d).live = (if good then true else (dieOf s d).live) ∧ (good = false → (dieOf t d).failed = true)
      ∧ (good = true → (dieOf t d).meas = valBytes 64 (Config.sha512 image).toNat) ∧ t.host.trained = s.host.trained ++ [d] ∧ (∀ e, e ≠ d → dieOf t e = dieOf s e) ∧ OnlyDevice s t))
  ∧ (∀ s, s.host.stage = .one → s.fabric.stopped = false → (∀ d, d < 144 → settledDie s d = true ∧ ((dieOf s d).failed = true → (dieOf s d).dropped = true)) → Holds s →
      Completes .stage1End s (fun t => t.host.stage = .two ∧ Emitted s t 32768 { kind := 0x10 } ∧ OnlyDevice s t ∧ t.dies = s.dies))
  ∧ (∀ s r draw, s.host.stage ≠ .off → r < 16 → Completes (.powerControllerWindow r draw) s (fun t => OnlyRegion s t r ∧ (region t r).draw = draw
      ∧ (region t r).clock = (if (region s r).cap < draw then max 4 ((region s r).clock - 1) else min 16 ((region s r).clock + 1))
      ∧ (region t r).delay = (if (region s r).draw + (region s r).step < draw then (region s r).delay + 1 else 0)
      ∧ { region t r with clock := 0, delay := 0, draw := 0 } = { region s r with clock := 0, delay := 0, draw := 0 }))
  ∧ (∀ s r, s.host.stage ≠ .off → r < 16 → Completes (.droopAlarm r) s (fun t => OnlyRegion s t r ∧ region t r = { region s r with droop := true, recov := false }
      ∧ Emitted s t 32768 { kind := 0x10, detail := 2, info := r }))
  ∧ (∀ s r, Completes (.voltageRecovery r) s (fun t => OnlyRegion s t r ∧ region t r = { region s r with recov := (region s r).droop }))
  ∧ (∀ s r, (region s r).recov = true → Completes (.droopRecovery r) s (fun t => OnlyRegion s t r ∧ region t r = { region s r with droop := false, recov := false }))

namespace Sys2Proof.Claims

/-! ## The host link (R384 to R392, R395, R396, R400, R401) -/

/-- The module is on and the queue pair is open. -/
def PortOpen (s : State) (qp : Nat) : Prop := s.host.stage ≠ .off ∧ (NMap.get {} s.host.qps qp).isOpen = true
/-- The host link answers a packet with one message, and all else stays (R384). -/
def Replies (s t : State) (m : HostMsg) : Prop := t = { s with host := { s.host with out := s.host.out ++ [m] } }
/-- The same but for what the request does to memory and mailboxes. -/
def Sends (s t : State) (m : HostMsg) : Prop := t.host.out = s.host.out ++ [m] ∧ t.cur = s.cur ∧ t.teams = s.teams
/-- n bytes of one line from va on, mapped with a permission, stand at their home from q on (R285). -/
def SpanAt (s : State) (va n x q : Nat) (l : Leaf) : Prop :=
  0 < n ∧ va % 128 + n ≤ 128 ∧ TablesMap s va l ∧ s.mem.root % 256 = 0 ∧ va < 2 ^ 56 ∧ l.mt = 0 ∧ locate s (l.pbase + (va - l.vbase)) = some (x, q)
  ∧ (siteOf s x).lost = false ∧ q + n ≤ 2 ^ 36
/-- No entry of the root stands for an address. -/
def Unmapped (s : State) (va : Nat) : Prop := ∃ e, EntryAt s (s.mem.root + 8 * (va / 2 ^ 51 % 2 ^ 5)) e ∧ e % 2 = 0
/-- Those bytes hold what was written, and no other byte of global memory or of a vault changes. -/
def Wrote (s t : State) (x q : Nat) (data : List Byte) : Prop :=
  (∀ i, i < data.length → homeByte t x (q + i) = data.getD i 0) ∧ SameVaults s t
  ∧ ∀ y o, o < 2 ^ 36 → (y ≠ x ∨ o < q ∨ q + data.length ≤ o) → homeByte t y o = homeByte s y o

/-- No WRITE of the management pair is under way, behind which a command would wait (R386). -/
def NoneWaits (s : State) : Prop := (NMap.get {} s.host.qps 256).rest = none
/-- Stage 2, the panel running (R394), and a command acts at once. -/
def StageTwo (s : State) : Prop := s.host.stage = .two ∧ s.fabric.stopped = false ∧ NoneWaits s
/-- The SEND of a command is acknowledged (R386), and its answer sent: its TAG, code, RESULT and body (R387). -/
def Answered (s t : State) (tag code result : Nat) (body : List Byte) : Prop := t.host.out = s.host.out ++ [.ack 256, .answer (tag % 2 ^ 16) code result body]
/-- The answer is all that the command does. -/
def OnlyAnswers (s t : State) (tag code result : Nat) : Prop :=
  Answered s t tag code result [] ∧ t.cur = s.cur ∧ t.teams = s.teams ∧ t.blocks = s.blocks ∧ t.launches = s.launches ∧ t.mem = s.mem ∧ t.dies = s.dies ∧ t.cells = s.cells
  ∧ t.fabric = s.fabric ∧ { t.host with out := [], qps := [] } = { s.host with out := [], qps := [] }
/-- A command of stage 2 (R387, R394), and its code. -/
def lateCommand : Instr → Option (Nat × Nat)
  | .append tag _ _ _ => some (tag, 0x10)
  | .preEmpt tag _ _ => some (tag, 0x11)
  | .replay tag _ _ _ _ => some (tag, 0x12)
  | .resume tag _ _ _ _ => some (tag, 0x12)
  | .endLaunch tag _ _ _ _ => some (tag, 0x12)
  | .registerMailbox tag _ => some (tag, 0x13)
  | .unregisterMailbox tag _ => some (tag, 0x14)
  | .defineInterleaveSet tag _ _ _ _ => some (tag, 0x15)
  | .translationRoot tag _ => some (tag, 0x16)
  | .saveArea tag _ _ _ => some (tag, 0x17)
  | .retireCell tag _ _ => some (tag, 0x18)
  | .dropDie tag _ => some (tag, 0x19)
  | .haltDie tag _ => some (tag, 0x1A)
  | .releaseDie tag _ => some (tag, 0x1A)
  | .patrolPeriod tag _ => some (tag, 0x1B)
  | _ => none

end Sys2Proof.Claims

/-- R384 to R386, R391: a packet of an open queue pair is served. A WRITE and a READ with the key of the queue pair translate and check their addresses; a failure draws a NAK for access and does nothing.
A WRITE places its bytes at their home and tells each mailbox whose window they enter; with an immediate it is a kick besides, which follows its payload to the sync word and is held then if it lies within 16 from
EXPECT. A READ returns the bytes of memory. The model's readings of the messages at the panel are log 35's. -/
def Obligations.HostTransfers : Prop :=
  (∀ s qp, PortOpen s qp → Completes (.invalidRequest qp) s (fun t => Replies s t (.nak qp 1)))
  ∧ (∀ s qp, PortOpen s qp → Completes (.ack qp) s (fun t => (NMap.get {} t.host.qps qp).sends = (NMap.get {} s.host.qps qp).sends - 1 ∧ t.mem = s.mem ∧ t.cur = s.cur ∧ t.host.out = s.host.out))
  ∧ (∀ s qp, PortOpen s qp → Completes (.congestionNotificationPacket qp) s (fun t => t.mem = s.mem ∧ t.cur = s.cur ∧ t.host.out = s.host.out
      ∧ (NMap.get {} t.host.qps qp).isOpen = true ∧ (NMap.get {} t.host.qps qp).key = (NMap.get {} s.host.qps qp).key))
  ∧ (∀ s qp key va data, PortOpen s qp → PanelRuns s → GoodMemory s → (NMap.get {} s.host.qps qp).rest = none →
    (key ≠ (NMap.get {} s.host.qps qp).key ∨ (Unmapped s va ∧ 0 < data.length ∧ s.mem.root % 256 = 0) →
      Completes (.rdmaWrite qp key va data) s (fun t => Sends s t (.nak qp 2) ∧ SameHomes s t ∧ SameVaults s t)
      ∧ ∀ imm, Completes (.rdmaWriteWithImmediate qp key va imm data) s (fun t => Sends s t (.nak qp 2) ∧ SameHomes s t ∧ SameVaults s t ∧ t.host.boxes = s.host.boxes))
    ∧ (key = (NMap.get {} s.host.qps qp).key → ∀ x q l, SpanAt s va data.length x q l → l.w = true →
      (s.host.boxes = [] → Completes (.rdmaWrite qp key va data) s (fun t => Sends s t (.ack qp) ∧ Wrote s t x q data ∧ t.fabric = s.fabric))
      ∧ ∀ k b, s.host.boxes = [(k, some b)] → b.wbase ≤ va → va + data.length ≤ b.wbase + b.wlen →
        Completes (.rdmaWrite qp key va data) s (fun t => Sends s t (.ack qp) ∧ Wrote s t x q data ∧ t.fabric.msgs = s.fabric.msgs ++ [.arrive b.swdie b.swkey data.length none])
        ∧ ∀ imm, Completes (.rdmaWriteWithImmediate qp key va imm data) s (fun t => Sends s t (.ack qp) ∧ Wrote s t x q data ∧ t.host.boxes = s.host.boxes
            ∧ t.fabric.msgs = s.fabric.msgs ++ [.arrive b.swdie b.swkey data.length (some (va, imm % 2 ^ 32))]))
    ∧ (key = (NMap.get {} s.host.qps qp).key → data = [] → ∀ k b, s.host.boxes = [(k, some b)] → b.wbase ≤ va → va < b.wbase + b.wlen → b.num = k → ∀ imm,
        ((imm % 2 ^ 32 + 2 ^ 32 - b.expect) % 2 ^ 32 ≤ 15 → Completes (.rdmaWriteWithImmediate qp key va imm data) s (fun t => Sends s t (.ack qp) ∧ t.mem = s.mem
            ∧ ∃ b', NMap.get none t.host.boxes k = some b' ∧ imm % 2 ^ 32 ∈ b'.kicks ∧ b'.expect = b.expect ∧ b'.pending = b.pending))
        ∧ (15 < (imm % 2 ^ 32 + 2 ^ 32 - b.expect) % 2 ^ 32 → Completes (.rdmaWriteWithImmediate qp key va imm data) s (fun t => Sends s t (.ack qp) ∧ t.mem = s.mem
            ∧ t.host.boxes = s.host.boxes ∧ Emitted s t 32768 { kind := 0x10, detail := 1, info := k }))))
  ∧ (∀ s k b va n, s.host.boxes = [(k, some b)] → b.num = k → b.kicks = [] → s.host.newkicks = [(va, n)] → b.wbase ≤ va → va < b.wbase + b.wlen → n < 2 ^ 32 →
      (n + 2 ^ 32 - b.expect) % 2 ^ 32 ≤ 15 → (b.expect < 2 ^ 32 ∧ n ≠ b.expect) → ∃ b', NMap.get none (settleBoxes s).host.boxes k = some b' ∧ n ∈ b'.kicks ∧ b'.expect = b.expect
        ∧ (settleBoxes s).host.newkicks = [])
  ∧ (∀ s qp key va n, PortOpen s qp → PanelRuns s → GoodMemory s → (NMap.get {} s.host.qps qp).rest = none → (NMap.get {} s.host.qps qp).get = [] →
    (key ≠ (NMap.get {} s.host.qps qp).key ∨ (Unmapped s va ∧ 0 < n ∧ s.mem.root % 256 = 0) →
      Completes (.rdmaRead qp key va n) s (fun t => Sends s t (.nak qp 2) ∧ SameHomes s t ∧ SameVaults s t))
    ∧ (key = (NMap.get {} s.host.qps qp).key → ∀ x q l, SpanAt s va n x q l → l.r = true → Completes (.rdmaRead qp key va n) s (fun t => SameHomes s t ∧ SameVaults s t
        ∧ Sends s t (.data qp ((List.range n).map (fun i => homeByte s x (q + i)))))))

/-- R387, R388, R393 to R396, R400, R401: a report, identity, telemetry, connection or power command is answered from stage 0 on, malformed ones with RESULT 2, refused ones with RESULT 1. A command of stage 2
before its stage is answered with RESULT 3 and does nothing. The report carries the nonce; telemetry hands over the records held; a P state sets the CAP, S1 and S2 are left only for one, S3 loses all that is not fused. The model's readings: which RESULT a bad operand has (log 34), how many
records one answer takes (log 31), what a power state keeps (logs 36 and 81). -/
def Obligations.HostReportsAndPower : Prop :=
  (∀ s i tag code, lateCommand i = some (tag, code) → NoneWaits s → s.host.stage = .zero ∨ s.host.stage = .refused → Completes i s (fun t => OnlyAnswers s t tag code 3))
  ∧ (∀ s tag, s.host.stage ≠ .off → NoneWaits s →
    (∀ nonce : List Byte, nonce.length ≠ 64 → Completes (.attestation tag nonce) s (fun t => OnlyAnswers s t tag 1 2))
    ∧ (∀ nonce : List Byte, nonce.length = 64 → Completes (.attestation tag nonce) s (fun t => ∃ b, Answered s t tag 1 0 b ∧ b.length = 1024 + 132 ∧ (∀ i, i < 64 → b.getD (8 + i) 0 = nonce.getD i 0)
        ∧ bytesVal (b.drop 1024).reverse = (Config.signature (b.take 1024)).toNat % 2 ^ 1056 ∧ t.mem = s.mem ∧ t.cur = s.cur ∧ t.dies = s.dies))
    ∧ Completes (.readIdentity tag) s (fun t => Answered s t tag 5 0 Config.identity ∧ t.mem = s.mem ∧ t.cur = s.cur ∧ t.dies = s.dies)
    ∧ ((s.evbuf.map (fun e => e.2.length)).sum ≤ 127 → Completes (.readTelemetry tag) s (fun t => Answered s t tag 4 0 ((s.evbuf.flatMap (fun e => e.2)).flatMap eventBytes)
        ∧ (∀ x, NMap.get [] t.evbuf x = []) ∧ t.evseq = s.evseq ∧ t.mem = s.mem ∧ t.cur = s.cur))
    ∧ (∀ qp, 4096 ≤ qp → Completes (.openConnection tag qp) s (fun t => OnlyAnswers s t tag 6 2))
    ∧ (∀ qp, qp < 4096 → qp ≠ 256 → Completes (.openConnection tag qp) s (fun t => (NMap.get {} t.host.qps qp).isOpen = true
        ∧ Answered s t tag 6 0 ((List.range 4).map (fun i => BitVec.ofNat 8 ((NMap.get {} t.host.qps qp).key / 2 ^ (8 * i)))) ∧ t.mem = s.mem ∧ t.cur = s.cur))
    ∧ (∀ r st, 16 ≤ r ∨ 7 ≤ st → Completes (.powerState tag r st) s (fun t => OnlyAnswers s t tag 2 2))
    ∧ (∀ r st, r < 16 → st < 4 → Completes (.powerState tag r st) s (fun t => Answered s t tag 2 0 [] ∧ t.mem = s.mem ∧ t.cur = s.cur
        ∧ region t r = { region s r with pstate := st, sstate := 0, cap := [2200, 1800, 1400, 1000].getD st 0 } ∧ ∀ q, q ≠ r → region t q = region s q))
    ∧ (∀ r st, r < 16 → st = 4 ∨ st = 5 → (region s r).sstate ≠ 0 → Completes (.powerState tag r st) s (fun t => OnlyAnswers s t tag 2 1))
    ∧ (∀ r, r < 16 → (region s r).sstate = 0 → Completes (.powerState tag r 4) s (fun t => Answered s t tag 2 0 [] ∧ t.mem = s.mem ∧ t.cur = s.cur ∧ region t r = { region s r with sstate := 1 }))
    ∧ (∀ r, r < 16 → (∃ b, b ∈ s.blocks ∧ b.status = .resident ∧ regionOf b.die = r) → Completes (.powerState tag r 5) s (fun t => OnlyAnswers s t tag 2 1))
    ∧ (∀ r, r < 16 → (region s r).sstate = 0 → (∀ b, b ∈ s.blocks → b.status = .resident → regionOf b.die ≠ r) → Completes (.powerState tag r 5) s (fun t => Answered s t tag 2 0 [] ∧ t.mem = s.mem ∧ t.cur = s.cur
        ∧ region t r = { region s r with sstate := 2 }
        ∧ (∀ d, regionOf d = r → (dieOf t d).active = [] ∧ (∀ q, NMap.get [] (dieOf t d).queues q = []) ∧ ownerOf t d = {})
        ∧ ∀ k, regionOf (k / 4608) = r → (cellOf t k).l1 = [] ∧ (cellOf t k).ic = [] ∧ (cellOf t k).utlb = []
            ∧ (cellOf t k).regq = [] ∧ (cellOf t k).wideq = []))
    ∧ (∀ r, r < 16 → Completes (.powerState tag r 6) s (fun t => t.host.stage = .off ∧ t.mem = {} ∧ t.cur = {} ∧ t.teams = [] ∧ t.blocks = [] ∧ t.launches = [] ∧ t.cells = []
        ∧ t.host.rollback = s.host.rollback ∧ ∀ d, (dieOf t d).colret = (dieOf s d).colret ∧ (dieOf t d).live = false))
    ∧ (∀ r cap w z, 16 ≤ r → Completes (.capAndStep tag r cap w z) s (fun t => OnlyAnswers s t tag 3 2))
    ∧ (∀ r cap w z, r < 16 → let top := capOf (region s r).pstate
      let good := 600 ≤ cap ∧ cap ≤ top ∧ 0 < w ∧ w < 2 ^ 16 ∧ z < 2 ^ 16
      (¬good → Completes (.capAndStep tag r cap w z) s (fun t => OnlyAnswers s t tag 3 1))
      ∧ (good → Completes (.capAndStep tag r cap w z) s (fun t => Answered s t tag 3 0 [] ∧ t.mem = s.mem ∧ t.cur = s.cur
          ∧ region t r = { region s r with cap := cap, window := w, step := z }))))

namespace Sys2Proof.Claims

/-- The one team that stands stopped with a CODE, in a block and a launch of an ID (R294, R311). -/
def StoppedTeam (s : State) (u : Team) (b : Block) (code : Nat) (x : TrapState) : Prop :=
  s.cur = u ∧ u.status = .stopped code ∧ u.stop = some x ∧ x.kind = .instr ∧ block? s u.blk = some b ∧ b.bid = u.blk ∧ b.pixel = false ∧ b.status = .resident
  ∧ (∀ v c, v ∈ s.teams → v.status ≠ .stopped c) ∧ ∀ v, v ∈ s.teams → v.tid ≠ u.tid
/-- The bytes of a mailbox descriptor (R389) that the host hands over. -/
def boxDesc (desc : List Byte) : Nat := valueOf desc.length (fun i => desc.getD i 0)

end Sys2Proof.Claims

/-- R307, R311, R387, R388: in stage 2 a command acts and is answered with RESULT 0, or is refused with RESULT 1. An append puts a descriptor at the end of a queue that is not full. A request for pre-emption
is accepted with its gang where there is room, and is answered then. A team stopped by a trap goes on at its instruction or after it, or its launch aborts with CODE `0x10`. Which RESULT a bad operand has is log 34's reading, and that a die in S2 refuses an append is log 81's. -/
def Obligations.HostSteersLaunches : Prop := ∀ s tag, StageTwo s →
  (∀ die q (desc : List Byte), desc.length ≠ 128 ∨ 64 ≤ q → Completes (.append tag die q desc) s (fun t => OnlyAnswers s t tag 0x10 2))
  ∧ (∀ die q (desc : List Byte), desc.length = 128 → q < 64 → let es := NMap.get [] (dieOf s die).queues q
    (isLive s die = false ∨ logicOn s die = false ∨ 256 ≤ es.length → Completes (.append tag die q desc) s (fun t => OnlyAnswers s t tag 0x10 1))
    ∧ (isLive s die = true → logicOn s die = true → es.length < 256 → Completes (.append tag die q desc) s (fun t => Answered s t tag 0x10 0 [] ∧ t.mem = s.mem ∧ t.cur = s.cur
        ∧ NMap.get [] (dieOf t die).queues q = es ++ [{ bits := BitVec.ofNat 1024 (boxDesc desc), priv := true }]
        ∧ ∀ d p, (d ≠ die ∨ p ≠ q) → NMap.get [] (dieOf t d).queues p = NMap.get [] (dieOf s d).queues p)))
  ∧ (∀ id index, (∀ b l, b ∈ s.blocks → launch? s b.lid = some l → l.d.id = id → l.status = .active → index ≠ none ∧ index ≠ some b.index) →
      Completes (.preEmpt tag id index) s (fun t => OnlyAnswers s t tag 0x11 1))
  ∧ (∀ b l, s.blocks = [b] → launch? s b.lid = some l → l.status = .active → l.d.stage ≠ 2 → b.status = .resident → preempting s b = false → gangBlocks s b.lid b.gang = [b] →
      saveRoom s b.die [b] = true → (∃ u, u ∈ teamsOf s b.bid ∧ u.status ≠ .ended) → Completes (.preEmpt tag l.d.id (some b.index)) s (fun t => Accepted s t b ∧ Answered s t tag 0x11 0 []))
  ∧ (∀ die id index team, (∀ u, u ∈ allTeams s → ∀ c, u.status ≠ .stopped c) →
      Completes (.replay tag die id index team) s (fun t => OnlyAnswers s t tag 0x12 1) ∧ Completes (.resume tag die id index team) s (fun t => OnlyAnswers s t tag 0x12 1)
      ∧ Completes (.endLaunch tag die id index team) s (fun t => OnlyAnswers s t tag 0x12 1))
  ∧ (∀ die u b l code x, StoppedTeam s u b code x → launch? s b.lid = some l →
    let back (t : State) : Prop := t.cur.status = .running ∧ t.cur.stop = none ∧ t.cur.tid = u.tid ∧ (∀ k, k < 1024 → k < u.width → (mreg t.cur 0).getLsbD k = (x.m0.getLsbD k && !u.dead.getLsbD k))
      ∧ (∀ n, sreg t.cur n = sreg u n) ∧ (∀ n k, vreg t.cur n k = vreg u n k) ∧ t.mem = s.mem ∧ Answered s t tag 0x12 0 []
    (code = 0x20 ∨ code = 0x21 → u.trapcause.getLsbD 16 = true → Completes (.replay tag die l.d.id b.index u.idx) s (fun t => back t
        ∧ t.cur.pc = x.pc ∧ t.cur.clause = x.clause.map (fun c => { c with pipe := none })))
    ∧ (code = 0x20 ∨ code = 0x21 → u.trapcause.getLsbD 16 = false → Completes (.replay tag die l.d.id b.index u.idx) s (fun t => OnlyAnswers s t tag 0x12 1))
    ∧ (code = 0x20 ∨ code = 0x21 → ∀ c, x.clause = some c → Completes (.resume tag die l.d.id b.index u.idx) s (fun t => back t
        ∧ (if c.idx + 1 < c.words.length then t.cur.clause = some { c with idx := c.idx + 1, pipe := none } ∧ t.cur.pc = x.pc
           else t.cur.clause = none ∧ t.cur.pc = nextHeader c % 2 ^ 64)))
    ∧ (code ≠ 0x20 → code ≠ 0x21 → Completes (.resume tag die l.d.id b.index u.idx) s (fun t => OnlyAnswers s t tag 0x12 1))
    ∧ (l.status = .active → l.lid = b.lid → Completes (.endLaunch tag die l.d.id b.index u.idx) s (fun t => Answered s t tag 0x12 0 []
        ∧ (∃ l', launch? t b.lid = some l' ∧ l'.status = .aborted 0x10) ∧ (∀ c, c ∈ t.blocks → c.lid ≠ b.lid)
        ∧ t.statusq = s.statusq ++ [{ lid := b.lid, state := 3, code := 0x10 }] ∧ t.mem = s.mem)))

/-- R276, R281, R283, R306, R349, R351, R380, R389, R390: in stage 2 the host registers and drops mailboxes, arming a registered one's sync word; defines a set of members; changes the root and drops every
translation; gives a die its save area; drains a cell; drops, halts and releases a die; and sets the scrubbers' period. Bad operands are malformed, RESULT 2, or refused, RESULT 1 (log 34: the model's
reading). So are the members' order (log 13) and the retirement of a cell that drains already (log 32). -/
def Obligations.HostConfiguresPanel : Prop := ∀ s tag, StageTwo s →
  (∀ desc : List Byte, (desc.length ≠ 64 → Completes (.registerMailbox tag desc) s (fun t => OnlyAnswers s t tag 0x13 2))
    ∧ (desc.length = 64 → boxOf (boxDesc desc) = none → Completes (.registerMailbox tag desc) s (fun t => OnlyAnswers s t tag 0x13 1))
    ∧ (desc.length = 64 → ∀ b, boxOf (boxDesc desc) = some b → let w := bitsOf (boxDesc desc) 319 288
      (isLive s b.swdie = false ∨ w < 2 ^ 31 ∨ (∃ c, c ∈ boxesOf s ∧ c.num ≠ b.num ∧ c.wbase < b.wbase + b.wlen ∧ b.wbase < c.wbase + c.wlen ∧ 0 < c.wlen) →
        Completes (.registerMailbox tag desc) s (fun t => OnlyAnswers s t tag 0x13 1))
      ∧ ∀ k, isLive s b.swdie = true → s.host.boxes = [] → 2 ^ 31 ≤ w → vaultKey s {} b.swdie 0 w 16 = some k → CleanMemory s →
        Completes (.registerMailbox tag desc) s (fun t => Answered s t tag 0x13 0 [] ∧ (∃ b', NMap.get none t.host.boxes b.num = some b' ∧ b'.swkey = k ∧ b'.pending = 0 ∧ b'.kicks = []
              ∧ b'.expect = b.expect ∧ b'.wbase = b.wbase ∧ b'.wlen = b.wlen ∧ b'.g0 = swField (vaultObject s k) 2)
          ∧ OnlyObject s t k ∧ swField (vaultObject t k) 0 = b.target ∧ t.cur = s.cur)))
  ∧ (∀ n, (NMap.get none s.host.boxes n = none → Completes (.unregisterMailbox tag n) s (fun t => OnlyAnswers s t tag 0x14 1))
    ∧ (NMap.get none s.host.boxes n ≠ none → Completes (.unregisterMailbox tag n) s (fun t => Answered s t tag 0x14 0 [] ∧ NMap.get none t.host.boxes n = none ∧ t.mem = s.mem ∧ t.cur = s.cur)))
  ∧ (∀ k mask bases caps, let ms := membersOf s mask
    (255 ≤ k ∨ bases.length ≠ ms.length ∨ caps.length ≠ ms.length ∨ (∃ b, b ∈ bases ∧ b % 128 ≠ 0) →
      Completes (.defineInterleaveSet tag k mask bases caps) s (fun t => OnlyAnswers s t tag 0x15 2))
    ∧ (k < 255 → bases.length = ms.length → caps.length = ms.length → (∀ b, b ∈ bases → b % 128 = 0) →
      (ms = [] ∨ (∃ j, j < ms.length ∧ (64000000000 < bases.getD j 0 + caps.getD j 0 ∨ caps.getD j 0 % 128 ≠ 0)) →
        Completes (.defineInterleaveSet tag k mask bases caps) s (fun t => OnlyAnswers s t tag 0x15 1))
      ∧ (ms ≠ [] → (∀ j, j < ms.length → bases.getD j 0 + caps.getD j 0 ≤ 64000000000 ∧ caps.getD j 0 % 128 = 0) →
        Completes (.defineInterleaveSet tag k mask bases caps) s (fun t => Answered s t tag 0x15 0 []
          ∧ (∃ st, NMap.get none t.mem.sets k = some st ∧ st.members = ms ∧ st.bases = bases ∧ st.caps = caps ∧ st.broken = false)
          ∧ (∀ j, j ≠ k → NMap.get none t.mem.sets j = NMap.get none s.mem.sets j) ∧ SameHomes s t ∧ SameVaults s t ∧ t.cur = s.cur))))
  ∧ (∀ root, (root % 256 ≠ 0 ∨ 2 ^ 52 ≤ root → Completes (.translationRoot tag root) s (fun t => OnlyAnswers s t tag 0x16 2))
    ∧ (root % 256 = 0 → root < 2 ^ 52 → Completes (.translationRoot tag root) s (fun t => Answered s t tag 0x16 0 [] ∧ t.mem = { s.mem with root := root }
        ∧ (∀ k, (cellOf t k).utlb = [] ∧ (cellOf t k).l1 = (cellOf s k).l1) ∧ (∀ k, NMap.get [] t.ctlb k = []) ∧ ∀ d, (dieOf t d).wcache = [] ∧ (dieOf t d).walking = [])))
  ∧ (∀ d base size, (isLive s d = false → Completes (.saveArea tag d base size) s (fun t => OnlyAnswers s t tag 0x17 1))
    ∧ (isLive s d = true → s.blocks = [] → Completes (.saveArea tag d base size) s (fun t => Answered s t tag 0x17 0 [] ∧ (dieOf t d).savebase = base ∧ (dieOf t d).savecap = size
        ∧ (∀ e, e ≠ d → dieOf t e = dieOf s e) ∧ t.mem = s.mem ∧ t.cur = s.cur)))
  ∧ (∀ d c, (cellLive s d c = false ∨ (cellOf s (4608 * d + c)).drain = true → Completes (.retireCell tag d c) s (fun t => OnlyAnswers s t tag 0x18 1))
    ∧ (cellLive s d c = true → (cellOf s (4608 * d + c)).drain = false → Completes (.retireCell tag d c) s (fun t => Answered s t tag 0x18 0 [] ∧ (cellOf t (4608 * d + c)).drain = true
        ∧ (∀ b', b' ∈ t.blocks → b'.status = .resident → b'.die = d → b'.cell = c → b'.preempt = true) ∧ t.mem = s.mem ∧ t.cur = s.cur)))
  ∧ (∀ d, (144 ≤ d ∨ (dieOf s d).dropped = true → Completes (.dropDie tag d) s (fun t => OnlyAnswers s t tag 0x19 1))
    ∧ (d < 144 → (dieOf s d).dropped = false → Completes (.dropDie tag d) s (fun t => Answered s t tag 0x19 0 [] ∧ (dieOf t d).dropped = true ∧ isLive t d = false)))
  ∧ (∀ d, isLive s d = false → Completes (.haltDie tag d) s (fun t => OnlyAnswers s t tag 0x1A 1) ∧ Completes (.releaseDie tag d) s (fun t => OnlyAnswers s t tag 0x1A 1))
  ∧ (∀ d, isLive s d = true → (dieOf s d).halted = false → (dieOf s d).halting = false → Completes (.haltDie tag d) s (fun t => Answered s t tag 0x1A 0 [] ∧ HaltStarts s t d ∧ t.cur = s.cur ∧ t.mem = s.mem))
  ∧ (∀ d, isLive s d = true → (dieOf s d).halted = true → Completes (.releaseDie tag d) s (fun t => Answered s t tag 0x1A 0 [] ∧ HaltEnds s t d ∧ t.cur = s.cur))
  ∧ (∀ n, (n = 0 → Completes (.patrolPeriod tag n) s (fun t => OnlyAnswers s t tag 0x1B 2))
    ∧ (0 < n → Completes (.patrolPeriod tag n) s (fun t => Answered s t tag 0x1B 0 [] ∧ (∀ x, x < 144 → (siteOf t x).period = n) ∧ SameHomes s t ∧ SameVaults s t ∧ t.cur = s.cur)))

namespace Sys2Proof.Claims

/-! ## Poison and the death of lanes (R362 to R368) -/

/-- The lanes of D that live until then die (R21, R363, R366): they leave m0 and every stacked mask, the launch counts them, and each has one record of
kind 0x02 from the die. -/
def LanesDie (s t : State) (D : Nat → Bool) (pc : Option Nat) : Prop :=
  let gone := (List.range (min s.cur.width 1024)).filter (fun l => D l && !s.cur.dead.getLsbD l)
  let src := s.cur.die * 64
  (∀ l, l < 1024 → t.cur.dead.getLsbD l = (s.cur.dead.getLsbD l || gone.contains l))
  ∧ (∀ l, l < s.cur.width → (mreg t.cur 0).getLsbD l = ((mreg s.cur 0).getLsbD l && !gone.contains l))
  ∧ (∀ k, k ≠ 0 → mreg t.cur k = mreg s.cur k)
  ∧ t.cur.r.stack.length = s.cur.r.stack.length
  ∧ (∀ e, e ∈ t.cur.r.stack → ∀ l, l ∈ gone → e.saved.getLsbD l = false ∧ e.pending.getLsbD l = false)
  ∧ (gone ≠ [] → NMap.get 0 t.evseq src = (NMap.get 0 s.evseq src + gone.length) % 2 ^ 48
      ∧ ((launch? s (curBlock s).lid).isSome = true → (curLaunch t).dead = min (2 ^ 32 - 1) ((curLaunch s).dead + gone.length)))
  ∧ ((NMap.get [] s.evbuf src).length + gone.length ≤ 256 → ∀ l, l ∈ gone → ∃ e, e ∈ NMap.get [] t.evbuf src ∧ e.kind = 2 ∧ e.src = src ∧ e.info = l
      ∧ e.launch = (curLaunch s).d.id ∧ ∀ x, pc = some x → e.addr = x)

/-- The checks of R99 let an instruction through. -/
def Reaches (i : Instr) (s : State) (c : Clause) : Prop :=
  running s = some c ∧ issueIllegal s i c = none ∧ issueOther s.cur (chk (curLaunch s).d.stage i) = none ∧ interlocked s.cur i = false ∧ flagFree s i = true

/-- The instructions each of whose results depends on both sources. -/
def bothSources : Instr → Option VR
  | .vAdd f | .vSub f | .vMul f | .vMulh f | .vMin f | .vMax f | .vAnd f | .vOr f | .vXor f | .vAndn f => some f
  | _ => none
/-- The lane words that a lane reads of the two sources, by key (R28, R46). -/
def wordsRead (t : Team) (f : VR) (l : Nat) : List Nat :=
  [srcF f.a, srcF f.b].flatMap (fun x => match readp t x.reg l x.pat x.k with
    | some k => if width f.ty.toNat = 64 then [k, k + 1024] else [k]
    | none => [])
def isPoisoned (t : Team) (k : Nat) : Bool := NMap.get false t.r.vpois k
def isLatent (t : Team) (k : Nat) : Bool := NMap.get false t.r.vlat k
/-- An unprotected team whose registers hold no error to be found and no absent granule, and none of whose poison lay in its cell's storage. -/
def OnlyPoison (s : State) : Prop :=
  s.cur.sh = none ∧ s.cur.r.vbad = [] ∧ s.cur.r.vown = [] ∧ s.cur.absent = [] ∧ s.found = [] ∧ s.cur.dying = []
/-- The register words that a rule writes. -/
def writesWord (t : Team) (r : LaneRule) (D : Nat → Bool) (n l : Nat) : Bool :=
  acts t r.pred l && !D l && (n == r.vd || (r.wide && n == r.vd + 1))
/-- The team but its vectors, place, dead lanes, m0 and stacked masks. -/
def beyondDeaths (t : Team) : Team :=
  let u := beyondVectors t
  { u with dead := 0, handler := none, r := { u.r with msk := [], sbad := [], stack := [] } }

/-- A lane that consumes poison at an instruction with two sources dies there and writes nothing; the others' results are whole, and their words' poison goes. -/
def LanesConsume : Prop := ∀ i s c f r, Issues i s c → bothSources i = some f → laneRule s.cur i = some r → OnlyPoison s →
  let D (l : Nat) : Bool := acts s.cur r.pred l && (wordsRead s.cur f l).any (isPoisoned s.cur)
  Completes i s (fun t =>
    (∀ l, l < 1024 → acts s.cur r.pred l = true → D l = false → vreg t.cur r.vd l = BitVec.ofNat 32 (r.val l).toNat
      ∧ (r.wide = true → vreg t.cur (r.vd + 1) l = BitVec.ofNat 32 ((r.val l).toNat / 2 ^ 32)))
    ∧ (∀ n l, l < 1024 → if writesWord s.cur r D n l then isPoisoned t.cur (1024 * n + l) = false
        else vreg t.cur n l = vreg s.cur n l ∧ isPoisoned t.cur (1024 * n + l) = isPoisoned s.cur (1024 * n + l))
    ∧ LanesDie s t D (some (c.hdr + 8 * (c.idx + 1))) ∧ GoesOn c s.cur t.cur ∧ beyondDeaths t.cur = beyondDeaths s.cur ∧ SameBytes s t ∧ t.teams = s.teams)

/-- The lanes whose data or offset words are poisoned at an access. -/
def accessDies (t : Team) (i : Instr) (l : Nat) : Bool := acts t 0 l && (vectorReads 0 i).any (fun n => isPoisoned t (1024 * n + l))
/-- A lane whose data or offset is poisoned dies at an access, which does not leave the cell for it. -/
def AccessesConsume : Prop := ∀ i s c x, Issues i s c → accessOf s.cur i = some x → x.lines = false → OnlyPoison s →
  (∀ l, l ∈ accessLanes s.cur x → accessDies s.cur i l = false → accessFault s x l = none ∧ (accessPlace s x l).isSome) →
  Completes i s (fun t => (∃ pre o post, t.cur.ops = s.cur.ops ++ pre ++ o :: post ∧ o.i = i ∧ o.acc = (accesses s x).filter (fun a => !accessDies s.cur i a.lane))
    ∧ LanesDie s t (accessDies s.cur i) (some (c.hdr + 8 * (c.idx + 1))) ∧ Raised s t x.f.fs ∧ GoesOn c s.cur t.cur ∧ (∀ n l, vreg t.cur n l = vreg s.cur n l) ∧ t.mem = s.mem)

/-- An error found in a word of a granule that is read, whose lane no acting lane receives, makes the word latent and kills nothing. -/
def LatentStays : Prop := ∀ i s c f r k, Issues i s c → bothSources i = some f → laneRule s.cur i = some r → s.cur.sh = none → s.cur.r.vpois = [] → s.cur.absent = [] →
  s.found = [] → s.cur.dying = [] → s.cur.r.vbad = [(k, some .uncorrectable)] →
  (∃ l w, l < 1024 ∧ acts s.cur r.pred l = true ∧ w ∈ wordsRead s.cur f l ∧ w / 32 = k / 32) → (∀ l, l < 1024 → acts s.cur r.pred l = true → k ∉ wordsRead s.cur f l) →
  writesWord s.cur r (fun _ => false) (k / 1024) (k % 1024) = false →
  Completes i s (fun t => LaneOutcome s t r ∧ t.cur.dead = s.cur.dead ∧ (∀ n, mreg t.cur n = mreg s.cur n) ∧ isPoisoned t.cur k = true ∧ isLatent t.cur k = true
    ∧ Emitted s t (s.cur.die * 64) { kind := 3, launch := (curLaunch s).d.id, info := k % 1024 }
    ∧ (cellOf t (ckey s.cur.die (laneCell s.cur (k % 1024)))).nue = (cellOf s (ckey s.cur.die (laneCell s.cur (k % 1024)))).nue + 1 ∧ GoesOn c s.cur t.cur ∧ t.mem = s.mem)

/-- What a load or atomic brings, poison included, goes to both copies of the team, and kills no lane (R363, R372). -/
def LoadsBringPoison : Prop := ∀ s id o x vd k ls, Stands s id o → accessOf s.cur o.i = some x → o.acc.all (·.done) = true → o.kills = [] → o.killAll = false →
  s.cur.absent = [] → s.cur.dying = [] → delivered s o = some (vd, k, ls) → (∀ l, l ∈ ls → l.1 < 1024) →
  Completes (.longLatencyCompletion s.cur.tid id) s (fun t =>
    (∀ l y j, (l, y) ∈ ls → j < k → isPoisoned t.cur (1024 * (vd + j) + l) = o.pois.contains l
      ∧ (l ∉ o.pois → vreg t.cur (vd + j) l = BitVec.ofNat 32 (y / 2 ^ (32 * j))))
    ∧ (∀ h, s.cur.sh = some h → ∃ g, t.cur.sh = some g ∧ ∀ l y j, (l, y) ∈ ls → j < k → NMap.get false g.vpois (1024 * (vd + j) + l) = o.pois.contains l
        ∧ (l ∉ o.pois → g.vget (vd + j) l = BitVec.ofNat 32 (y / 2 ^ (32 * j))))
    ∧ t.cur.dead = s.cur.dead ∧ t.mem = s.mem)

/-- A lane's read of a vault brings the poison of the words that it touches; its write clears that of the words that it covers whole, and no other (R362). -/
def VaultPoison : Prop := ∀ s id k o a, Stands s id o → (stepGroups s o)[k]? = some [a] → s.mem.vbad = [] →
  (∀ f, o.i = .lds f → Completes (.homeRequest s.cur.tid id k) s (fun t => t.mem = s.mem ∧ t.cur.dead = s.cur.dead
    ∧ ∃ p, p ∈ t.cur.ops ∧ p.id = id ∧ (a.lane ∈ p.pois ↔ a.lane ∈ o.pois ∨ ∃ j, j < sizeOfWidth f.width.toNat ∧ NMap.get false s.mem.vpois ((a.pa + j) / 16) = true)))
  ∧ (∀ f, o.i = .sts f → Completes (.homeRequest s.cur.tid id k) s (fun t =>
      ∀ w, NMap.get false t.mem.vpois w = (NMap.get false s.mem.vpois w && !(decide (a.pa ≤ 16 * w) && decide (16 * w + 16 ≤ a.pa + a.data.length)))))

/-- A scalar register found uncorrectable kills every live lane of the team at the instruction that reads it, which takes no effect (R364). -/
def TeamStateKills : Prop := ∀ i s c n, Reaches i s c → s.cur.sh = none → s.cur.r.sbad = [(n, some .uncorrectable)] → n ∈ scalarReads i → s.cur.dying = [] →
  Completes i s (fun t => LanesDie s t (fun _ => true) (some (c.hdr + 8 * (c.idx + 1))) ∧ (∀ k, sreg t.cur k = sreg s.cur k) ∧ (∀ k l, vreg t.cur k l = vreg s.cur k l)
    ∧ t.cur.ops = s.cur.ops ∧ t.cur.flags = s.cur.flags ∧ GoesOn c s.cur t.cur ∧ t.mem = s.mem ∧ t.teams = s.teams)

/-- The lanes that a lost member has doomed act until the clause's end, and die there (R365). -/
def DoomedLanesDie : Prop := ∀ i s c d x, Issues i s c → scalarWrite (sreg s.cur) i = some (d, x) →
  if c.idx + 1 < c.words.length then
    Completes i s (fun t => t.cur.dying = s.cur.dying ∧ t.cur.dead = s.cur.dead ∧ (∀ k, mreg t.cur k = mreg s.cur k) ∧ sreg t.cur d = reads d x)
  else Completes i s (fun t => t.cur.dying = [] ∧ LanesDie s t (fun l => s.cur.dying.any (fun e => e.1 == l)) none ∧ sreg t.cur d = reads d x ∧ t.mem = s.mem)

end Sys2Proof.Claims

/-- R362 to R368: poison comes with what a load or a vault read brings, kills nothing there, and goes where a word is written whole. A lane that reads it at an integer instruction with two
sources, or whose data or offset it is at an access, dies there: the instruction acts without it. An error in a lane word that no lane receives is latent. A scalar register found
uncorrectable kills the team's live lanes at once; lanes that a lost member has doomed die at the next clause boundary. -/
def Obligations.PoisonKills : Prop := LanesConsume ∧ AccessesConsume ∧ LatentStays ∧ LoadsBringPoison ∧ VaultPoison ∧ TeamStateKills ∧ DoomedLanesDie

namespace Sys2Proof.Claims

/-! ## Protected teams (R372 to R377) -/

/-- A copy of the registers holds no error to be found (R361). -/
def NoErrors (r : Regs) : Prop :=
  r.sbad = [] ∧ r.vbad = [] ∧ (∀ n x, NMap.get none r.tile n = some x → x.bad = []) ∧ ∀ n x, NMap.get none r.wide n = some x → x.bad = []

/-- A compared instruction of a protected team is reached, and no copy holds an error to be found; b is the team's block. -/
def Compares (i : Instr) (s : State) (c : Clause) (h : Regs) (b : Block) : Prop :=
  Reaches i s c ∧ compared i = true ∧ s.cur.sh = some h ∧ NoErrors s.cur.r ∧ NoErrors h ∧ s.cur.dying = [] ∧ block? s s.cur.blk = some b

/-- A lane shows different values in two copies at an access (R373): its active bit, its address or its data. -/
def LaneApart (i : Instr) (t u : Team) (l : Nat) : Prop :=
  acts t 0 l ≠ acts u 0 l ∨ (acts t 0 l = true ∧ ∃ x y, accessOf t i = some x ∧ accessOf u i = some y ∧ (accessAddr t x l ≠ accessAddr u y l ∨ x.data l ≠ y.data l))
/-- The operand of an instruction that acts once for the team: the lowest active lane's. -/
def teamOperand (t : Team) (i : Instr) : List Nat := match lowest t with
  | none => []
  | some l => match i with
    | .swArm f | .swAdd f => [(vreg t f.vd.toNat l).toNat]
    | .qInit f => [(vreg t f.vd.toNat l).toNat, (vreg t (f.vd.toNat + 1) l).toNat]
    | .qPush f => [(vreg t f.vd.toNat l).toNat % 2 ^ 16]
    | _ => []
/-- Two copies show different values at a compared instruction (R373): a scalar operand, a lane's active bit, address or data, the operand of the team, the payload of a
barrier, the four words of `g.out`, an element of an accumulator tile in a row that `mx.st` stores. -/
def CopiesApart (i : Instr) (t u : Team) : Prop :=
  (∃ n, n ∈ scalarReads i ∧ sreg t n ≠ sreg u n)
  ∨ (∃ l, l < t.width ∧ LaneApart i t u l ∧ ∀ f, i ≠ .gOut f)
  ∨ teamOperand t i ≠ teamOperand u i
  ∨ (∃ f, (i = .bar f ∨ i = .barArr f ∨ i = .gbar f) ∧ contributed t f ≠ contributed u f)
  ∨ (∃ f l, i = .gOut f ∧ l < t.width ∧ (acts t f.pred.toNat l ≠ acts u f.pred.toNat l ∨ (acts t f.pred.toNat l = true ∧ four t f.va.toNat l ≠ four u f.va.toNat l)))
  ∨ (∃ f x y e, i = .mxSt f ∧ f.td.toNat < 8 ∧ accTile t f.td.toNat = some x ∧ accTile u f.td.toNat = some y ∧ x.base = y.base ∧ e ∈ x.el ∧ e ∉ y.el
      ∧ e.1 / 16 ∈ execRows t f.td.toNat)

/-- The two copies hold the same. -/
def Alike (t : Team) (h : Regs) : Prop :=
  (∀ n, sreg t n = h.sget n) ∧ (∀ k, mreg t k = h.mget k) ∧ (∀ n l, vreg t n l = h.vget n l) ∧ t.r.tile = h.tile ∧ t.r.wide = h.wide
/-- The block holds this instruction of this team from an earlier mismatch. -/
def HeldHere (s : State) (b : Block) (x : HeldCmp) : Prop := b.held = some x ∧ x.team = s.cur.idx ∧ x.seq = s.cur.pseq
def NotHeld (s : State) (b : Block) : Prop := ∀ x, ¬HeldHere s b x
def ofGang (b x : Block) : Bool := x.lid == b.lid && x.gang == b.gang
/-- The holding team stops, and the blocks of the gang are to re-run (R375). -/
def StopsForRerun (s t : State) (b : Block) : Prop :=
  t.cur = { stallTeam s.cur with status := .held } ∧ t.teams = s.teams ∧ t.mem = s.mem ∧ t.fabric = s.fabric
  ∧ Emitted s t (s.cur.die * 64) { kind := 8, launch := (curLaunch s).d.id }
  ∧ ∀ x, x ∈ s.blocks → ∃ y, block? t x.bid = some y ∧ y.wantrun = (x.wantrun || ofGang b x) ∧ (x.bid ≠ b.bid → y.held = x.held)
/-- The launch aborts as uncorrectable (R375). -/
def Uncorrectable (s t : State) (b : Block) : Prop :=
  (∃ l, launch? t b.lid = some l ∧ l.status = .aborted 0x11) ∧ t.statusq = s.statusq ++ [{ lid := b.lid, state := 3, code := 0x11 }] ∧ (∀ x, x ∈ t.blocks → x.lid ≠ b.lid)
  ∧ Emitted s t (s.cur.die * 64) { kind := 9, launch := (curLaunch s).d.id } ∧ t.mem = s.mem ∧ t.fabric = s.fabric
/-- The re-run has not reached the instruction's recorded position (R375). -/
def Again (t : Team) : Prop := ∃ k, t.rerun = some k ∧ t.pseq < k

end Sys2Proof.Claims

/-- R372 to R377: at a compared instruction the copies of a protected team that show different values stop the block: nothing is performed, the candidates are kept, the gang re-runs, with a record of kind `0x08`;
a full log or a third re-run gives Protected Mismatch in its place. Where they agree, the instruction is performed once and numbered; below the recorded position of a re-run one that acts outside the block's own vault performs
nothing and takes its result from the log. At the held instruction copies that agree with a candidate perform it, and any others abort the launch with CODE `0x11` and a record of kind `0x09`. An error
found in one copy only stops the block with nothing held. -/
def Obligations.ProtectedTeamsCompare : Prop :=
  (∀ i s c h b, Compares i s c h b → CopiesApart i s.cur (copyOf s.cur h) → NotHeld s b → (s.blocks.map (·.bid)).Nodup →
    (b.nlog < 16384 → b.reruns < 3 → Completes i s (fun t => StopsForRerun s t b ∧ t.cells = s.cells
      ∧ ∃ y, block? t b.bid = some y ∧ (∀ x, b.held = some x → y.held = some x)
        ∧ (b.held = none → ∃ x, y.held = some x ∧ x.team = s.cur.idx ∧ x.seq = s.cur.pseq ∧ x.p ≠ x.h ∧ x.p = cmpAll i s.cur ∧ x.h = cmpAll i (copyOf s.cur h))))
    ∧ (16384 ≤ b.nlog ∨ 3 ≤ b.reruns → ∀ x, accessOf s.cur i = some x → (∀ n, n ∈ scalarReads i → sreg s.cur n = h.sget n) →
        ∃ l s', l < s.cur.width ∧ LaneApart i s.cur (copyOf s.cur h) l ∧ (∀ k, k < l → ¬LaneApart i s.cur (copyOf s.cur h) k)
          ∧ Emitted s s' (s.cur.die * 64) { kind := 8, launch := (curLaunch s).d.id } ∧ s'.cur = s.cur ∧ s'.mem = s.mem ∧ s'.blocks = s.blocks ∧ s'.launches = s.launches
          ∧ ∃ a, (acts s.cur 0 l = true → a = accessAddr s.cur x l)
            ∧ exec i s = .next (takeTrap s' (c.hdr + 8 * (c.idx + 1)) { cause := 0x13, detail := if 16384 ≤ b.nlog then 1 else 2, addr := a, lane := some l } .instr)))
  ∧ (∀ i s c h b x, Compares i s c h b → Alike s.cur h → accessOf s.cur i = some x → CleanVectors s.cur →
    (∀ l, l ∈ accessLanes s.cur x → accessFault s x l = none ∧ (accessPlace s x l).isSome) →
    (∃ y, HeldHere s b y ∧ (y.p = cmpAll i s.cur ∨ y.h = cmpAll i s.cur)) ∨ (NotHeld s b ∧ (¬Again s.cur ∨ (x.vault = true ∧ ∀ l, l ∈ accessLanes s.cur x → accessAddr s.cur x l < 2 ^ 31))) →
    Completes i s (fun t => (∃ pre o post, t.cur.ops = s.cur.ops ++ pre ++ o :: post ∧ StandsFor s c i x.f.fs x.f.stream.toNat x.f.scope.toNat o ∧ o.acc = accesses s x ∧ o.pseq = some s.cur.pseq)
      ∧ t.cur.pseq = s.cur.pseq + 1 ∧ Raised s t x.f.fs ∧ GoesOn c s.cur t.cur ∧ beyondOps { t.cur with pseq := s.cur.pseq } = beyondOps s.cur ∧ t.mem = s.mem
      ∧ ∃ y, block? t b.bid = some y ∧ ((∃ z, HeldHere s b z) → y.held = none) ∧ (NotHeld s b → y.held = b.held)))
  ∧ (∀ i s c h b x, Compares i s c h b → Alike s.cur h → accessOf s.cur i = some x → NotHeld s b → Again s.cur →
    x.vault = false ∨ (∃ l, l ∈ accessLanes s.cur x ∧ 2 ^ 31 ≤ accessAddr s.cur x l) →
    Completes i s (fun t => t.cur.ops = s.cur.ops ∧ t.cur.flags = s.cur.flags ∧ t.cur.pseq = s.cur.pseq + 1 ∧ GoesOn c s.cur t.cur ∧ t.mem = s.mem ∧ t.fabric = s.fabric ∧ t.blocks = s.blocks
      ∧ ∀ e, b.log.find? (fun e => e.1 == s.cur.idx && e.2.1 == s.cur.pseq) = some e → (e.2.2.map (·.1)).Nodup → ∀ w, w ∈ e.2.2 → w.2 < 2 ^ 32 →
          NMap.get 0 t.cur.r.v w.1 = BitVec.ofNat 32 w.2 ∧ ∃ g, t.cur.sh = some g ∧ NMap.get 0 g.v w.1 = BitVec.ofNat 32 w.2))
  ∧ (∀ i s c h b y l, Compares i s c h b → HeldHere s b y → launch? s b.lid = some l → l.status = .active → l.lid = b.lid →
    CopiesApart i s.cur (copyOf s.cur h) ∨ (Alike s.cur h ∧ y.p ≠ cmpAll i s.cur ∧ y.h ≠ cmpAll i s.cur) →
    Completes i s (fun t => Uncorrectable s t b))
  ∧ (∀ i s c h b n, Reaches i s c → s.cur.sh = some h → block? s s.cur.blk = some b → (s.blocks.map (·.bid)).Nodup → s.cur.r.sbad = [(n, some .uncorrectable)] → n ∈ scalarReads i → s.cur.r.vbad = [] →
    (∀ k x, NMap.get none s.cur.r.tile k = some x → x.bad = []) → (∀ k x, NMap.get none s.cur.r.wide k = some x → x.bad = []) → NoErrors h → b.nlog < 16384 → b.reruns < 3 →
    Completes i s (fun t => StopsForRerun s t b ∧ (∃ y, block? t b.bid = some y ∧ y.held = b.held)
      ∧ (cellOf t (ckey s.cur.die s.cur.cell)).nue = (cellOf s (ckey s.cur.die s.cur.cell)).nue + 1))
end

