-- ==== Sys2Proof/Laws/Maps.lean ====
section
/-! SUPPORT. What sparse maps do: reading after a write, and that every update keeps the canonical form. -/

namespace Sys2Proof.Machine

variable {α : Type}

theorem NMap.above_le {a b : Nat} (h : a ≤ b) : (m : NMap α) → NMap.above b m = true → NMap.above a m = true
  | [], _ => rfl
  | (j, y) :: t, hm => by
    simp only [NMap.above, Bool.and_eq_true, decide_eq_true_eq] at hm ⊢
    exact ⟨by omega, hm.2⟩

theorem NMap.sorted_of_above {b : Nat} : (m : NMap α) → NMap.above b m = true → NMap.sorted m = true
  | [], _ => rfl
  | (_, _) :: _, h => by
    simp only [NMap.above, Bool.and_eq_true] at h
    simpa [NMap.sorted] using h.2

theorem NMap.find?_above {b k : Nat} (hk : k ≤ b) : (m : NMap α) → NMap.above b m = true → NMap.find? m k = none
  | [], _ => rfl
  | (j, y) :: t, h => by
    simp only [NMap.above, Bool.and_eq_true, decide_eq_true_eq] at h
    have hj : ¬ j = k := by omega
    simp only [NMap.find?, hj, if_false]
    exact NMap.find?_above (by omega) t h.2

/-- A read after listing a value at the same key gives it. -/
theorem NMap.find?_put_same (k : Nat) (x : α) : (m : NMap α) → NMap.find? (NMap.put k x m) k = some x
  | [] => by simp [NMap.put, NMap.find?]
  | (j, y) :: t => by
    unfold NMap.put
    split
    · simp [NMap.find?]
    · split
      · simp [NMap.find?]
      · rename_i h
        simp [NMap.find?, h, NMap.find?_put_same k x t]

/-- Listing a value leaves every other key alone. -/
theorem NMap.find?_put_other {k n : Nat} (h : n ≠ k) (x : α) : (m : NMap α) → NMap.find? (NMap.put k x m) n = NMap.find? m n
  | [] => by simp [NMap.put, NMap.find?, Ne.symm h]
  | (j, y) :: t => by
    unfold NMap.put
    split
    · simp [NMap.find?, Ne.symm h]
    · split
      · rename_i hj
        subst hj
        simp [NMap.find?, Ne.symm h]
      · simp only [NMap.find?, NMap.find?_put_other h x t]

theorem NMap.del_cons (k : Nat) (e : Nat × α) (t : NMap α) :
    NMap.del k (e :: t) = if e.1 = k then NMap.del k t else e :: NMap.del k t := by
  unfold NMap.del
  by_cases h : e.1 = k <;> simp [h]

/-- A dropped key is not listed. -/
theorem NMap.find?_del_same (k : Nat) : (m : NMap α) → NMap.find? (NMap.del k m) k = none
  | [] => rfl
  | (j, y) :: t => by
    rw [NMap.del_cons]
    split
    · exact NMap.find?_del_same k t
    · rename_i h
      simp only [NMap.find?]
      rw [if_neg h]
      exact NMap.find?_del_same k t

/-- Dropping a key leaves every other key alone. -/
theorem NMap.find?_del_other {k n : Nat} (h : n ≠ k) : (m : NMap α) → NMap.find? (NMap.del k m) n = NMap.find? m n
  | [] => rfl
  | (j, y) :: t => by
    rw [NMap.del_cons]
    split
    · rename_i hj
      simp only at hj
      subst hj
      simp only [NMap.find?, if_neg (Ne.symm h)]
      exact NMap.find?_del_other h t
    · simp only [NMap.find?, NMap.find?_del_other h t]

/-- A read after a write to the same key gives the value written. -/
@[simp] theorem NMap.get_set_same [DecidableEq α] (d : α) (m : NMap α) (k : Nat) (x : α) : NMap.get d (NMap.set d m k x) k = x := by
  unfold NMap.get NMap.set
  split
  · rename_i h
    rw [NMap.find?_del_same, h]; rfl
  · rw [NMap.find?_put_same]; rfl

/-- A write leaves every other key alone. -/
theorem NMap.get_set_other [DecidableEq α] (d : α) (m : NMap α) {k n : Nat} (h : n ≠ k) (x : α) :
    NMap.get d (NMap.set d m k x) n = NMap.get d m n := by
  unfold NMap.get NMap.set
  split
  · rw [NMap.find?_del_other h]
  · rw [NMap.find?_put_other h]

/-- A read after a write. -/
theorem NMap.get_set [DecidableEq α] (d : α) (m : NMap α) (k n : Nat) (x : α) :
    NMap.get d (NMap.set d m k x) n = if n = k then x else NMap.get d m n := by
  split
  · rename_i h; rw [h, NMap.get_set_same]
  · rename_i h; exact NMap.get_set_other d m h x

theorem NMap.get_modify [DecidableEq α] (d : α) (m : NMap α) (k n : Nat) (f : α → α) :
    NMap.get d (NMap.modify d m k f) n = if n = k then f (NMap.get d m k) else NMap.get d m n := by
  unfold NMap.modify
  exact NMap.get_set d m k n _

@[simp] theorem NMap.get_nil (d : α) (k : Nat) : NMap.get d ([] : NMap α) k = d := rfl

/-! ## The canonical form -/

theorem NMap.above_put {b k : Nat} (x : α) (hb : b < k) : (m : NMap α) → NMap.above b m = true → NMap.sorted m = true →
    NMap.above b (NMap.put k x m) = true
  | [], _, _ => by simp [NMap.put, NMap.above, hb]
  | (j, y) :: t, h, hs => by
    simp only [NMap.above, Bool.and_eq_true, decide_eq_true_eq] at h
    unfold NMap.put
    split
    · rename_i hj
      simp only [NMap.above, Bool.and_eq_true, decide_eq_true_eq]
      exact ⟨hb, hj, h.2⟩
    · split
      · rename_i hj
        simp only [NMap.above, Bool.and_eq_true, decide_eq_true_eq]
        exact ⟨hb, hj ▸ h.2⟩
      · rename_i h1 h2
        simp only [NMap.above, Bool.and_eq_true, decide_eq_true_eq]
        exact ⟨h.1, NMap.above_put x (by omega) t h.2 (NMap.sorted_of_above t h.2)⟩

theorem NMap.sorted_put (k : Nat) (x : α) : (m : NMap α) → NMap.sorted m = true → NMap.sorted (NMap.put k x m) = true
  | [], _ => rfl
  | (j, y) :: t, h => by
    simp only [NMap.sorted] at h
    unfold NMap.put
    split
    · rename_i hj
      simpa [NMap.sorted, NMap.above, hj] using h
    · split
      · rename_i hj
        simpa [NMap.sorted, hj] using h
      · rename_i h1 h2
        simp only [NMap.sorted]
        exact NMap.above_put x (by omega) t h (NMap.sorted_of_above t h)

theorem NMap.above_del (k : Nat) {b : Nat} : (m : NMap α) → NMap.above b m = true → NMap.above b (NMap.del k m) = true
  | [], _ => rfl
  | (j, y) :: t, h => by
    simp only [NMap.above, Bool.and_eq_true, decide_eq_true_eq] at h
    rw [NMap.del_cons]
    split
    · exact NMap.above_le (Nat.le_of_lt h.1) _ (NMap.above_del k t h.2)
    · simp only [NMap.above, Bool.and_eq_true, decide_eq_true_eq]
      exact ⟨h.1, NMap.above_del k t h.2⟩

theorem NMap.sorted_del (k : Nat) : (m : NMap α) → NMap.sorted m = true → NMap.sorted (NMap.del k m) = true
  | [], _ => rfl
  | (j, y) :: t, h => by
    simp only [NMap.sorted] at h
    rw [NMap.del_cons]
    split
    · exact NMap.sorted_of_above _ (NMap.above_del k t h)
    · exact NMap.above_del k t h

theorem NMap.all_put [DecidableEq α] (d : α) {k : Nat} {x : α} (hx : x ≠ d) : (m : NMap α) → m.all (fun e => decide (e.2 ≠ d)) = true →
    (NMap.put k x m).all (fun e => decide (e.2 ≠ d)) = true
  | [], _ => by simp [NMap.put, hx]
  | (j, y) :: t, h => by
    simp only [List.all_cons, Bool.and_eq_true] at h
    unfold NMap.put
    split
    · simp only [List.all_cons, Bool.and_eq_true]
      exact ⟨by simpa using hx, h⟩
    · split
      · simp only [List.all_cons, Bool.and_eq_true]
        exact ⟨by simpa using hx, h.2⟩
      · simp only [List.all_cons, Bool.and_eq_true]
        exact ⟨h.1, NMap.all_put d hx t h.2⟩

theorem NMap.all_del [DecidableEq α] (d : α) (k : Nat) (m : NMap α) (h : m.all (fun e => decide (e.2 ≠ d)) = true) :
    (NMap.del k m).all (fun e => decide (e.2 ≠ d)) = true := by
  rw [List.all_eq_true] at h ⊢
  intro e he
  exact h e (List.mem_filter.mp he).1

/-- Every write keeps the canonical form. -/
theorem NMap.wf_set [DecidableEq α] (d : α) (m : NMap α) (k : Nat) (x : α) (h : NMap.wf d m = true) : NMap.wf d (NMap.set d m k x) = true := by
  unfold NMap.wf at h ⊢
  rw [Bool.and_eq_true] at h ⊢
  unfold NMap.set
  split
  · exact ⟨NMap.sorted_del k m h.1, NMap.all_del d k m h.2⟩
  · rename_i hx
    exact ⟨NMap.sorted_put k x m h.1, NMap.all_put d hx m h.2⟩

theorem NMap.wf_modify [DecidableEq α] (d : α) (m : NMap α) (k : Nat) (f : α → α) (h : NMap.wf d m = true) :
    NMap.wf d (NMap.modify d m k f) = true := NMap.wf_set d m k _ h

theorem NMap.wf_nil [DecidableEq α] (d : α) : NMap.wf d ([] : NMap α) = true := rfl

end Sys2Proof.Machine
end

