-- ==== Sys2Proof/Laws/State.lean ====
section
/-! SUPPORT. What each update of the state leaves alone, one lemma for each field, and what its registers then read. -/

namespace Sys2Proof.Machine

/-! ## A change of the current team -/

@[simp] theorem modCur_cur (s : State) (f : Team → Team) : (modCur s f).cur = f s.cur := rfl
@[simp] theorem modCur_teams (s : State) (f : Team → Team) : (modCur s f).teams = s.teams := rfl
@[simp] theorem modCur_blocks (s : State) (f : Team → Team) : (modCur s f).blocks = s.blocks := rfl
@[simp] theorem modCur_launches (s : State) (f : Team → Team) : (modCur s f).launches = s.launches := rfl
@[simp] theorem modCur_cells (s : State) (f : Team → Team) : (modCur s f).cells = s.cells := rfl
@[simp] theorem modCur_ctlb (s : State) (f : Team → Team) : (modCur s f).ctlb = s.ctlb := rfl
@[simp] theorem modCur_dies (s : State) (f : Team → Team) : (modCur s f).dies = s.dies := rfl
@[simp] theorem modCur_mem (s : State) (f : Team → Team) : (modCur s f).mem = s.mem := rfl
@[simp] theorem modCur_qwait (s : State) (f : Team → Team) : (modCur s f).qwait = s.qwait := rfl
@[simp] theorem modCur_fabric (s : State) (f : Team → Team) : (modCur s f).fabric = s.fabric := rfl
@[simp] theorem modCur_parlour (s : State) (f : Team → Team) : (modCur s f).parlour = s.parlour := rfl
@[simp] theorem modCur_evseq (s : State) (f : Team → Team) : (modCur s f).evseq = s.evseq := rfl
@[simp] theorem modCur_evbuf (s : State) (f : Team → Team) : (modCur s f).evbuf = s.evbuf := rfl
@[simp] theorem modCur_evdrop (s : State) (f : Team → Team) : (modCur s f).evdrop = s.evdrop := rfl
@[simp] theorem modCur_found (s : State) (f : Team → Team) : (modCur s f).found = s.found := rfl
@[simp] theorem modCur_host (s : State) (f : Team → Team) : (modCur s f).host = s.host := rfl
@[simp] theorem modCur_statusq (s : State) (f : Team → Team) : (modCur s f).statusq = s.statusq := rfl
@[simp] theorem modCur_records (s : State) (f : Team → Team) : (modCur s f).records = s.records := rfl
@[simp] theorem modCur_nextId (s : State) (f : Team → Team) : (modCur s f).nextId = s.nextId := rfl
@[simp] theorem modCur_sched (s : State) (f : Team → Team) : (modCur s f).sched = s.sched := rfl
@[simp] theorem modCur_free (s : State) (f : Team → Team) : (modCur s f).free = s.free := rfl

theorem modCur_modCur (s : State) (f g : Team → Team) : modCur (modCur s f) g = modCur s (fun t => g (f t)) := rfl
theorem modCur_id (s : State) : modCur s (fun t => t) = s := rfl

/-! ## setSreg -/

@[simp] theorem setSreg_tid (t : Team) (n : Nat) (x : DWord) : (setSreg t n x).tid = t.tid := rfl
@[simp] theorem setSreg_blk (t : Team) (n : Nat) (x : DWord) : (setSreg t n x).blk = t.blk := rfl
@[simp] theorem setSreg_idx (t : Team) (n : Nat) (x : DWord) : (setSreg t n x).idx = t.idx := rfl
@[simp] theorem setSreg_die (t : Team) (n : Nat) (x : DWord) : (setSreg t n x).die = t.die := rfl
@[simp] theorem setSreg_cell (t : Team) (n : Nat) (x : DWord) : (setSreg t n x).cell = t.cell := rfl
@[simp] theorem setSreg_pair (t : Team) (n : Nat) (x : DWord) : (setSreg t n x).pair = t.pair := rfl
@[simp] theorem setSreg_width (t : Team) (n : Nat) (x : DWord) : (setSreg t n x).width = t.width := rfl
@[simp] theorem setSreg_group (t : Team) (n : Nat) (x : DWord) : (setSreg t n x).group = t.group := rfl
@[simp] theorem setSreg_prot (t : Team) (n : Nat) (x : DWord) : (setSreg t n x).prot = t.prot := rfl
@[simp] theorem setSreg_status (t : Team) (n : Nat) (x : DWord) : (setSreg t n x).status = t.status := rfl
@[simp] theorem setSreg_sh (t : Team) (n : Nat) (x : DWord) : (setSreg t n x).sh = t.sh := rfl
@[simp] theorem setSreg_pc (t : Team) (n : Nat) (x : DWord) : (setSreg t n x).pc = t.pc := rfl
@[simp] theorem setSreg_clause (t : Team) (n : Nat) (x : DWord) : (setSreg t n x).clause = t.clause := rfl
@[simp] theorem setSreg_stalled (t : Team) (n : Nat) (x : DWord) : (setSreg t n x).stalled = t.stalled := rfl
@[simp] theorem setSreg_dead (t : Team) (n : Nat) (x : DWord) : (setSreg t n x).dead = t.dead := rfl
@[simp] theorem setSreg_dying (t : Team) (n : Nat) (x : DWord) : (setSreg t n x).dying = t.dying := rfl
@[simp] theorem setSreg_xblk (t : Team) (n : Nat) (x : DWord) : (setSreg t n x).xblk = t.xblk := rfl
@[simp] theorem setSreg_compact (t : Team) (n : Nat) (x : DWord) : (setSreg t n x).compact = t.compact := rfl
@[simp] theorem setSreg_force (t : Team) (n : Nat) (x : DWord) : (setSreg t n x).force = t.force := rfl
@[simp] theorem setSreg_rm (t : Team) (n : Nat) (x : DWord) : (setSreg t n x).rm = t.rm := rfl
@[simp] theorem setSreg_ftz (t : Team) (n : Nat) (x : DWord) : (setSreg t n x).ftz = t.ftz := rfl
@[simp] theorem setSreg_fl (t : Team) (n : Nat) (x : DWord) : (setSreg t n x).fl = t.fl := rfl
@[simp] theorem setSreg_deadsrc (t : Team) (n : Nat) (x : DWord) : (setSreg t n x).deadsrc = t.deadsrc := rfl
@[simp] theorem setSreg_mxb (t : Team) (n : Nat) (x : DWord) : (setSreg t n x).mxb = t.mxb := rfl
@[simp] theorem setSreg_mxt (t : Team) (n : Nat) (x : DWord) : (setSreg t n x).mxt = t.mxt := rfl
@[simp] theorem setSreg_trapcause (t : Team) (n : Nat) (x : DWord) : (setSreg t n x).trapcause = t.trapcause := rfl
@[simp] theorem setSreg_trappc (t : Team) (n : Nat) (x : DWord) : (setSreg t n x).trappc = t.trappc := rfl
@[simp] theorem setSreg_trapaddr (t : Team) (n : Nat) (x : DWord) : (setSreg t n x).trapaddr = t.trapaddr := rfl
@[simp] theorem setSreg_traplane (t : Team) (n : Nat) (x : DWord) : (setSreg t n x).traplane = t.traplane := rfl
@[simp] theorem setSreg_handler (t : Team) (n : Nat) (x : DWord) : (setSreg t n x).handler = t.handler := rfl
@[simp] theorem setSreg_stop (t : Team) (n : Nat) (x : DWord) : (setSreg t n x).stop = t.stop := rfl
@[simp] theorem setSreg_flags (t : Team) (n : Nat) (x : DWord) : (setSreg t n x).flags = t.flags := rfl
@[simp] theorem setSreg_issued (t : Team) (n : Nat) (x : DWord) : (setSreg t n x).issued = t.issued := rfl
@[simp] theorem setSreg_ops (t : Team) (n : Nat) (x : DWord) : (setSreg t n x).ops = t.ops := rfl
@[simp] theorem setSreg_nextOp (t : Team) (n : Nat) (x : DWord) : (setSreg t n x).nextOp = t.nextOp := rfl
@[simp] theorem setSreg_deferred (t : Team) (n : Nat) (x : DWord) : (setSreg t n x).deferred = t.deferred := rfl
@[simp] theorem setSreg_rays (t : Team) (n : Nat) (x : DWord) : (setSreg t n x).rays = t.rays := rfl
@[simp] theorem setSreg_absent (t : Team) (n : Nat) (x : DWord) : (setSreg t n x).absent = t.absent := rfl
@[simp] theorem setSreg_savebad (t : Team) (n : Nat) (x : DWord) : (setSreg t n x).savebad = t.savebad := rfl
@[simp] theorem setSreg_preempt (t : Team) (n : Nat) (x : DWord) : (setSreg t n x).preempt = t.preempt := rfl
@[simp] theorem setSreg_pmark (t : Team) (n : Nat) (x : DWord) : (setSreg t n x).pmark = t.pmark := rfl
@[simp] theorem setSreg_timeout (t : Team) (n : Nat) (x : DWord) : (setSreg t n x).timeout = t.timeout := rfl
@[simp] theorem setSreg_walks (t : Team) (n : Nat) (x : DWord) : (setSreg t n x).walks = t.walks := rfl
@[simp] theorem setSreg_granted (t : Team) (n : Nat) (x : DWord) : (setSreg t n x).granted = t.granted := rfl
@[simp] theorem setSreg_barin (t : Team) (n : Nat) (x : DWord) : (setSreg t n x).barin = t.barin := rfl
@[simp] theorem setSreg_slept (t : Team) (n : Nat) (x : DWord) : (setSreg t n x).slept = t.slept := rfl
@[simp] theorem setSreg_slotwait (t : Team) (n : Nat) (x : DWord) : (setSreg t n x).slotwait = t.slotwait := rfl
@[simp] theorem setSreg_pseq (t : Team) (n : Nat) (x : DWord) : (setSreg t n x).pseq = t.pseq := rfl
@[simp] theorem setSreg_stopat (t : Team) (n : Nat) (x : DWord) : (setSreg t n x).stopat = t.stopat := rfl
@[simp] theorem setSreg_rerun (t : Team) (n : Nat) (x : DWord) : (setSreg t n x).rerun = t.rerun := rfl
@[simp] theorem setSreg_saveobs (t : Team) (n : Nat) (x : DWord) : (setSreg t n x).saveobs = t.saveobs := rfl
@[simp] theorem setSreg_treeEnded (t : Team) (n : Nat) (x : DWord) : (setSreg t n x).treeEnded = t.treeEnded := rfl
@[simp] theorem setSreg_nofrag (t : Team) (n : Nat) (x : DWord) : (setSreg t n x).nofrag = t.nofrag := rfl
@[simp] theorem setSreg_early (t : Team) (n : Nat) (x : DWord) : (setSreg t n x).early = t.early := rfl
@[simp] theorem setSreg_redo (t : Team) (n : Nat) (x : DWord) : (setSreg t n x).redo = t.redo := rfl

/-! ## setMreg -/

@[simp] theorem setMreg_tid (t : Team) (k : Nat) (x : Mask) : (setMreg t k x).tid = t.tid := rfl
@[simp] theorem setMreg_blk (t : Team) (k : Nat) (x : Mask) : (setMreg t k x).blk = t.blk := rfl
@[simp] theorem setMreg_idx (t : Team) (k : Nat) (x : Mask) : (setMreg t k x).idx = t.idx := rfl
@[simp] theorem setMreg_die (t : Team) (k : Nat) (x : Mask) : (setMreg t k x).die = t.die := rfl
@[simp] theorem setMreg_cell (t : Team) (k : Nat) (x : Mask) : (setMreg t k x).cell = t.cell := rfl
@[simp] theorem setMreg_pair (t : Team) (k : Nat) (x : Mask) : (setMreg t k x).pair = t.pair := rfl
@[simp] theorem setMreg_width (t : Team) (k : Nat) (x : Mask) : (setMreg t k x).width = t.width := rfl
@[simp] theorem setMreg_group (t : Team) (k : Nat) (x : Mask) : (setMreg t k x).group = t.group := rfl
@[simp] theorem setMreg_prot (t : Team) (k : Nat) (x : Mask) : (setMreg t k x).prot = t.prot := rfl
@[simp] theorem setMreg_status (t : Team) (k : Nat) (x : Mask) : (setMreg t k x).status = t.status := rfl
@[simp] theorem setMreg_sh (t : Team) (k : Nat) (x : Mask) : (setMreg t k x).sh = t.sh := rfl
@[simp] theorem setMreg_pc (t : Team) (k : Nat) (x : Mask) : (setMreg t k x).pc = t.pc := rfl
@[simp] theorem setMreg_clause (t : Team) (k : Nat) (x : Mask) : (setMreg t k x).clause = t.clause := rfl
@[simp] theorem setMreg_stalled (t : Team) (k : Nat) (x : Mask) : (setMreg t k x).stalled = t.stalled := rfl
@[simp] theorem setMreg_dead (t : Team) (k : Nat) (x : Mask) : (setMreg t k x).dead = t.dead := rfl
@[simp] theorem setMreg_dying (t : Team) (k : Nat) (x : Mask) : (setMreg t k x).dying = t.dying := rfl
@[simp] theorem setMreg_xblk (t : Team) (k : Nat) (x : Mask) : (setMreg t k x).xblk = t.xblk := rfl
@[simp] theorem setMreg_compact (t : Team) (k : Nat) (x : Mask) : (setMreg t k x).compact = t.compact := rfl
@[simp] theorem setMreg_force (t : Team) (k : Nat) (x : Mask) : (setMreg t k x).force = t.force := rfl
@[simp] theorem setMreg_rm (t : Team) (k : Nat) (x : Mask) : (setMreg t k x).rm = t.rm := rfl
@[simp] theorem setMreg_ftz (t : Team) (k : Nat) (x : Mask) : (setMreg t k x).ftz = t.ftz := rfl
@[simp] theorem setMreg_fl (t : Team) (k : Nat) (x : Mask) : (setMreg t k x).fl = t.fl := rfl
@[simp] theorem setMreg_deadsrc (t : Team) (k : Nat) (x : Mask) : (setMreg t k x).deadsrc = t.deadsrc := rfl
@[simp] theorem setMreg_mxb (t : Team) (k : Nat) (x : Mask) : (setMreg t k x).mxb = t.mxb := rfl
@[simp] theorem setMreg_mxt (t : Team) (k : Nat) (x : Mask) : (setMreg t k x).mxt = t.mxt := rfl
@[simp] theorem setMreg_trapcause (t : Team) (k : Nat) (x : Mask) : (setMreg t k x).trapcause = t.trapcause := rfl
@[simp] theorem setMreg_trappc (t : Team) (k : Nat) (x : Mask) : (setMreg t k x).trappc = t.trappc := rfl
@[simp] theorem setMreg_trapaddr (t : Team) (k : Nat) (x : Mask) : (setMreg t k x).trapaddr = t.trapaddr := rfl
@[simp] theorem setMreg_traplane (t : Team) (k : Nat) (x : Mask) : (setMreg t k x).traplane = t.traplane := rfl
@[simp] theorem setMreg_handler (t : Team) (k : Nat) (x : Mask) : (setMreg t k x).handler = t.handler := rfl
@[simp] theorem setMreg_stop (t : Team) (k : Nat) (x : Mask) : (setMreg t k x).stop = t.stop := rfl
@[simp] theorem setMreg_flags (t : Team) (k : Nat) (x : Mask) : (setMreg t k x).flags = t.flags := rfl
@[simp] theorem setMreg_issued (t : Team) (k : Nat) (x : Mask) : (setMreg t k x).issued = t.issued := rfl
@[simp] theorem setMreg_ops (t : Team) (k : Nat) (x : Mask) : (setMreg t k x).ops = t.ops := rfl
@[simp] theorem setMreg_nextOp (t : Team) (k : Nat) (x : Mask) : (setMreg t k x).nextOp = t.nextOp := rfl
@[simp] theorem setMreg_deferred (t : Team) (k : Nat) (x : Mask) : (setMreg t k x).deferred = t.deferred := rfl
@[simp] theorem setMreg_rays (t : Team) (k : Nat) (x : Mask) : (setMreg t k x).rays = t.rays := rfl
@[simp] theorem setMreg_absent (t : Team) (k : Nat) (x : Mask) : (setMreg t k x).absent = t.absent := rfl
@[simp] theorem setMreg_savebad (t : Team) (k : Nat) (x : Mask) : (setMreg t k x).savebad = t.savebad := rfl
@[simp] theorem setMreg_preempt (t : Team) (k : Nat) (x : Mask) : (setMreg t k x).preempt = t.preempt := rfl
@[simp] theorem setMreg_pmark (t : Team) (k : Nat) (x : Mask) : (setMreg t k x).pmark = t.pmark := rfl
@[simp] theorem setMreg_timeout (t : Team) (k : Nat) (x : Mask) : (setMreg t k x).timeout = t.timeout := rfl
@[simp] theorem setMreg_walks (t : Team) (k : Nat) (x : Mask) : (setMreg t k x).walks = t.walks := rfl
@[simp] theorem setMreg_granted (t : Team) (k : Nat) (x : Mask) : (setMreg t k x).granted = t.granted := rfl
@[simp] theorem setMreg_barin (t : Team) (k : Nat) (x : Mask) : (setMreg t k x).barin = t.barin := rfl
@[simp] theorem setMreg_slept (t : Team) (k : Nat) (x : Mask) : (setMreg t k x).slept = t.slept := rfl
@[simp] theorem setMreg_slotwait (t : Team) (k : Nat) (x : Mask) : (setMreg t k x).slotwait = t.slotwait := rfl
@[simp] theorem setMreg_pseq (t : Team) (k : Nat) (x : Mask) : (setMreg t k x).pseq = t.pseq := rfl
@[simp] theorem setMreg_stopat (t : Team) (k : Nat) (x : Mask) : (setMreg t k x).stopat = t.stopat := rfl
@[simp] theorem setMreg_rerun (t : Team) (k : Nat) (x : Mask) : (setMreg t k x).rerun = t.rerun := rfl
@[simp] theorem setMreg_saveobs (t : Team) (k : Nat) (x : Mask) : (setMreg t k x).saveobs = t.saveobs := rfl
@[simp] theorem setMreg_treeEnded (t : Team) (k : Nat) (x : Mask) : (setMreg t k x).treeEnded = t.treeEnded := rfl
@[simp] theorem setMreg_nofrag (t : Team) (k : Nat) (x : Mask) : (setMreg t k x).nofrag = t.nofrag := rfl
@[simp] theorem setMreg_early (t : Team) (k : Nat) (x : Mask) : (setMreg t k x).early = t.early := rfl
@[simp] theorem setMreg_redo (t : Team) (k : Nat) (x : Mask) : (setMreg t k x).redo = t.redo := rfl

/-! ## setVreg -/

@[simp] theorem setVreg_tid (t : Team) (n l : Nat) (x : Word) : (setVreg t n l x).tid = t.tid := rfl
@[simp] theorem setVreg_blk (t : Team) (n l : Nat) (x : Word) : (setVreg t n l x).blk = t.blk := rfl
@[simp] theorem setVreg_idx (t : Team) (n l : Nat) (x : Word) : (setVreg t n l x).idx = t.idx := rfl
@[simp] theorem setVreg_die (t : Team) (n l : Nat) (x : Word) : (setVreg t n l x).die = t.die := rfl
@[simp] theorem setVreg_cell (t : Team) (n l : Nat) (x : Word) : (setVreg t n l x).cell = t.cell := rfl
@[simp] theorem setVreg_pair (t : Team) (n l : Nat) (x : Word) : (setVreg t n l x).pair = t.pair := rfl
@[simp] theorem setVreg_width (t : Team) (n l : Nat) (x : Word) : (setVreg t n l x).width = t.width := rfl
@[simp] theorem setVreg_group (t : Team) (n l : Nat) (x : Word) : (setVreg t n l x).group = t.group := rfl
@[simp] theorem setVreg_prot (t : Team) (n l : Nat) (x : Word) : (setVreg t n l x).prot = t.prot := rfl
@[simp] theorem setVreg_status (t : Team) (n l : Nat) (x : Word) : (setVreg t n l x).status = t.status := rfl
@[simp] theorem setVreg_sh (t : Team) (n l : Nat) (x : Word) : (setVreg t n l x).sh = t.sh := rfl
@[simp] theorem setVreg_pc (t : Team) (n l : Nat) (x : Word) : (setVreg t n l x).pc = t.pc := rfl
@[simp] theorem setVreg_clause (t : Team) (n l : Nat) (x : Word) : (setVreg t n l x).clause = t.clause := rfl
@[simp] theorem setVreg_stalled (t : Team) (n l : Nat) (x : Word) : (setVreg t n l x).stalled = t.stalled := rfl
@[simp] theorem setVreg_dead (t : Team) (n l : Nat) (x : Word) : (setVreg t n l x).dead = t.dead := rfl
@[simp] theorem setVreg_dying (t : Team) (n l : Nat) (x : Word) : (setVreg t n l x).dying = t.dying := rfl
@[simp] theorem setVreg_xblk (t : Team) (n l : Nat) (x : Word) : (setVreg t n l x).xblk = t.xblk := rfl
@[simp] theorem setVreg_compact (t : Team) (n l : Nat) (x : Word) : (setVreg t n l x).compact = t.compact := rfl
@[simp] theorem setVreg_force (t : Team) (n l : Nat) (x : Word) : (setVreg t n l x).force = t.force := rfl
@[simp] theorem setVreg_rm (t : Team) (n l : Nat) (x : Word) : (setVreg t n l x).rm = t.rm := rfl
@[simp] theorem setVreg_ftz (t : Team) (n l : Nat) (x : Word) : (setVreg t n l x).ftz = t.ftz := rfl
@[simp] theorem setVreg_fl (t : Team) (n l : Nat) (x : Word) : (setVreg t n l x).fl = t.fl := rfl
@[simp] theorem setVreg_deadsrc (t : Team) (n l : Nat) (x : Word) : (setVreg t n l x).deadsrc = t.deadsrc := rfl
@[simp] theorem setVreg_mxb (t : Team) (n l : Nat) (x : Word) : (setVreg t n l x).mxb = t.mxb := rfl
@[simp] theorem setVreg_mxt (t : Team) (n l : Nat) (x : Word) : (setVreg t n l x).mxt = t.mxt := rfl
@[simp] theorem setVreg_trapcause (t : Team) (n l : Nat) (x : Word) : (setVreg t n l x).trapcause = t.trapcause := rfl
@[simp] theorem setVreg_trappc (t : Team) (n l : Nat) (x : Word) : (setVreg t n l x).trappc = t.trappc := rfl
@[simp] theorem setVreg_trapaddr (t : Team) (n l : Nat) (x : Word) : (setVreg t n l x).trapaddr = t.trapaddr := rfl
@[simp] theorem setVreg_traplane (t : Team) (n l : Nat) (x : Word) : (setVreg t n l x).traplane = t.traplane := rfl
@[simp] theorem setVreg_handler (t : Team) (n l : Nat) (x : Word) : (setVreg t n l x).handler = t.handler := rfl
@[simp] theorem setVreg_stop (t : Team) (n l : Nat) (x : Word) : (setVreg t n l x).stop = t.stop := rfl
@[simp] theorem setVreg_flags (t : Team) (n l : Nat) (x : Word) : (setVreg t n l x).flags = t.flags := rfl
@[simp] theorem setVreg_issued (t : Team) (n l : Nat) (x : Word) : (setVreg t n l x).issued = t.issued := rfl
@[simp] theorem setVreg_ops (t : Team) (n l : Nat) (x : Word) : (setVreg t n l x).ops = t.ops := rfl
@[simp] theorem setVreg_nextOp (t : Team) (n l : Nat) (x : Word) : (setVreg t n l x).nextOp = t.nextOp := rfl
@[simp] theorem setVreg_deferred (t : Team) (n l : Nat) (x : Word) : (setVreg t n l x).deferred = t.deferred := rfl
@[simp] theorem setVreg_rays (t : Team) (n l : Nat) (x : Word) : (setVreg t n l x).rays = t.rays := rfl
@[simp] theorem setVreg_absent (t : Team) (n l : Nat) (x : Word) : (setVreg t n l x).absent = t.absent := rfl
@[simp] theorem setVreg_savebad (t : Team) (n l : Nat) (x : Word) : (setVreg t n l x).savebad = t.savebad := rfl
@[simp] theorem setVreg_preempt (t : Team) (n l : Nat) (x : Word) : (setVreg t n l x).preempt = t.preempt := rfl
@[simp] theorem setVreg_pmark (t : Team) (n l : Nat) (x : Word) : (setVreg t n l x).pmark = t.pmark := rfl
@[simp] theorem setVreg_timeout (t : Team) (n l : Nat) (x : Word) : (setVreg t n l x).timeout = t.timeout := rfl
@[simp] theorem setVreg_walks (t : Team) (n l : Nat) (x : Word) : (setVreg t n l x).walks = t.walks := rfl
@[simp] theorem setVreg_granted (t : Team) (n l : Nat) (x : Word) : (setVreg t n l x).granted = t.granted := rfl
@[simp] theorem setVreg_barin (t : Team) (n l : Nat) (x : Word) : (setVreg t n l x).barin = t.barin := rfl
@[simp] theorem setVreg_slept (t : Team) (n l : Nat) (x : Word) : (setVreg t n l x).slept = t.slept := rfl
@[simp] theorem setVreg_slotwait (t : Team) (n l : Nat) (x : Word) : (setVreg t n l x).slotwait = t.slotwait := rfl
@[simp] theorem setVreg_pseq (t : Team) (n l : Nat) (x : Word) : (setVreg t n l x).pseq = t.pseq := rfl
@[simp] theorem setVreg_stopat (t : Team) (n l : Nat) (x : Word) : (setVreg t n l x).stopat = t.stopat := rfl
@[simp] theorem setVreg_rerun (t : Team) (n l : Nat) (x : Word) : (setVreg t n l x).rerun = t.rerun := rfl
@[simp] theorem setVreg_saveobs (t : Team) (n l : Nat) (x : Word) : (setVreg t n l x).saveobs = t.saveobs := rfl
@[simp] theorem setVreg_treeEnded (t : Team) (n l : Nat) (x : Word) : (setVreg t n l x).treeEnded = t.treeEnded := rfl
@[simp] theorem setVreg_nofrag (t : Team) (n l : Nat) (x : Word) : (setVreg t n l x).nofrag = t.nofrag := rfl
@[simp] theorem setVreg_early (t : Team) (n l : Nat) (x : Word) : (setVreg t n l x).early = t.early := rfl
@[simp] theorem setVreg_redo (t : Team) (n l : Nat) (x : Word) : (setVreg t n l x).redo = t.redo := rfl

/-! ## setVreg64 -/

@[simp] theorem setVreg64_tid (t : Team) (n l : Nat) (x : DWord) : (setVreg64 t n l x).tid = t.tid := rfl
@[simp] theorem setVreg64_blk (t : Team) (n l : Nat) (x : DWord) : (setVreg64 t n l x).blk = t.blk := rfl
@[simp] theorem setVreg64_idx (t : Team) (n l : Nat) (x : DWord) : (setVreg64 t n l x).idx = t.idx := rfl
@[simp] theorem setVreg64_die (t : Team) (n l : Nat) (x : DWord) : (setVreg64 t n l x).die = t.die := rfl
@[simp] theorem setVreg64_cell (t : Team) (n l : Nat) (x : DWord) : (setVreg64 t n l x).cell = t.cell := rfl
@[simp] theorem setVreg64_pair (t : Team) (n l : Nat) (x : DWord) : (setVreg64 t n l x).pair = t.pair := rfl
@[simp] theorem setVreg64_width (t : Team) (n l : Nat) (x : DWord) : (setVreg64 t n l x).width = t.width := rfl
@[simp] theorem setVreg64_group (t : Team) (n l : Nat) (x : DWord) : (setVreg64 t n l x).group = t.group := rfl
@[simp] theorem setVreg64_prot (t : Team) (n l : Nat) (x : DWord) : (setVreg64 t n l x).prot = t.prot := rfl
@[simp] theorem setVreg64_status (t : Team) (n l : Nat) (x : DWord) : (setVreg64 t n l x).status = t.status := rfl
@[simp] theorem setVreg64_sh (t : Team) (n l : Nat) (x : DWord) : (setVreg64 t n l x).sh = t.sh := rfl
@[simp] theorem setVreg64_pc (t : Team) (n l : Nat) (x : DWord) : (setVreg64 t n l x).pc = t.pc := rfl
@[simp] theorem setVreg64_clause (t : Team) (n l : Nat) (x : DWord) : (setVreg64 t n l x).clause = t.clause := rfl
@[simp] theorem setVreg64_stalled (t : Team) (n l : Nat) (x : DWord) : (setVreg64 t n l x).stalled = t.stalled := rfl
@[simp] theorem setVreg64_dead (t : Team) (n l : Nat) (x : DWord) : (setVreg64 t n l x).dead = t.dead := rfl
@[simp] theorem setVreg64_dying (t : Team) (n l : Nat) (x : DWord) : (setVreg64 t n l x).dying = t.dying := rfl
@[simp] theorem setVreg64_xblk (t : Team) (n l : Nat) (x : DWord) : (setVreg64 t n l x).xblk = t.xblk := rfl
@[simp] theorem setVreg64_compact (t : Team) (n l : Nat) (x : DWord) : (setVreg64 t n l x).compact = t.compact := rfl
@[simp] theorem setVreg64_force (t : Team) (n l : Nat) (x : DWord) : (setVreg64 t n l x).force = t.force := rfl
@[simp] theorem setVreg64_rm (t : Team) (n l : Nat) (x : DWord) : (setVreg64 t n l x).rm = t.rm := rfl
@[simp] theorem setVreg64_ftz (t : Team) (n l : Nat) (x : DWord) : (setVreg64 t n l x).ftz = t.ftz := rfl
@[simp] theorem setVreg64_fl (t : Team) (n l : Nat) (x : DWord) : (setVreg64 t n l x).fl = t.fl := rfl
@[simp] theorem setVreg64_deadsrc (t : Team) (n l : Nat) (x : DWord) : (setVreg64 t n l x).deadsrc = t.deadsrc := rfl
@[simp] theorem setVreg64_mxb (t : Team) (n l : Nat) (x : DWord) : (setVreg64 t n l x).mxb = t.mxb := rfl
@[simp] theorem setVreg64_mxt (t : Team) (n l : Nat) (x : DWord) : (setVreg64 t n l x).mxt = t.mxt := rfl
@[simp] theorem setVreg64_trapcause (t : Team) (n l : Nat) (x : DWord) : (setVreg64 t n l x).trapcause = t.trapcause := rfl
@[simp] theorem setVreg64_trappc (t : Team) (n l : Nat) (x : DWord) : (setVreg64 t n l x).trappc = t.trappc := rfl
@[simp] theorem setVreg64_trapaddr (t : Team) (n l : Nat) (x : DWord) : (setVreg64 t n l x).trapaddr = t.trapaddr := rfl
@[simp] theorem setVreg64_traplane (t : Team) (n l : Nat) (x : DWord) : (setVreg64 t n l x).traplane = t.traplane := rfl
@[simp] theorem setVreg64_handler (t : Team) (n l : Nat) (x : DWord) : (setVreg64 t n l x).handler = t.handler := rfl
@[simp] theorem setVreg64_stop (t : Team) (n l : Nat) (x : DWord) : (setVreg64 t n l x).stop = t.stop := rfl
@[simp] theorem setVreg64_flags (t : Team) (n l : Nat) (x : DWord) : (setVreg64 t n l x).flags = t.flags := rfl
@[simp] theorem setVreg64_issued (t : Team) (n l : Nat) (x : DWord) : (setVreg64 t n l x).issued = t.issued := rfl
@[simp] theorem setVreg64_ops (t : Team) (n l : Nat) (x : DWord) : (setVreg64 t n l x).ops = t.ops := rfl
@[simp] theorem setVreg64_nextOp (t : Team) (n l : Nat) (x : DWord) : (setVreg64 t n l x).nextOp = t.nextOp := rfl
@[simp] theorem setVreg64_deferred (t : Team) (n l : Nat) (x : DWord) : (setVreg64 t n l x).deferred = t.deferred := rfl
@[simp] theorem setVreg64_rays (t : Team) (n l : Nat) (x : DWord) : (setVreg64 t n l x).rays = t.rays := rfl
@[simp] theorem setVreg64_absent (t : Team) (n l : Nat) (x : DWord) : (setVreg64 t n l x).absent = t.absent := rfl
@[simp] theorem setVreg64_savebad (t : Team) (n l : Nat) (x : DWord) : (setVreg64 t n l x).savebad = t.savebad := rfl
@[simp] theorem setVreg64_preempt (t : Team) (n l : Nat) (x : DWord) : (setVreg64 t n l x).preempt = t.preempt := rfl
@[simp] theorem setVreg64_pmark (t : Team) (n l : Nat) (x : DWord) : (setVreg64 t n l x).pmark = t.pmark := rfl
@[simp] theorem setVreg64_timeout (t : Team) (n l : Nat) (x : DWord) : (setVreg64 t n l x).timeout = t.timeout := rfl
@[simp] theorem setVreg64_walks (t : Team) (n l : Nat) (x : DWord) : (setVreg64 t n l x).walks = t.walks := rfl
@[simp] theorem setVreg64_granted (t : Team) (n l : Nat) (x : DWord) : (setVreg64 t n l x).granted = t.granted := rfl
@[simp] theorem setVreg64_barin (t : Team) (n l : Nat) (x : DWord) : (setVreg64 t n l x).barin = t.barin := rfl
@[simp] theorem setVreg64_slept (t : Team) (n l : Nat) (x : DWord) : (setVreg64 t n l x).slept = t.slept := rfl
@[simp] theorem setVreg64_slotwait (t : Team) (n l : Nat) (x : DWord) : (setVreg64 t n l x).slotwait = t.slotwait := rfl
@[simp] theorem setVreg64_pseq (t : Team) (n l : Nat) (x : DWord) : (setVreg64 t n l x).pseq = t.pseq := rfl
@[simp] theorem setVreg64_stopat (t : Team) (n l : Nat) (x : DWord) : (setVreg64 t n l x).stopat = t.stopat := rfl
@[simp] theorem setVreg64_rerun (t : Team) (n l : Nat) (x : DWord) : (setVreg64 t n l x).rerun = t.rerun := rfl
@[simp] theorem setVreg64_saveobs (t : Team) (n l : Nat) (x : DWord) : (setVreg64 t n l x).saveobs = t.saveobs := rfl
@[simp] theorem setVreg64_treeEnded (t : Team) (n l : Nat) (x : DWord) : (setVreg64 t n l x).treeEnded = t.treeEnded := rfl
@[simp] theorem setVreg64_nofrag (t : Team) (n l : Nat) (x : DWord) : (setVreg64 t n l x).nofrag = t.nofrag := rfl
@[simp] theorem setVreg64_early (t : Team) (n l : Nat) (x : DWord) : (setVreg64 t n l x).early = t.early := rfl
@[simp] theorem setVreg64_redo (t : Team) (n l : Nat) (x : DWord) : (setVreg64 t n l x).redo = t.redo := rfl

/-! ## The stall marks -/

@[simp] theorem clearWait_tid (t : Team) : (clearWait t).tid = t.tid := rfl
@[simp] theorem clearWait_blk (t : Team) : (clearWait t).blk = t.blk := rfl
@[simp] theorem clearWait_idx (t : Team) : (clearWait t).idx = t.idx := rfl
@[simp] theorem clearWait_die (t : Team) : (clearWait t).die = t.die := rfl
@[simp] theorem clearWait_cell (t : Team) : (clearWait t).cell = t.cell := rfl
@[simp] theorem clearWait_pair (t : Team) : (clearWait t).pair = t.pair := rfl
@[simp] theorem clearWait_width (t : Team) : (clearWait t).width = t.width := rfl
@[simp] theorem clearWait_group (t : Team) : (clearWait t).group = t.group := rfl
@[simp] theorem clearWait_prot (t : Team) : (clearWait t).prot = t.prot := rfl
@[simp] theorem clearWait_status (t : Team) : (clearWait t).status = t.status := rfl
@[simp] theorem clearWait_r (t : Team) : (clearWait t).r = t.r := rfl
@[simp] theorem clearWait_sh (t : Team) : (clearWait t).sh = t.sh := rfl
@[simp] theorem clearWait_pc (t : Team) : (clearWait t).pc = t.pc := rfl
@[simp] theorem clearWait_clause (t : Team) : (clearWait t).clause = t.clause := rfl
@[simp] theorem clearWait_dead (t : Team) : (clearWait t).dead = t.dead := rfl
@[simp] theorem clearWait_dying (t : Team) : (clearWait t).dying = t.dying := rfl
@[simp] theorem clearWait_xblk (t : Team) : (clearWait t).xblk = t.xblk := rfl
@[simp] theorem clearWait_compact (t : Team) : (clearWait t).compact = t.compact := rfl
@[simp] theorem clearWait_force (t : Team) : (clearWait t).force = t.force := rfl
@[simp] theorem clearWait_rm (t : Team) : (clearWait t).rm = t.rm := rfl
@[simp] theorem clearWait_ftz (t : Team) : (clearWait t).ftz = t.ftz := rfl
@[simp] theorem clearWait_fl (t : Team) : (clearWait t).fl = t.fl := rfl
@[simp] theorem clearWait_deadsrc (t : Team) : (clearWait t).deadsrc = t.deadsrc := rfl
@[simp] theorem clearWait_mxb (t : Team) : (clearWait t).mxb = t.mxb := rfl
@[simp] theorem clearWait_mxt (t : Team) : (clearWait t).mxt = t.mxt := rfl
@[simp] theorem clearWait_trapcause (t : Team) : (clearWait t).trapcause = t.trapcause := rfl
@[simp] theorem clearWait_trappc (t : Team) : (clearWait t).trappc = t.trappc := rfl
@[simp] theorem clearWait_trapaddr (t : Team) : (clearWait t).trapaddr = t.trapaddr := rfl
@[simp] theorem clearWait_traplane (t : Team) : (clearWait t).traplane = t.traplane := rfl
@[simp] theorem clearWait_handler (t : Team) : (clearWait t).handler = t.handler := rfl
@[simp] theorem clearWait_stop (t : Team) : (clearWait t).stop = t.stop := rfl
@[simp] theorem clearWait_flags (t : Team) : (clearWait t).flags = t.flags := rfl
@[simp] theorem clearWait_issued (t : Team) : (clearWait t).issued = t.issued := rfl
@[simp] theorem clearWait_ops (t : Team) : (clearWait t).ops = t.ops := rfl
@[simp] theorem clearWait_nextOp (t : Team) : (clearWait t).nextOp = t.nextOp := rfl
@[simp] theorem clearWait_deferred (t : Team) : (clearWait t).deferred = t.deferred := rfl
@[simp] theorem clearWait_rays (t : Team) : (clearWait t).rays = t.rays := rfl
@[simp] theorem clearWait_absent (t : Team) : (clearWait t).absent = t.absent := rfl
@[simp] theorem clearWait_savebad (t : Team) : (clearWait t).savebad = t.savebad := rfl
@[simp] theorem clearWait_preempt (t : Team) : (clearWait t).preempt = t.preempt := rfl
@[simp] theorem clearWait_pmark (t : Team) : (clearWait t).pmark = t.pmark := rfl
@[simp] theorem clearWait_timeout (t : Team) : (clearWait t).timeout = t.timeout := rfl
@[simp] theorem clearWait_pseq (t : Team) : (clearWait t).pseq = t.pseq := rfl
@[simp] theorem clearWait_stopat (t : Team) : (clearWait t).stopat = t.stopat := rfl
@[simp] theorem clearWait_rerun (t : Team) : (clearWait t).rerun = t.rerun := rfl
@[simp] theorem clearWait_saveobs (t : Team) : (clearWait t).saveobs = t.saveobs := rfl
@[simp] theorem clearWait_treeEnded (t : Team) : (clearWait t).treeEnded = t.treeEnded := rfl
@[simp] theorem clearWait_nofrag (t : Team) : (clearWait t).nofrag = t.nofrag := rfl
@[simp] theorem clearWait_early (t : Team) : (clearWait t).early = t.early := rfl
@[simp] theorem clearWait_redo (t : Team) : (clearWait t).redo = t.redo := rfl

/-! ## The end of a clause and a jump -/

@[simp] theorem jumpTo_tid (t : Team) (x : Nat) : (jumpTo t x).tid = t.tid := rfl
@[simp] theorem jumpTo_blk (t : Team) (x : Nat) : (jumpTo t x).blk = t.blk := rfl
@[simp] theorem jumpTo_idx (t : Team) (x : Nat) : (jumpTo t x).idx = t.idx := rfl
@[simp] theorem jumpTo_die (t : Team) (x : Nat) : (jumpTo t x).die = t.die := rfl
@[simp] theorem jumpTo_cell (t : Team) (x : Nat) : (jumpTo t x).cell = t.cell := rfl
@[simp] theorem jumpTo_pair (t : Team) (x : Nat) : (jumpTo t x).pair = t.pair := rfl
@[simp] theorem jumpTo_width (t : Team) (x : Nat) : (jumpTo t x).width = t.width := rfl
@[simp] theorem jumpTo_group (t : Team) (x : Nat) : (jumpTo t x).group = t.group := rfl
@[simp] theorem jumpTo_prot (t : Team) (x : Nat) : (jumpTo t x).prot = t.prot := rfl
@[simp] theorem jumpTo_status (t : Team) (x : Nat) : (jumpTo t x).status = t.status := rfl
@[simp] theorem jumpTo_r (t : Team) (x : Nat) : (jumpTo t x).r = t.r := rfl
@[simp] theorem jumpTo_sh (t : Team) (x : Nat) : (jumpTo t x).sh = t.sh := rfl
@[simp] theorem jumpTo_dead (t : Team) (x : Nat) : (jumpTo t x).dead = t.dead := rfl
@[simp] theorem jumpTo_dying (t : Team) (x : Nat) : (jumpTo t x).dying = t.dying := rfl
@[simp] theorem jumpTo_xblk (t : Team) (x : Nat) : (jumpTo t x).xblk = t.xblk := rfl
@[simp] theorem jumpTo_compact (t : Team) (x : Nat) : (jumpTo t x).compact = t.compact := rfl
@[simp] theorem jumpTo_force (t : Team) (x : Nat) : (jumpTo t x).force = t.force := rfl
@[simp] theorem jumpTo_rm (t : Team) (x : Nat) : (jumpTo t x).rm = t.rm := rfl
@[simp] theorem jumpTo_ftz (t : Team) (x : Nat) : (jumpTo t x).ftz = t.ftz := rfl
@[simp] theorem jumpTo_fl (t : Team) (x : Nat) : (jumpTo t x).fl = t.fl := rfl
@[simp] theorem jumpTo_deadsrc (t : Team) (x : Nat) : (jumpTo t x).deadsrc = t.deadsrc := rfl
@[simp] theorem jumpTo_mxb (t : Team) (x : Nat) : (jumpTo t x).mxb = t.mxb := rfl
@[simp] theorem jumpTo_mxt (t : Team) (x : Nat) : (jumpTo t x).mxt = t.mxt := rfl
@[simp] theorem jumpTo_trapcause (t : Team) (x : Nat) : (jumpTo t x).trapcause = t.trapcause := rfl
@[simp] theorem jumpTo_trappc (t : Team) (x : Nat) : (jumpTo t x).trappc = t.trappc := rfl
@[simp] theorem jumpTo_trapaddr (t : Team) (x : Nat) : (jumpTo t x).trapaddr = t.trapaddr := rfl
@[simp] theorem jumpTo_traplane (t : Team) (x : Nat) : (jumpTo t x).traplane = t.traplane := rfl
@[simp] theorem jumpTo_handler (t : Team) (x : Nat) : (jumpTo t x).handler = t.handler := rfl
@[simp] theorem jumpTo_stop (t : Team) (x : Nat) : (jumpTo t x).stop = t.stop := rfl
@[simp] theorem jumpTo_flags (t : Team) (x : Nat) : (jumpTo t x).flags = t.flags := rfl
@[simp] theorem jumpTo_issued (t : Team) (x : Nat) : (jumpTo t x).issued = t.issued := rfl
@[simp] theorem jumpTo_ops (t : Team) (x : Nat) : (jumpTo t x).ops = t.ops := rfl
@[simp] theorem jumpTo_nextOp (t : Team) (x : Nat) : (jumpTo t x).nextOp = t.nextOp := rfl
@[simp] theorem jumpTo_deferred (t : Team) (x : Nat) : (jumpTo t x).deferred = t.deferred := rfl
@[simp] theorem jumpTo_rays (t : Team) (x : Nat) : (jumpTo t x).rays = t.rays := rfl
@[simp] theorem jumpTo_absent (t : Team) (x : Nat) : (jumpTo t x).absent = t.absent := rfl
@[simp] theorem jumpTo_savebad (t : Team) (x : Nat) : (jumpTo t x).savebad = t.savebad := rfl
@[simp] theorem jumpTo_preempt (t : Team) (x : Nat) : (jumpTo t x).preempt = t.preempt := rfl
@[simp] theorem jumpTo_pmark (t : Team) (x : Nat) : (jumpTo t x).pmark = t.pmark := rfl
@[simp] theorem jumpTo_timeout (t : Team) (x : Nat) : (jumpTo t x).timeout = t.timeout := rfl
@[simp] theorem jumpTo_pseq (t : Team) (x : Nat) : (jumpTo t x).pseq = t.pseq := rfl
@[simp] theorem jumpTo_stopat (t : Team) (x : Nat) : (jumpTo t x).stopat = t.stopat := rfl
@[simp] theorem jumpTo_rerun (t : Team) (x : Nat) : (jumpTo t x).rerun = t.rerun := rfl
@[simp] theorem jumpTo_saveobs (t : Team) (x : Nat) : (jumpTo t x).saveobs = t.saveobs := rfl
@[simp] theorem jumpTo_treeEnded (t : Team) (x : Nat) : (jumpTo t x).treeEnded = t.treeEnded := rfl
@[simp] theorem jumpTo_nofrag (t : Team) (x : Nat) : (jumpTo t x).nofrag = t.nofrag := rfl
@[simp] theorem jumpTo_early (t : Team) (x : Nat) : (jumpTo t x).early = t.early := rfl
@[simp] theorem jumpTo_redo (t : Team) (x : Nat) : (jumpTo t x).redo = t.redo := rfl
@[simp] theorem jumpTo_pc (t : Team) (x : Nat) : (jumpTo t x).pc = x % 2 ^ 64 := rfl
@[simp] theorem jumpTo_clause (t : Team) (x : Nat) : (jumpTo t x).clause = none := rfl

/-! ## The clause's progress -/

theorem advance_eq {t : Team} {c : Clause} (h : t.clause = some c) : advance t =
    if c.idx + 1 < c.words.length then { clearWait t with clause := some { c with idx := c.idx + 1 } }
    else { clearWait t with clause := none, pc := nextHdr c % 2 ^ 64 } := by
  unfold advance; rw [h]

@[simp] theorem advance_tid (t : Team) : (advance t).tid = t.tid := by unfold advance; split <;> (first | rfl | (split <;> rfl))
@[simp] theorem advance_blk (t : Team) : (advance t).blk = t.blk := by unfold advance; split <;> (first | rfl | (split <;> rfl))
@[simp] theorem advance_idx (t : Team) : (advance t).idx = t.idx := by unfold advance; split <;> (first | rfl | (split <;> rfl))
@[simp] theorem advance_die (t : Team) : (advance t).die = t.die := by unfold advance; split <;> (first | rfl | (split <;> rfl))
@[simp] theorem advance_cell (t : Team) : (advance t).cell = t.cell := by unfold advance; split <;> (first | rfl | (split <;> rfl))
@[simp] theorem advance_pair (t : Team) : (advance t).pair = t.pair := by unfold advance; split <;> (first | rfl | (split <;> rfl))
@[simp] theorem advance_width (t : Team) : (advance t).width = t.width := by unfold advance; split <;> (first | rfl | (split <;> rfl))
@[simp] theorem advance_group (t : Team) : (advance t).group = t.group := by unfold advance; split <;> (first | rfl | (split <;> rfl))
@[simp] theorem advance_prot (t : Team) : (advance t).prot = t.prot := by unfold advance; split <;> (first | rfl | (split <;> rfl))
@[simp] theorem advance_status (t : Team) : (advance t).status = t.status := by unfold advance; split <;> (first | rfl | (split <;> rfl))
@[simp] theorem advance_r (t : Team) : (advance t).r = t.r := by unfold advance; split <;> (first | rfl | (split <;> rfl))
@[simp] theorem advance_sh (t : Team) : (advance t).sh = t.sh := by unfold advance; split <;> (first | rfl | (split <;> rfl))
@[simp] theorem advance_dead (t : Team) : (advance t).dead = t.dead := by unfold advance; split <;> (first | rfl | (split <;> rfl))
@[simp] theorem advance_dying (t : Team) : (advance t).dying = t.dying := by unfold advance; split <;> (first | rfl | (split <;> rfl))
@[simp] theorem advance_xblk (t : Team) : (advance t).xblk = t.xblk := by unfold advance; split <;> (first | rfl | (split <;> rfl))
@[simp] theorem advance_compact (t : Team) : (advance t).compact = t.compact := by unfold advance; split <;> (first | rfl | (split <;> rfl))
@[simp] theorem advance_force (t : Team) : (advance t).force = t.force := by unfold advance; split <;> (first | rfl | (split <;> rfl))
@[simp] theorem advance_rm (t : Team) : (advance t).rm = t.rm := by unfold advance; split <;> (first | rfl | (split <;> rfl))
@[simp] theorem advance_ftz (t : Team) : (advance t).ftz = t.ftz := by unfold advance; split <;> (first | rfl | (split <;> rfl))
@[simp] theorem advance_fl (t : Team) : (advance t).fl = t.fl := by unfold advance; split <;> (first | rfl | (split <;> rfl))
@[simp] theorem advance_deadsrc (t : Team) : (advance t).deadsrc = t.deadsrc := by unfold advance; split <;> (first | rfl | (split <;> rfl))
@[simp] theorem advance_mxb (t : Team) : (advance t).mxb = t.mxb := by unfold advance; split <;> (first | rfl | (split <;> rfl))
@[simp] theorem advance_mxt (t : Team) : (advance t).mxt = t.mxt := by unfold advance; split <;> (first | rfl | (split <;> rfl))
@[simp] theorem advance_trapcause (t : Team) : (advance t).trapcause = t.trapcause := by unfold advance; split <;> (first | rfl | (split <;> rfl))
@[simp] theorem advance_trappc (t : Team) : (advance t).trappc = t.trappc := by unfold advance; split <;> (first | rfl | (split <;> rfl))
@[simp] theorem advance_trapaddr (t : Team) : (advance t).trapaddr = t.trapaddr := by unfold advance; split <;> (first | rfl | (split <;> rfl))
@[simp] theorem advance_traplane (t : Team) : (advance t).traplane = t.traplane := by unfold advance; split <;> (first | rfl | (split <;> rfl))
@[simp] theorem advance_handler (t : Team) : (advance t).handler = t.handler := by unfold advance; split <;> (first | rfl | (split <;> rfl))
@[simp] theorem advance_stop (t : Team) : (advance t).stop = t.stop := by unfold advance; split <;> (first | rfl | (split <;> rfl))
@[simp] theorem advance_flags (t : Team) : (advance t).flags = t.flags := by unfold advance; split <;> (first | rfl | (split <;> rfl))
@[simp] theorem advance_issued (t : Team) : (advance t).issued = t.issued := by unfold advance; split <;> (first | rfl | (split <;> rfl))
@[simp] theorem advance_ops (t : Team) : (advance t).ops = t.ops := by unfold advance; split <;> (first | rfl | (split <;> rfl))
@[simp] theorem advance_nextOp (t : Team) : (advance t).nextOp = t.nextOp := by unfold advance; split <;> (first | rfl | (split <;> rfl))
@[simp] theorem advance_deferred (t : Team) : (advance t).deferred = t.deferred := by unfold advance; split <;> (first | rfl | (split <;> rfl))
@[simp] theorem advance_rays (t : Team) : (advance t).rays = t.rays := by unfold advance; split <;> (first | rfl | (split <;> rfl))
@[simp] theorem advance_absent (t : Team) : (advance t).absent = t.absent := by unfold advance; split <;> (first | rfl | (split <;> rfl))
@[simp] theorem advance_savebad (t : Team) : (advance t).savebad = t.savebad := by unfold advance; split <;> (first | rfl | (split <;> rfl))
@[simp] theorem advance_preempt (t : Team) : (advance t).preempt = t.preempt := by unfold advance; split <;> (first | rfl | (split <;> rfl))
@[simp] theorem advance_pmark (t : Team) : (advance t).pmark = t.pmark := by unfold advance; split <;> (first | rfl | (split <;> rfl))
@[simp] theorem advance_timeout (t : Team) : (advance t).timeout = t.timeout := by unfold advance; split <;> (first | rfl | (split <;> rfl))
@[simp] theorem advance_pseq (t : Team) : (advance t).pseq = t.pseq := by unfold advance; split <;> (first | rfl | (split <;> rfl))
@[simp] theorem advance_stopat (t : Team) : (advance t).stopat = t.stopat := by unfold advance; split <;> (first | rfl | (split <;> rfl))
@[simp] theorem advance_rerun (t : Team) : (advance t).rerun = t.rerun := by unfold advance; split <;> (first | rfl | (split <;> rfl))
@[simp] theorem advance_saveobs (t : Team) : (advance t).saveobs = t.saveobs := by unfold advance; split <;> (first | rfl | (split <;> rfl))
@[simp] theorem advance_treeEnded (t : Team) : (advance t).treeEnded = t.treeEnded := by unfold advance; split <;> (first | rfl | (split <;> rfl))
@[simp] theorem advance_nofrag (t : Team) : (advance t).nofrag = t.nofrag := by unfold advance; split <;> (first | rfl | (split <;> rfl))
@[simp] theorem advance_early (t : Team) : (advance t).early = t.early := by unfold advance; split <;> (first | rfl | (split <;> rfl))
@[simp] theorem advance_redo (t : Team) : (advance t).redo = t.redo := by unfold advance; split <;> (first | rfl | (split <;> rfl))
@[simp] theorem stallTeam_tid (t : Team) : (stallTeam t).tid = t.tid := rfl
@[simp] theorem stallTeam_blk (t : Team) : (stallTeam t).blk = t.blk := rfl
@[simp] theorem stallTeam_idx (t : Team) : (stallTeam t).idx = t.idx := rfl
@[simp] theorem stallTeam_die (t : Team) : (stallTeam t).die = t.die := rfl
@[simp] theorem stallTeam_cell (t : Team) : (stallTeam t).cell = t.cell := rfl
@[simp] theorem stallTeam_pair (t : Team) : (stallTeam t).pair = t.pair := rfl
@[simp] theorem stallTeam_width (t : Team) : (stallTeam t).width = t.width := rfl
@[simp] theorem stallTeam_group (t : Team) : (stallTeam t).group = t.group := rfl
@[simp] theorem stallTeam_prot (t : Team) : (stallTeam t).prot = t.prot := rfl
@[simp] theorem stallTeam_status (t : Team) : (stallTeam t).status = t.status := rfl
@[simp] theorem stallTeam_r (t : Team) : (stallTeam t).r = t.r := rfl
@[simp] theorem stallTeam_sh (t : Team) : (stallTeam t).sh = t.sh := rfl
@[simp] theorem stallTeam_pc (t : Team) : (stallTeam t).pc = t.pc := rfl
@[simp] theorem stallTeam_dead (t : Team) : (stallTeam t).dead = t.dead := rfl
@[simp] theorem stallTeam_dying (t : Team) : (stallTeam t).dying = t.dying := rfl
@[simp] theorem stallTeam_xblk (t : Team) : (stallTeam t).xblk = t.xblk := rfl
@[simp] theorem stallTeam_compact (t : Team) : (stallTeam t).compact = t.compact := rfl
@[simp] theorem stallTeam_force (t : Team) : (stallTeam t).force = t.force := rfl
@[simp] theorem stallTeam_rm (t : Team) : (stallTeam t).rm = t.rm := rfl
@[simp] theorem stallTeam_ftz (t : Team) : (stallTeam t).ftz = t.ftz := rfl
@[simp] theorem stallTeam_fl (t : Team) : (stallTeam t).fl = t.fl := rfl
@[simp] theorem stallTeam_deadsrc (t : Team) : (stallTeam t).deadsrc = t.deadsrc := rfl
@[simp] theorem stallTeam_mxb (t : Team) : (stallTeam t).mxb = t.mxb := rfl
@[simp] theorem stallTeam_mxt (t : Team) : (stallTeam t).mxt = t.mxt := rfl
@[simp] theorem stallTeam_trapcause (t : Team) : (stallTeam t).trapcause = t.trapcause := rfl
@[simp] theorem stallTeam_trappc (t : Team) : (stallTeam t).trappc = t.trappc := rfl
@[simp] theorem stallTeam_trapaddr (t : Team) : (stallTeam t).trapaddr = t.trapaddr := rfl
@[simp] theorem stallTeam_traplane (t : Team) : (stallTeam t).traplane = t.traplane := rfl
@[simp] theorem stallTeam_handler (t : Team) : (stallTeam t).handler = t.handler := rfl
@[simp] theorem stallTeam_stop (t : Team) : (stallTeam t).stop = t.stop := rfl
@[simp] theorem stallTeam_flags (t : Team) : (stallTeam t).flags = t.flags := rfl
@[simp] theorem stallTeam_issued (t : Team) : (stallTeam t).issued = t.issued := rfl
@[simp] theorem stallTeam_ops (t : Team) : (stallTeam t).ops = t.ops := rfl
@[simp] theorem stallTeam_nextOp (t : Team) : (stallTeam t).nextOp = t.nextOp := rfl
@[simp] theorem stallTeam_deferred (t : Team) : (stallTeam t).deferred = t.deferred := rfl
@[simp] theorem stallTeam_rays (t : Team) : (stallTeam t).rays = t.rays := rfl
@[simp] theorem stallTeam_absent (t : Team) : (stallTeam t).absent = t.absent := rfl
@[simp] theorem stallTeam_savebad (t : Team) : (stallTeam t).savebad = t.savebad := rfl
@[simp] theorem stallTeam_preempt (t : Team) : (stallTeam t).preempt = t.preempt := rfl
@[simp] theorem stallTeam_pmark (t : Team) : (stallTeam t).pmark = t.pmark := rfl
@[simp] theorem stallTeam_timeout (t : Team) : (stallTeam t).timeout = t.timeout := rfl
@[simp] theorem stallTeam_walks (t : Team) : (stallTeam t).walks = t.walks := rfl
@[simp] theorem stallTeam_granted (t : Team) : (stallTeam t).granted = t.granted := rfl
@[simp] theorem stallTeam_barin (t : Team) : (stallTeam t).barin = t.barin := rfl
@[simp] theorem stallTeam_slept (t : Team) : (stallTeam t).slept = t.slept := rfl
@[simp] theorem stallTeam_slotwait (t : Team) : (stallTeam t).slotwait = t.slotwait := rfl
@[simp] theorem stallTeam_pseq (t : Team) : (stallTeam t).pseq = t.pseq := rfl
@[simp] theorem stallTeam_stopat (t : Team) : (stallTeam t).stopat = t.stopat := rfl
@[simp] theorem stallTeam_rerun (t : Team) : (stallTeam t).rerun = t.rerun := rfl
@[simp] theorem stallTeam_saveobs (t : Team) : (stallTeam t).saveobs = t.saveobs := rfl
@[simp] theorem stallTeam_treeEnded (t : Team) : (stallTeam t).treeEnded = t.treeEnded := rfl
@[simp] theorem stallTeam_nofrag (t : Team) : (stallTeam t).nofrag = t.nofrag := rfl
@[simp] theorem stallTeam_early (t : Team) : (stallTeam t).early = t.early := rfl
@[simp] theorem stallTeam_redo (t : Team) : (stallTeam t).redo = t.redo := rfl

/-! ## The trap registers -/

@[simp] theorem setTrapRegs_tid (t : Team) (pc : Nat) (x : TrapInfo) : (setTrapRegs t pc x).tid = t.tid := rfl
@[simp] theorem setTrapRegs_blk (t : Team) (pc : Nat) (x : TrapInfo) : (setTrapRegs t pc x).blk = t.blk := rfl
@[simp] theorem setTrapRegs_idx (t : Team) (pc : Nat) (x : TrapInfo) : (setTrapRegs t pc x).idx = t.idx := rfl
@[simp] theorem setTrapRegs_die (t : Team) (pc : Nat) (x : TrapInfo) : (setTrapRegs t pc x).die = t.die := rfl
@[simp] theorem setTrapRegs_cell (t : Team) (pc : Nat) (x : TrapInfo) : (setTrapRegs t pc x).cell = t.cell := rfl
@[simp] theorem setTrapRegs_pair (t : Team) (pc : Nat) (x : TrapInfo) : (setTrapRegs t pc x).pair = t.pair := rfl
@[simp] theorem setTrapRegs_width (t : Team) (pc : Nat) (x : TrapInfo) : (setTrapRegs t pc x).width = t.width := rfl
@[simp] theorem setTrapRegs_group (t : Team) (pc : Nat) (x : TrapInfo) : (setTrapRegs t pc x).group = t.group := rfl
@[simp] theorem setTrapRegs_prot (t : Team) (pc : Nat) (x : TrapInfo) : (setTrapRegs t pc x).prot = t.prot := rfl
@[simp] theorem setTrapRegs_status (t : Team) (pc : Nat) (x : TrapInfo) : (setTrapRegs t pc x).status = t.status := rfl
@[simp] theorem setTrapRegs_r (t : Team) (pc : Nat) (x : TrapInfo) : (setTrapRegs t pc x).r = t.r := rfl
@[simp] theorem setTrapRegs_sh (t : Team) (pc : Nat) (x : TrapInfo) : (setTrapRegs t pc x).sh = t.sh := rfl
@[simp] theorem setTrapRegs_pc (t : Team) (pc : Nat) (x : TrapInfo) : (setTrapRegs t pc x).pc = t.pc := rfl
@[simp] theorem setTrapRegs_clause (t : Team) (pc : Nat) (x : TrapInfo) : (setTrapRegs t pc x).clause = t.clause := rfl
@[simp] theorem setTrapRegs_stalled (t : Team) (pc : Nat) (x : TrapInfo) : (setTrapRegs t pc x).stalled = t.stalled := rfl
@[simp] theorem setTrapRegs_dead (t : Team) (pc : Nat) (x : TrapInfo) : (setTrapRegs t pc x).dead = t.dead := rfl
@[simp] theorem setTrapRegs_dying (t : Team) (pc : Nat) (x : TrapInfo) : (setTrapRegs t pc x).dying = t.dying := rfl
@[simp] theorem setTrapRegs_xblk (t : Team) (pc : Nat) (x : TrapInfo) : (setTrapRegs t pc x).xblk = t.xblk := rfl
@[simp] theorem setTrapRegs_compact (t : Team) (pc : Nat) (x : TrapInfo) : (setTrapRegs t pc x).compact = t.compact := rfl
@[simp] theorem setTrapRegs_force (t : Team) (pc : Nat) (x : TrapInfo) : (setTrapRegs t pc x).force = t.force := rfl
@[simp] theorem setTrapRegs_rm (t : Team) (pc : Nat) (x : TrapInfo) : (setTrapRegs t pc x).rm = t.rm := rfl
@[simp] theorem setTrapRegs_ftz (t : Team) (pc : Nat) (x : TrapInfo) : (setTrapRegs t pc x).ftz = t.ftz := rfl
@[simp] theorem setTrapRegs_fl (t : Team) (pc : Nat) (x : TrapInfo) : (setTrapRegs t pc x).fl = t.fl := rfl
@[simp] theorem setTrapRegs_deadsrc (t : Team) (pc : Nat) (x : TrapInfo) : (setTrapRegs t pc x).deadsrc = t.deadsrc := rfl
@[simp] theorem setTrapRegs_mxb (t : Team) (pc : Nat) (x : TrapInfo) : (setTrapRegs t pc x).mxb = t.mxb := rfl
@[simp] theorem setTrapRegs_mxt (t : Team) (pc : Nat) (x : TrapInfo) : (setTrapRegs t pc x).mxt = t.mxt := rfl
@[simp] theorem setTrapRegs_handler (t : Team) (pc : Nat) (x : TrapInfo) : (setTrapRegs t pc x).handler = t.handler := rfl
@[simp] theorem setTrapRegs_stop (t : Team) (pc : Nat) (x : TrapInfo) : (setTrapRegs t pc x).stop = t.stop := rfl
@[simp] theorem setTrapRegs_flags (t : Team) (pc : Nat) (x : TrapInfo) : (setTrapRegs t pc x).flags = t.flags := rfl
@[simp] theorem setTrapRegs_issued (t : Team) (pc : Nat) (x : TrapInfo) : (setTrapRegs t pc x).issued = t.issued := rfl
@[simp] theorem setTrapRegs_ops (t : Team) (pc : Nat) (x : TrapInfo) : (setTrapRegs t pc x).ops = t.ops := rfl
@[simp] theorem setTrapRegs_nextOp (t : Team) (pc : Nat) (x : TrapInfo) : (setTrapRegs t pc x).nextOp = t.nextOp := rfl
@[simp] theorem setTrapRegs_deferred (t : Team) (pc : Nat) (x : TrapInfo) : (setTrapRegs t pc x).deferred = t.deferred := rfl
@[simp] theorem setTrapRegs_rays (t : Team) (pc : Nat) (x : TrapInfo) : (setTrapRegs t pc x).rays = t.rays := rfl
@[simp] theorem setTrapRegs_absent (t : Team) (pc : Nat) (x : TrapInfo) : (setTrapRegs t pc x).absent = t.absent := rfl
@[simp] theorem setTrapRegs_savebad (t : Team) (pc : Nat) (x : TrapInfo) : (setTrapRegs t pc x).savebad = t.savebad := rfl
@[simp] theorem setTrapRegs_preempt (t : Team) (pc : Nat) (x : TrapInfo) : (setTrapRegs t pc x).preempt = t.preempt := rfl
@[simp] theorem setTrapRegs_pmark (t : Team) (pc : Nat) (x : TrapInfo) : (setTrapRegs t pc x).pmark = t.pmark := rfl
@[simp] theorem setTrapRegs_timeout (t : Team) (pc : Nat) (x : TrapInfo) : (setTrapRegs t pc x).timeout = t.timeout := rfl
@[simp] theorem setTrapRegs_walks (t : Team) (pc : Nat) (x : TrapInfo) : (setTrapRegs t pc x).walks = t.walks := rfl
@[simp] theorem setTrapRegs_granted (t : Team) (pc : Nat) (x : TrapInfo) : (setTrapRegs t pc x).granted = t.granted := rfl
@[simp] theorem setTrapRegs_barin (t : Team) (pc : Nat) (x : TrapInfo) : (setTrapRegs t pc x).barin = t.barin := rfl
@[simp] theorem setTrapRegs_slept (t : Team) (pc : Nat) (x : TrapInfo) : (setTrapRegs t pc x).slept = t.slept := rfl
@[simp] theorem setTrapRegs_slotwait (t : Team) (pc : Nat) (x : TrapInfo) : (setTrapRegs t pc x).slotwait = t.slotwait := rfl
@[simp] theorem setTrapRegs_pseq (t : Team) (pc : Nat) (x : TrapInfo) : (setTrapRegs t pc x).pseq = t.pseq := rfl
@[simp] theorem setTrapRegs_stopat (t : Team) (pc : Nat) (x : TrapInfo) : (setTrapRegs t pc x).stopat = t.stopat := rfl
@[simp] theorem setTrapRegs_rerun (t : Team) (pc : Nat) (x : TrapInfo) : (setTrapRegs t pc x).rerun = t.rerun := rfl
@[simp] theorem setTrapRegs_saveobs (t : Team) (pc : Nat) (x : TrapInfo) : (setTrapRegs t pc x).saveobs = t.saveobs := rfl
@[simp] theorem setTrapRegs_treeEnded (t : Team) (pc : Nat) (x : TrapInfo) : (setTrapRegs t pc x).treeEnded = t.treeEnded := rfl
@[simp] theorem setTrapRegs_nofrag (t : Team) (pc : Nat) (x : TrapInfo) : (setTrapRegs t pc x).nofrag = t.nofrag := rfl
@[simp] theorem setTrapRegs_early (t : Team) (pc : Nat) (x : TrapInfo) : (setTrapRegs t pc x).early = t.early := rfl
@[simp] theorem setTrapRegs_redo (t : Team) (pc : Nat) (x : TrapInfo) : (setTrapRegs t pc x).redo = t.redo := rfl

/-! ## Registers -/

/-- s63 reads 0 and discards what is written to it; another register reads what was written to it (R27, R45). -/
theorem Regs.sget_sset (r : Regs) (n k : Nat) (x : DWord) :
    (r.sset n x).sget k = if k = 63 then 0 else if k = n then x else r.sget k := by
  unfold Regs.sget Regs.sset
  by_cases hk : k = 63
  · simp [hk]
  · by_cases hn : n = 63
    · have : k ≠ n := by omega
      simp [hk, hn]
    · simp only [hk, hn, if_false, NMap.get_set]

@[simp] theorem sreg_63 (t : Team) : sreg t 63 = 0 := rfl

theorem sreg_setSreg (t : Team) (n k : Nat) (x : DWord) :
    sreg (setSreg t n x) k = if k = 63 then 0 else if k = n then x else sreg t k := Regs.sget_sset t.r n k x

theorem Regs.mget_mset (r : Regs) (w k n : Nat) (x : Mask) :
    (r.mset w k x).mget n = if n = k then x &&& lanesBelow w else r.mget n := by
  unfold Regs.mget Regs.mset
  exact NMap.get_set 0 r.msk k n _

theorem mreg_setMreg (t : Team) (k n : Nat) (x : Mask) :
    mreg (setMreg t k x) n = if n = k then x &&& lanesBelow t.width else mreg t n := Regs.mget_mset t.r t.width k n x

theorem vkey_inj {n l m k : Nat} (hl : l < 1024) (hk : k < 1024) : vkey n l = vkey m k ↔ n = m ∧ l = k := by
  unfold vkey; omega

theorem Regs.vget_vset (r : Regs) {n l m k : Nat} (hl : l < 1024) (hk : k < 1024) (x : Word) :
    (r.vset n l x).vget m k = if m = n ∧ k = l then x else r.vget m k := by
  unfold Regs.vget Regs.vset
  simp only [NMap.get_set, vkey_inj hk hl]

theorem vreg_setVreg (t : Team) {n l m k : Nat} (hl : l < 1024) (hk : k < 1024) (x : Word) :
    vreg (setVreg t n l x) m k = if m = n ∧ k = l then x else vreg t m k := Regs.vget_vset t.r hl hk x

theorem vreg_setVreg64 (t : Team) {n l m k : Nat} (hl : l < 1024) (hk : k < 1024) (x : DWord) :
    vreg (setVreg64 t n l x) m k = if m = n + 1 ∧ k = l then x.extractLsb' 32 32
      else if m = n ∧ k = l then x.extractLsb' 0 32 else vreg t m k := by
  show ((t.r.vset n l (x.extractLsb' 0 32)).vset (n + 1) l (x.extractLsb' 32 32)).vget m k = _
  rw [Regs.vget_vset _ hl hk, Regs.vget_vset _ hl hk]; rfl

@[simp] theorem Regs.sset_v (r : Regs) (n : Nat) (x : DWord) : (r.sset n x).v = r.v := by unfold Regs.sset; split <;> rfl
@[simp] theorem Regs.sset_vpois (r : Regs) (n : Nat) (x : DWord) : (r.sset n x).vpois = r.vpois := by unfold Regs.sset; split <;> rfl
@[simp] theorem Regs.sset_vlat (r : Regs) (n : Nat) (x : DWord) : (r.sset n x).vlat = r.vlat := by unfold Regs.sset; split <;> rfl
@[simp] theorem Regs.sset_vown (r : Regs) (n : Nat) (x : DWord) : (r.sset n x).vown = r.vown := by unfold Regs.sset; split <;> rfl
@[simp] theorem Regs.sset_vbad (r : Regs) (n : Nat) (x : DWord) : (r.sset n x).vbad = r.vbad := by unfold Regs.sset; split <;> rfl
@[simp] theorem Regs.sset_msk (r : Regs) (n : Nat) (x : DWord) : (r.sset n x).msk = r.msk := by unfold Regs.sset; split <;> rfl
@[simp] theorem Regs.sset_stack (r : Regs) (n : Nat) (x : DWord) : (r.sset n x).stack = r.stack := by unfold Regs.sset; split <;> rfl
@[simp] theorem Regs.sset_tile (r : Regs) (n : Nat) (x : DWord) : (r.sset n x).tile = r.tile := by unfold Regs.sset; split <;> rfl
@[simp] theorem Regs.sset_wide (r : Regs) (n : Nat) (x : DWord) : (r.sset n x).wide = r.wide := by unfold Regs.sset; split <;> rfl
@[simp] theorem Regs.mset_v (r : Regs) (w k : Nat) (x : Mask) : (r.mset w k x).v = r.v := rfl
@[simp] theorem Regs.mset_vpois (r : Regs) (w k : Nat) (x : Mask) : (r.mset w k x).vpois = r.vpois := rfl
@[simp] theorem Regs.mset_vlat (r : Regs) (w k : Nat) (x : Mask) : (r.mset w k x).vlat = r.vlat := rfl
@[simp] theorem Regs.mset_vown (r : Regs) (w k : Nat) (x : Mask) : (r.mset w k x).vown = r.vown := rfl
@[simp] theorem Regs.mset_vbad (r : Regs) (w k : Nat) (x : Mask) : (r.mset w k x).vbad = r.vbad := rfl
@[simp] theorem Regs.mset_sr (r : Regs) (w k : Nat) (x : Mask) : (r.mset w k x).sr = r.sr := rfl
@[simp] theorem Regs.mset_stack (r : Regs) (w k : Nat) (x : Mask) : (r.mset w k x).stack = r.stack := rfl
@[simp] theorem Regs.mset_tile (r : Regs) (w k : Nat) (x : Mask) : (r.mset w k x).tile = r.tile := rfl
@[simp] theorem Regs.mset_wide (r : Regs) (w k : Nat) (x : Mask) : (r.mset w k x).wide = r.wide := rfl
@[simp] theorem Regs.vset_sr (r : Regs) (n l : Nat) (x : Word) : (r.vset n l x).sr = r.sr := rfl
@[simp] theorem Regs.vset_sbad (r : Regs) (n l : Nat) (x : Word) : (r.vset n l x).sbad = r.sbad := rfl
@[simp] theorem Regs.vset_msk (r : Regs) (n l : Nat) (x : Word) : (r.vset n l x).msk = r.msk := rfl
@[simp] theorem Regs.vset_stack (r : Regs) (n l : Nat) (x : Word) : (r.vset n l x).stack = r.stack := rfl
@[simp] theorem Regs.vset_tile (r : Regs) (n l : Nat) (x : Word) : (r.vset n l x).tile = r.tile := rfl
@[simp] theorem Regs.vset_wide (r : Regs) (n l : Nat) (x : Word) : (r.vset n l x).wide = r.wide := rfl

end Sys2Proof.Machine
end

