-- ==== Sys2Proof/Laws/Issue.lean ====
section
/-! SUPPORT. What issuing an instruction does once the checks of R99 let it through, and how its outcome enters the machine. -/

namespace Sys2Proof.Machine

/-- Words of team state without error are read with no effect. -/
theorem meet_whole {s : State} {sh : Bool} {b : Bool} : (ks : List Nat) → wholeState (if sh then s.cur.sh.getD {} else s.cur.r) ks = true →
    ks.foldl (meetTeamWord sh) (s, b) = (s, b)
  | [], _ => rfl
  | k :: ks, h => by
    obtain ⟨h1, h2⟩ : (NMap.get none (if sh then s.cur.sh.getD {} else s.cur.r).sbad k == none) = true ∧
        wholeState (if sh then s.cur.sh.getD {} else s.cur.r) ks = true := by
      simpa [wholeState] using h
    have e : meetTeamWord sh (s, b) k = (s, b) := by
      have h1 : NMap.get none (if sh then (s.cur.sh.getD {}).sbad else s.cur.r.sbad) k = none := by
        cases sh <;> simpa using h1
      unfold meetTeamWord
      simp only [h1]
    rw [List.foldl_cons, e]
    exact meet_whole ks h2

theorem perform_of_sound {i : Instr} {s : State} {eff : State → Res} (h : sound s i = true) : perform i s eff = eff s := by
  unfold sound at h
  unfold perform
  cases hs : s.cur.sh with
  | none =>
    simp only [hs] at h
    simp only [readTeamState, meet_whole (sh := false) _ h]
    split <;> rfl
  | some x =>
    simp only [hs, Bool.and_eq_true, Bool.not_eq_true'] at h
    obtain ⟨⟨⟨h1, h2⟩, h3⟩, h4⟩ := h
    have h1 := List.isEmpty_iff.mp h1
    have h4 : wholeState (if true then s.cur.sh.getD {} else s.cur.r) (stateReads s.cur i) = true := by simpa [hs] using h4
    simp only [h1, h2, meet_whole (sh := false) _ h3, meet_whole (sh := true) _ h4]
    simp

/-- An instruction that the checks let through has its effect, and its outcome enters the machine. -/
theorem issue_of_issues {i : Instr} {s : State} {c : Clause} {eff : State → Res} (h : Issues i s c) :
    issue i s eff = finish c (eff s) := by
  obtain ⟨h1, h2, h3, h6, h4, h5⟩ := h
  unfold issue
  simp only [h1, h2, h3, h6, perform_of_sound h5, Bool.false_eq_true, if_false]
  unfold flagFree at h4
  split <;> rename_i hk
  · simp only [hk, Bool.not_eq_true'] at h4
    simp only [h4]
    rfl
  · rfl

theorem running_eq {s : State} {c : Clause} (h : running s = some c) : s.cur.status = .running ∧ s.cur.clause = some c := by
  unfold running at h; split at h
  · exact ⟨‹_ ∧ _›.1, h⟩
  · cases h

theorem Issues.clause {i : Instr} {s : State} {c : Clause} (h : Issues i s c) : s.cur.clause = some c := (running_eq h.1).2
theorem Issues.status {i : Instr} {s : State} {c : Clause} (h : Issues i s c) : s.cur.status = .running := (running_eq h.1).1

theorem clauseOf_of_issues {i : Instr} {s : State} {c : Clause} (h : Issues i s c) : clauseOf s = c := by
  unfold clauseOf; rw [h.clause]; rfl

theorem boundary_of_no_death {s : State} (h : s.cur.dying = []) : boundary s = s := by
  unfold boundary; simp [h]

theorem finish_done {s : State} {c : Clause} (h : s.cur.dying = []) : finish c (.done s) = modCur s advance := by
  show boundary _ = _
  exact boundary_of_no_death (by simp [h])

theorem finish_goto {s : State} {c : Clause} {x : Nat} (h : s.cur.dying = []) : finish c (.goto s x) = modCur s (fun t => jumpTo t x) := by
  show boundary _ = _
  exact boundary_of_no_death (by simp [h])

@[simp] theorem finish_leave {s : State} {c : Clause} : finish c (.leave s) = s := rfl
@[simp] theorem finish_stall {s : State} {c : Clause} : finish c (.stall s) = modCur s stallTeam := rfl
@[simp] theorem finish_trap {s : State} {c : Clause} {x : TrapInfo} : finish c (.trap s x) = takeTrap s (instrPc c) x .instr := rfl

end Sys2Proof.Machine
end

