-- ==== Sys2Proof/Laws/Memory.lean ====
section
/-! SUPPORT. Every operation over memory keeps its canonical form, and what a byte reads as after a write. -/

namespace Sys2Proof.Machine

/-! ## Lists of cells -/

theorem NMap.above_filter {α : Type} (p : Nat × α → Bool) {b : Nat} : (m : NMap α) → NMap.above b m = true → NMap.above b (m.filter p) = true
  | [], _ => rfl
  | (j, y) :: t, h => by
    simp only [NMap.above, Bool.and_eq_true, decide_eq_true_eq] at h
    rw [List.filter_cons]
    split
    · simp only [NMap.above, Bool.and_eq_true, decide_eq_true_eq]
      exact ⟨h.1, NMap.above_filter p t h.2⟩
    · exact NMap.above_le (Nat.le_of_lt h.1) _ (NMap.above_filter p t h.2)

theorem NMap.sorted_filter {α : Type} (p : Nat × α → Bool) : (m : NMap α) → NMap.sorted m = true → NMap.sorted (m.filter p) = true
  | [], _ => rfl
  | (j, y) :: t, h => by
    simp only [NMap.sorted] at h
    rw [List.filter_cons]
    split
    · exact NMap.above_filter p t h
    · exact NMap.sorted_of_above _ (NMap.above_filter p t h)

/-- Dropping entries keeps the canonical form. -/
theorem NMap.wf_filter {α : Type} [DecidableEq α] (d : α) (p : Nat × α → Bool) (m : NMap α) (h : NMap.wf d m = true) :
    NMap.wf d (m.filter p) = true := by
  unfold NMap.wf at h ⊢
  rw [Bool.and_eq_true] at h ⊢
  refine ⟨NMap.sorted_filter p m h.1, ?_⟩
  have h2 := h.2
  rw [List.all_eq_true] at h2 ⊢
  exact fun e he => h2 e (List.mem_filter.mp he).1

theorem cellsSet_wf (m : List Host.Cell) (a : Nat) (b : Byte) (h : NMap.wf emptyByte m = true) : NMap.wf emptyByte (cellsSet m a b) = true :=
  NMap.wf_set emptyByte m a b h

theorem cellsWrite_wf : (w : List Byte) → (m : List Host.Cell) → (a : Nat) → NMap.wf emptyByte m = true →
    NMap.wf emptyByte (cellsWrite m a w) = true
  | [], _, _, h => h
  | b :: t, m, a, h => cellsWrite_wf t (cellsSet m a b) (a + 1) (cellsSet_wf m a b h)

theorem cellsSet_foldl_wf {β : Type} (f : β → Nat) (g : β → Byte) : (w : List β) → (m : List Host.Cell) → NMap.wf emptyByte m = true →
    NMap.wf emptyByte (w.foldl (fun m e => cellsSet m (f e) (g e)) m) = true
  | [], _, h => h
  | e :: t, m, h => cellsSet_foldl_wf f g t _ (cellsSet_wf m (f e) (g e) h)

/-- A byte reads what was last written to it. -/
theorem cellsGet_cellsSet (m : List Host.Cell) (a n : Nat) (b : Byte) :
    cellsGet (cellsSet m a b) n = if n = a then b else cellsGet m n := NMap.get_set emptyByte m a n b

/-- Writing bytes at rising addresses: each address written reads its byte, every other address reads as before. -/
theorem cellsGet_cellsWrite : (w : List Byte) → (m : List Host.Cell) → (a n : Nat) →
    cellsGet (cellsWrite m a w) n = if a ≤ n ∧ n < a + w.length then w.getD (n - a) 0 else cellsGet m n
  | [], m, a, n => by
    rw [if_neg (by simp)]; rfl
  | b :: t, m, a, n => by
    simp only [cellsWrite, cellsGet_cellsWrite t, cellsGet_cellsSet, List.length_cons]
    by_cases h : n = a
    · subst h
      rw [if_neg (by omega), if_pos rfl, if_pos (by omega)]
      simp
    · by_cases h1 : a + 1 ≤ n ∧ n < a + 1 + t.length
      · rw [if_pos h1, if_pos (by omega)]
        rw [show n - a = (n - (a + 1)) + 1 by omega]
        simp
      · rw [if_neg h1, if_neg h, if_neg (by omega)]

/-! ## Operations that leave both memories' bytes alone -/

@[simp] theorem modSite_hbm (s : State) (x : Nat) (f : Site → Site) : (modSite s x f).mem.hbm = s.mem.hbm := rfl
@[simp] theorem modSite_vault (s : State) (x : Nat) (f : Site → Site) : (modSite s x f).mem.vault = s.mem.vault := rfl
@[simp] theorem modCur_memory (s : State) (f : Team → Team) : (modCur s f).mem = s.mem := rfl
@[simp] theorem modTeam_memory (s : State) (t : Nat) (f : Team → Team) : (modTeam s t f).mem = s.mem := rfl
@[simp] theorem mapTeams_memory (s : State) (f : Team → Team) : (mapTeams s f).mem = s.mem := rfl
@[simp] theorem modBlock_memory (s : State) (b : Nat) (f : Block → Block) : (modBlock s b f).mem = s.mem := rfl
@[simp] theorem modLaunch_memory (s : State) (l : Nat) (f : Launch → Launch) : (modLaunch s l f).mem = s.mem := rfl
@[simp] theorem modCell_memory (s : State) (k : Nat) (f : Cell → Cell) : (modCell s k f).mem = s.mem := rfl
@[simp] theorem modDie_memory (s : State) (d : Nat) (f : Die → Die) : (modDie s d f).mem = s.mem := rfl
@[simp] theorem unscrub_hbm (s : State) (site x : Nat) : (unscrub s site x).mem.hbm = s.mem.hbm := rfl
@[simp] theorem unscrub_vault (s : State) (site x : Nat) : (unscrub s site x).mem.vault = s.mem.vault := rfl
@[simp] theorem putLine_hbm (s : State) (site : Nat) (l : SliceLine) : (putLine s site l).mem.hbm = s.mem.hbm := rfl
@[simp] theorem putLine_vault (s : State) (site : Nat) (l : SliceLine) : (putLine s site l).mem.vault = s.mem.vault := rfl
theorem modSite_wf {s : State} {x : Nat} {f : Site → Site} (h : Memory.wf s.mem) : Memory.wf (modSite s x f).mem := h
theorem unscrub_wf {s : State} {site x : Nat} (h : Memory.wf s.mem) : Memory.wf (unscrub s site x).mem := h
theorem putLine_wf {s : State} {site : Nat} {l : SliceLine} (h : Memory.wf s.mem) : Memory.wf (putLine s site l).mem := h
@[simp] theorem noteFound_memory (s : State) (f : Found) : (noteFound s f).mem = s.mem := rfl
@[simp] theorem tick_memory (s : State) : (tick s).2.mem = s.mem := rfl
@[simp] theorem freshId_memory (s : State) : (freshId s).2.mem = s.mem := rfl

@[simp] theorem focus_memory (s : State) (t : Nat) : (focus s t).mem = s.mem := by
  unfold focus
  split
  · rfl
  · split <;> rfl

@[simp] theorem emit_memory (s : State) (src : Nat) (e : Event) : (emit s src e).mem = s.mem := by
  unfold emit
  simp only
  split <;> rfl

@[simp] theorem drainCell_memory (s : State) (d c : Nat) (x : Nat × Nat) : (drainCell s d c x).mem = s.mem := rfl

@[simp] theorem checkCell_memory (s : State) (d c : Nat) (f : Cell → Bool) (x : Nat × Nat) : (checkCell s d c f x).mem = s.mem := by
  unfold checkCell
  simp only
  split
  · rfl
  · split <;> simp

@[simp] theorem countErr_memory (s : State) (d c w : Nat) (e : Err) (x : Nat × Nat) : (countErr s d c w e x).mem = s.mem := by
  unfold countErr
  cases e <;> simp

@[simp] theorem countDeath_memory (s : State) (d c : Nat) : (countDeath s d c).mem = s.mem := by simp [countDeath]

@[simp] theorem countFirst_memory (s : State) (src : Nat) : (countFirst s src).mem = s.mem := by
  unfold countFirst
  split <;> simp

theorem foldl_memory {β : Type} (f : State → β → State) (h : ∀ s b, (f s b).mem = s.mem) : (l : List β) → (s : State) → (l.foldl f s).mem = s.mem
  | [], _ => rfl
  | b :: t, s => by rw [List.foldl_cons, foldl_memory f h t, h]

@[simp] theorem countFound_memory (s : State) (src : Nat) : (countFound s src).mem = s.mem := by
  unfold countFound
  rw [foldl_memory _ (by intro s b; simp)]

@[simp] theorem settleFound_memory (s : State) : (settleFound s).mem = s.mem := by
  unfold settleFound
  rw [foldl_memory _ (by intro s b; simp only [countErr_memory]; split <;> simp)]

/-! ## Errors found leave the bytes alone -/

theorem findHbm_bytes (site : Nat) (s : State) (w : Nat) :
    (findHbm site s w).mem.hbm = s.mem.hbm ∧ (findHbm site s w).mem.vault = s.mem.vault := by
  unfold findHbm
  split <;> simp

theorem foldl_bytes {β : Type} (f : State → β → State) (h : ∀ s b, (f s b).mem.hbm = s.mem.hbm ∧ (f s b).mem.vault = s.mem.vault) :
    (l : List β) → (s : State) → (l.foldl f s).mem.hbm = s.mem.hbm ∧ (l.foldl f s).mem.vault = s.mem.vault
  | [], _ => ⟨rfl, rfl⟩
  | b :: t, s => by
    rw [List.foldl_cons, (foldl_bytes f h t (f s b)).1, (foldl_bytes f h t (f s b)).2]
    exact h s b

theorem findLine_bytes (s : State) (site x : Nat) :
    (findLine s site x).mem.hbm = s.mem.hbm ∧ (findLine s site x).mem.vault = s.mem.vault :=
  foldl_bytes _ (fun s _ => findHbm_bytes site s _) _ s

theorem findSlice_fold_memory (addr : Nat → Nat) (src : Nat) : (l : List (Nat × Option Err)) → (r : SliceLine × State) →
    (l.foldl (fun (r : SliceLine × State) e =>
      match e.2 with
      | some .corrected => (r.1, emit r.2 src { kind := 1, addr := addr e.1 })
      | some .uncorrectable | some .counted => ({ r.1 with pois := r.1.pois ||| BitVec.ofNat 4 (2 ^ e.1) }, emit r.2 src { kind := 4, addr := addr e.1 })
      | none => r) r).2.mem = r.2.mem
  | [], _ => rfl
  | e :: t, r => by
    rw [List.foldl_cons, findSlice_fold_memory addr src t]
    split <;> simp

@[simp] theorem findSlice_memory (s : State) (site : Nat) (l : SliceLine) : (findSlice s site l).2.mem = s.mem :=
  findSlice_fold_memory (fun i => 128 * l.line + 32 * i) (srcSite site) _ _

theorem findVault_bytes (s : State) (key launch lane : Nat) :
    (findVault s key launch lane).mem.hbm = s.mem.hbm ∧ (findVault s key launch lane).mem.vault = s.mem.vault := by
  unfold findVault
  simp only
  split <;> simp

theorem readVault_bytes (s : State) (key n launch lane : Nat) :
    (readVault s key n launch lane).2.mem.hbm = s.mem.hbm ∧ (readVault s key n launch lane).2.mem.vault = s.mem.vault := by
  unfold readVault
  refine foldl_bytes _ (fun s k => ?_) _ s
  split
  · exact findVault_bytes s k launch lane
  · exact ⟨rfl, rfl⟩

/-! ## Every memory operation keeps the canonical form -/

theorem hbmPutLine_wf (s : State) (site x : Nat) (data : List Byte) (p : BitVec 4) (h : Memory.wf s.mem) :
    Memory.wf (hbmPutLine s site x data p).mem := ⟨cellsWrite_wf data s.mem.hbm _ h.1, h.2⟩

theorem evict_wf (s : State) (site : Nat) (l : SliceLine) (h : Memory.wf s.mem) : Memory.wf (evict s site l).mem := by
  unfold evict
  simp only
  by_cases hl : l.st = 1
  · simp only [hl, if_true]
    refine modSite_wf (unscrub_wf ?_)
    split
    · exact hbmPutLine_wf _ _ _ _ _ (by rw [findSlice_memory]; exact h)
    · rw [findSlice_memory]; exact h
  · simp only [hl, if_false]
    exact modSite_wf (unscrub_wf h)

theorem makeRoom_wf (s : State) (site x : Nat) (h : Memory.wf s.mem) : Memory.wf (makeRoom s site x).mem := by
  unfold makeRoom
  simp only
  split
  · exact h
  · split
    · exact h
    · exact evict_wf s site _ h

theorem findLine_wf (s : State) (site x : Nat) (h : Memory.wf s.mem) : Memory.wf (findLine s site x).mem := by
  unfold Memory.wf
  rw [(findLine_bytes s site x).1, (findLine_bytes s site x).2]
  exact h

theorem homeLine_wf (s : State) (site x : Nat) (h : Memory.wf s.mem) : Memory.wf (homeLine s site x).2.mem := by
  unfold homeLine
  split
  · split
    · exact putLine_wf (findLine_wf s site x h)
    · exact putLine_wf (by rw [findSlice_memory]; exact h)
  · exact putLine_wf (unscrub_wf (findLine_wf _ site x (makeRoom_wf s site x h)))

theorem readLine_wf (s : State) (site x o n : Nat) (h : Memory.wf s.mem) : Memory.wf (readLine s site x o n).2.mem :=
  homeLine_wf s site x h

theorem writeLine_wf (s : State) (site x : Nat) (w : List (Nat × PByte)) (h : Memory.wf s.mem) : Memory.wf (writeLine s site x w).mem := by
  exact putLine_wf (unscrub_wf (homeLine_wf s site x h))

theorem readPiece_wf (s : State) (pa n mt : Nat) (h : Memory.wf s.mem) : Memory.wf (readPiece s pa n mt).2.mem := by
  unfold readPiece
  split
  · exact h
  · split
    · exact h
    · split
      · exact h
      · split
        · exact findLine_wf s _ _ h
        · exact readLine_wf s _ _ _ _ h

theorem readPhys_wf (s : State) (pa n mt : Nat) (h : Memory.wf s.mem) : Memory.wf (readPhys s pa n mt).2.mem := by
  have key : ∀ (l : List (Nat × Nat)) (r : List PByte × State), Memory.wf r.2.mem →
      Memory.wf (l.foldl (fun (r : List PByte × State) p => ((r.1 ++ (readPiece r.2 p.1 p.2 mt).1), (readPiece r.2 p.1 p.2 mt).2)) r).2.mem := by
    intro l
    induction l with
    | nil => exact fun _ h => h
    | cons p t ih => exact fun r h => ih _ (readPiece_wf r.2 p.1 p.2 mt h)
  exact key _ _ h

theorem writePiece_wf (s : State) (mt : Nat) (w : List (Nat × PByte)) (h : Memory.wf s.mem) : Memory.wf (writePiece s mt w).mem := by
  unfold writePiece
  split
  · exact h
  · split
    · exact h
    · split
      · exact h
      · split
        · exact h
        · split
          · exact ⟨cellsSet_foldl_wf _ _ _ _ h.1, h.2⟩
          · exact writeLine_wf s _ _ _ h

theorem readVault_wf (s : State) (key n launch lane : Nat) (h : Memory.wf s.mem) : Memory.wf (readVault s key n launch lane).2.mem := by
  unfold Memory.wf
  rw [(readVault_bytes s key n launch lane).1, (readVault_bytes s key n launch lane).2]
  exact h

theorem writeVault_wf (s : State) (key : Nat) (w : List PByte) (h : Memory.wf s.mem) : Memory.wf (writeVault s key w).mem :=
  ⟨h.1, cellsWrite_wf _ s.mem.vault _ h.2⟩

theorem zeroVault_wf (s : State) (key n : Nat) (h : Memory.wf s.mem) : Memory.wf (zeroVault s key n).mem :=
  ⟨h.1, NMap.wf_filter emptyByte _ s.mem.vault h.2⟩

/-- The reset state's memory is canonical. -/
theorem reset_memory_wf : Memory.wf State.reset.mem := by decide

/-! ## What a vault byte reads as after a write -/

/-- Writing vault bytes: each byte written reads its value, every other vault byte reads as before. -/
theorem vaultByte_writeVault (s : State) (key : Nat) (w : List PByte) (k : Nat) :
    vaultByte (writeVault s key w) k = if key ≤ k ∧ k < key + w.length then (w.map (·.1)).getD (k - key) 0 else vaultByte s k := by
  unfold vaultByte writeVault
  simp [cellsGet_cellsWrite]

end Sys2Proof.Machine
end

