-- ==== Sys2Proof/WellFormed.lean ====
section
/-! DEFINITION. The instructions that a program may hold: an instruction with a word, whose fields pass the checks 3 to 5
of R99 in a block of some stage. -/

namespace Sys2Proof

/-- The instruction has a word, no device step (R100). -/
def Instr.encodable (i : Instr) : Bool := (encode i).isSome

/-- Well-formed in a block of a stage: no reserved, illegal or misaligned field (R99). -/
def Instr.wfIn (stage : Nat) (i : Instr) : Bool := i.encodable && (Machine.staticFault stage i).isNone

/-- Well-formed in a block of some stage: `g.attr` has one form in a fragment stage (3) and one elsewhere (R232). -/
def Instr.wf (i : Instr) : Bool := i.wfIn 3 || i.wfIn 0

end Sys2Proof
end

