-- ==== Sys2Proof/Laws/PerInstr.lean ====
section
/-! SUPPORT. What holds of every instruction as syntax, one lemma for each constructor: the block's stage matters to the checks
of R99 only for `g.attr`, which has one form in a fragment stage and another elsewhere (R232). -/

namespace Sys2Proof.Laws.Stage

open Sys2Proof Sys2Proof.Machine

/-- The first failing check among 3, 4 and 5 of R99 does not depend on the block's stage, `g.attr` apart, which asks only
whether the stage is the fragment stage. -/
def Statement (i : Instr) : Prop :=
  ∀ a b, ((∃ f, i = .gAttr f) → (a = 3 ↔ b = 3)) → staticFault a i = staticFault b i

theorem clauseBegin : ∀ f, Statement (.clauseBegin f) := fun _ _ _ _ => rfl
theorem clauseContinue : ∀ f, Statement (.clauseContinue f) := fun _ _ _ _ => rfl
theorem longLatencyCompletion : ∀ x0 x1, Statement (.longLatencyCompletion x0 x1) := fun _ _ _ _ _ => rfl
theorem sAdd : ∀ f, Statement (.sAdd f) := fun _ _ _ _ => rfl
theorem sSub : ∀ f, Statement (.sSub f) := fun _ _ _ _ => rfl
theorem sMul : ∀ f, Statement (.sMul f) := fun _ _ _ _ => rfl
theorem sMulh : ∀ f, Statement (.sMulh f) := fun _ _ _ _ => rfl
theorem sMulhU : ∀ f, Statement (.sMulhU f) := fun _ _ _ _ => rfl
theorem sDiv : ∀ f, Statement (.sDiv f) := fun _ _ _ _ => rfl
theorem sDivU : ∀ f, Statement (.sDivU f) := fun _ _ _ _ => rfl
theorem sRem : ∀ f, Statement (.sRem f) := fun _ _ _ _ => rfl
theorem sRemU : ∀ f, Statement (.sRemU f) := fun _ _ _ _ => rfl
theorem sMin : ∀ f, Statement (.sMin f) := fun _ _ _ _ => rfl
theorem sMinU : ∀ f, Statement (.sMinU f) := fun _ _ _ _ => rfl
theorem sMax : ∀ f, Statement (.sMax f) := fun _ _ _ _ => rfl
theorem sMaxU : ∀ f, Statement (.sMaxU f) := fun _ _ _ _ => rfl
theorem sAnd : ∀ f, Statement (.sAnd f) := fun _ _ _ _ => rfl
theorem sOr : ∀ f, Statement (.sOr f) := fun _ _ _ _ => rfl
theorem sXor : ∀ f, Statement (.sXor f) := fun _ _ _ _ => rfl
theorem sAndn : ∀ f, Statement (.sAndn f) := fun _ _ _ _ => rfl
theorem sShl : ∀ f, Statement (.sShl f) := fun _ _ _ _ => rfl
theorem sShr : ∀ f, Statement (.sShr f) := fun _ _ _ _ => rfl
theorem sSra : ∀ f, Statement (.sSra f) := fun _ _ _ _ => rfl
theorem sMov : ∀ f, Statement (.sMov f) := fun _ _ _ _ => rfl
theorem sLi : ∀ f, Statement (.sLi f) := fun _ _ _ _ => rfl
theorem sLih : ∀ f, Statement (.sLih f) := fun _ _ _ _ => rfl
theorem sBfe : ∀ f, Statement (.sBfe f) := fun _ _ _ _ => rfl
theorem sBfi : ∀ f, Statement (.sBfi f) := fun _ _ _ _ => rfl
theorem sClz : ∀ f, Statement (.sClz f) := fun _ _ _ _ => rfl
theorem sCtz : ∀ f, Statement (.sCtz f) := fun _ _ _ _ => rfl
theorem sPopc : ∀ f, Statement (.sPopc f) := fun _ _ _ _ => rfl
theorem sCmpEq : ∀ f, Statement (.sCmpEq f) := fun _ _ _ _ => rfl
theorem sCmpNe : ∀ f, Statement (.sCmpNe f) := fun _ _ _ _ => rfl
theorem sCmpLt : ∀ f, Statement (.sCmpLt f) := fun _ _ _ _ => rfl
theorem sCmpLe : ∀ f, Statement (.sCmpLe f) := fun _ _ _ _ => rfl
theorem sCmpGt : ∀ f, Statement (.sCmpGt f) := fun _ _ _ _ => rfl
theorem sCmpGe : ∀ f, Statement (.sCmpGe f) := fun _ _ _ _ => rfl
theorem sCmpLtU : ∀ f, Statement (.sCmpLtU f) := fun _ _ _ _ => rfl
theorem sCmpLeU : ∀ f, Statement (.sCmpLeU f) := fun _ _ _ _ => rfl
theorem sCmpGtU : ∀ f, Statement (.sCmpGtU f) := fun _ _ _ _ => rfl
theorem sCmpGeU : ∀ f, Statement (.sCmpGeU f) := fun _ _ _ _ => rfl
theorem sSel : ∀ f, Statement (.sSel f) := fun _ _ _ _ => rfl
theorem sLd : ∀ x0 x1, Statement (.sLd x0 x1) := fun _ _ _ _ _ => rfl
theorem sSt : ∀ x0 x1, Statement (.sSt x0 x1) := fun _ _ _ _ _ => rfl
theorem sLdk : ∀ x0 x1, Statement (.sLdk x0 x1) := fun _ _ _ _ _ => rfl
theorem sRdsys : ∀ f, Statement (.sRdsys f) := fun _ _ _ _ => rfl
theorem sWrsys : ∀ f, Statement (.sWrsys f) := fun _ _ _ _ => rfl
theorem fpflags : ∀ f, Statement (.fpflags f) := fun _ _ _ _ => rfl
theorem teamstat : ∀ f, Statement (.teamstat f) := fun _ _ _ _ => rfl
theorem br : ∀ f, Statement (.br f) := fun _ _ _ _ => rfl
theorem brz : ∀ f, Statement (.brz f) := fun _ _ _ _ => rfl
theorem brnz : ∀ f, Statement (.brnz f) := fun _ _ _ _ => rfl
theorem bany : ∀ f, Statement (.bany f) := fun _ _ _ _ => rfl
theorem ball : ∀ f, Statement (.ball f) := fun _ _ _ _ => rfl
theorem call : ∀ f, Statement (.call f) := fun _ _ _ _ => rfl
theorem ret : ∀ f, Statement (.ret f) := fun _ _ _ _ => rfl
theorem jmpi : ∀ f, Statement (.jmpi f) := fun _ _ _ _ => rfl
theorem exit : ∀ f, Statement (.exit f) := fun _ _ _ _ => rfl
theorem nop : ∀ f, Statement (.nop f) := fun _ _ _ _ => rfl
theorem waitf : ∀ f, Statement (.waitf f) := fun _ _ _ _ => rfl
theorem yield : ∀ f, Statement (.yield f) := fun _ _ _ _ => rfl
theorem brk : ∀ f, Statement (.brk f) := fun _ _ _ _ => rfl
theorem trap : ∀ f, Statement (.trap f) := fun _ _ _ _ => rfl
theorem tret : ∀ f, Statement (.tret f) := fun _ _ _ _ => rfl
theorem bdiv : ∀ f, Statement (.bdiv f) := fun _ _ _ _ => rfl
theorem belse : ∀ f, Statement (.belse f) := fun _ _ _ _ => rfl
theorem bjoin : ∀ f, Statement (.bjoin f) := fun _ _ _ _ => rfl
theorem bloop : ∀ f, Statement (.bloop f) := fun _ _ _ _ => rfl
theorem bbrk : ∀ f, Statement (.bbrk f) := fun _ _ _ _ => rfl
theorem mAnd : ∀ f, Statement (.mAnd f) := fun _ _ _ _ => rfl
theorem mOr : ∀ f, Statement (.mOr f) := fun _ _ _ _ => rfl
theorem mXor : ∀ f, Statement (.mXor f) := fun _ _ _ _ => rfl
theorem mAndn : ∀ f, Statement (.mAndn f) := fun _ _ _ _ => rfl
theorem mNot : ∀ f, Statement (.mNot f) := fun _ _ _ _ => rfl
theorem mMov : ∀ f, Statement (.mMov f) := fun _ _ _ _ => rfl
theorem mFrom : ∀ f, Statement (.mFrom f) := fun _ _ _ _ => rfl
theorem mTo : ∀ f, Statement (.mTo f) := fun _ _ _ _ => rfl
theorem mPopc : ∀ f, Statement (.mPopc f) := fun _ _ _ _ => rfl
theorem mFirst : ∀ f, Statement (.mFirst f) := fun _ _ _ _ => rfl
theorem mCompact : ∀ f, Statement (.mCompact f) := fun _ _ _ _ => rfl
theorem mUncompact : ∀ f, Statement (.mUncompact f) := fun _ _ _ _ => rfl
theorem racq : ∀ f, Statement (.racq f) := fun _ _ _ _ => rfl
theorem registerQueueGrant : ∀ f, Statement (.registerQueueGrant f) := fun _ _ _ _ => rfl
theorem rrel : ∀ f, Statement (.rrel f) := fun _ _ _ _ => rfl
theorem pmark : ∀ f, Statement (.pmark f) := fun _ _ _ _ => rfl
theorem vAdd : ∀ f, Statement (.vAdd f) := fun _ _ _ _ => rfl
theorem vSub : ∀ f, Statement (.vSub f) := fun _ _ _ _ => rfl
theorem vMul : ∀ f, Statement (.vMul f) := fun _ _ _ _ => rfl
theorem vMulh : ∀ f, Statement (.vMulh f) := fun _ _ _ _ => rfl
theorem vMin : ∀ f, Statement (.vMin f) := fun _ _ _ _ => rfl
theorem vMax : ∀ f, Statement (.vMax f) := fun _ _ _ _ => rfl
theorem vAbs : ∀ f, Statement (.vAbs f) := fun _ _ _ _ => rfl
theorem vMad : ∀ f, Statement (.vMad f) := fun _ _ _ _ => rfl
theorem vAnd : ∀ f, Statement (.vAnd f) := fun _ _ _ _ => rfl
theorem vOr : ∀ f, Statement (.vOr f) := fun _ _ _ _ => rfl
theorem vXor : ∀ f, Statement (.vXor f) := fun _ _ _ _ => rfl
theorem vAndn : ∀ f, Statement (.vAndn f) := fun _ _ _ _ => rfl
theorem vShl : ∀ f, Statement (.vShl f) := fun _ _ _ _ => rfl
theorem vShr : ∀ f, Statement (.vShr f) := fun _ _ _ _ => rfl
theorem vSra : ∀ f, Statement (.vSra f) := fun _ _ _ _ => rfl
theorem vCmp : ∀ f, Statement (.vCmp f) := fun _ _ _ _ => rfl
theorem vSel : ∀ f, Statement (.vSel f) := fun _ _ _ _ => rfl
theorem vClz : ∀ f, Statement (.vClz f) := fun _ _ _ _ => rfl
theorem vPopc : ∀ f, Statement (.vPopc f) := fun _ _ _ _ => rfl
theorem vBrev : ∀ f, Statement (.vBrev f) := fun _ _ _ _ => rfl
theorem vBfe : ∀ f, Statement (.vBfe f) := fun _ _ _ _ => rfl
theorem vBfi : ∀ f, Statement (.vBfi f) := fun _ _ _ _ => rfl
theorem vMov : ∀ f, Statement (.vMov f) := fun _ _ _ _ => rfl
theorem vLi : ∀ f, Statement (.vLi f) := fun _ _ _ _ => rfl
theorem vLane : ∀ f, Statement (.vLane f) := fun _ _ _ _ => rfl
theorem vFadd : ∀ f, Statement (.vFadd f) := fun _ _ _ _ => rfl
theorem vFmul : ∀ f, Statement (.vFmul f) := fun _ _ _ _ => rfl
theorem vFma : ∀ f, Statement (.vFma f) := fun _ _ _ _ => rfl
theorem vFmin : ∀ f, Statement (.vFmin f) := fun _ _ _ _ => rfl
theorem vFmax : ∀ f, Statement (.vFmax f) := fun _ _ _ _ => rfl
theorem vFcmp : ∀ f, Statement (.vFcmp f) := fun _ _ _ _ => rfl
theorem vFrnd : ∀ f, Statement (.vFrnd f) := fun _ _ _ _ => rfl
theorem vFrcp : ∀ f, Statement (.vFrcp f) := fun _ _ _ _ => rfl
theorem vFrsq : ∀ f, Statement (.vFrsq f) := fun _ _ _ _ => rfl
theorem vFsqrt : ∀ f, Statement (.vFsqrt f) := fun _ _ _ _ => rfl
theorem vExp2 : ∀ f, Statement (.vExp2 f) := fun _ _ _ _ => rfl
theorem vLog2 : ∀ f, Statement (.vLog2 f) := fun _ _ _ _ => rfl
theorem vSin : ∀ f, Statement (.vSin f) := fun _ _ _ _ => rfl
theorem vCos : ∀ f, Statement (.vCos f) := fun _ _ _ _ => rfl
theorem vTanh : ∀ f, Statement (.vTanh f) := fun _ _ _ _ => rfl
theorem vFclass : ∀ f, Statement (.vFclass f) := fun _ _ _ _ => rfl
theorem vFscale : ∀ f, Statement (.vFscale f) := fun _ _ _ _ => rfl
theorem vFexp : ∀ f, Statement (.vFexp f) := fun _ _ _ _ => rfl
theorem vCvt : ∀ f, Statement (.vCvt f) := fun _ _ _ _ => rfl
theorem vPk : ∀ f, Statement (.vPk f) := fun _ _ _ _ => rfl
theorem vDot2 : ∀ f, Statement (.vDot2 f) := fun _ _ _ _ => rfl
theorem vDot4 : ∀ f, Statement (.vDot4 f) := fun _ _ _ _ => rfl
theorem vMxq : ∀ f, Statement (.vMxq f) := fun _ _ _ _ => rfl
theorem vMxd : ∀ f, Statement (.vMxd f) := fun _ _ _ _ => rfl
theorem vBpk : ∀ f, Statement (.vBpk f) := fun _ _ _ _ => rfl
theorem vBpu : ∀ f, Statement (.vBpu f) := fun _ _ _ _ => rfl
theorem vBpand : ∀ f, Statement (.vBpand f) := fun _ _ _ _ => rfl
theorem shpSet : ∀ f, Statement (.shpSet f) := fun _ _ _ _ => rfl
theorem vTidx : ∀ f, Statement (.vTidx f) := fun _ _ _ _ => rfl
theorem vShfl : ∀ f, Statement (.vShfl f) := fun _ _ _ _ => rfl
theorem vVote : ∀ f, Statement (.vVote f) := fun _ _ _ _ => rfl
theorem vRed : ∀ f, Statement (.vRed f) := fun _ _ _ _ => rfl
theorem vScan : ∀ f, Statement (.vScan f) := fun _ _ _ _ => rfl
theorem ld : ∀ f, Statement (.ld f) := fun _ _ _ _ => rfl
theorem st : ∀ f, Statement (.st f) := fun _ _ _ _ => rfl
theorem prf : ∀ f, Statement (.prf f) := fun _ _ _ _ => rfl
theorem lds : ∀ f, Statement (.lds f) := fun _ _ _ _ => rfl
theorem sts : ∀ f, Statement (.sts f) := fun _ _ _ _ => rfl
theorem ldv : ∀ f, Statement (.ldv f) := fun _ _ _ _ => rfl
theorem aCasv : ∀ f, Statement (.aCasv f) := fun _ _ _ _ => rfl
theorem valset : ∀ f, Statement (.valset f) := fun _ _ _ _ => rfl
theorem aAdd : ∀ f, Statement (.aAdd f) := fun _ _ _ _ => rfl
theorem aMin : ∀ f, Statement (.aMin f) := fun _ _ _ _ => rfl
theorem aMax : ∀ f, Statement (.aMax f) := fun _ _ _ _ => rfl
theorem aAnd : ∀ f, Statement (.aAnd f) := fun _ _ _ _ => rfl
theorem aOr : ∀ f, Statement (.aOr f) := fun _ _ _ _ => rfl
theorem aXor : ∀ f, Statement (.aXor f) := fun _ _ _ _ => rfl
theorem aXchg : ∀ f, Statement (.aXchg f) := fun _ _ _ _ => rfl
theorem aCas : ∀ f, Statement (.aCas f) := fun _ _ _ _ => rfl
theorem aFadd : ∀ f, Statement (.aFadd f) := fun _ _ _ _ => rfl
theorem aInc : ∀ f, Statement (.aInc f) := fun _ _ _ _ => rfl
theorem fence : ∀ f, Statement (.fence f) := fun _ _ _ _ => rfl
theorem fenceX : ∀ f, Statement (.fenceX f) := fun _ _ _ _ => rfl
theorem disc : ∀ f, Statement (.disc f) := fun _ _ _ _ => rfl
theorem wb : ∀ f, Statement (.wb f) := fun _ _ _ _ => rfl
theorem swArm : ∀ f, Statement (.swArm f) := fun _ _ _ _ => rfl
theorem swAdd : ∀ f, Statement (.swAdd f) := fun _ _ _ _ => rfl
theorem swWait : ∀ f, Statement (.swWait f) := fun _ _ _ _ => rfl
theorem swRead : ∀ f, Statement (.swRead f) := fun _ _ _ _ => rfl
theorem syncWordArrival : ∀ f, Statement (.syncWordArrival f) := fun _ _ _ _ => rfl
theorem qInit : ∀ f, Statement (.qInit f) := fun _ _ _ _ => rfl
theorem qPush : ∀ f, Statement (.qPush f) := fun _ _ _ _ => rfl
theorem qPop : ∀ f, Statement (.qPop f) := fun _ _ _ _ => rfl
theorem bar : ∀ f, Statement (.bar f) := fun _ _ _ _ => rfl
theorem barArr : ∀ f, Statement (.barArr f) := fun _ _ _ _ => rfl
theorem barWt : ∀ f, Statement (.barWt f) := fun _ _ _ _ => rfl
theorem gbar : ∀ f, Statement (.gbar f) := fun _ _ _ _ => rfl
theorem treeArrival : ∀ f, Statement (.treeArrival f) := fun _ _ _ _ => rfl
theorem gbarRelease : ∀ f, Statement (.gbarRelease f) := fun _ _ _ _ => rfl
theorem tacq : ∀ f, Statement (.tacq f) := fun _ _ _ _ => rfl
theorem wideTileQueueGrant : ∀ f, Statement (.wideTileQueueGrant f) := fun _ _ _ _ => rfl
theorem trel : ∀ f, Statement (.trel f) := fun _ _ _ _ => rfl
theorem mxZero : ∀ f, Statement (.mxZero f) := fun _ _ _ _ => rfl
theorem mxLd : ∀ f, Statement (.mxLd f) := fun _ _ _ _ => rfl
theorem mxSt : ∀ f, Statement (.mxSt f) := fun _ _ _ _ => rfl
theorem mxMma : ∀ f, Statement (.mxMma f) := fun _ _ _ _ => rfl
theorem mxBpmma : ∀ f, Statement (.mxBpmma f) := fun _ _ _ _ => rfl
theorem mxChk : ∀ f, Statement (.mxChk f) := fun _ _ _ _ => rfl
theorem mxBnd : ∀ f, Statement (.mxBnd f) := fun _ _ _ _ => rfl
theorem mxSlice : ∀ f, Statement (.mxSlice f) := fun _ _ _ _ => rfl
theorem mxDmma : ∀ f, Statement (.mxDmma f) := fun _ _ _ _ => rfl
theorem mxWz : ∀ f, Statement (.mxWz f) := fun _ _ _ _ => rfl
theorem mxRc : ∀ f, Statement (.mxRc f) := fun _ _ _ _ => rfl
theorem cp : ∀ f, Statement (.cp f) := fun _ _ _ _ => rfl
theorem cp2d : ∀ f, Statement (.cp2d f) := fun _ _ _ _ => rfl
theorem cpX : ∀ f, Statement (.cpX f) := fun _ _ _ _ => rfl
theorem skimG : ∀ f, Statement (.skimG f) := fun _ _ _ _ => rfl
theorem skimS : ∀ f, Statement (.skimS f) := fun _ _ _ _ => rfl
theorem engineOperationStart : ∀ x0 x1, Statement (.engineOperationStart x0 x1) := fun _ _ _ _ _ => rfl
theorem engineOperationComplete : ∀ x0 x1, Statement (.engineOperationComplete x0 x1) := fun _ _ _ _ _ => rfl
theorem coll : ∀ f, Statement (.coll f) := fun _ _ _ _ => rfl
theorem collAbort : ∀ f, Statement (.collAbort f) := fun _ _ _ _ => rfl
theorem collectivePacket : ∀ f, Statement (.collectivePacket f) := fun _ _ _ _ => rfl
theorem abortToken : ∀ f, Statement (.abortToken f) := fun _ _ _ _ => rfl
theorem enq : ∀ f, Statement (.enq f) := fun _ _ _ _ => rfl
theorem taskQueueAppend : ∀ f, Statement (.taskQueueAppend f) := fun _ _ _ _ => rfl
theorem gVtx : ∀ f, Statement (.gVtx f) := fun _ _ _ _ => rfl
theorem gAttr : ∀ f, Statement (.gAttr f) := by
  intro f a b h
  have h := h ⟨f, rfl⟩
  have e : (a == 3) = (b == 3) := by
    rw [Bool.eq_iff_iff, beq_iff_eq, beq_iff_eq]; exact h
  have k : chk a (.gAttr f) = chk b (.gAttr f) := by
    show (if (a == 3) = true then _ else _) = (if (b == 3) = true then _ else _)
    rw [e]
  exact congrArg (fun k : Chk => if k.rsv then some 2 else if k.ill then some 5 else if k.mis then some 4 else none) k

theorem gPrim : ∀ f, Statement (.gPrim f) := fun _ _ _ _ => rfl
theorem gDone : ∀ f, Statement (.gDone f) := fun _ _ _ _ => rfl
theorem gOut : ∀ f, Statement (.gOut f) := fun _ _ _ _ => rfl
theorem gKill : ∀ f, Statement (.gKill f) := fun _ _ _ _ => rfl
theorem gZq : ∀ f, Statement (.gZq f) := fun _ _ _ _ => rfl
theorem txSmp : ∀ f, Statement (.txSmp f) := fun _ _ _ _ => rfl
theorem txLd : ∀ f, Statement (.txLd f) := fun _ _ _ _ => rfl
theorem txDim : ∀ f, Statement (.txDim f) := fun _ _ _ _ => rfl
theorem rayTrace : ∀ f, Statement (.rayTrace f) := fun _ _ _ _ => rfl
theorem rayCont : ∀ f, Statement (.rayCont f) := fun _ _ _ _ => rfl
theorem rayHit : ∀ f, Statement (.rayHit f) := fun _ _ _ _ => rfl
theorem tlbi : ∀ f, Statement (.tlbi f) := fun _ _ _ _ => rfl
theorem cinv : ∀ f, Statement (.cinv f) := fun _ _ _ _ => rfl
theorem sleep : ∀ f, Statement (.sleep f) := fun _ _ _ _ => rfl
theorem sleepExpiry : ∀ f, Statement (.sleepExpiry f) := fun _ _ _ _ => rfl
theorem dbgrRd : ∀ f, Statement (.dbgrRd f) := fun _ _ _ _ => rfl
theorem dbgrWr : ∀ f, Statement (.dbgrWr f) := fun _ _ _ _ => rfl
theorem haltNotice : ∀ f, Statement (.haltNotice f) := fun _ _ _ _ => rfl
theorem halt : ∀ f, Statement (.halt f) := fun _ _ _ _ => rfl
theorem pageWalk : ∀ f, Statement (.pageWalk f) := fun _ _ _ _ => rfl
theorem walkResult : ∀ f, Statement (.walkResult f) := fun _ _ _ _ => rfl
theorem launchTake : ∀ x0 x1, Statement (.launchTake x0 x1) := fun _ _ _ _ _ => rfl
theorem clusterOfferRequest : ∀ x0 x1, Statement (.clusterOfferRequest x0 x1) := fun _ _ _ _ _ => rfl
theorem teamStop : ∀ f, Statement (.teamStop f) := fun _ _ _ _ => rfl
theorem blockResume : ∀ x0 x1, Statement (.blockResume x0 x1) := fun _ _ _ _ _ => rfl
theorem reRun : ∀ x0 x1, Statement (.reRun x0 x1) := fun _ _ _ _ _ => rfl
theorem drawMark : ∀ f, Statement (.drawMark f) := fun _ _ _ _ => rfl
theorem blockMark : ∀ f, Statement (.blockMark f) := fun _ _ _ _ => rfl
theorem endMark : ∀ f, Statement (.endMark f) := fun _ _ _ _ => rfl
theorem primitiveRecord : ∀ f, Statement (.primitiveRecord f) := fun _ _ _ _ => rfl
theorem setupReoffer : ∀ f, Statement (.setupReoffer f) := fun _ _ _ _ => rfl
theorem ownerConsume : ∀ f, Statement (.ownerConsume f) := fun _ _ _ _ => rfl
theorem pixelBlockStart : ∀ f, Statement (.pixelBlockStart f) := fun _ _ _ _ => rfl
theorem fragmentMerge : ∀ x0 x1, Statement (.fragmentMerge x0 x1) := fun _ _ _ _ _ => rfl
theorem tileStoreLoad : ∀ x0 x1, Statement (.tileStoreLoad x0 x1) := fun _ _ _ _ _ => rfl
theorem stallingInstructionEffect : ∀ f, Statement (.stallingInstructionEffect f) := fun _ _ _ _ => rfl
theorem dbgctlHalt : ∀ f, Statement (.dbgctlHalt f) := fun _ _ _ _ => rfl
theorem dbgctlResume : ∀ f, Statement (.dbgctlResume f) := fun _ _ _ _ => rfl
theorem homeRequest : ∀ x0 x1 x2, Statement (.homeRequest x0 x1 x2) := fun _ _ _ _ _ _ => rfl
theorem gatherPacket : ∀ x0 x1 x2, Statement (.gatherPacket x0 x1 x2) := fun _ _ _ _ _ _ => rfl
theorem refreshOperation : ∀ x0 x1, Statement (.refreshOperation x0 x1) := fun _ _ _ _ _ => rfl
theorem patrolScrub : ∀ x0 x1, Statement (.patrolScrub x0 x1) := fun _ _ _ _ _ => rfl
theorem scrubWriteBack : ∀ x0 x1, Statement (.scrubWriteBack x0 x1) := fun _ _ _ _ _ => rfl
theorem rotation : ∀ f, Statement (.rotation f) := fun _ _ _ _ => rfl
theorem pmarkTimeout : ∀ f, Statement (.pmarkTimeout f) := fun _ _ _ _ => rfl
theorem heldPreemptRetry : ∀ f, Statement (.heldPreemptRetry f) := fun _ _ _ _ => rfl
theorem tileStoreWriteOut : ∀ x0 x1, Statement (.tileStoreWriteOut x0 x1) := fun _ _ _ _ _ => rfl
theorem linkFailure : ∀ f, Statement (.linkFailure f) := fun _ _ _ _ => rfl
theorem dieDrop : ∀ f, Statement (.dieDrop f) := fun _ _ _ _ => rfl
theorem memorySiteLoss : ∀ f, Statement (.memorySiteLoss f) := fun _ _ _ _ => rfl
theorem responseWatchdog : ∀ x0 x1, Statement (.responseWatchdog x0 x1) := fun _ _ _ _ _ => rfl
theorem barrierWatchdog : ∀ f, Statement (.barrierWatchdog f) := fun _ _ _ _ => rfl
theorem recordsDropped : ∀ f, Statement (.recordsDropped f) := fun _ _ _ _ => rfl
theorem rdmaWrite : ∀ x0 x1 x2 x3, Statement (.rdmaWrite x0 x1 x2 x3) := fun _ _ _ _ _ _ _ => rfl
theorem rdmaWriteWithImmediate : ∀ x0 x1 x2 x3 x4, Statement (.rdmaWriteWithImmediate x0 x1 x2 x3 x4) := fun _ _ _ _ _ _ _ _ => rfl
theorem rdmaRead : ∀ x0 x1 x2 x3, Statement (.rdmaRead x0 x1 x2 x3) := fun _ _ _ _ _ _ _ => rfl
theorem invalidRequest : ∀ f, Statement (.invalidRequest f) := fun _ _ _ _ => rfl
theorem attestation : ∀ x0 x1, Statement (.attestation x0 x1) := fun _ _ _ _ _ => rfl
theorem powerState : ∀ x0 x1 x2, Statement (.powerState x0 x1 x2) := fun _ _ _ _ _ _ => rfl
theorem capAndStep : ∀ x0 x1 x2 x3 x4, Statement (.capAndStep x0 x1 x2 x3 x4) := fun _ _ _ _ _ _ _ _ => rfl
theorem readTelemetry : ∀ f, Statement (.readTelemetry f) := fun _ _ _ _ => rfl
theorem readIdentity : ∀ f, Statement (.readIdentity f) := fun _ _ _ _ => rfl
theorem openConnection : ∀ x0 x1, Statement (.openConnection x0 x1) := fun _ _ _ _ _ => rfl
theorem append : ∀ x0 x1 x2 x3, Statement (.append x0 x1 x2 x3) := fun _ _ _ _ _ _ _ => rfl
theorem preEmpt : ∀ x0 x1 x2, Statement (.preEmpt x0 x1 x2) := fun _ _ _ _ _ _ => rfl
theorem replay : ∀ x0 x1 x2 x3 x4, Statement (.replay x0 x1 x2 x3 x4) := fun _ _ _ _ _ _ _ _ => rfl
theorem resume : ∀ x0 x1 x2 x3 x4, Statement (.resume x0 x1 x2 x3 x4) := fun _ _ _ _ _ _ _ _ => rfl
theorem endLaunch : ∀ x0 x1 x2 x3 x4, Statement (.endLaunch x0 x1 x2 x3 x4) := fun _ _ _ _ _ _ _ _ => rfl
theorem registerMailbox : ∀ x0 x1, Statement (.registerMailbox x0 x1) := fun _ _ _ _ _ => rfl
theorem unregisterMailbox : ∀ x0 x1, Statement (.unregisterMailbox x0 x1) := fun _ _ _ _ _ => rfl
theorem defineInterleaveSet : ∀ x0 x1 x2 x3 x4, Statement (.defineInterleaveSet x0 x1 x2 x3 x4) := fun _ _ _ _ _ _ _ _ => rfl
theorem translationRoot : ∀ x0 x1, Statement (.translationRoot x0 x1) := fun _ _ _ _ _ => rfl
theorem saveArea : ∀ x0 x1 x2 x3, Statement (.saveArea x0 x1 x2 x3) := fun _ _ _ _ _ _ _ => rfl
theorem retireCell : ∀ x0 x1 x2, Statement (.retireCell x0 x1 x2) := fun _ _ _ _ _ _ => rfl
theorem dropDie : ∀ x0 x1, Statement (.dropDie x0 x1) := fun _ _ _ _ _ => rfl
theorem haltDie : ∀ x0 x1, Statement (.haltDie x0 x1) := fun _ _ _ _ _ => rfl
theorem releaseDie : ∀ x0 x1, Statement (.releaseDie x0 x1) := fun _ _ _ _ _ => rfl
theorem patrolPeriod : ∀ x0 x1, Statement (.patrolPeriod x0 x1) := fun _ _ _ _ _ => rfl
theorem powerGood : ∀ x0 x1, Statement (.powerGood x0 x1) := fun _ _ _ _ _ => rfl
theorem dieTraining : ∀ x0 x1 x2, Statement (.dieTraining x0 x1 x2) := fun _ _ _ _ _ _ => rfl
theorem stage1End : Statement (.stage1End) := fun _ _ _ => rfl
theorem powerControllerWindow : ∀ x0 x1, Statement (.powerControllerWindow x0 x1) := fun _ _ _ _ _ => rfl
theorem droopAlarm : ∀ f, Statement (.droopAlarm f) := fun _ _ _ _ => rfl
theorem droopRecovery : ∀ f, Statement (.droopRecovery f) := fun _ _ _ _ => rfl
theorem voltageRecovery : ∀ f, Statement (.voltageRecovery f) := fun _ _ _ _ => rfl
theorem firmwareImageVerification : ∀ x0 x1, Statement (.firmwareImageVerification x0 x1) := fun _ _ _ _ _ => rfl
theorem ack : ∀ f, Statement (.ack f) := fun _ _ _ _ => rfl
theorem congestionNotificationPacket : ∀ f, Statement (.congestionNotificationPacket f) := fun _ _ _ _ => rfl

end Sys2Proof.Laws.Stage
end

