-- ==== Sys2Proof/Laws/Scalar.lean ====
section
/-! SUPPORT. What writing a scalar register of both copies does (R110, R372), once for every scalar instruction. -/

namespace Sys2Proof.Machine

@[simp] theorem bothCopies_dying (f : Team → Team) (t : Team) (h : ∀ u, (f u).dying = u.dying) : (bothCopies f t).dying = t.dying := by
  unfold bothCopies; dsimp only; split <;> simp [h]

/-- Writing S(d) of both copies: the primary's registers, the shadow's, and nothing else. -/
theorem bothCopies_setSreg (d : Nat) (g : Team → DWord) (t : Team) :
    bothCopies (fun u => setSreg u d (g u)) t =
      { t with r := t.r.sset d (g t), sh := t.sh.map (fun h => h.sset d (g { t with r := h, sh := none })) } := by
  cases hs : t.sh <;> simp [bothCopies, setSreg, hs]

/-- A scalar instruction that issues writes its destination and goes on. -/
theorem finish_putScalar {s : State} {c : Clause} (d : Nat) (g : Team → DWord) (h : s.cur.dying = []) :
    finish c (putScalar d g s) = { s with cur := advance { s.cur with
      r := s.cur.r.sset d (g s.cur), sh := s.cur.sh.map (fun h => h.sset d (g { s.cur with r := h, sh := none })) } } := by
  unfold putScalar
  rw [finish_done]
  · show { s with cur := advance (bothCopies (fun t => setSreg t d (g t)) s.cur) } = _
    rw [bothCopies_setSreg]
  · show (bothCopies (fun t => setSreg t d (g t)) s.cur).dying = []
    rw [bothCopies_setSreg]; exact h

end Sys2Proof.Machine
end

