-- ==== Sys2Proof/Laws/Trap.lean ====
section
/-! SUPPORT. What taking a trap does (R43, R310, R311), once for every instruction, and what an operation's start and end do
to the completion flags (R79). -/

namespace Sys2Proof.Machine

/-- No handler: the team stops for the host with code 0x20. -/
theorem takeTrap_noHandler {s : State} {pc : Nat} {x : TrapInfo} {k : TrapKind} (h : s.cur.handler = none)
    (hf : ((curLaunch s).d.fhost && (x.cause == 9 || x.cause == 10)) = false) (hh : (curLaunch s).d.handler = 0) :
    takeTrap s pc x k = stopForHost (modCur s (fun t => trapped t pc x k)) 0x20 k := by
  have h1 : (curLaunch (modCur s (fun t => trapped t pc x k))).d = (curLaunch s).d := rfl
  unfold takeTrap
  show (if (trapped s.cur pc x k).handler.isSome = true then _ else _) = _
  have h2 : (trapped s.cur pc x k).handler = none := h
  rw [h2]
  change (if (none : Option TrapState).isSome = true then _ else
    if ((curLaunch s).d.fhost && (x.cause == 9 || x.cause == 10)) = true then _ else if (curLaunch s).d.handler = 0 then _ else _) = _
  simp [hf, hh]

/-- Inside the handler: the team stops for the host with code 0x22. -/
theorem takeTrap_inHandler {s : State} {pc : Nat} {x : TrapInfo} {k : TrapKind} (h : s.cur.handler.isSome = true) :
    takeTrap s pc x k = stopForHost (modCur s (fun t => trapped t pc x k)) 0x22 k := by
  unfold takeTrap
  show (if (trapped s.cur pc x k).handler.isSome = true then _ else _) = _
  rw [if_pos (show (trapped s.cur pc x k).handler.isSome = true from h)]

/-- Under FHOST a translation or protection fault stops the team for the host with code 0x21. -/
theorem takeTrap_fhost {s : State} {pc : Nat} {x : TrapInfo} {k : TrapKind} (h : s.cur.handler = none)
    (hf : ((curLaunch s).d.fhost && (x.cause == 9 || x.cause == 10)) = true) :
    takeTrap s pc x k = stopForHost (modCur s (fun t => trapped t pc x k)) 0x21 k := by
  unfold takeTrap
  show (if (trapped s.cur pc x k).handler.isSome = true then _ else _) = _
  rw [show (trapped s.cur pc x k).handler = none from h]
  change (if (none : Option TrapState).isSome = true then _ else
    if ((curLaunch s).d.fhost && (x.cause == 9 || x.cause == 10)) = true then _ else _) = _
  simp [hf]

/-- With a handler, outside it, the team enters it. -/
theorem takeTrap_enters {s : State} {pc : Nat} {x : TrapInfo} {k : TrapKind} (h : s.cur.handler = none)
    (hf : ((curLaunch s).d.fhost && (x.cause == 9 || x.cause == 10)) = false) (hh : (curLaunch s).d.handler ≠ 0) :
    takeTrap s pc x k = enterHandler (modCur s (fun t => trapped t pc x k)) (curLaunch s).d.handler k := by
  unfold takeTrap
  show (if (trapped s.cur pc x k).handler.isSome = true then _ else _) = _
  rw [show (trapped s.cur pc x k).handler = none from h]
  change (if (none : Option TrapState).isSome = true then _ else
    if ((curLaunch s).d.fhost && (x.cause == 9 || x.cause == 10)) = true then _ else if (curLaunch s).d.handler = 0 then _ else _) = _
  simp [hf, hh]
  rfl

/-- A trap changes the current team and the records due to the host, nothing else. -/
theorem takeTrap_elsewhere (s : State) (pc : Nat) (x : TrapInfo) (k : TrapKind) :
    ∃ t q, takeTrap s pc x k = { s with cur := t, statusq := q } := by
  unfold takeTrap
  simp only
  split
  · exact ⟨_, _, rfl⟩
  · split
    · exact ⟨_, _, rfl⟩
    · split
      · exact ⟨_, _, rfl⟩
      · exact ⟨_, s.statusq, rfl⟩

@[simp] theorem takeTrap_mem (s : State) (pc : Nat) (x : TrapInfo) (k : TrapKind) : (takeTrap s pc x k).mem = s.mem := by
  obtain ⟨t, q, h⟩ := takeTrap_elsewhere s pc x k
  rw [h]

/-! ## Long-latency operations -/

/-- An operation's start changes the current team alone: the operations, the next number, the flags, the issue counts. -/
theorem addOp_elsewhere (s : State) (fs : Bool) (o : Op) :
    ∃ l n f g, addOp s fs o = { s with cur := { s.cur with ops := s.cur.ops ++ [l], nextOp := n, flags := f, issued := g } } :=
  ⟨_, _, _, _, rfl⟩

@[simp] theorem addOp_mem (s : State) (fs : Bool) (o : Op) : (addOp s fs o).mem = s.mem := rfl
@[simp] theorem addOp_dying (s : State) (fs : Bool) (o : Op) : (addOp s fs o).cur.dying = s.cur.dying := rfl

/-- The selected flag rises by one (R79). -/
theorem addOp_flag {s : State} {fs : Bool} {o : Op} (h : selFlag s fs < 12) :
    NMap.get 0 (addOp s fs o).cur.flags (selFlag s fs) = NMap.get 0 s.cur.flags (selFlag s fs) + 1 := by
  show NMap.get 0 (if selFlag s fs < 12 then NMap.modify 0 s.cur.flags (selFlag s fs) (· + 1) else s.cur.flags) _ = _
  rw [if_pos h, NMap.get_modify, if_pos rfl]

/-- Every other flag stays. -/
theorem addOp_otherFlag {s : State} {fs : Bool} {o : Op} {k : Nat} (h : k ≠ selFlag s fs) :
    NMap.get 0 (addOp s fs o).cur.flags k = NMap.get 0 s.cur.flags k := by
  show NMap.get 0 (if selFlag s fs < 12 then NMap.modify 0 s.cur.flags (selFlag s fs) (· + 1) else s.cur.flags) _ = _
  split
  · rw [NMap.get_modify, if_neg h]
  · rfl

/-- A completing operation's flag falls by one. -/
theorem retireOp_flag {t : Team} {o : Op} {f : Nat} (h : o.flag = some f) :
    NMap.get 0 (retireOp t o).flags f = NMap.get 0 t.flags f - 1 := by
  unfold retireOp
  simp only [h, NMap.get_modify, if_true]

/-- Every other flag stays. -/
theorem retireOp_otherFlag {t : Team} {o : Op} {k : Nat} (h : o.flag ≠ some k) :
    NMap.get 0 (retireOp t o).flags k = NMap.get 0 t.flags k := by
  unfold retireOp
  cases hf : o.flag with
  | none => rfl
  | some f =>
    simp only [NMap.get_modify]
    rw [if_neg]
    intro e
    exact h (by rw [hf, e])

end Sys2Proof.Machine
end

