-- ==== Sys2Proof/Laws/Vector.lean ====
section
/-! SUPPORT. What a vector instruction does where nothing is wrong in the vector registers: the reads find nothing, the
destinations need no filling, and each lane of the mask is written once (R22, R45, R135). -/

namespace Sys2Proof.Machine

/-! ## One lane's word -/

@[simp] theorem vget_vset (r : Regs) (n l : Nat) (x : Word) : (r.vset n l x).vget n l = x := by simp [Regs.vget, Regs.vset]

theorem vget_vset_other (r : Regs) {n l m k : Nat} (x : Word) (h : vkey m k ≠ vkey n l) : (r.vset n l x).vget m k = r.vget m k :=
  NMap.get_set_other 0 r.v h x

theorem vreg_setVreg_other (t : Team) {n l m k : Nat} (x : Word) (h : vkey m k ≠ vkey n l) : vreg (setVreg t n l x) m k = vreg t m k :=
  vget_vset_other t.r x h

/-! ## Where nothing is wrong -/

/-- A read of clean vectors consumes no poison and changes nothing. -/
theorem consume_clean {s : State} (h : CleanVectors s.cur) (rd : List (Nat × Nat × Nat)) : consume s rd = (⟨0, 0⟩, s) := by
  obtain ⟨h1, h2, h3, h4⟩ := h
  simp [consume, h1, h2, h3, h4]

/-- With every granule present a destination needs no filling. -/
theorem prepDest_clean {s : State} (h : s.cur.absent = []) (regs : List Nat) (m : Mask) : prepDest s regs m = s := by
  simp [prepDest, h]

@[simp] theorem dieOff_none (s : State) (x : Mask) (pc : Nat) : dieOff s ⟨0, x⟩ pc = s := by simp [dieOff]

/-- Sources read: DEADSRC rises where a lane reads a dead lane (R46). -/
def noted (ls : List Nat) (srcs : List SrcF) (t : Team) : Team → Team :=
  fun u => srcs.foldl (fun u f => if ls.any (readsDead t f) then { u with deadsrc := true } else u) u

/-- A vector instruction over clean vectors: what it does to each copy over the lanes of the mask, and DEADSRC. -/
theorem vecRun_clean {s : State} (h : CleanVectors s.cur) (m : Team → Mask) (rd : List (Nat × Nat × Nat)) (dest : List Nat)
    (srcs : List SrcF) (g : Mask → Team → Team) :
    vecRun m rd dest srcs g s = .done (modCur s (fun t => noted (lanesOf (m s.cur) s.cur.width) srcs t (bothCopies (fun u => g (m u) u) t))) := by
  have hm (m : Mask) : m &&& ~~~ (0 : Mask) = m := by
    have h0 : ~~~ (0 : Mask) = BitVec.allOnes 1024 := BitVec.not_zero
    rw [h0, BitVec.and_allOnes]
  unfold vecRun
  simp only [consume_clean h, hm, prepDest_clean h.2.2.1, dieOff_none]
  rfl

/-! ## Writing lanes -/

theorem mem_lanesOf {m : Mask} {w l : Nat} : l ∈ lanesOf m w ↔ l < w ∧ m.getLsbD l = true := by
  simp [lanesOf]

theorem lanesOf_nodup (m : Mask) (w : Nat) : (lanesOf m w).Nodup := List.Nodup.sublist List.filter_sublist List.nodup_range

/-- Writing distinct lanes of a register: each lane listed holds its value, every other word is as before. -/
theorem vreg_foldl_setVreg (n : Nat) (h : Nat → Word) : (ls : List Nat) → (∀ l ∈ ls, l < 1024) → (t : Team) → (m k : Nat) → k < 1024 →
    vreg (ls.foldl (fun u l => setVreg u n l (h l)) t) m k = if m = n ∧ k ∈ ls then h k else vreg t m k
  | [], _, t, m, k, _ => by simp
  | l :: ls, hb, t, m, k, hk => by
    rw [List.foldl_cons, vreg_foldl_setVreg n h ls (fun x hx => hb x (List.mem_cons_of_mem _ hx)) _ m k hk]
    by_cases hm : m = n ∧ k ∈ ls
    · rw [if_pos hm, if_pos ⟨hm.1, List.mem_cons_of_mem _ hm.2⟩]
    · rw [if_neg hm]
      by_cases hkl : m = n ∧ k = l
      · rw [if_pos ⟨hkl.1, by rw [hkl.2]; exact List.mem_cons_self⟩, hkl.1, hkl.2]
        exact vget_vset t.r n l (h l)
      · rw [if_neg (by
          rintro ⟨h1, h2⟩
          rcases List.mem_cons.mp h2 with h2 | h2
          · exact hkl ⟨h1, h2⟩
          · exact hm ⟨h1, h2⟩)]
        exact vreg_setVreg_other t _ (fun e => hkl ((vkey_inj hk (hb l List.mem_cons_self)).mp e))

/-- Writing lanes changes the vector words and their marks, nothing else of the team. -/
theorem foldl_setVreg_frame (n : Nat) (h : Nat → Word) : (ls : List Nat) → (t : Team) →
    ∃ v p a o b, ls.foldl (fun u l => setVreg u n l (h l)) t = { t with r := { t.r with v := v, vpois := p, vlat := a, vown := o, vbad := b } }
  | [], t => ⟨t.r.v, t.r.vpois, t.r.vlat, t.r.vown, t.r.vbad, rfl⟩
  | l :: ls, t => by
    obtain ⟨v, p, a, o, b, e⟩ := foldl_setVreg_frame n h ls (setVreg t n l (h l))
    exact ⟨v, p, a, o, b, by rw [List.foldl_cons, e]; rfl⟩

/-- A 32-bit rule of a vector instruction over one copy: each lane of the mask holds its value, every other word is as before. -/
theorem vreg_eachLane32 {ty : Nat} (hty : ty64 ty = false) (vd : Nat) (h : Team → Nat → DWord) (act : Mask) (t : Team) (hw : t.width ≤ 1024)
    (m k : Nat) (hk : k < 1024) :
    vreg (eachLane ty vd h act t) m k = if m = vd ∧ k < t.width ∧ act.getLsbD k = true then (h t k).setWidth 32 else vreg t m k := by
  have e : eachLane ty vd h act t = (lanesOf act t.width).foldl (fun u l => setVreg u vd l ((h t l).setWidth 32)) t := by
    simp only [eachLane, writeTy, hty]; rfl
  rw [e, vreg_foldl_setVreg vd (fun l => (h t l).setWidth 32) _ (fun l hl => Nat.lt_of_lt_of_le (mem_lanesOf.mp hl).1 hw) t m k hk]
  simp only [mem_lanesOf]

end Sys2Proof.Machine
end

