-- ==== Sys2Proof/Tests/Slice0.lean ====
section
/-! SUPPORT. Tests of the model: words of the spec, ill-formed terms, one step on small states, and for each statement a state
and operands that meet its hypotheses together. -/

namespace Sys2Proof.Tests

set_option Elab.async false

open Sys2Proof Sys2Proof.Machine Sys2Proof.Claims

/-! ## Small states -/

/-- Field records with every unnamed field zero. -/
def sr (sd sa sb : BitVec 6) : SR := { sd := sd, sa := sa, i := false, sb := sb, rsv := false, imm := 0 }
def si (sd sa : BitVec 6) (imm : BitVec 32) : SR := { sd := sd, sa := sa, i := true, sb := 0, rsv := false, imm := imm }
def br (creg : BitVec 6) (ckind : BitVec 2) (off : BitVec 44) : BR := { creg := creg, ckind := ckind, off := off }
def vr (ty : BitVec 3) (vd a b : BitVec 7) : VR :=
  { ty := ty, vd := vd, a := ⟨a, 0, 0⟩, b := ⟨b, 0, 0⟩, fs := false, satna := false, nb := false, pred := 0, mod := 0 }
def v1 (ty : BitVec 3) (vd a : BitVec 7) : VR := vr ty vd a 0
def vf (ty : BitVec 3) (vd a b c : BitVec 7) : VF := { ty := ty, vd := vd, a := ⟨a, 0, 0⟩, b := ⟨b, 0, 0⟩, c := ⟨c, 0, 0⟩ }
def mem (width : BitVec 3) (vd : BitVec 7) (base : BitVec 6) (scope : BitVec 3) : MEM :=
  { ox := false, fs := false, width := width, vd := vd, base := base, voff := 0, stream := 0, scope := scope, policy := 0, disp := 0 }
def mx (td : BitVec 4) : MX :=
  { td := td, fa := 0, fb := 0, acc := 0, fs := false, spa := false, ns := 0, sa := 0, sb := 0, sc := 0, mod := 0, imm := 0 }
def eng (sd ss sl sw : BitVec 6) : ENG := { sd := sd, ss := ss, sl := sl, sw := sw, stream := 0, scope := 4, fs := false, mod := 0, imm := 0 }
def sys : SYS := { vd := 0, va := 0, vb := 0, sa := 0, sb := 0, fs := false, mod := 0, pred := 0, imm := 0 }

/-- The class that admits an instruction. -/
def cls (i : Instr) : Nat := match classSet i with | .v => 0 | .l => 1 | .x => 2 | _ => 3
/-- A clause of one instruction. -/
def unit (i : Instr) : Clause := { hdr := 0x1000, cls := cls i, words := [(encode i).getD 0], seta := 0, setb := 1, pipe := some .x }
/-- The 32 lanes of a team. -/
def lanes32 : Mask := 0xFFFFFFFF#1024
/-- A team of 32 lanes at an instruction. -/
def one (i : Instr) : Team :=
  { tid := 1, blk := 1, status := .running, r := { msk := [(0, lanes32)] }, pc := 0x1000, clause := some (unit i) }
/-- The machine with that team in a block of a launch, on die 0. -/
def mach (i : Instr) : State :=
  { cur := one i, blocks := [{ bid := 1, lid := 1, vsize := 768 }]
    launches := [{ lid := 1, d := { nteams := 1, priv := true } }]
    dies := [(0, { live := true, ready := true })], nextId := 2 }
/-- The same with the team changed. -/
def machWith (i : Instr) (f : Team → Team) : State := modCur (mach i) f
/-- The same with scalar registers. -/
def machS (i : Instr) (l : NMap DWord) : State := machWith i (fun t => { t with r := { t.r with sr := l } })
/-- The same with vector words. -/
def machV (i : Instr) (l : NMap Word) : State := machWith i (fun t => { t with r := { t.r with v := l } })
/-- What holds of the state after an instruction. -/
def after {α : Type} (i : Instr) (s : State) (f : State → α) : Option α :=
  match exec i s with
  | .next t => some (f t)
  | _ => none

/-! ## Words of the spec -/

/-- The words that chapters 3 to 8, 12, 16 and 17 print. -/
theorem test_printedWords : ∀ e, e ∈ printedWords → decode e.1 = some e.2 := by decide
/-- R73's printed header. -/
theorem test_header : headerDetail 0xA02003FE00000000 = none ∧ hClass 0xA02003FE00000000 = 0 ∧ hCount 0xA02003FE00000000 = 1
    ∧ hWait 0xA02003FE00000000 0 = true ∧ hSeta 0xA02003FE00000000 = 15 ∧ hSetb 0xA02003FE00000000 = 15 ∧ hS 0xA02003FE00000000 = false := by decide
/-- `s.cmp.lt.u`: OP 0x0C6, SD 1 at 51:46, SA 2 at 45:40, I at 39, IMM 7 (R93, R100). -/
theorem test_decodeScalar : decode 0x0C60_4280_0000_0007#64 = some (.sCmpLtU (si 1 2 7)) := by decide
/-- `brz`: OP 0x181, CREG 5 at 51:46, CKIND 1 at 45:44, OFF −2 (R94). -/
theorem test_decodeBranch : decode 0x1811_5FFF_FFFF_FFFE#64 = some (.brz (br 5 1 (-2))) := by decide
/-- A word whose opcode no row has (R101). -/
theorem test_decodeUnassigned : decode 0xFFFF_FFFF_FFFF_FFFF#64 = none ∧ decode 0#64 = none := by decide
/-- A device step has no word (R100). -/
theorem test_deviceStepHasNoWord : encode (.clauseBegin 0) = none ∧ encode (.pageWalk 0) = none := by decide

/-! ## A word of every encoded instruction

Written from the opcode map of R100 and the formats of R86 and R92 to R98, with a nonzero value in every field. -/

def words1 : List (DWord × Instr) :=
  [ (0x0400_4286_89AB_CDEF#64, .sAdd { sd := 1, sa := 2, i := true, sb := 3, rsv := false, imm := 0x89ABCDEF }),
    (0x0410_4286_89AB_CDEF#64, .sSub { sd := 1, sa := 2, i := true, sb := 3, rsv := false, imm := 0x89ABCDEF }),
    (0x0420_4286_89AB_CDEF#64, .sMul { sd := 1, sa := 2, i := true, sb := 3, rsv := false, imm := 0x89ABCDEF }),
    (0x0430_4286_89AB_CDEF#64, .sMulh { sd := 1, sa := 2, i := true, sb := 3, rsv := false, imm := 0x89ABCDEF }),
    (0x0440_4286_89AB_CDEF#64, .sMulhU { sd := 1, sa := 2, i := true, sb := 3, rsv := false, imm := 0x89ABCDEF }),
    (0x0450_4286_89AB_CDEF#64, .sDiv { sd := 1, sa := 2, i := true, sb := 3, rsv := false, imm := 0x89ABCDEF }),
    (0x0460_4286_89AB_CDEF#64, .sDivU { sd := 1, sa := 2, i := true, sb := 3, rsv := false, imm := 0x89ABCDEF }),
    (0x0470_4286_89AB_CDEF#64, .sRem { sd := 1, sa := 2, i := true, sb := 3, rsv := false, imm := 0x89ABCDEF }),
    (0x0480_4286_89AB_CDEF#64, .sRemU { sd := 1, sa := 2, i := true, sb := 3, rsv := false, imm := 0x89ABCDEF }),
    (0x0490_4286_89AB_CDEF#64, .sMin { sd := 1, sa := 2, i := true, sb := 3, rsv := false, imm := 0x89ABCDEF }),
    (0x04A0_4286_89AB_CDEF#64, .sMinU { sd := 1, sa := 2, i := true, sb := 3, rsv := false, imm := 0x89ABCDEF }),
    (0x04B0_4286_89AB_CDEF#64, .sMax { sd := 1, sa := 2, i := true, sb := 3, rsv := false, imm := 0x89ABCDEF }),
    (0x04C0_4286_89AB_CDEF#64, .sMaxU { sd := 1, sa := 2, i := true, sb := 3, rsv := false, imm := 0x89ABCDEF }),
    (0x0800_4286_89AB_CDEF#64, .sAnd { sd := 1, sa := 2, i := true, sb := 3, rsv := false, imm := 0x89ABCDEF }),
    (0x0810_4286_89AB_CDEF#64, .sOr { sd := 1, sa := 2, i := true, sb := 3, rsv := false, imm := 0x89ABCDEF }),
    (0x0820_4286_89AB_CDEF#64, .sXor { sd := 1, sa := 2, i := true, sb := 3, rsv := false, imm := 0x89ABCDEF }),
    (0x0830_4286_89AB_CDEF#64, .sAndn { sd := 1, sa := 2, i := true, sb := 3, rsv := false, imm := 0x89ABCDEF }),
    (0x0840_4286_89AB_CDEF#64, .sShl { sd := 1, sa := 2, i := true, sb := 3, rsv := false, imm := 0x89ABCDEF }),
    (0x0850_4286_89AB_CDEF#64, .sShr { sd := 1, sa := 2, i := true, sb := 3, rsv := false, imm := 0x89ABCDEF }),
    (0x0860_4286_89AB_CDEF#64, .sSra { sd := 1, sa := 2, i := true, sb := 3, rsv := false, imm := 0x89ABCDEF }),
    (0x0880_4286_89AB_CDEF#64, .sMov { sd := 1, sa := 2, i := true, sb := 3, rsv := false, imm := 0x89ABCDEF }),
    (0x0890_4286_89AB_CDEF#64, .sLi { sd := 1, sa := 2, i := true, sb := 3, rsv := false, imm := 0x89ABCDEF }),
    (0x08A0_4286_89AB_CDEF#64, .sLih { sd := 1, sa := 2, i := true, sb := 3, rsv := false, imm := 0x89ABCDEF }),
    (0x08C0_4286_89AB_CDEF#64, .sBfe { sd := 1, sa := 2, i := true, sb := 3, rsv := false, imm := 0x89ABCDEF }) ]
def words2 : List (DWord × Instr) :=
  [ (0x08D0_4286_89AB_CDEF#64, .sBfi { sd := 1, sa := 2, i := true, sb := 3, rsv := false, imm := 0x89ABCDEF }),
    (0x08E0_4286_89AB_CDEF#64, .sClz { sd := 1, sa := 2, i := true, sb := 3, rsv := false, imm := 0x89ABCDEF }),
    (0x08F0_4286_89AB_CDEF#64, .sCtz { sd := 1, sa := 2, i := true, sb := 3, rsv := false, imm := 0x89ABCDEF }),
    (0x0900_4286_89AB_CDEF#64, .sPopc { sd := 1, sa := 2, i := true, sb := 3, rsv := false, imm := 0x89ABCDEF }),
    (0x0C00_4286_89AB_CDEF#64, .sCmpEq { sd := 1, sa := 2, i := true, sb := 3, rsv := false, imm := 0x89ABCDEF }),
    (0x0C10_4286_89AB_CDEF#64, .sCmpNe { sd := 1, sa := 2, i := true, sb := 3, rsv := false, imm := 0x89ABCDEF }),
    (0x0C20_4286_89AB_CDEF#64, .sCmpLt { sd := 1, sa := 2, i := true, sb := 3, rsv := false, imm := 0x89ABCDEF }),
    (0x0C30_4286_89AB_CDEF#64, .sCmpLe { sd := 1, sa := 2, i := true, sb := 3, rsv := false, imm := 0x89ABCDEF }),
    (0x0C40_4286_89AB_CDEF#64, .sCmpGt { sd := 1, sa := 2, i := true, sb := 3, rsv := false, imm := 0x89ABCDEF }),
    (0x0C50_4286_89AB_CDEF#64, .sCmpGe { sd := 1, sa := 2, i := true, sb := 3, rsv := false, imm := 0x89ABCDEF }),
    (0x0C60_4286_89AB_CDEF#64, .sCmpLtU { sd := 1, sa := 2, i := true, sb := 3, rsv := false, imm := 0x89ABCDEF }),
    (0x0C70_4286_89AB_CDEF#64, .sCmpLeU { sd := 1, sa := 2, i := true, sb := 3, rsv := false, imm := 0x89ABCDEF }),
    (0x0C80_4286_89AB_CDEF#64, .sCmpGtU { sd := 1, sa := 2, i := true, sb := 3, rsv := false, imm := 0x89ABCDEF }),
    (0x0C90_4286_89AB_CDEF#64, .sCmpGeU { sd := 1, sa := 2, i := true, sb := 3, rsv := false, imm := 0x89ABCDEF }),
    (0x0D00_4286_89AB_CDEF#64, .sSel { sd := 1, sa := 2, i := true, sb := 3, rsv := false, imm := 0x89ABCDEF }),
    (0x1000_4286_89AB_CDEF#64, .sLd .b8 { sd := 1, sa := 2, i := true, sb := 3, rsv := false, imm := 0x89ABCDEF }),
    (0x1010_4286_89AB_CDEF#64, .sLd .b16 { sd := 1, sa := 2, i := true, sb := 3, rsv := false, imm := 0x89ABCDEF }),
    (0x1020_4286_89AB_CDEF#64, .sLd .b32 { sd := 1, sa := 2, i := true, sb := 3, rsv := false, imm := 0x89ABCDEF }),
    (0x1030_4286_89AB_CDEF#64, .sLd .b64 { sd := 1, sa := 2, i := true, sb := 3, rsv := false, imm := 0x89ABCDEF }),
    (0x1040_4286_89AB_CDEF#64, .sLd .i8 { sd := 1, sa := 2, i := true, sb := 3, rsv := false, imm := 0x89ABCDEF }),
    (0x1050_4286_89AB_CDEF#64, .sLd .i16 { sd := 1, sa := 2, i := true, sb := 3, rsv := false, imm := 0x89ABCDEF }),
    (0x1060_4286_89AB_CDEF#64, .sLd .i32 { sd := 1, sa := 2, i := true, sb := 3, rsv := false, imm := 0x89ABCDEF }),
    (0x1080_4286_89AB_CDEF#64, .sSt .b8 { sd := 1, sa := 2, i := true, sb := 3, rsv := false, imm := 0x89ABCDEF }),
    (0x1090_4286_89AB_CDEF#64, .sSt .b16 { sd := 1, sa := 2, i := true, sb := 3, rsv := false, imm := 0x89ABCDEF }) ]
def words3 : List (DWord × Instr) :=
  [ (0x10A0_4286_89AB_CDEF#64, .sSt .b32 { sd := 1, sa := 2, i := true, sb := 3, rsv := false, imm := 0x89ABCDEF }),
    (0x10B0_4286_89AB_CDEF#64, .sSt .b64 { sd := 1, sa := 2, i := true, sb := 3, rsv := false, imm := 0x89ABCDEF }),
    (0x1100_4286_89AB_CDEF#64, .sLdk .b32 { sd := 1, sa := 2, i := true, sb := 3, rsv := false, imm := 0x89ABCDEF }),
    (0x1110_4286_89AB_CDEF#64, .sLdk .b64 { sd := 1, sa := 2, i := true, sb := 3, rsv := false, imm := 0x89ABCDEF }),
    (0x1400_4286_89AB_CDEF#64, .sRdsys { sd := 1, sa := 2, i := true, sb := 3, rsv := false, imm := 0x89ABCDEF }),
    (0x1410_4286_89AB_CDEF#64, .sWrsys { sd := 1, sa := 2, i := true, sb := 3, rsv := false, imm := 0x89ABCDEF }),
    (0x1410_4286_0000_0011#64, .fpflags { sd := 1, sa := 2, i := true, sb := 3, rsv := false, imm := 0x11 }),
    (0x1410_4286_0000_000A#64, .teamstat { sd := 1, sa := 2, i := true, sb := 3, rsv := false, imm := 0xa }),
    (0x1801_5FFF_FFFF_FFFE#64, .br { creg := 5, ckind := 1, off := -2 }),
    (0x1811_5FFF_FFFF_FFFE#64, .brz { creg := 5, ckind := 1, off := -2 }),
    (0x1821_5FFF_FFFF_FFFE#64, .brnz { creg := 5, ckind := 1, off := -2 }),
    (0x1831_5FFF_FFFF_FFFE#64, .bany { creg := 5, ckind := 1, off := -2 }),
    (0x1841_5FFF_FFFF_FFFE#64, .ball { creg := 5, ckind := 1, off := -2 }),
    (0x1851_5FFF_FFFF_FFFE#64, .call { creg := 5, ckind := 1, off := -2 }),
    (0x1861_5FFF_FFFF_FFFE#64, .ret { creg := 5, ckind := 1, off := -2 }),
    (0x1871_5FFF_FFFF_FFFE#64, .jmpi { creg := 5, ckind := 1, off := -2 }),
    (0x1881_5FFF_FFFF_FFFE#64, .exit { creg := 5, ckind := 1, off := -2 }),
    (0x1901_5FFF_FFFF_FFFE#64, .bdiv { creg := 5, ckind := 1, off := -2 }),
    (0x1911_5FFF_FFFF_FFFE#64, .belse { creg := 5, ckind := 1, off := -2 }),
    (0x1921_5FFF_FFFF_FFFE#64, .bjoin { creg := 5, ckind := 1, off := -2 }),
    (0x1931_5FFF_FFFF_FFFE#64, .bloop { creg := 5, ckind := 1, off := -2 }),
    (0x1941_5FFF_FFFF_FFFE#64, .bbrk { creg := 5, ckind := 1, off := -2 }),
    (0x1C00_4286_89AB_CDEF#64, .nop { sd := 1, sa := 2, i := true, sb := 3, rsv := false, imm := 0x89ABCDEF }),
    (0x1C10_4286_89AB_CDEF#64, .waitf { sd := 1, sa := 2, i := true, sb := 3, rsv := false, imm := 0x89ABCDEF }) ]
def words4 : List (DWord × Instr) :=
  [ (0x1C20_4286_89AB_CDEF#64, .yield { sd := 1, sa := 2, i := true, sb := 3, rsv := false, imm := 0x89ABCDEF }),
    (0x1C80_4286_89AB_CDEF#64, .mAnd { sd := 1, sa := 2, i := true, sb := 3, rsv := false, imm := 0x89ABCDEF }),
    (0x1C90_4286_89AB_CDEF#64, .mOr { sd := 1, sa := 2, i := true, sb := 3, rsv := false, imm := 0x89ABCDEF }),
    (0x1CA0_4286_89AB_CDEF#64, .mXor { sd := 1, sa := 2, i := true, sb := 3, rsv := false, imm := 0x89ABCDEF }),
    (0x1CB0_4286_89AB_CDEF#64, .mAndn { sd := 1, sa := 2, i := true, sb := 3, rsv := false, imm := 0x89ABCDEF }),
    (0x1CC0_4286_89AB_CDEF#64, .mNot { sd := 1, sa := 2, i := true, sb := 3, rsv := false, imm := 0x89ABCDEF }),
    (0x1CD0_4286_89AB_CDEF#64, .mMov { sd := 1, sa := 2, i := true, sb := 3, rsv := false, imm := 0x89ABCDEF }),
    (0x1CEB_080A_0C25_1AB9#64, .mFrom { ty := 5, vd := 0x42, a := ⟨1, 2, 3⟩, b := ⟨4, 5, 6⟩, fs := true, satna := false, nb := true, pred := 3, mod := 9 }),
    (0x1CFB_080A_0C25_1AB9#64, .mTo { ty := 5, vd := 0x42, a := ⟨1, 2, 3⟩, b := ⟨4, 5, 6⟩, fs := true, satna := false, nb := true, pred := 3, mod := 9 }),
    (0x1D00_4286_89AB_CDEF#64, .mPopc { sd := 1, sa := 2, i := true, sb := 3, rsv := false, imm := 0x89ABCDEF }),
    (0x1D10_4286_89AB_CDEF#64, .mFirst { sd := 1, sa := 2, i := true, sb := 3, rsv := false, imm := 0x89ABCDEF }),
    (0x1D20_4286_89AB_CDEF#64, .mCompact { sd := 1, sa := 2, i := true, sb := 3, rsv := false, imm := 0x89ABCDEF }),
    (0x1D30_4286_89AB_CDEF#64, .mUncompact { sd := 1, sa := 2, i := true, sb := 3, rsv := false, imm := 0x89ABCDEF }),
    (0x1D80_4286_89AB_CDEF#64, .racq { sd := 1, sa := 2, i := true, sb := 3, rsv := false, imm := 0x89ABCDEF }),
    (0x1D90_4286_89AB_CDEF#64, .rrel { sd := 1, sa := 2, i := true, sb := 3, rsv := false, imm := 0x89ABCDEF }),
    (0x1DA0_4286_89AB_CDEF#64, .pmark { sd := 1, sa := 2, i := true, sb := 3, rsv := false, imm := 0x89ABCDEF }),
    (0x200B_080A_0C25_1AB9#64, .vAdd { ty := 5, vd := 0x42, a := ⟨1, 2, 3⟩, b := ⟨4, 5, 6⟩, fs := true, satna := false, nb := true, pred := 3, mod := 9 }),
    (0x201B_080A_0C25_1AB9#64, .vSub { ty := 5, vd := 0x42, a := ⟨1, 2, 3⟩, b := ⟨4, 5, 6⟩, fs := true, satna := false, nb := true, pred := 3, mod := 9 }),
    (0x202B_080A_0C25_1AB9#64, .vMul { ty := 5, vd := 0x42, a := ⟨1, 2, 3⟩, b := ⟨4, 5, 6⟩, fs := true, satna := false, nb := true, pred := 3, mod := 9 }),
    (0x203B_080A_0C25_1AB9#64, .vMulh { ty := 5, vd := 0x42, a := ⟨1, 2, 3⟩, b := ⟨4, 5, 6⟩, fs := true, satna := false, nb := true, pred := 3, mod := 9 }),
    (0x205B_080A_0C25_1AB9#64, .vMin { ty := 5, vd := 0x42, a := ⟨1, 2, 3⟩, b := ⟨4, 5, 6⟩, fs := true, satna := false, nb := true, pred := 3, mod := 9 }),
    (0x206B_080A_0C25_1AB9#64, .vMax { ty := 5, vd := 0x42, a := ⟨1, 2, 3⟩, b := ⟨4, 5, 6⟩, fs := true, satna := false, nb := true, pred := 3, mod := 9 }),
    (0x207B_080A_0C25_1AB9#64, .vAbs { ty := 5, vd := 0x42, a := ⟨1, 2, 3⟩, b := ⟨4, 5, 6⟩, fs := true, satna := false, nb := true, pred := 3, mod := 9 }),
    (0x240B_080A_0C25_1AB9#64, .vAnd { ty := 5, vd := 0x42, a := ⟨1, 2, 3⟩, b := ⟨4, 5, 6⟩, fs := true, satna := false, nb := true, pred := 3, mod := 9 }) ]
def words5 : List (DWord × Instr) :=
  [ (0x241B_080A_0C25_1AB9#64, .vOr { ty := 5, vd := 0x42, a := ⟨1, 2, 3⟩, b := ⟨4, 5, 6⟩, fs := true, satna := false, nb := true, pred := 3, mod := 9 }),
    (0x242B_080A_0C25_1AB9#64, .vXor { ty := 5, vd := 0x42, a := ⟨1, 2, 3⟩, b := ⟨4, 5, 6⟩, fs := true, satna := false, nb := true, pred := 3, mod := 9 }),
    (0x243B_080A_0C25_1AB9#64, .vAndn { ty := 5, vd := 0x42, a := ⟨1, 2, 3⟩, b := ⟨4, 5, 6⟩, fs := true, satna := false, nb := true, pred := 3, mod := 9 }),
    (0x244B_080A_0C25_1AB9#64, .vShl { ty := 5, vd := 0x42, a := ⟨1, 2, 3⟩, b := ⟨4, 5, 6⟩, fs := true, satna := false, nb := true, pred := 3, mod := 9 }),
    (0x245B_080A_0C25_1AB9#64, .vShr { ty := 5, vd := 0x42, a := ⟨1, 2, 3⟩, b := ⟨4, 5, 6⟩, fs := true, satna := false, nb := true, pred := 3, mod := 9 }),
    (0x246B_080A_0C25_1AB9#64, .vSra { ty := 5, vd := 0x42, a := ⟨1, 2, 3⟩, b := ⟨4, 5, 6⟩, fs := true, satna := false, nb := true, pred := 3, mod := 9 }),
    (0x280B_080A_0C25_1AB9#64, .vCmp { ty := 5, vd := 0x42, a := ⟨1, 2, 3⟩, b := ⟨4, 5, 6⟩, fs := true, satna := false, nb := true, pred := 3, mod := 9 }),
    (0x281B_080A_0C25_1AB9#64, .vSel { ty := 5, vd := 0x42, a := ⟨1, 2, 3⟩, b := ⟨4, 5, 6⟩, fs := true, satna := false, nb := true, pred := 3, mod := 9 }),
    (0x284B_080A_0C25_1AB9#64, .vClz { ty := 5, vd := 0x42, a := ⟨1, 2, 3⟩, b := ⟨4, 5, 6⟩, fs := true, satna := false, nb := true, pred := 3, mod := 9 }),
    (0x285B_080A_0C25_1AB9#64, .vPopc { ty := 5, vd := 0x42, a := ⟨1, 2, 3⟩, b := ⟨4, 5, 6⟩, fs := true, satna := false, nb := true, pred := 3, mod := 9 }),
    (0x286B_080A_0C25_1AB9#64, .vBrev { ty := 5, vd := 0x42, a := ⟨1, 2, 3⟩, b := ⟨4, 5, 6⟩, fs := true, satna := false, nb := true, pred := 3, mod := 9 }),
    (0x2C0B_080A_0C25_1AB9#64, .vMov { ty := 5, vd := 0x42, a := ⟨1, 2, 3⟩, b := ⟨4, 5, 6⟩, fs := true, satna := false, nb := true, pred := 3, mod := 9 }),
    (0x2C1B_080A_0C25_1AB9#64, .vLi { ty := 5, vd := 0x42, a := ⟨1, 2, 3⟩, b := ⟨4, 5, 6⟩, fs := true, satna := false, nb := true, pred := 3, mod := 9 }),
    (0x2C2B_080A_0C25_1AB9#64, .vLane { ty := 5, vd := 0x42, a := ⟨1, 2, 3⟩, b := ⟨4, 5, 6⟩, fs := true, satna := false, nb := true, pred := 3, mod := 9 }),
    (0x300B_080A_0C25_1AB9#64, .vFadd { ty := 5, vd := 0x42, a := ⟨1, 2, 3⟩, b := ⟨4, 5, 6⟩, fs := true, satna := false, nb := true, pred := 3, mod := 9 }),
    (0x301B_080A_0C25_1AB9#64, .vFmul { ty := 5, vd := 0x42, a := ⟨1, 2, 3⟩, b := ⟨4, 5, 6⟩, fs := true, satna := false, nb := true, pred := 3, mod := 9 }),
    (0x302B_080A_0C25_1AB9#64, .vFmin { ty := 5, vd := 0x42, a := ⟨1, 2, 3⟩, b := ⟨4, 5, 6⟩, fs := true, satna := false, nb := true, pred := 3, mod := 9 }),
    (0x303B_080A_0C25_1AB9#64, .vFmax { ty := 5, vd := 0x42, a := ⟨1, 2, 3⟩, b := ⟨4, 5, 6⟩, fs := true, satna := false, nb := true, pred := 3, mod := 9 }),
    (0x304B_080A_0C25_1AB9#64, .vFcmp { ty := 5, vd := 0x42, a := ⟨1, 2, 3⟩, b := ⟨4, 5, 6⟩, fs := true, satna := false, nb := true, pred := 3, mod := 9 }),
    (0x340B_080A_0C25_1AB9#64, .vFrnd { ty := 5, vd := 0x42, a := ⟨1, 2, 3⟩, b := ⟨4, 5, 6⟩, fs := true, satna := false, nb := true, pred := 3, mod := 9 }),
    (0x341B_080A_0C25_1AB9#64, .vFrcp { ty := 5, vd := 0x42, a := ⟨1, 2, 3⟩, b := ⟨4, 5, 6⟩, fs := true, satna := false, nb := true, pred := 3, mod := 9 }),
    (0x342B_080A_0C25_1AB9#64, .vFrsq { ty := 5, vd := 0x42, a := ⟨1, 2, 3⟩, b := ⟨4, 5, 6⟩, fs := true, satna := false, nb := true, pred := 3, mod := 9 }),
    (0x343B_080A_0C25_1AB9#64, .vFsqrt { ty := 5, vd := 0x42, a := ⟨1, 2, 3⟩, b := ⟨4, 5, 6⟩, fs := true, satna := false, nb := true, pred := 3, mod := 9 }),
    (0x380B_080A_0C25_1AB9#64, .vExp2 { ty := 5, vd := 0x42, a := ⟨1, 2, 3⟩, b := ⟨4, 5, 6⟩, fs := true, satna := false, nb := true, pred := 3, mod := 9 }) ]
def words6 : List (DWord × Instr) :=
  [ (0x381B_080A_0C25_1AB9#64, .vLog2 { ty := 5, vd := 0x42, a := ⟨1, 2, 3⟩, b := ⟨4, 5, 6⟩, fs := true, satna := false, nb := true, pred := 3, mod := 9 }),
    (0x382B_080A_0C25_1AB9#64, .vSin { ty := 5, vd := 0x42, a := ⟨1, 2, 3⟩, b := ⟨4, 5, 6⟩, fs := true, satna := false, nb := true, pred := 3, mod := 9 }),
    (0x383B_080A_0C25_1AB9#64, .vCos { ty := 5, vd := 0x42, a := ⟨1, 2, 3⟩, b := ⟨4, 5, 6⟩, fs := true, satna := false, nb := true, pred := 3, mod := 9 }),
    (0x384B_080A_0C25_1AB9#64, .vTanh { ty := 5, vd := 0x42, a := ⟨1, 2, 3⟩, b := ⟨4, 5, 6⟩, fs := true, satna := false, nb := true, pred := 3, mod := 9 }),
    (0x3C0B_080A_0C25_1AB9#64, .vFclass { ty := 5, vd := 0x42, a := ⟨1, 2, 3⟩, b := ⟨4, 5, 6⟩, fs := true, satna := false, nb := true, pred := 3, mod := 9 }),
    (0x3C1B_080A_0C25_1AB9#64, .vFscale { ty := 5, vd := 0x42, a := ⟨1, 2, 3⟩, b := ⟨4, 5, 6⟩, fs := true, satna := false, nb := true, pred := 3, mod := 9 }),
    (0x3C2B_080A_0C25_1AB9#64, .vFexp { ty := 5, vd := 0x42, a := ⟨1, 2, 3⟩, b := ⟨4, 5, 6⟩, fs := true, satna := false, nb := true, pred := 3, mod := 9 }),
    (0x400B_080A_0C25_1AB9#64, .vCvt { ty := 5, vd := 0x42, a := ⟨1, 2, 3⟩, b := ⟨4, 5, 6⟩, fs := true, satna := false, nb := true, pred := 3, mod := 9 }),
    (0x401B_080A_0C25_1AB9#64, .vPk { ty := 5, vd := 0x42, a := ⟨1, 2, 3⟩, b := ⟨4, 5, 6⟩, fs := true, satna := false, nb := true, pred := 3, mod := 9 }),
    (0x402B_080A_0C25_1AB9#64, .vMxq { ty := 5, vd := 0x42, a := ⟨1, 2, 3⟩, b := ⟨4, 5, 6⟩, fs := true, satna := false, nb := true, pred := 3, mod := 9 }),
    (0x403B_080A_0C25_1AB9#64, .vMxd { ty := 5, vd := 0x42, a := ⟨1, 2, 3⟩, b := ⟨4, 5, 6⟩, fs := true, satna := false, nb := true, pred := 3, mod := 9 }),
    (0x440B_080A_0C25_1AB9#64, .vBpk { ty := 5, vd := 0x42, a := ⟨1, 2, 3⟩, b := ⟨4, 5, 6⟩, fs := true, satna := false, nb := true, pred := 3, mod := 9 }),
    (0x441B_080A_0C25_1AB9#64, .vBpu { ty := 5, vd := 0x42, a := ⟨1, 2, 3⟩, b := ⟨4, 5, 6⟩, fs := true, satna := false, nb := true, pred := 3, mod := 9 }),
    (0x442B_080A_0C25_1AB9#64, .vBpand { ty := 5, vd := 0x42, a := ⟨1, 2, 3⟩, b := ⟨4, 5, 6⟩, fs := true, satna := false, nb := true, pred := 3, mod := 9 }),
    (0x480B_080A_0C25_1AB9#64, .vShfl { ty := 5, vd := 0x42, a := ⟨1, 2, 3⟩, b := ⟨4, 5, 6⟩, fs := true, satna := false, nb := true, pred := 3, mod := 9 }),
    (0x481B_080A_0C25_1AB9#64, .vVote { ty := 5, vd := 0x42, a := ⟨1, 2, 3⟩, b := ⟨4, 5, 6⟩, fs := true, satna := false, nb := true, pred := 3, mod := 9 }),
    (0x482B_080A_0C25_1AB9#64, .vRed { ty := 5, vd := 0x42, a := ⟨1, 2, 3⟩, b := ⟨4, 5, 6⟩, fs := true, satna := false, nb := true, pred := 3, mod := 9 }),
    (0x483B_080A_0C25_1AB9#64, .vScan { ty := 5, vd := 0x42, a := ⟨1, 2, 3⟩, b := ⟨4, 5, 6⟩, fs := true, satna := false, nb := true, pred := 3, mod := 9 }),
    (0x4C0B_080A_0C25_1AB9#64, .vTidx { ty := 5, vd := 0x42, a := ⟨1, 2, 3⟩, b := ⟨4, 5, 6⟩, fs := true, satna := false, nb := true, pred := 3, mod := 9 }),
    (0x4C10_4286_89AB_CDEF#64, .shpSet { sd := 1, sa := 2, i := true, sb := 3, rsv := false, imm := 0x89ABCDEF }),
    (0x503B_0A18_6CE9_8765#64, .ld { ox := true, fs := true, width := 5, vd := 0x42, base := 0x21, voff := 0x43, stream := 6, scope := 3, policy := 2, disp := 0x98765 }),
    (0x507B_0A18_6CE9_8765#64, .st { ox := true, fs := true, width := 5, vd := 0x42, base := 0x21, voff := 0x43, stream := 6, scope := 3, policy := 2, disp := 0x98765 }),
    (0x50BB_0A18_6CE9_8765#64, .prf { ox := true, fs := true, width := 5, vd := 0x42, base := 0x21, voff := 0x43, stream := 6, scope := 3, policy := 2, disp := 0x98765 }),
    (0x603B_0A18_6CE9_8765#64, .lds { ox := true, fs := true, width := 5, vd := 0x42, base := 0x21, voff := 0x43, stream := 6, scope := 3, policy := 2, disp := 0x98765 }) ]
def words7 : List (DWord × Instr) :=
  [ (0x607B_0A18_6CE9_8765#64, .sts { ox := true, fs := true, width := 5, vd := 0x42, base := 0x21, voff := 0x43, stream := 6, scope := 3, policy := 2, disp := 0x98765 }),
    (0x609B_0A18_6CE9_8765#64, .swArm { ox := false, fs := true, width := 5, vd := 0x42, base := 0x21, voff := 0x43, stream := 6, scope := 3, policy := 2, disp := 0x98765 }),
    (0x60DB_0A18_6CE9_8765#64, .swAdd { ox := false, fs := true, width := 5, vd := 0x42, base := 0x21, voff := 0x43, stream := 6, scope := 3, policy := 2, disp := 0x98765 }),
    (0x611B_0A18_6CE9_8765#64, .swWait { ox := false, fs := true, width := 5, vd := 0x42, base := 0x21, voff := 0x43, stream := 6, scope := 3, policy := 2, disp := 0x98765 }),
    (0x615B_0A18_6CE9_8765#64, .swRead { ox := false, fs := true, width := 5, vd := 0x42, base := 0x21, voff := 0x43, stream := 6, scope := 3, policy := 2, disp := 0x98765 }),
    (0x619B_0A18_6CE9_8765#64, .qInit { ox := false, fs := true, width := 5, vd := 0x42, base := 0x21, voff := 0x43, stream := 6, scope := 3, policy := 2, disp := 0x98765 }),
    (0x61DB_0A18_6CE9_8765#64, .qPush { ox := false, fs := true, width := 5, vd := 0x42, base := 0x21, voff := 0x43, stream := 6, scope := 3, policy := 2, disp := 0x98765 }),
    (0x621B_0A18_6CE9_8765#64, .qPop { ox := false, fs := true, width := 5, vd := 0x42, base := 0x21, voff := 0x43, stream := 6, scope := 3, policy := 2, disp := 0x98765 }),
    (0x641B_0A18_6CE9_8765#64, .bar { ox := false, fs := true, width := 5, vd := 0x42, base := 0x21, voff := 0x43, stream := 6, scope := 3, policy := 2, disp := 0x98765 }),
    (0x645B_0A18_6CE9_8765#64, .barArr { ox := false, fs := true, width := 5, vd := 0x42, base := 0x21, voff := 0x43, stream := 6, scope := 3, policy := 2, disp := 0x98765 }),
    (0x649B_0A18_6CE9_8765#64, .barWt { ox := false, fs := true, width := 5, vd := 0x42, base := 0x21, voff := 0x43, stream := 6, scope := 3, policy := 2, disp := 0x98765 }),
    (0x64DB_0A18_6CE9_8765#64, .gbar { ox := false, fs := true, width := 5, vd := 0x42, base := 0x21, voff := 0x43, stream := 6, scope := 3, policy := 2, disp := 0x98765 }),
    (0x683B_0A18_6CE9_8765#64, .aAdd { ox := true, fs := true, width := 5, vd := 0x42, base := 0x21, voff := 0x43, stream := 6, scope := 3, policy := 2, disp := 0x98765 }),
    (0x687B_0A18_6CE9_8765#64, .aMin { ox := true, fs := true, width := 5, vd := 0x42, base := 0x21, voff := 0x43, stream := 6, scope := 3, policy := 2, disp := 0x98765 }),
    (0x68BB_0A18_6CE9_8765#64, .aMax { ox := true, fs := true, width := 5, vd := 0x42, base := 0x21, voff := 0x43, stream := 6, scope := 3, policy := 2, disp := 0x98765 }),
    (0x68FB_0A18_6CE9_8765#64, .aAnd { ox := true, fs := true, width := 5, vd := 0x42, base := 0x21, voff := 0x43, stream := 6, scope := 3, policy := 2, disp := 0x98765 }),
    (0x693B_0A18_6CE9_8765#64, .aOr { ox := true, fs := true, width := 5, vd := 0x42, base := 0x21, voff := 0x43, stream := 6, scope := 3, policy := 2, disp := 0x98765 }),
    (0x697B_0A18_6CE9_8765#64, .aXor { ox := true, fs := true, width := 5, vd := 0x42, base := 0x21, voff := 0x43, stream := 6, scope := 3, policy := 2, disp := 0x98765 }),
    (0x69BB_0A18_6CE9_8765#64, .aXchg { ox := true, fs := true, width := 5, vd := 0x42, base := 0x21, voff := 0x43, stream := 6, scope := 3, policy := 2, disp := 0x98765 }),
    (0x69FB_0A18_6CE9_8765#64, .aCas { ox := true, fs := true, width := 5, vd := 0x42, base := 0x21, voff := 0x43, stream := 6, scope := 3, policy := 2, disp := 0x98765 }),
    (0x6A3B_0A18_6CE9_8765#64, .aFadd { ox := true, fs := true, width := 5, vd := 0x42, base := 0x21, voff := 0x43, stream := 6, scope := 3, policy := 2, disp := 0x98765 }),
    (0x6A7B_0A18_6CE9_8765#64, .aInc { ox := true, fs := true, width := 5, vd := 0x42, base := 0x21, voff := 0x43, stream := 6, scope := 3, policy := 2, disp := 0x98765 }),
    (0x6C3B_0A18_6CE9_8765#64, .aCasv { ox := true, fs := true, width := 5, vd := 0x42, base := 0x21, voff := 0x43, stream := 6, scope := 3, policy := 2, disp := 0x98765 }),
    (0x6C7B_0A18_6CE9_8765#64, .ldv { ox := true, fs := true, width := 5, vd := 0x42, base := 0x21, voff := 0x43, stream := 6, scope := 3, policy := 2, disp := 0x98765 }) ]
def words8 : List (DWord × Instr) :=
  [ (0x6C9B_0A18_6CE9_8765#64, .valset { ox := false, fs := true, width := 5, vd := 0x42, base := 0x21, voff := 0x43, stream := 6, scope := 3, policy := 2, disp := 0x98765 }),
    (0x701B_0A18_6CE9_8765#64, .fence { ox := false, fs := true, width := 5, vd := 0x42, base := 0x21, voff := 0x43, stream := 6, scope := 3, policy := 2, disp := 0x98765 }),
    (0x705B_0A18_6CE9_8765#64, .fenceX { ox := false, fs := true, width := 5, vd := 0x42, base := 0x21, voff := 0x43, stream := 6, scope := 3, policy := 2, disp := 0x98765 }),
    (0x70BB_0A18_6CE9_8765#64, .disc { ox := true, fs := true, width := 5, vd := 0x42, base := 0x21, voff := 0x43, stream := 6, scope := 3, policy := 2, disp := 0x98765 }),
    (0x70FB_0A18_6CE9_8765#64, .wb { ox := true, fs := true, width := 5, vd := 0x42, base := 0x21, voff := 0x43, stream := 6, scope := 3, policy := 2, disp := 0x98765 }),
    (0x7409_5ACE_4296_AFA5#64, .tacq { td := 9, fa := 5, fb := 10, acc := 6, fs := false, spa := true, ns := 12, sa := 0x21, sb := 0x12, sc := 0x35, mod := 7, imm := 0x1A5 }),
    (0x7419_5ACE_4296_AFA5#64, .trel { td := 9, fa := 5, fb := 10, acc := 6, fs := false, spa := true, ns := 12, sa := 0x21, sb := 0x12, sc := 0x35, mod := 7, imm := 0x1A5 }),
    (0x7429_5ACE_4296_AFA5#64, .mxZero { td := 9, fa := 5, fb := 10, acc := 6, fs := false, spa := true, ns := 12, sa := 0x21, sb := 0x12, sc := 0x35, mod := 7, imm := 0x1A5 }),
    (0x7439_5ACE_4296_AFA5#64, .mxLd { td := 9, fa := 5, fb := 10, acc := 6, fs := false, spa := true, ns := 12, sa := 0x21, sb := 0x12, sc := 0x35, mod := 7, imm := 0x1A5 }),
    (0x7449_5ACE_4296_AFA5#64, .mxSt { td := 9, fa := 5, fb := 10, acc := 6, fs := false, spa := true, ns := 12, sa := 0x21, sb := 0x12, sc := 0x35, mod := 7, imm := 0x1A5 }),
    (0x7809_5ACE_4296_AFA5#64, .mxMma { td := 9, fa := 5, fb := 10, acc := 6, fs := false, spa := true, ns := 12, sa := 0x21, sb := 0x12, sc := 0x35, mod := 7, imm := 0x1A5 }),
    (0x7819_5ACE_4296_AFA5#64, .mxBpmma { td := 9, fa := 5, fb := 10, acc := 6, fs := false, spa := true, ns := 12, sa := 0x21, sb := 0x12, sc := 0x35, mod := 7, imm := 0x1A5 }),
    (0x7C09_5ACE_4296_AFA5#64, .mxChk { td := 9, fa := 5, fb := 10, acc := 6, fs := false, spa := true, ns := 12, sa := 0x21, sb := 0x12, sc := 0x35, mod := 7, imm := 0x1A5 }),
    (0x7C19_5ACE_4296_AFA5#64, .mxBnd { td := 9, fa := 5, fb := 10, acc := 6, fs := false, spa := true, ns := 12, sa := 0x21, sb := 0x12, sc := 0x35, mod := 7, imm := 0x1A5 }),
    (0x8009_5ACE_4296_AFA5#64, .mxSlice { td := 9, fa := 5, fb := 10, acc := 6, fs := false, spa := true, ns := 12, sa := 0x21, sb := 0x12, sc := 0x35, mod := 7, imm := 0x1A5 }),
    (0x8019_5ACE_4296_AFA5#64, .mxDmma { td := 9, fa := 5, fb := 10, acc := 6, fs := false, spa := true, ns := 12, sa := 0x21, sb := 0x12, sc := 0x35, mod := 7, imm := 0x1A5 }),
    (0x8029_5ACE_4296_AFA5#64, .mxWz { td := 9, fa := 5, fb := 10, acc := 6, fs := false, spa := true, ns := 12, sa := 0x21, sb := 0x12, sc := 0x35, mod := 7, imm := 0x1A5 }),
    (0x8039_5ACE_4296_AFA5#64, .mxRc { td := 9, fa := 5, fb := 10, acc := 6, fs := false, spa := true, ns := 12, sa := 0x21, sb := 0x12, sc := 0x35, mod := 7, imm := 0x1A5 }),
    (0x8408_52D4_A9B6_BEEF#64, .cp { sd := 0x21, ss := 0x12, sl := 0x35, sw := 0x0A, stream := 9, scope := 5, fs := true, mod := 6, imm := 0xBEEF }),
    (0x8418_52D4_A9B6_BEEF#64, .cp2d { sd := 0x21, ss := 0x12, sl := 0x35, sw := 0x0A, stream := 9, scope := 5, fs := true, mod := 6, imm := 0xBEEF }),
    (0x8428_52D4_A9B6_BEEF#64, .cpX { sd := 0x21, ss := 0x12, sl := 0x35, sw := 0x0A, stream := 9, scope := 5, fs := true, mod := 6, imm := 0xBEEF }),
    (0x8438_52D4_A9B6_BEEF#64, .skimG { sd := 0x21, ss := 0x12, sl := 0x35, sw := 0x0A, stream := 9, scope := 5, fs := true, mod := 6, imm := 0xBEEF }),
    (0x8448_52D4_A9B6_BEEF#64, .skimS { sd := 0x21, ss := 0x12, sl := 0x35, sw := 0x0A, stream := 9, scope := 5, fs := true, mod := 6, imm := 0xBEEF }),
    (0x8808_52D4_A9B6_BEEF#64, .coll { sd := 0x21, ss := 0x12, sl := 0x35, sw := 0x0A, stream := 9, scope := 5, fs := true, mod := 6, imm := 0xBEEF }) ]
def words9 : List (DWord × Instr) :=
  [ (0x8818_52D4_A9B6_BEEF#64, .collAbort { sd := 0x21, ss := 0x12, sl := 0x35, sw := 0x0A, stream := 9, scope := 5, fs := true, mod := 6, imm := 0xBEEF }),
    (0x8828_52D4_A9B6_BEEF#64, .enq { sd := 0x21, ss := 0x12, sl := 0x35, sw := 0x0A, stream := 9, scope := 5, fs := true, mod := 6, imm := 0xBEEF }),
    (0x8C08_4471_C295_ADA5#64, .gVtx { vd := 0x42, va := 0x11, vb := 0x63, sa := 0x21, sb := 0x12, fs := true, mod := 6, pred := 5, imm := 0x5A5 }),
    (0x8C18_4471_C295_ADA5#64, .gPrim { vd := 0x42, va := 0x11, vb := 0x63, sa := 0x21, sb := 0x12, fs := true, mod := 6, pred := 5, imm := 0x5A5 }),
    (0x8C28_4471_C295_ADA5#64, .gDone { vd := 0x42, va := 0x11, vb := 0x63, sa := 0x21, sb := 0x12, fs := true, mod := 6, pred := 5, imm := 0x5A5 }),
    (0x8C38_4471_C295_ADA5#64, .gAttr { vd := 0x42, va := 0x11, vb := 0x63, sa := 0x21, sb := 0x12, fs := true, mod := 6, pred := 5, imm := 0x5A5 }),
    (0x9008_4471_C295_ADA5#64, .gOut { vd := 0x42, va := 0x11, vb := 0x63, sa := 0x21, sb := 0x12, fs := true, mod := 6, pred := 5, imm := 0x5A5 }),
    (0x9018_4471_C295_ADA5#64, .gKill { vd := 0x42, va := 0x11, vb := 0x63, sa := 0x21, sb := 0x12, fs := true, mod := 6, pred := 5, imm := 0x5A5 }),
    (0x9028_4471_C295_ADA5#64, .gZq { vd := 0x42, va := 0x11, vb := 0x63, sa := 0x21, sb := 0x12, fs := true, mod := 6, pred := 5, imm := 0x5A5 }),
    (0x9408_4471_C295_ADA5#64, .txSmp { vd := 0x42, va := 0x11, vb := 0x63, sa := 0x21, sb := 0x12, fs := true, mod := 6, pred := 5, imm := 0x5A5 }),
    (0x9418_4471_C295_ADA5#64, .txLd { vd := 0x42, va := 0x11, vb := 0x63, sa := 0x21, sb := 0x12, fs := true, mod := 6, pred := 5, imm := 0x5A5 }),
    (0x9428_4471_C295_ADA5#64, .txDim { vd := 0x42, va := 0x11, vb := 0x63, sa := 0x21, sb := 0x12, fs := true, mod := 6, pred := 5, imm := 0x5A5 }),
    (0x9808_4471_C295_ADA5#64, .rayTrace { vd := 0x42, va := 0x11, vb := 0x63, sa := 0x21, sb := 0x12, fs := true, mod := 6, pred := 5, imm := 0x5A5 }),
    (0x9818_4471_C295_ADA5#64, .rayCont { vd := 0x42, va := 0x11, vb := 0x63, sa := 0x21, sb := 0x12, fs := true, mod := 6, pred := 5, imm := 0x5A5 }),
    (0x9828_4471_C295_ADA5#64, .rayHit { vd := 0x42, va := 0x11, vb := 0x63, sa := 0x21, sb := 0x12, fs := true, mod := 6, pred := 5, imm := 0x5A5 }),
    (0x9C08_4471_C295_ADA5#64, .brk { vd := 0x42, va := 0x11, vb := 0x63, sa := 0x21, sb := 0x12, fs := true, mod := 6, pred := 5, imm := 0x5A5 }),
    (0x9C18_4471_C295_ADA5#64, .trap { vd := 0x42, va := 0x11, vb := 0x63, sa := 0x21, sb := 0x12, fs := true, mod := 6, pred := 5, imm := 0x5A5 }),
    (0x9C28_4471_C295_ADA5#64, .tret { vd := 0x42, va := 0x11, vb := 0x63, sa := 0x21, sb := 0x12, fs := true, mod := 6, pred := 5, imm := 0x5A5 }),
    (0x9C88_4471_C295_ADA5#64, .tlbi { vd := 0x42, va := 0x11, vb := 0x63, sa := 0x21, sb := 0x12, fs := true, mod := 6, pred := 5, imm := 0x5A5 }),
    (0x9C98_4471_C295_ADA5#64, .cinv { vd := 0x42, va := 0x11, vb := 0x63, sa := 0x21, sb := 0x12, fs := true, mod := 6, pred := 5, imm := 0x5A5 }),
    (0x9CA8_4471_C295_ADA5#64, .sleep { vd := 0x42, va := 0x11, vb := 0x63, sa := 0x21, sb := 0x12, fs := true, mod := 6, pred := 5, imm := 0x5A5 }),
    (0x9CB8_4471_C295_ADA5#64, .dbgrRd { vd := 0x42, va := 0x11, vb := 0x63, sa := 0x21, sb := 0x12, fs := true, mod := 6, pred := 5, imm := 0x5A5 }),
    (0x9CB8_4471_C295_EDA5#64, .dbgrWr { vd := 0x42, va := 0x11, vb := 0x63, sa := 0x21, sb := 0x12, fs := true, mod := 7, pred := 5, imm := 0x5A5 }),
    (0xF0B0_80A0_C251_83D9#64, .vFma { ty := 5, vd := 0x42, a := ⟨1, 2, 3⟩, b := ⟨4, 5, 6⟩, c := ⟨7, 5, 9⟩ }) ]
def words10 : List (DWord × Instr) :=
  [ (0xF1B0_80A0_C251_83D9#64, .vMad { ty := 5, vd := 0x42, a := ⟨1, 2, 3⟩, b := ⟨4, 5, 6⟩, c := ⟨7, 5, 9⟩ }),
    (0xF2B0_80A0_C251_83D9#64, .vDot2 { ty := 5, vd := 0x42, a := ⟨1, 2, 3⟩, b := ⟨4, 5, 6⟩, c := ⟨7, 5, 9⟩ }),
    (0xF3B0_80A0_C251_83D9#64, .vDot4 { ty := 5, vd := 0x42, a := ⟨1, 2, 3⟩, b := ⟨4, 5, 6⟩, c := ⟨7, 5, 9⟩ }),
    (0xF4B0_80A0_C251_83D9#64, .vBfe { ty := 5, vd := 0x42, a := ⟨1, 2, 3⟩, b := ⟨4, 5, 6⟩, c := ⟨7, 5, 9⟩ }),
    (0xF5B0_80A0_C251_83D9#64, .vBfi { ty := 5, vd := 0x42, a := ⟨1, 2, 3⟩, b := ⟨4, 5, 6⟩, c := ⟨7, 5, 9⟩ }) ]
/-- Every constructor that has a word decodes from the word that its row and its format give. -/
theorem test_everyWordDecodes : ∀ e, e ∈ words1 ++ words2 ++ words3 ++ words4 ++ words5 ++ words6 ++ words7 ++ words8 ++ words9 ++ words10 → decode e.1 = some e.2 := by decide +kernel
theorem test_everyWordEncodes : ∀ e, e ∈ words1 ++ words2 ++ words3 ++ words4 ++ words5 ++ words6 ++ words7 ++ words8 ++ words9 ++ words10 → encode e.2 = some e.1 := by decide +kernel

/-! ## Ill-formed terms, one for each check -/

theorem test_wf : (Instr.vAdd (vr 0 1 2 3)).wf = true ∧ (Instr.sAdd (sr 1 2 3)).wf = true := by decide
/-- A reserved field set: FS of a vector instruction (R99 check 3). -/
theorem test_wfReserved : (Instr.vAdd { vr 0 1 2 3 with fs := true }).wf = false
    ∧ staticFault 0 (.vAdd { vr 0 1 2 3 with fs := true }) = some 2 := by decide
/-- An illegal value: a float type of `v.add`, type code 2 (check 4). -/
theorem test_wfIllegal : (Instr.vAdd (vr 2 1 2 3)).wf = false ∧ staticFault 0 (.vAdd (vr 2 1 2 3)) = some 5 := by decide
/-- A misaligned register: an odd pair (check 5). -/
theorem test_wfMisaligned : (Instr.ld (mem 3 5 4 4)).wf = false ∧ staticFault 0 (.ld (mem 3 5 4 4)) = some 4 := by decide
/-- No word. -/
theorem test_wfNoWord : (Instr.clauseBegin 0).wf = false := by decide
/-- `g.attr` with VD in a fragment stage and in no other (R232). -/
theorem test_wfStage : (Instr.gAttr { sys with vd := 4 }).wfIn 3 = true ∧ (Instr.gAttr { sys with vd := 4 }).wfIn 0 = false := by decide

/-! ## One step on small states -/

/-- Signed division truncates: −7 / 2 = −3, remainder −1 (R110). -/
theorem test_sDiv : after (.sDiv (sr 3 1 2)) (machS (.sDiv (sr 3 1 2)) [(1, -7), (2, 2)]) (fun t => sreg t.cur 3) = some (-3) := by decide +kernel
theorem test_sRem : after (.sRem (sr 3 1 2)) (machS (.sRem (sr 3 1 2)) [(1, -7), (2, 2)]) (fun t => sreg t.cur 3) = some (-1) := by decide +kernel
/-- Division by zero gives −1, all ones, and the dividend as the remainder (R110). -/
theorem test_sDivZero : after (.sDivU (sr 3 1 2)) (machS (.sDivU (sr 3 1 2)) [(1, 7)]) (fun t => sreg t.cur 3) = some (-1) := by decide +kernel
theorem test_sRemZero : after (.sRem (sr 3 1 2)) (machS (.sRem (sr 3 1 2)) [(1, -7)]) (fun t => sreg t.cur 3) = some (-7) := by decide +kernel
/-- The immediate is sign-extended, the sum wraps. -/
theorem test_sAddWraps : after (.sAdd (si 1 1 0xFFFFFFFF)) (machS (.sAdd (si 1 1 0xFFFFFFFF)) []) (fun t => sreg t.cur 1)
    = some 0xFFFFFFFFFFFFFFFF := by decide +kernel
/-- s63 discards a write and reads 0 (R27). -/
theorem test_s63 : after (.sLi (si 63 0 5)) (machS (.sLi (si 63 0 5)) []) (fun t => (sreg t.cur 63, t.cur.r.sr)) = some (0, []) := by decide +kernel
/-- A shift by 64 is a shift by 0 (R110). -/
theorem test_sShl64 : after (.sShl (si 3 1 64)) (machS (.sShl (si 3 1 64)) [(1, 5)]) (fun t => sreg t.cur 3) = some 5 := by decide +kernel
/-- A signed field of 4 bits at offset 4 of 0xF0 is −1 (R114). -/
theorem test_sBfe : after (.sBfe (si 3 1 0x8404)) (machS (.sBfe (si 3 1 0x8404)) [(1, 0xF0)]) (fun t => sreg t.cur 3) = some (-1) := by decide +kernel
/-- Signed and unsigned compares of −1 and 1 (R112). -/
theorem test_sCmp : after (.sCmpLt (sr 3 1 2)) (machS (.sCmpLt (sr 3 1 2)) [(1, -1), (2, 1)]) (fun t => sreg t.cur 3) = some 1
    ∧ after (.sCmpLtU (sr 3 1 2)) (machS (.sCmpLtU (sr 3 1 2)) [(1, -1), (2, 1)]) (fun t => sreg t.cur 3) = some 0 := by decide +kernel
/-- `bdiv` with lanes on both sides: the lanes in the mask go on, the others wait (R124). -/
theorem test_bdiv : after (.bdiv (br 1 0 5)) (machWith (.bdiv (br 1 0 5)) (fun t => { t with r := { t.r with msk := [(0, lanes32), (1, 0xFFFF#1024)] } }))
    (fun t => (mreg t.cur 0, t.cur.r.stack, t.cur.pc)) = some (0xFFFF#1024, [⟨.div, lanes32, 0xFFFF0000#1024⟩], 0x1010) := by decide +kernel
/-- `bdiv` with no lane in the mask jumps (R124). -/
theorem test_bdivNone : after (.bdiv (br 1 0 5)) (mach (.bdiv (br 1 0 5))) (fun t => (mreg t.cur 0, t.cur.pc)) = some (lanes32, 0x1028) := by decide +kernel
/-- `v.add.i32` in lane 3, and a lane outside m0 (R20, R139). -/
theorem test_vAdd : after (.vAdd (vr 0 5 1 2)) (machV (.vAdd (vr 0 5 1 2)) [(1027, 40), (1063, 1), (2051, 2)]) (fun t => (vreg t.cur 5 3, vreg t.cur 5 39))
    = some (42, 0) := by decide +kernel
/-- `v.sub` saturates at the type's minimum (R48). -/
theorem test_vSubSat : after (.vSub { vr 0 5 1 2 with satna := true }) (machV (.vSub { vr 0 5 1 2 with satna := true }) [(1024, 0x80000000), (2048, 1)])
    (fun t => vreg t.cur 5 0) = some 0x80000000 := by decide +kernel
/-- 1.5 + 2.25 = 3.75 in f32 (R50). -/
theorem test_vFadd : after (.vFadd (vr 2 5 1 2)) (machV (.vFadd (vr 2 5 1 2)) [(1024, 0x3FC00000), (2048, 0x40100000)])
    (fun t => (vreg t.cur 5 0, t.cur.fl)) = some (0x40700000, 0) := by decide +kernel
/-- A masked destination of 0 is Illegal Operand with DETAIL 4 (R20, R128). -/
theorem test_mAndM0 : after (.mAnd (sr 0 1 2)) (mach (.mAnd (sr 0 1 2))) (fun t => (t.cur.trapcause, t.cur.status))
    = some (0x403, .stopped 0x20) := by decide +kernel
/-- A clause of class v does not admit `ld`: Illegal Instruction with DETAIL 3 (R75, R99). -/
theorem test_class : after (.ld (mem 2 5 4 4)) (machWith (.ld (mem 2 5 4 4)) (fun t => { t with clause := some { unit (.ld (mem 2 5 4 4)) with cls := 0 } }))
    (fun t => t.cur.trapcause) = some 0x301 := by decide +kernel

/-! ## States that meet the hypotheses: the scalar unit, control, traps -/

def scalars : List Instr :=
  [.sAdd (sr 1 2 3), .sSub (sr 1 2 3), .sMul (sr 1 2 3), .sMulh (sr 1 2 3), .sMulhU (sr 1 2 3), .sDiv (sr 1 2 3), .sDivU (sr 1 2 3),
   .sRem (sr 1 2 3), .sRemU (si 63 2 3), .sMin (sr 1 2 3), .sMinU (sr 1 2 3), .sMax (sr 1 2 3), .sMaxU (sr 1 2 3), .sAnd (sr 1 2 3),
   .sOr (sr 1 2 3), .sXor (sr 1 2 3), .sAndn (sr 1 2 3), .sShl (si 1 2 64), .sShr (sr 1 2 3), .sSra (sr 1 2 3), .sMov (sr 1 2 0),
   .sLi (si 1 0 7), .sLih (si 1 0 7), .sBfe (si 1 2 0x8404), .sBfi (sr 1 2 3), .sClz (sr 1 2 0), .sCtz (sr 1 2 0), .sPopc (sr 1 2 0),
   .sCmpEq (sr 1 2 3), .sCmpNe (sr 1 2 3), .sCmpLt (sr 1 2 3), .sCmpLe (sr 1 2 3), .sCmpGt (sr 1 2 3), .sCmpGe (sr 1 2 3),
   .sCmpLtU (sr 1 2 3), .sCmpLeU (sr 1 2 3), .sCmpGtU (sr 1 2 3), .sCmpGeU (sr 1 2 3), .sSel (sr 1 2 3)]

theorem met_scalarResults : ∀ i, i ∈ scalars → Issues i (mach i) (unit i) ∧ (mach i).cur.dying = []
    ∧ (scalarWrite (sreg (mach i).cur) i).isSome = true := by decide +kernel
/-- A protected team, whose copies are both written (R372). -/
theorem met_scalarResultsProtected : Issues (.sAdd (sr 1 2 3)) (machWith (.sAdd (sr 1 2 3)) (fun t => { t with prot := true, sh := some t.r })) (unit (.sAdd (sr 1 2 3))) := by
  decide +kernel

def branches : List Instr :=
  [.br (br 0 0 5), .brz (br 1 0 5), .brnz (br 1 1 5), .bany (br 1 0 5), .ball (br 1 1 5), .call (br 2 0 5), .ret (br 1 0 0), .jmpi (br 1 0 (-1))]
theorem met_branchesGo : ∀ i, i ∈ branches → Issues i (machS i [(1, 0x2000)]) (unit i) ∧ (machS i [(1, 0x2000)]).cur.dying = []
    ∧ (branchGoes (machS i [(1, 0x2000)]).cur (unit i) i).isSome = true := by decide +kernel

/-- An address at 2^56, and one that is misaligned. -/
theorem met_controlTraps : (∀ i, i ∈ [Instr.ret (br 1 0 0), .jmpi (br 1 0 0)] →
      Issues i (machS i [(1, 0x100000000000000)]) (unit i) ∧ jumpsTo (machS i [(1, 0x100000000000000)]).cur i = some (2 ^ 56)
      ∧ Issues i (machS i [(1, 0x2001)]) (unit i) ∧ jumpsTo (machS i [(1, 0x2001)]).cur i = some 0x2001)
    ∧ (∀ f, f ∈ [{ sys with imm := 255 }] → Issues (.brk f) (mach (.brk f)) (unit (.brk f)) ∧ Issues (.trap f) (mach (.trap f)) (unit (.trap f))) := by
  decide +kernel

/-- A team with a divergence stack. -/
def stacked (i : Instr) (l : List DivEntry) : State :=
  machWith i (fun t => { t with r := { t.r with msk := [(0, lanes32), (1, 0xFF#1024)], stack := l } })
def fullStack : List DivEntry := List.replicate 32 ⟨.div, 0, 0⟩

theorem met_depthTraps :
    (∀ e, e ∈ [(Instr.bdiv (br 1 0 5), fullStack, 1), (.bloop (br 0 0 5), fullStack, 1), (.belse (br 0 0 5), [], 2), (.bjoin (br 0 0 0), [], 2),
        (.bbrk (br 1 0 5), [], 2), (.belse (br 0 0 5), [⟨.loop, 0, 0⟩], 3), (.bbrk (br 1 0 5), [⟨.div, 0, 0⟩], 3)] →
      Issues e.1 (stacked e.1 e.2.1) (unit e.1) ∧ depthDetail (stacked e.1 e.2.1).cur e.1 = some e.2.2) := by decide +kernel

theorem met_divergenceResults :
    (∀ e, e ∈ [(Instr.bdiv (br 1 0 5), ([] : List DivEntry)), (.bdiv (br 2 0 5), []), (.belse (br 0 0 5), [⟨.div, lanes32, 0xFF#1024⟩]),
        (.belse (br 0 0 5), [⟨.div, lanes32, 0⟩]), (.bjoin (br 0 0 0), [⟨.div, lanes32, 0⟩]), (.bloop (br 0 0 5), fullStack.drop 1),
        (.bbrk (br 1 0 5), [⟨.loop, lanes32, 0⟩]), (.bbrk (br 0 0 5), [⟨.loop, lanes32, 0⟩])] →
      Issues e.1 (stacked e.1 e.2) (unit e.1) ∧ (stacked e.1 e.2).cur.dying = [] ∧ (diverged (stacked e.1 e.2).cur (unit e.1) e.1).isSome = true) := by
  decide +kernel

def maskOps (d : BitVec 6) : List Instr :=
  [.mAnd (sr d 2 3), .mOr (sr d 2 3), .mXor (sr d 2 3), .mAndn (sr d 2 3), .mNot (sr d 2 0), .mMov (sr d 2 0)]
theorem met_maskInstructions :
    (∀ i, i ∈ maskOps 0 → Issues i (mach i) (unit i) ∧ (maskBit (mreg (mach i).cur) 0 i).map (·.1) = some 0)
    ∧ (∀ i, i ∈ maskOps 7 → Issues i (mach i) (unit i) ∧ (mach i).cur.dying = [] ∧ (maskBit (mreg (mach i).cur) 0 i).map (·.1) = some 7)
    ∧ (∀ f, f ∈ [sr 63 0 0, sr 1 7 0] → Issues (.mPopc f) (mach (.mPopc f)) (unit (.mPopc f)) ∧ Issues (.mFirst f) (mach (.mFirst f)) (unit (.mFirst f))) := by
  decide +kernel

/-- A launch with a handler. -/
def handled (i : Instr) (h : Nat) (fhost : Bool) : State :=
  { mach i with launches := [{ lid := 1, d := { nteams := 1, priv := true, handler := h, fhost := fhost } }] }
def kept (i : Instr) : TrapState :=
  { m0 := lanes32, m0s := 0, stack := [⟨.div, lanes32, 0⟩], stackSh := [], compact := false, force := .free, pc := 0x1000, clause := some (unit i), kind := .instr }

theorem met_trapTaken :
    ((handled (.nop (sr 0 0 0)) 0x8000 true).cur.handler = none ∧ (curLaunch (handled (.nop (sr 0 0 0)) 0x8000 true)).d.handler ≠ 0
      ∧ ¬((curLaunch (handled (.nop (sr 0 0 0)) 0x8000 true)).d.fhost = true ∧ ((3 : Nat) = 9 ∨ (3 : Nat) = 10)))
    ∧ (curLaunch (handled (.nop (sr 0 0 0)) 0x8000 true)).d.fhost = true
    ∧ (curLaunch (mach (.nop (sr 0 0 0)))).d.handler = 0
    ∧ (modCur (mach (.nop (sr 0 0 0))) (fun t => { t with handler := some (kept (.nop (sr 0 0 0))) })).cur.handler.isSome := by decide +kernel

/-- `tret` outside a handler, a replay with REPLAY 0, a resume, a replay. -/
theorem met_returnFromTrap : let i := Instr.tret sys; let r := Instr.tret { sys with imm := 1 }
    Issues i (mach i) (unit i) ∧ (mach i).cur.handler = none
    ∧ Issues r (machWith r (fun t => { t with handler := some (kept i) })) (unit r)
    ∧ (machWith r (fun t => { t with handler := some (kept i) })).cur.trapcause.getLsbD 16 = false
    ∧ Issues i (machWith i (fun t => { t with handler := some (kept i) })) (unit i) ∧ (kept i).kind = .instr
    ∧ Issues r (machWith r (fun t => { t with handler := some (kept i), trapcause := 0x10009 })) (unit r)
    ∧ (machWith r (fun t => { t with handler := some (kept i), trapcause := 0x10009 })).cur.trapcause.getLsbD 16 = true := by decide +kernel

/-- The flag of `waitf` stands at 2. -/
def flagged (i : Instr) : State := machWith i (fun t => { t with flags := [(3, 2)], ops := [{ id := 5 }] })
theorem met_plainControl :
    (∀ i, i ∈ [Instr.nop (sr 0 0 0), .yield (sr 0 0 0), .mCompact (sr 0 0 0), .mUncompact (sr 0 0 0), .pmark (si 0 0 0)] →
      Issues i (mach i) (unit i) ∧ (mach i).cur.dying = [])
    ∧ (∀ e, e ∈ [(si 0 0 0x203, true), (si 0 0 0x103, false), (si 0 0 3, false)] →
      Issues (.waitf e.1) (flagged (.waitf e.1)) (unit (.waitf e.1))
      ∧ decide (flagCount (flagged (.waitf e.1)).cur (e.1.imm.toNat % 16) ≤ e.1.imm.toNat / 2 ^ 8 % 64) = e.2)
    ∧ Issues (.exit (br 0 0 0)) (mach (.exit (br 0 0 0))) (unit (.exit (br 0 0 0)))
    ∧ Issues (.exit (br 0 0 0)) (flagged (.exit (br 0 0 0))) (unit (.exit (br 0 0 0))) ∧ (flagged (.exit (br 0 0 0))).cur.ops ≠ [] := by decide +kernel

/-! ## System registers, constants, register blocks -/

/-- Every register that holds no clock, the last indices in range included. -/
def sysReads : List (Nat × DWord) :=
  [(0, 0), (1, 0), (2, 0), (3, 0), (4, 0), (5, 0), (6, 0), (7, 0), (8, 0), (9, 0), (0xA, 0), (0x10, 0), (0x11, 0), (0x12, 0), (0x13, 0), (0x18, 0), (0x19, 0),
   (0x1A, 0), (0x1B, 0), (0x20, 2), (0x21, 143), (0x22, 0x47C7), (0x23, 0x23E3), (0x24, 15), (0x25, 15)]
def rd (n : Nat) (sa : BitVec 6) : Instr := .sRdsys (si 3 sa (BitVec.ofNat 32 n))
def saFor (n : Nat) : BitVec 6 := if n < 0x20 then 63 else 1
theorem met_systemRegisterReads : (∀ e, e ∈ sysReads →
      Issues (rd e.1 (saFor e.1)) (machS (rd e.1 (saFor e.1)) [(1, e.2)]) (unit (rd e.1 (saFor e.1)))
      ∧ (sysFields (machS (rd e.1 (saFor e.1)) [(1, e.2)]) (e.1 % 2 ^ 12) (sreg (machS (rd e.1 (saFor e.1)) [(1, e.2)]).cur (saFor e.1).toNat).toNat).isSome = true
      ∧ (indexed (e.1 % 2 ^ 12) = true ∨ saFor e.1 = 63))
    ∧ Issues (rd 0xB 63) (mach (rd 0xB 63)) (unit (rd 0xB 63)) := by decide +kernel

/-- An unknown number; each index one past its range; a register that takes no index with SA other than 63. -/
theorem met_systemRegisterTraps :
    (∀ e, e ∈ [((0xC : Nat), (0 : DWord)), (0x26, 0), (0xFFF, 0)] → Issues (rd e.1 63) (mach (rd e.1 63)) (unit (rd e.1 63)) ∧ named (e.1 % 2 ^ 12) = false)
    ∧ (∀ e, e ∈ [((0x20 : Nat), (3 : DWord)), (0x21, 144), (0x22, 0x4800), (0x22, 72), (0x23, 0x2400), (0x23, 36), (0x24, 16), (0x25, 16)] →
      Issues (rd e.1 1) (machS (rd e.1 1) [(1, e.2)]) (unit (rd e.1 1)) ∧ indexed (e.1 % 2 ^ 12) = true
      ∧ sysFields (machS (rd e.1 1) [(1, e.2)]) (e.1 % 2 ^ 12) (sreg (machS (rd e.1 1) [(1, e.2)]).cur 1).toNat = none)
    ∧ Issues (rd 0 1) (mach (rd 0 1)) (unit (rd 0 1)) ∧ indexed 0 = false := by decide +kernel

theorem met_systemRegisterWrites :
    (∀ e, e ∈ [((0xC : Nat), false), (0x10, true), (6, true), (0x25, true)] →
      Issues (.sWrsys (si 0 1 (BitVec.ofNat 32 e.1))) (mach (.sWrsys (si 0 1 (BitVec.ofNat 32 e.1)))) (unit (.sWrsys (si 0 1 (BitVec.ofNat 32 e.1)))) ∧ named (e.1 % 2 ^ 12) = e.2)
    ∧ Issues (.fpflags (si 0 1 0x11)) (mach (.fpflags (si 0 1 0x11))) (unit (.fpflags (si 0 1 0x11)))
    ∧ Issues (.teamstat (si 0 1 0xA)) (mach (.teamstat (si 0 1 0xA))) (unit (.teamstat (si 0 1 0xA))) := by decide +kernel

/-- A launch of two constant words. -/
def consts (i : Instr) (o : DWord) : State :=
  { machS i [(1, o)] with launches := [{ lid := 1, d := { nteams := 1, kwords := 2 }, consts := (List.range 16).map (fun k => BitVec.ofNat 8 (k + 1)) }] }
/-- Offsets that are misaligned, past the end, below 0, and the last that fits. -/
theorem met_launchConstantLoads : ∀ e, e ∈ [(LdkW.b64, (4 : DWord)), (.b32, 2), (.b64, 16), (.b32, 16), (.b64, -8), (.b64, 8), (.b32, 12), (.b32, 0)] →
    let i := Instr.sLdk e.1 (si 3 1 0)
    Issues i (consts i e.2) (unit i) ∧ constOffset (consts i e.2) (si 3 1 0) = e.2 ∧ (curLaunch (consts i e.2)).cbad = [] := by decide +kernel
/-- The word at offset 8, low byte first (R117). -/
theorem test_sLdk : after (.sLdk .b32 (si 3 1 0)) (consts (.sLdk .b32 (si 3 1 0)) 8) (fun t => sreg t.cur 3) = some 0x0C0B0A09 := by decide +kernel

/-- A team with `racq` or `rrel` at hand, of XBLK x. -/
def blocked (i : Instr) (x : Nat) : State := machWith i (fun t => { t with xblk := x })
/-- The same beside a team that holds all but some granules. -/
def crowded (i : Instr) : State := { blocked i 0 with
  teams := [{ tid := 2, blk := 1, idx := 1, status := .running, width := 224, group := 32, xblk := 3 }] }
theorem met_registerBlocks :
    (∀ e, e ∈ [(si 0 0 2, (2 : Nat)), (si 0 0 3, 2)] → Issues (.racq e.1) (blocked (.racq e.1) e.2) (unit (.racq e.1))
      ∧ ¬CannotFit (blocked (.racq e.1) e.2) (blocked (.racq e.1) e.2).cur (e.1.imm.toNat % 8)
      ∧ FitsInAll (blocked (.racq e.1) e.2) (blocked (.racq e.1) e.2).cur (e.1.imm.toNat % 8))
    ∧ (let s := crowded (.racq (si 0 0 7))
       Issues (.racq (si 0 0 7)) s (unit (.racq (si 0 0 7))) ∧ notQueued s s.cur ∧ ¬CannotFit s s.cur 7 ∧ ¬FitsInAll s s.cur 7)
    ∧ (let s := modCur (crowded (.racq (si 0 0 7))) (fun t => { t with width := 256 })
       Issues (.racq (si 0 0 7)) s (unit (.racq (si 0 0 7))) ∧ notQueued s s.cur ∧ CannotFit s s.cur 7)
    ∧ (∀ e, e ∈ [(si 0 0 2, (2 : Nat)), (si 0 0 1, 2)] → Issues (.rrel e.1) (blocked (.rrel e.1) e.2) (unit (.rrel e.1)) ∧ (blocked (.rrel e.1) e.2).cur.ops = [])
    ∧ (let s := modCur (blocked (.rrel (si 0 0 1)) 2) (fun t => { t with ops := [{ i := .ld (mem 2 33 1 4) }] })
       Issues (.rrel (si 0 0 1)) s (unit (.rrel (si 0 0 1))) ∧ 1 < s.cur.xblk ∧ 1 < (mem 2 33 1 4).vd.toNat / 16) := by
  unfold CannotFit FitsInAll notQueued; decide +kernel

/-- A team waits at the head of its cell's register queue. -/
def queued : State := { blocked (.racq (si 0 0 3)) 0 with cells := [(0, { regq := [(1, 3)] })] }
theorem met_registerQueueGrant : (cellOf queued 0).regq = (queued.cur.tid, 3) :: [] ∧ team? queued queued.cur.tid = some queued.cur
    ∧ queueAt queued queued.cur 0 = [(1, 3)] ∧ homeCells queued.cur = [0] ∧ FitsInAll queued queued.cur 3
    ∧ ¬FitsInAll { queued with teams := (crowded (.racq (si 0 0 3))).teams.map (fun t => { t with width := 256 }) } queued.cur 3 := by
  unfold FitsInAll; decide +kernel

/-! ## Decoding, clauses, steps -/

/-- A team at a word that no row has. -/
def lost : State := machWith (.nop (sr 0 0 0)) (fun t => { t with clause := some { unit (.nop (sr 0 0 0)) with words := [0] } })
def lostClause : Clause := { unit (.nop (sr 0 0 0)) with words := [0] }
/-- A word with no row; the checks 2 to 5 in their order: class, privilege, reserved, illegal, misaligned, no flag for a destination. -/
def checked (i : Instr) : Option Checks345 := (encode i).bind fieldChecks
theorem met_illegalInstruction :
    (running lost = some lostClause ∧ lostClause.pipe.isSome = true ∧ lost.sched = [] ∧ decode (lostClause.words.getD lostClause.idx 0) = none)
    ∧ (∀ e, e ∈ [(Instr.vAdd { vr 0 1 2 3 with fs := true }, some (⟨true, false, false⟩ : Checks345)), (.vAdd (vr 2 1 2 3), some ⟨false, true, false⟩),
          (.ld (mem 3 5 4 4), some ⟨false, false, true⟩), (.ld (mem 2 5 4 4), some ⟨false, false, false⟩)] →
        running (mach e.1) = some (unit e.1) ∧ (checked e.1).map (fun k => (k.reserved, k.excluded, k.misaligned)) = e.2.map (fun k => (k.reserved, k.excluded, k.misaligned))
        ∧ (encode e.1).map (admitted (unit e.1).cls) = some true)
    ∧ (encode (.vAdd (vr 0 1 2 3))).map (admitted 1) = some false ∧ (encode (.sleep sys)).map needsPriv = some true
    ∧ (encode (.sleep sys)).map (admitted (unit (.sleep sys)).cls) = some true ∧ (curLaunch { mach (.sleep sys) with launches := [{ lid := 1, d := {} }] }).d.priv = false
    ∧ (encode (.ld (mem 2 5 4 4))).map listsDestination = some true
    ∧ issueIllegal { mach (.sleep sys) with launches := [{ lid := 1, d := {} }] } (.sleep sys) (unit (.sleep sys)) = some 7 := by decide +kernel

/-- An instruction on a pipe with no schedule, with the team's own turn, and with a device step's turn. -/
theorem met_stepRuns : let i := Instr.sAdd (sr 1 2 3)
    running (mach i) = some (unit i) ∧ (unit i).pipe.isSome = true ∧ decode ((unit i).words.getD 0 0) = some i ∧ (mach i).sched = []
    ∧ ({ mach i with sched := [.team 1] } : State).sched = .team (mach i).cur.tid :: []
    ∧ ({ mach i with sched := [.event (.pageWalk 0)] } : State).sched = .event (.pageWalk 0) :: [] := by decide +kernel
theorem met_placedWordRuns : decodeTableWord 64 0x0C60_4280_0000_0007 = some (.sCmpLtU (si 1 2 7)) := by decide +kernel
/-- The placed word runs as the first instruction after reset: 2 < 7 unsigned. -/
theorem test_placedWordRuns : (match step (State.reset.withFetchWord 64 0x0C60_4280_0000_0007) with | .next t => sreg t.cur 1 | _ => 0) = 1 := by decide +kernel

/-- A team at a clause boundary whose code stands in its instruction cache, mapped by its cell's TLB. -/
def coded (ws : List DWord) : State :=
  { machWith (.nop (sr 0 0 0)) (fun t => { t with clause := none }) with
    cells := [(0, { utlb := [{ x := true, r := true }], ic := [(32, (ws.flatMap (fun (w : DWord) => valBytes 8 w.toNat) ++ List.replicate 128 0).take 128)] })] }
/-- A header of a class, with COUNT n, no WAIT, SETA 0 and SETB 1. -/
def header (c n : Nat) : DWord := BitVec.ofNat 64 (10 * 2 ^ 60 + c * 2 ^ 57 + n * 2 ^ 53 + 1 * 2 ^ 33)
def nopWord : DWord := 0x1C00000000000000
def exitWord : DWord := 0x1880000000000000
theorem met_clauseTraps :
    (∀ e, e ∈ [((0x2000000200000000 : DWord), (1 : Nat)), (0xA800000200000000, 2), (0xA600000200000001, 3)] →
      MayBegin (coded [e.1]) ∧ (fetchWord (modCur (coded [e.1]) savedDone) (coded [e.1]).cur.pc).1 = .word e.1 ∧ headerDetail e.1 = some e.2)
    ∧ (let s := coded [header 3 1, exitWord, nopWord]
       MayBegin s ∧ fetchWord (modCur s savedDone) s.cur.pc = (.word (header 3 1), modCur s savedDone) ∧ headerDetail (header 3 1) = none
       ∧ fetchWords (hCount (header 3 1) + 1) (modCur s savedDone) ((s.cur.pc + 8) % 2 ^ 64) [] = (.inl [exitWord, nopWord], modCur s savedDone)
       ∧ misplacedWord [exitWord, nopWord] = some exitWord) := by
  refine ⟨?_, ?_⟩
  · unfold MayBegin; decide +kernel
  · unfold MayBegin; decide +kernel
/-- A clause of each class begins, the pipe free; one continues. -/
theorem met_clausesBegin :
    (∀ k, k ∈ [0, 1, 2, 3] → let s := coded [header k 0, nopWord]
      MayBegin s ∧ fetchWord (modCur s savedDone) s.cur.pc = (.word (header k 0), modCur s savedDone) ∧ headerDetail (header k 0) = none
      ∧ fetchWords (hCount (header k 0) + 1) (modCur s savedDone) ((s.cur.pc + 8) % 2 ^ 64) [] = (.inl [nopWord], modCur s savedDone)
      ∧ misplacedWord [nopWord] = none ∧ hClass (header k 0) = k ∧ (modCur s savedDone).cur.flags = [] ∧ (modCur s savedDone).cur.deferred = []
      ∧ memoryPipeHeld (modCur s savedDone) (modCur s savedDone).cur = false ∧ (freePipe (modCur s savedDone) (modCur s savedDone).cur k).isSome = true)
    ∧ (let c : Clause := { unit (.nop (sr 0 0 0)) with pipe := none }
       let s := machWith (.nop (sr 0 0 0)) (fun t => { t with clause := some c, stalled := true })
       running s = some c ∧ s.cur.saveobs = none ∧ (freePipe s s.cur c.cls).isSome = true)
    ∧ (∀ n, n ∈ [(0 : Nat), 1] → let i := Instr.waitf (si 0 0 (BitVec.ofNat 32 (0x100 * n)))
       let c : Clause := { unit i with pipe := none }
       let s := machWith i (fun t => { t with clause := some c, stalled := true, flags := if n = 0 then [] else [(0, 2)] })
       running s = some c ∧ s.cur.saveobs = none ∧ s.cur.slotwait = false ∧ (dieOf s s.cur.die).walkq = [] ∧ (dieOf s s.cur.die).walking = [] ∧ s.cur.ops = []
       ∧ decode (c.words.getD c.idx 0) = some i ∧ (freePipe s s.cur c.cls).isSome = true ∧ flagCount s.cur 0 = 2 * n) := by
  unfold MayBegin; decide +kernel
theorem test_clauseBegins : after (.clauseBegin 1) (coded [header 2 0, nopWord]) (fun t => t.cur.clause.map (fun c => (c.cls, c.words, c.pipe)))
    = some (some (2, [nopWord], some .x)) := by decide +kernel

/-! ## Vectors, groups, shapes -/

def vectors : List Instr :=
  [.vAdd (vr 0 5 1 2), .vSub (vr 1 5 1 2), .vMul (vr 4 6 2 4), .vMulh (vr 5 6 2 4), .vMin (vr 0 5 1 2), .vMax (vr 0 5 1 2), .vAbs (v1 0 5 1),
   .vMad (vf 4 5 1 2 3), .vAnd (vr 0 5 1 2), .vOr (vr 0 5 1 2), .vXor (vr 0 5 1 2), .vAndn (vr 0 5 1 2), .vShl (vr 0 5 1 2), .vShr (vr 0 5 1 2),
   .vSra (vr 4 6 2 4), .vClz (v1 0 5 1), .vPopc (v1 0 5 1), .vBrev (v1 0 5 1), .vBfe (vf 4 5 1 2 3), .vBfi (vf 5 5 1 2 3), .vMov (v1 2 5 1),
   .vLi (vr 0 5 1 2), .vLane (vr 1 5 0 0), .mTo (v1 0 5 3), .vSel (vr 0 5 1 2), .vPk (vr 0 5 1 2), .vDot4 (vf 4 5 1 2 3), .vBpand (vr 0 5 1 2)]
theorem met_vectorIntegerResults : ∀ i, i ∈ vectors → Issues i (mach i) (unit i) ∧ CleanVectors (mach i).cur ∧ (mach i).cur.dying = []
    ∧ (laneRule (mach i).cur i).isSome = true := by decide +kernel

def floats : List Instr :=
  [.vFadd (vr 2 5 1 2), .vFmul (vr 3 6 2 4), .vFmin (vr 6 5 1 2), .vFmax (vr 7 5 1 2), .vFma (vf 0 5 1 2 3), .vFrnd (v1 2 5 1), .vFsqrt (v1 2 5 1),
   .vFrcp (v1 2 5 1), .vFrsq (v1 2 5 1), .vExp2 (v1 2 5 1), .vLog2 (v1 2 5 1), .vSin (v1 2 5 1), .vCos (v1 2 5 1), .vTanh (v1 2 5 1),
   .vFclass (v1 2 5 1), .vFexp (v1 2 5 1), .vFscale (vr 2 5 1 2), .vCvt (v1 0 5 1), .vDot2 (vf 2 5 1 2 3), .vMxd (vr 2 5 1 2)]
theorem met_vectorFloatResults : ∀ i, i ∈ floats → Issues i (mach i) (unit i) ∧ CleanVectors (mach i).cur ∧ (mach i).cur.dying = []
    ∧ (floatLaneRule (mach i).cur i).isSome = true := by decide +kernel

def masked (d : BitVec 7) : List Instr := [.vCmp (vr 0 d 1 2), .vFcmp (vr 2 d 1 2), .mFrom (v1 0 d 1)]
theorem met_vectorMaskResults :
    (∀ i, i ∈ masked 0 → Issues i (mach i) (unit i) ∧ (maskRule (mach i).cur i).map (·.2.1) = some 0)
    ∧ (∀ i, i ∈ masked 7 → Issues i (mach i) (unit i) ∧ (maskRule (mach i).cur i).map (·.2.1) = some 7 ∧ CleanVectors (mach i).cur
        ∧ (mach i).cur.dying = []) := by decide +kernel

/-- A team of 64 lanes in groups of g. -/
def grouped (i : Instr) (g : Nat) : State := machWith i (fun t => { t with width := 64, group := g })
def groups : List Instr := [.vVote (v1 0 5 1), .vRed (v1 2 5 1), .vScan { v1 0 5 1 with mod := 8 }, .vShfl (vr 4 6 2 4)]
theorem met_groupResults :
    (∀ g, g ∈ [16, 32, 64] → ∀ i, i ∈ groups → Issues i (grouped i g) (unit i) ∧ (groupRule (grouped i g).cur i).isSome = true
      ∧ groupFits g i = true ∧ CleanVectors (grouped i g).cur ∧ (grouped i g).cur.dying = [])
    ∧ (∀ e, e ∈ [(Instr.vMxq (v1 2 5 1), (16 : Nat), false), (.vMxq (v1 2 5 1), 32, true), (.vBpk { v1 0 5 1 with mod := 8 }, 32, false),
        (.vBpk { v1 0 5 1 with mod := 8 }, 64, true), (.vBpu { v1 0 5 1 with mod := 2 }, 16, false), (.vBpu { v1 0 5 1 with mod := 2 }, 64, true)] →
      Issues e.1 (grouped e.1 e.2.1) (unit e.1) ∧ (groupRule (grouped e.1 e.2.1).cur e.1).isSome = true ∧ groupFits e.2.1 e.1 = e.2.2) := by decide +kernel
/-- `v.red` over a group of 16 lanes that hold 1 gives 16. -/
theorem test_vRed : after (.vRed (v1 0 5 1)) (modCur (grouped (.vRed (v1 0 5 1)) 16) (fun t => { t with r := { t.r with v := (List.range 64).map (fun l => (1024 + l, (1 : Word))) } }))
    (fun t => (vreg t.cur 5 0, vreg t.cur 5 31, vreg t.cur 5 40)) = some (16, 16, 0) := by decide +kernel
/-- `v.shfl` by lane number, exclusive-or 1. -/
theorem test_vShfl : after (.vShfl { vr 0 5 1 2 with mod := 1 }) (machV (.vShfl { vr 0 5 1 2 with mod := 1 }) ((1027, 7) :: (List.range 32).map (fun l => (2048 + l, (1 : Word)))))
    (fun t => (vreg t.cur 5 2, vreg t.cur 5 3)) = some (7, 0) := by decide +kernel

/-- A shape image of two dimensions: extents 3 and 5, strides 1 and 10. -/
def shapeImage : List Byte := valBytes 4 1 ++ valBytes 4 0 ++ valBytes 4 3 ++ valBytes 4 5 ++ valBytes 4 0 ++ valBytes 4 0 ++ valBytes 4 1 ++ valBytes 4 10
/-- The machine whose vault holds an image at 256·VBASE. -/
def shaped (i : Instr) (a : DWord) (d : List Byte) : State :=
  let s := machS i [(1, a)]
  { s with mem := { s.mem with vault := cellsWrite [] (((teamVault s 0 64).getD 0)) d } }
theorem met_shapeTraps : let i := Instr.shpSet (si 0 1 15)
    Issues i (shaped i 8 []) (unit i)
    ∧ (sreg (shaped i 8 []).cur 1).toNat % 2 ^ 32 % 16 ≠ 0
    ∧ teamVault (shaped i 0x40000 []) 0x40000 64 = none ∧ teamVault (shaped i 0 []) 0 64 ≠ none
    ∧ imageFault ((List.range 64).map (fun i => shapeImage.getD i 0)) = none
    ∧ imageFault ((List.range 64).map (fun _ => 0)) = some 3
    ∧ imageFault ((List.range 64).map (fun i => if i = 63 then (1 : Byte) else shapeImage.getD i 0)) = some 2
    ∧ (shaped i 0 shapeImage).mem.vpois = [] ∧ (shaped i 0 shapeImage).mem.vbad = [] ∧ (block? (shaped i 0 shapeImage) 1).isSome = true := by decide +kernel
def shape35 : Shape := { dims := 2, ext := [3, 5], str := [1, 10], sh := [2, 3], m := [5726623062, 6871947674] }
def tensor (i : Instr) : State := { mach i with blocks := [{ bid := 1, lid := 1, vsize := 768, shapes := [(2, some shape35)] }] }
theorem met_tensorIndexing : let i := Instr.vTidx { ty := 1, vd := 5, a := ⟨4, 0, 0⟩, b := ⟨0, 6, 2⟩, fs := false, satna := false, nb := false, pred := 0, mod := 0 }
    Issues i (mach i) (unit i) ∧ NMap.get none (curBlock (mach i)).shapes 2 = none
    ∧ Issues i (tensor i) (unit i) ∧ NMap.get none (curBlock (tensor i)).shapes 2 = some shape35
    ∧ imageFault shapeImage = none ∧ CleanVectors (tensor i).cur := by decide +kernel
theorem met_isShape : IsShape shapeImage shape35 := by
  refine ⟨by decide, fun i h => ?_, fun i h => ?_⟩
  · have : i = 0 ∨ i = 1 := by have : i < 2 := h; omega
    rcases this with rfl | rfl <;> decide +kernel
  · have : i = 0 := by have : i + 1 < 2 := h; omega
    subst this; decide +kernel
/-- Linear index 7 over extents 3 and 5 is (1, 2), offset 1 + 20. -/
theorem test_vTidx : let i := Instr.vTidx { ty := 1, vd := 5, a := ⟨4, 0, 0⟩, b := ⟨0, 6, 2⟩, fs := false, satna := false, nb := false, pred := 0, mod := 0 }
    after i (modCur (tensor i) (fun t => { t with r := { t.r with v := [(4096, 7)] } })) (fun t => vreg t.cur 5 0) = some 21 := by decide +kernel
theorem met_operandReads : (srcF ⟨0x1F, 6, 0x30⟩).pat = 6 ∧ (srcF ⟨0x1F, 6, 0x30⟩).n = 13 ∧ (srcF ⟨0x1F, 6, 0x30⟩).reg < 128 ∧ (srcF ⟨0x1F, 6, 0x30⟩).k < 64
    ∧ (srcF ⟨1, 5, 63⟩).pat < 6 ∧ (srcF ⟨3, 7, 1⟩).pat = 7 := by decide

/-! ## Memory -/

/-- The leaf of a mapped page, readable and writable. -/
def leaf0 : Leaf := { w := true, r := true }
/-- The machine with 64 KiB mapped by a leaf, an interleave set of one site at physical address 0, and S(1) = a. -/
def mapped (i : Instr) (a : DWord) (l : Leaf) : State :=
  { machS i [(1, a)] with
    cells := [(0, { utlb := [l] })]
    mem := { sets := [(0, some { members := [0], bases := [0], caps := [0x100000] })] } }
theorem mapped_l1 (i : Instr) (a : DWord) (l : Leaf) (k : Nat) : (cellOf (mapped i a l) k).l1 = [] := by
  show (NMap.get {} [(0, ({ utlb := [l] } : Cell))] k).l1 = []
  by_cases hk : (0 : Nat) = k <;> simp [NMap.get, NMap.find?, hk]
/-- Its memory holds no poison, no error and no slice line. -/
theorem mapped_good (i : Instr) (a : DWord) (l : Leaf) : GoodMemory (mapped i a l) := by
  refine ⟨⟨rfl, rfl, rfl, rfl, fun x y h => ?_⟩, fun x => ⟨List.nodup_nil, fun y h => ?_⟩, fun x y h => ?_, fun k x h b hb => ?_, fun k b h => ?_⟩
  · exact absurd h List.not_mem_nil
  · exact absurd h List.not_mem_nil
  · exact absurd h List.not_mem_nil
  · have h' : NMap.get none [(0, some ({ members := [0], bases := [0], caps := [0x100000] } : ISet))] k = some x := h
    by_cases hk : (0 : Nat) = k
    · have : (some ({ members := [0], bases := [0], caps := [0x100000] } : ISet)) = some x := by simpa [NMap.get, NMap.find?, hk] using h'
      cases this
      rw [List.mem_singleton] at hb
      rw [hb]
    · simp [NMap.get, NMap.find?, hk] at h'
  · rw [mapped_l1] at h
    exact absurd h List.not_mem_nil

def accessList : List Instr :=
  [.ld (mem 2 5 1 4), .ld (mem 4 4 1 0), .st (mem 2 5 1 4), .lds (mem 2 5 1 0), .sts (mem 3 4 1 0), .ldv (mem 3 4 1 4), .aCasv (mem 2 4 1 4), .aAdd (mem 2 5 1 4),
   .aMin { mem 2 5 1 1 with policy := 1 }, .aMax { mem 2 5 1 1 with policy := 2 }, .aAnd { mem 2 5 1 1 with policy := 3 }, .aOr (mem 2 5 1 4), .aXor (mem 2 5 1 4), .aXchg (mem 2 5 1 4),
   .aFadd (mem 0 5 1 4), .aInc (mem 2 5 1 4), .aCas (mem 2 4 1 4), .prf (mem 0 0 1 4), .prf { mem 0 0 1 4 with ox := true }, .disc (mem 0 0 1 4), .wb (mem 0 0 1 4)]
theorem met_accessesIssue : ∀ i, i ∈ accessList → let s := mapped i 0x100 leaf0
    Issues i s (unit i) ∧ CleanVectors s.cur ∧ s.cur.dying = []
    ∧ (match accessOf s.cur i with
        | none => false
        | some x => (accessLanes s.cur x).all (fun l => (accessFault s x l).isNone && (accessPlace s x l).isSome)) = true := by decide +kernel

/-- Base address, leaf and instruction: past 2^56, misaligned, no read, no write, privileged, not cached where it must be, outside the vault. -/
theorem met_accessTraps : (∀ e, e ∈ [(Instr.ld (mem 2 5 1 4), (0x100000000000000 : DWord), leaf0, (9 : Nat)), (.ld (mem 2 5 1 4), 0x102, leaf0, 7),
      (.ld (mem 2 5 1 4), 0x100, { leaf0 with r := false }, 0xA), (.st (mem 2 5 1 4), 0x100, { leaf0 with w := false }, 0xA),
      (.aAdd (mem 2 5 1 4), 0x100, { leaf0 with mt := 1 }, 0xB), (.lds (mem 2 5 1 0), 0x40000, leaf0, 8), (.lds (mem 2 5 1 0), 0x42, leaf0, 7)] →
      let s := mapped e.1 e.2.1 e.2.2.1
      Issues e.1 s (unit e.1) ∧ CleanVectors s.cur
      ∧ (match accessOf s.cur e.1 with
          | none => none
          | some x => if x.drops then none else (accessFault s x 0).map (·.cause)) = some e.2.2.2)
    ∧ (match accessOf (machS (.ld (mem 2 5 1 4)) [(1, 0x100)]).cur (.ld (mem 2 5 1 4)) with
        | none => false
        | some x => (accessFault (machS (.ld (mem 2 5 1 4)) [(1, 0x100)]) x 0).isNone && (accessPlace (machS (.ld (mem 2 5 1 4)) [(1, 0x100)]) x 0).isNone) = true := by
  decide +kernel
/-- A load's flag rises by one and its lanes' addresses are 4 bytes apart. -/
theorem test_ld : after (.ld (mem 2 5 1 4)) (mapped (.ld (mem 2 5 1 4)) 0x100 leaf0) (fun t => (flagCount t.cur 0, t.cur.ops.map (fun o => (o.acc.getD 3 {}).va)))
    = some (1, [0x10C]) := by decide +kernel

def loads : List Instr := [.sLd .b8 (si 3 1 0), .sLd .b16 (si 3 1 2), .sLd .b32 (si 3 1 4), .sLd .b64 (si 3 1 8), .sLd .i8 (si 3 1 0xFFFFFFFF), .sLd .i16 (si 3 1 0),
  .sLd .i32 (sr 3 1 2)]
def stores : List Instr := [.sSt .b8 (si 1 1 1), .sSt .b16 (si 1 1 0), .sSt .b32 (si 1 1 0), .sSt .b64 (si 1 1 0)]
def sizeOf_ : Instr → Nat
  | .sLd w _ => loadSize w
  | .sSt w _ => storeSize w
  | _ => 0
def fields_ : Instr → SR
  | .sLd _ f => f
  | .sSt _ f => f
  | _ => sr 0 0 0
/-- Scalar accesses under each memory type. -/
theorem met_scalarLoadsAndStores : ∀ mt, mt ∈ [0, 1, 2] → ∀ i, i ∈ loads ++ stores →
    let s := mapped i 0x100 { leaf0 with mt := mt }
    let a := scalarPlace s.cur (fields_ i)
    Issues i s (unit i) ∧ globalFault s (ckey s.cur.die s.cur.cell) .read (sizeOf_ i) none none a = none
    ∧ globalFault s (ckey s.cur.die s.cur.cell) .write (sizeOf_ i) none none a = none
    ∧ globalPlace s (ckey s.cur.die s.cur.cell) a = some (a, mt) ∧ a % sizeOf_ i = 0
    ∧ s.cur.dying = [] := by decide +kernel
/-- The place of a scalar access that has issued. -/
def scalarAcc (i : Instr) (mt : Nat) (done : Bool) : Acc := { pa := 0x100, va := 0x100, mt := mt, data := List.replicate (sizeOf_ i) 0, done := done }
/-- A team with a scalar access outstanding, which no flag counts. -/
def scalarOut (i : Instr) (mt : Nat) (done : Bool) : State :=
  modCur (mapped (.nop (sr 0 0 0)) 0x100 leaf0) (fun t => { t with ops := [{ id := 7, i := i, arg := [0], scope := 4, acc := [scalarAcc i mt done] }], nextOp := 8 })
theorem scalarOut_good (i : Instr) (mt : Nat) (d : Bool) : GoodMemory (scalarOut i mt d) := mapped_good (.nop (sr 0 0 0)) 0x100 leaf0
theorem met_scalarSteps : ∀ mt, mt ∈ [0, 1, 2] → ∀ i, i ∈ loads ++ stores → let s := scalarOut i mt false
    (s.cur.status ≠ .absent ∧ (s.cur.ops.map (·.id)).Nodup ∧ gateOpen s (s.cur.ops.headD {}) = true) ∧ (s.cur.ops.headD {}).acc = [scalarAcc i mt false]
    ∧ 0x100 % sizeOf_ i = 0 ∧ mt < 3 ∧ lostAt s 0x100 = false ∧ locate s 0x100 = some (0, 0x100) ∧ 0x100 + sizeOf_ i ≤ 2 ^ 36 := by decide +kernel
theorem met_scalarCompletes : ∀ i, i ∈ loads ++ stores → let s := scalarOut i 0 true
    (s.cur.status ≠ .absent ∧ (s.cur.ops.map (·.id)).Nodup ∧ gateOpen s (s.cur.ops.headD {}) = true) ∧ (s.cur.ops.headD {}).acc = [scalarAcc i 0 true]
    ∧ (scalarAcc i 0 true).data.length = sizeOf_ i ∧ (s.cur.ops.headD {}).flag = none ∧ (s.cur.ops.headD {}).killAll = false ∧ s.cur.absent = [] ∧ s.cur.dying = [] := by decide +kernel
/-- Instructions that name S3, to which a load is under way. -/
theorem met_interlocks : ∀ i, i ∈ [Instr.sMov (sr 4 3 0), .sMov (sr 3 4 0), .sAdd (sr 4 5 3), .sAdd (si 3 4 1), .brz (br 3 0 1)] →
    let s := modCur (mach i) (fun t => { t with ops := [{ id := 7, i := .sLd .b8 (si 3 1 0) }] })
    running s = some (unit i) ∧ issueIllegal s i (unit i) = none ∧ issueOther s.cur (chk (curLaunch s).d.stage i) = none := by decide +kernel
theorem met_scalarTraps : ∀ e, e ∈ [(Instr.sLd .b32 (si 3 1 0), (0x102 : DWord), leaf0), (.sLd .b8 (si 3 1 0), 0x100000000000000, leaf0),
      (.sSt .b8 (si 3 1 0), 0x100, { leaf0 with w := false })] →
    let s := mapped e.1 e.2.1 e.2.2
    Issues e.1 s (unit e.1) ∧ (globalFault s 0 (match e.1 with | .sSt _ _ => .write | _ => .read) (sizeOf_ e.1) none none (scalarPlace s.cur (fields_ e.1))).isSome = true := by
  decide +kernel
/-- What `s.st` sends; what `s.ld` fetched, sign-extended. -/
theorem test_store : after (.sSt .b16 (si 2 1 0)) (modCur (mapped (.sSt .b16 (si 2 1 0)) 0x100 leaf0) (fun t => { t with r := { t.r with sr := [(1, 0x100), (2, 0x18081)] } }))
    (fun t => t.cur.ops.map (fun o => o.acc.map (fun a => (a.pa, a.data)))) = some [[(0x100, [0x81, 0x80])]] := by decide +kernel
theorem test_load : let s := scalarOut (.sLd .i8 (si 3 1 0)) 0 true
    after (.longLatencyCompletion 1 7) (modCur s (fun t => { t with ops := t.ops.map (fun o => { o with acc := [{ scalarAcc (.sLd .i8 (si 3 1 0)) 0 true with data := [0x80] }] }) }))
    (fun t => sreg t.cur 3) = some 0xFFFFFFFFFFFFFF80 := by decide +kernel

/-! ## Accesses at their places, sync words, queues -/

/-- Its L1s are empty. -/
theorem mapped_tidyL1 (i : Instr) (a : DWord) (l : Leaf) : TidyL1 (mapped i a l) := by
  intro k b h
  rw [mapped_l1] at h
  exact absurd h List.not_mem_nil

/-- The mapped machine whose team has one operation outstanding, with its flag raised, and a vault that holds bytes. -/
def asked (i : Instr) (acc : List Acc) : State :=
  modCur (mapped (.nop (sr 0 0 0)) 0x100 leaf0) (fun t => { t with
    ops := [{ id := 7, i := i, flag := some 0, mask := lanes32, acc := acc }], flags := [(0, 1)], nextOp := 8 })
def theOp (s : State) : Op := s.cur.ops.headD {}
def lane (l a : Nat) (d : List Byte) : Acc := { lane := l, va := a, pa := a, mt := 0, data := d }
def vlane (l k : Nat) (d : List Byte) : Acc := { lane := l, va := 0, pa := k, mt := vaultMt, data := d }

/-- `Stands` where the order lets the operation take its step now. -/
abbrev StandsNow (s : State) (id : Nat) (o : Op) : Prop :=
  s.cur.status ≠ .absent ∧ (s.cur.ops.map (·.id)).Nodup ∧ o ∈ s.cur.ops ∧ o.id = id ∧ (o.acc.map (·.lane)).Nodup ∧ o.gave = [] ∧ o.ready = none ∧ gateOpen s o = true
theorem stands_of_now {s : State} {id : Nat} {o : Op} (h : StandsNow s id o) : Stands s id o :=
  let ⟨a, b, c, d, e, f, g, k⟩ := h
  ⟨a, b, c, d, e, f, g, .inr k⟩

theorem asked_good (i : Instr) (acc : List Acc) : GoodMemory (asked i acc) := mapped_good (.nop (sr 0 0 0)) 0x100 leaf0
theorem asked_tidyL1 (i : Instr) (acc : List Acc) : TidyL1 (asked i acc) := mapped_tidyL1 (.nop (sr 0 0 0)) 0x100 leaf0

/-- Fences of the three kinds, at each scope boundary. -/
theorem met_fences : (∀ i, i ∈ [Instr.fence (mem 0 0 0 2), .fence (mem 1 0 0 5), .fence (mem 2 0 0 0), .fenceX { mem 0 0 0 1 with disp := 0xFFFF }, .fenceX { mem 2 0 0 2 with disp := 1 }] →
    Issues i (mach i) (unit i) ∧ (mach i).cur.dying = []) := by decide +kernel
/-- A fence of a kind over every stream, with a load of its stream before it that has returned or not. -/
def fenced (k : Nat) (done : Bool) : State :=
  modCur (mach (.nop (sr 0 0 0))) (fun t => { t with ops := [{ id := 5, i := .ld (mem 2 5 1 4), acc := [lane 0 0x100 [0]].map (fun a => { a with done := done }) },
    { id := 7, i := .fence (mem (BitVec.ofNat 3 k) 0 0 4), scope := 4, arg := [k, 65535], flag := some 0 }], flags := [(0, 1)], nextOp := 8 })
theorem met_fenceCompletes : ∀ k, k ∈ [0, 1, 2] → (∀ b, b ∈ [true, false] → let s := fenced k b
      s.cur.status ≠ .absent ∧ (s.cur.ops.map (·.id)).Nodup ∧ (readsMem (theOp s).i = true ∧ 5 < 7) ∧ (65535 : Nat).testBit 0 = true)
    ∧ (let s := modCur (fenced k false) (fun t => { t with ops := t.ops.tail }); s.cur.ops.map (·.id) = [7]) ∧ (k = 1 → Performed (theOp (fenced k true))) ∧ ¬Performed (theOp (fenced k false)) := by
  unfold Performed; decide +kernel

/-- A machine whose vault holds a table of n and its first entry, address 0x200 and version 3, at vault offset 0. -/
def tabled (i : Instr) (n : Nat) (ops : List Op) : State :=
  let s := mapped i 0 leaf0
  { modCur s (fun t => { t with ops := ops }) with
    mem := { s.mem with vault := cellsWrite [] ((teamVault s 0 16).getD 0) (valBytes 16 n ++ valBytes 8 0x200 ++ valBytes 8 3) } }
def vset : Instr := .valset (mem 0 5 1 4)
theorem tabled_clean (i : Instr) (n : Nat) (ops : List Op) : CleanMemory (tabled i n ops) :=
  ⟨rfl, rfl, rfl, rfl, fun _ _ h => absurd h List.not_mem_nil⟩
theorem met_valset : (∀ e, e ∈ [((0 : Nat), ([] : List Op)), (33, []), (1, []), (1, [{ i := .ldv (mem 3 4 1 4) }])] → let s := tabled vset e.1 e.2
      Issues vset s (unit vset) ∧ s.cur.dying = [] ∧ objectAddr s.cur (mem 0 5 1 4) % 16 = 0 ∧ teamVault s (objectAddr s.cur (mem 0 5 1 4)) 16 = some 0
      ∧ vaultObject s 0 = e.1)
    ∧ (let s := tabled vset 1 []
       teamVault s 0 32 = some 0 ∧ vaultObject s 16 % 2 ^ 64 = 0x200 ∧ globalFault s 0 .read 1 (some 1) none 0x200 = none ∧ (globalPlace s 0 0x200).isSome = true) := by
  decide +kernel
theorem met_valsetStep : let s := asked vset [lane 0 0x200 (valBytes 8 3)]
    StandsNow s 7 (theOp s) ∧ (stepGroups s (theOp s))[0]? = some [lane 0 0x200 (valBytes 8 3)] ∧ locate s 0x200 = some (0, 0x200) ∧ (siteOf s 0).lost = false := by
  decide +kernel

/-- Operations of every kind, at their next group. -/
def asks : List State :=
  [asked (.ld (mem 2 5 1 4)) [lane 0 0x100 [0, 0, 0, 0], lane 1 0x104 [0, 0, 0, 0]], asked (.st (mem 2 5 1 4)) [lane 0 0x100 [1, 2, 3, 4], lane 1 0x100 [5, 6, 7, 8]],
   asked (.lds (mem 2 5 1 0)) [vlane 0 64 [0, 0, 0, 0]], asked (.sts (mem 2 5 1 0)) [vlane 0 64 [1, 2, 3, 4]], asked (.ldv (mem 2 4 1 4)) [lane 0 0x100 [0, 0, 0, 0]],
   asked (.aCasv (mem 2 4 1 4)) [lane 0 0x100 (valBytes 8 0 ++ [1, 2, 3, 4])], asked (.aCasv (mem 2 4 1 4)) [lane 0 0x100 (valBytes 8 9 ++ [1, 2, 3, 4])]]
theorem met_homeSteps : ∀ s, s ∈ asks → StandsNow s 7 (theOp s) ∧ memOp (theOp s).i = true ∧ (stepGroups s (theOp s)).isEmpty = false
    ∧ (∀ a, a ∈ (stepGroups s (theOp s)).headD [] → a.mt = 0 → locate s a.pa = some (0, a.pa) ∧ (siteOf s 0).lost = false ∧ a.pa + 16 ≤ 2 ^ 36) := by
  decide +kernel
theorem met_gather : let s := asked (.ld { mem 2 5 1 4 with ox := true }) [lane 0 0x100 [0, 0, 0, 0], lane 1 0x104 [0, 0, 0, 0]]
    perLane (theOp s).i = true ∧ ((distinct (((theOp s).acc.filter (fun a => !a.done)).map (packetKey s)))[0]?).isSome = true
    ∧ (theOp s).acc.length ≤ 1024 ∧ (∀ a, a ∈ (theOp s).acc → a.page = 2 ^ 16 ∧ a.pa / a.page = 0 ∧ a.pa < 2 ^ 52 ∧ a.lane < 1024) := by decide +kernel
/-- The widths and alignment that each clause asks, and one group of one access where it asks for that. -/
theorem met_loadsAndStores :
    (asks.map (fun s => (stepGroups s (theOp s))[0]?)) = [some [lane 0 0x100 [0, 0, 0, 0], lane 1 0x104 [0, 0, 0, 0]], some [lane 0 0x100 [1, 2, 3, 4], lane 1 0x100 [5, 6, 7, 8]],
      some [vlane 0 64 [0, 0, 0, 0]], some [vlane 0 64 [1, 2, 3, 4]], some [lane 0 0x100 [0, 0, 0, 0]], some [lane 0 0x100 (valBytes 8 0 ++ [1, 2, 3, 4])],
      some [lane 0 0x100 (valBytes 8 9 ++ [1, 2, 3, 4])]]
    ∧ sizeOfWidth 2 = 4 ∧ 0x100 % 4 = 0 ∧ 0x104 % 4 = 0 := by decide +kernel

def atoms : List Instr :=
  [.aAdd (mem 2 5 1 4), .aMin (mem 5 5 1 4), .aMax (mem 6 4 1 4), .aAnd (mem 2 5 1 4), .aOr (mem 3 4 1 4), .aXor (mem 2 5 1 4), .aXchg (mem 2 5 1 4), .aInc (mem 2 5 1 4),
   .aFadd (mem 0 5 1 4), .aFadd (mem 1 4 1 4)]
def atomSize (i : Instr) : Nat := ((accessOf {} i).map (·.n)).getD 0
theorem met_atomics : (∀ i, i ∈ atoms → let s := asked i [lane 0 0x100 (valBytes (atomSize i) 5)]
      StandsNow s 7 (theOp s) ∧ (stepGroups s (theOp s))[0]? = some [lane 0 0x100 (valBytes (atomSize i) 5)] ∧ locate s 0x100 = some (0, 0x100) ∧ (siteOf s 0).lost = false
      ∧ (atomSize i = 4 ∨ atomSize i = 8) ∧ 0x100 % atomSize i = 0 ∧ (accessOf s.cur i).map (·.n) = some (atomSize i)
      ∧ (atomResult (atomSize i) (valueOf (atomSize i) (fun k => homeByte s 0 (0x100 + k))) 5 i).isSome = true)
    ∧ (∀ e, e ∈ [(valBytes 8 0 , some (0 : Nat)), (valBytes 4 1 ++ valBytes 4 2, none)] → let s := asked (.aCas (mem 2 4 1 4)) [lane 0 0x100 e.1]
      StandsNow s 7 (theOp s) ∧ (stepGroups s (theOp s))[0]? = some [lane 0 0x100 e.1]
      ∧ atomResult 4 (valueOf 4 (fun k => homeByte s 0 (0x100 + k))) (bytesVal e.1) (.aCas (mem 2 4 1 4)) = some e.2) := by
  decide +kernel
/-- A fetch-and-add of 5 at a byte pair that holds 0xFF: the old value answers, the carry goes on. -/
theorem test_aAdd : let s := asked (.aAdd (mem 2 5 1 4)) [lane 0 0x100 (valBytes 4 5)]
    after (.homeRequest 1 7 0) { s with mem := { s.mem with hbm := [(0x100, 0xFF)] } } (fun t => (globalByte t 0x100, globalByte t 0x101, (accAfter t 7 0).map (·.data)))
    = some (4, 1, some [0xFF, 0, 0, 0]) := by decide +kernel

/-- Operations all of whose parts are done, of every kind that delivers. -/
def finished (i : Instr) (acc : List Acc) : State := asked i (acc.map (fun a => { a with done := true }))
def finishedOps : List State :=
  [finished (.ld (mem 2 5 1 4)) [lane 3 0x100 [1, 2, 3, 4]], finished (.lds (mem 4 4 1 0)) [vlane 0 64 (valBytes 16 1)], finished (.ldv (mem 2 4 1 4)) [lane 0 0x100 (valBytes 12 1)],
   finished (.aCasv (mem 3 4 1 4)) [lane 0 0x100 (valBytes 16 1)], finished (.aAdd (mem 2 5 1 4)) [lane 0 0x100 (valBytes 4 1)], finished vset [lane 0 0x200 [1]],
   finished vset [lane 0 0x200 [0]], finished (.swRead (mem 4 4 1 0)) [vlane 0 64 (valBytes 16 1)], finished (.st (mem 2 5 1 4)) [lane 0 0x100 [1, 2, 3, 4]],
   finished (.sts (mem 2 5 1 0)) [], finished (.prf (mem 0 0 1 4)) [], finished (.disc (mem 0 0 1 4)) [], finished (.wb (mem 0 0 1 4)) [], finished (.swArm (mem 2 5 1 0)) [],
   finished (.swAdd (mem 2 5 1 0)) [], finished (.qInit (mem 3 4 1 0)) []]
theorem met_accessesComplete : ∀ s, s ∈ finishedOps → StandsNow s 7 (theOp s) ∧ (theOp s).acc.all (·.done) = true ∧ (theOp s).kills = [] ∧ (theOp s).pois = []
    ∧ (theOp s).killAll = false ∧ s.cur.absent = [] ∧ s.cur.dying = []
    ∧ (match delivered s (theOp s) with | none => false | some x => x.2.2.all (fun l => decide (l.1 < 1024))) = true := by
  decide +kernel
theorem test_completes : after (.longLatencyCompletion 1 7) (finished (.ld (mem 5 5 1 4)) [lane 3 0x100 [0x80]]) (fun t => (vreg t.cur 5 3, flagCount t.cur 0, t.cur.ops))
    = some (0xFFFFFF80, 0, []) := by decide +kernel

theorem met_cachesTidy : (match step (mapped (.nop (sr 0 0 0)) 0 leaf0) with | .next _ => true | _ => false) = true ∧ Tidy (mapped (.nop (sr 0 0 0)) 0 leaf0)
    ∧ TidyL1 (mapped (.nop (sr 0 0 0)) 0 leaf0) ∧ Memory.wf (mapped (.nop (sr 0 0 0)) 0 leaf0).mem :=
  ⟨by decide +kernel, (mapped_good _ _ _).2.1, mapped_tidyL1 _ _ _, by decide⟩

/-- Sync-word instructions at a vault object, misaligned, outside. -/
theorem met_syncWords : (∀ i, i ∈ [Instr.swArm (mem 2 5 1 0), .swAdd (mem 2 5 1 0), .swRead (mem 4 4 1 0)] →
      (∀ e, e ∈ [((0x40 : DWord), (0 : Nat), true), (8, 8, false), (0x40000, 0, false)] → let s := machS i [(1, e.1)]
        let f := (syncForm i).getD (mem 0 0 0 0)
        Issues i s (unit i) ∧ (syncForm i).isSome = true ∧ CleanVectors s.cur ∧ s.cur.dying = [] ∧ objectAddr s.cur f % 16 = e.2.1
        ∧ (teamVault s (objectAddr s.cur f) 16).isSome = (e.2.2 || decide (e.1 = 8)) ∧ lowest s.cur = some 0))
    ∧ (∀ i, i ∈ [Instr.swArm (mem 2 5 1 0), .swAdd (mem 2 5 1 0), .swRead (mem 4 4 1 0)] → let s := asked i [vlane 0 64 (valBytes 4 3)]
        StandsNow s 7 (theOp s) ∧ (stepGroups s (theOp s))[0]? = some [vlane 0 64 (valBytes 4 3)]) := by
  decide +kernel
/-- `sw.wait` at a word whose GEN is g, with operand 0. -/
def swWaits (g : Nat) : State :=
  let s := machS (.swWait (mem 2 5 1 0)) [(1, 64)]
  { s with mem := { s.mem with vault := cellsWrite [] ((teamVault s 64 16).getD 0) (valBytes 16 (g * 2 ^ 64)) } }
theorem met_swWait : ∀ g, g ∈ [0, 1] → let s := swWaits g
    Issues (.swWait (mem 2 5 1 0)) s (unit (.swWait (mem 2 5 1 0))) ∧ CleanVectors s.cur ∧ s.cur.dying = [] ∧ objectAddr s.cur (mem 2 5 1 0) % 16 = 0
    ∧ teamVault s (objectAddr s.cur (mem 2 5 1 0)) 16 = some 64 ∧ lowest s.cur = some 0
    ∧ gateOpen s (stallOp (.swWait (mem 2 5 1 0)) (mem 2 5 1 0) [64] s) = true ∧ swField (vaultObject s 64) 2 = g := by decide +kernel
theorem met_syncArrival : let s : State := { mach (.nop (sr 0 0 0)) with fabric := { msgs := [.arrive 0 64 3 none] } }
    s.fabric.msgs[0]? = some (.arrive 0 64 3 none) ∧ s.mem.vpois = [] ∧ (∀ u, u ∈ allTeams s → u.early = []) := by decide +kernel
/-- Arrivals of 3 at TARGET 3, COUNT 1: one phase ends, one arrival is left over, OVF rises (R180). -/
theorem test_arrival : let s : State := { mach (.nop (sr 0 0 0)) with fabric := { msgs := [.arrive 0 64 3 none] } }
    after (.syncWordArrival 0) { s with mem := { s.mem with vault := cellsWrite [] 64 (valBytes 16 (2 ^ 32 + 3)) } } (fun t => vaultObject t 64)
    = some (1 * 2 ^ 96 + 1 * 2 ^ 64 + 1 * 2 ^ 32 + 3) := by decide +kernel

/-- Operands of `q.init`: SLOTS and ALLOW in v4, RING in v5. -/
def qInits (slots allow ring : Nat) : State :=
  let s := machS (.qInit (mem 3 4 1 0)) [(1, 64)]
  modCur s (fun t => { t with r := { t.r with v := NMap.set 0 (NMap.set 0 [] (vkey 4 0) (BitVec.ofNat 32 (slots + 2 ^ 16 * allow))) (vkey 5 0) (BitVec.ofNat 32 ring) } })
theorem met_qInit : (∀ e, e ∈ [((0 : Nat), (0 : Nat), (0x100 : Nat), false), (32769, 1, 0x100, false), (4, 0, 0x100, false), (4, 5, 0x100, false), (4, 4, 0x101, false), (4, 4, 0x100, true), (1, 1, 0, true)] →
    let s := qInits e.1 e.2.1 e.2.2.1
    Issues (.qInit (mem 3 4 1 0)) s (unit (.qInit (mem 3 4 1 0))) ∧ CleanVectors s.cur ∧ objectAddr s.cur (mem 3 4 1 0) % 16 = 0
    ∧ teamVault s (objectAddr s.cur (mem 3 4 1 0)) 16 = some 64 ∧ lowest s.cur = some 0
    ∧ (vreg s.cur 4 0).toNat % 2 ^ 16 = e.1 ∧ (vreg s.cur 4 0).toNat / 2 ^ 16 = e.2.1 ∧ (vreg s.cur 5 0).toNat = e.2.2.1
    ∧ (e.2.2.2 = true → teamVault s e.2.2.1 (2 * e.1) = some e.2.2.1 ∧ (e.2.2.1 + 2 * e.1 ≤ 64 ∨ 64 + 16 ≤ e.2.2.1))) := by decide +kernel
theorem met_qInitStep : let s := asked (.qInit (mem 3 4 1 0)) [vlane 0 64 (valBytes 16 5)]
    StandsNow s 7 (theOp s) ∧ (stepGroups s (theOp s))[0]? = some [vlane 0 64 (valBytes 16 5)] ∧ (valBytes 16 5).length = 16 := by decide +kernel
/-- A queue of 4 slots at vault offset 64, its ring at 0x100, with COUNT n and the rest allowed; VALID v. -/
def queueAt (i : Instr) (v n : Nat) : State :=
  let s := machS i [(1, 64)]
  { s with mem := { s.mem with vault := cellsWrite [] 64 (valBytes 16 (v + (4 - n) * 2 ^ 16 + n * 2 ^ 32 + n % 4 * 2 ^ 48 + 4 * 2 ^ 80 + 0x100 * 2 ^ 96)) } }
theorem met_queues : ∀ p, p ∈ [true, false] → ∀ e, e ∈ [((0 : Nat), (1 : Nat)), (1, 0), (1, 4), (1, 1), (1, 3)] →
    let i := if p then Instr.qPush (mem 1 5 1 0) else .qPop (mem 1 5 1 0)
    let s := queueAt i e.1 e.2
    Issues i s (unit i) ∧ CleanVectors s.cur ∧ s.cur.dying = [] ∧ s.cur.sh = none ∧ objectAddr s.cur (mem 1 5 1 0) % 16 = 0
    ∧ teamVault s (objectAddr s.cur (mem 1 5 1 0)) 16 = some 64 ∧ lowest s.cur = some 0 ∧ gateOpen s (stallOp i (mem 1 5 1 0) [64] s) = true ∧ gateOpen s (stallOp i (mem 1 5 1 0) [64, 0x100 + 2 * (if p then e.2 % 4 else 0)] s) = true ∧ 64 % 2 ^ 18 + 16 ≤ 196608
    ∧ qField (vaultObject s 64) 0 = e.1 ∧ qField (vaultObject s 64) 2 = e.2 ∧ qField (vaultObject s 64) 1 = 4 - e.2 ∧ firstInQueue s 64 p = true
    ∧ ringKey s (decide (objectAddr s.cur (mem 1 5 1 0) < 2 ^ 31)) 64 (qRingOf (vaultObject s 64)) (if p then qField (vaultObject s 64) 3 else qField (vaultObject s 64) 4) = some (0x100 + 2 * (if p then e.2 % 4 else 0))
    ∧ qField (vaultObject s 64) 5 = 4 := by decide +kernel

/-! ## Barriers -/

/-- The machine with a block barrier 1 in a given state, and a second team of the block. -/
def barred (i : Instr) (b : Bar) (u : List Team) : State :=
  { mach i with blocks := [{ bid := 1, lid := 1, vsize := 768, nteams := 2, bars := [(1, b)] }], teams := u }
def other : Team := { tid := 2, blk := 1, idx := 1, status := .running }
def barF (w : BitVec 3) : MEM := { mem w 4 0 1 with disp := 1, vd := if w = 0 then 0 else 4 }
def arrived (t r : Nat) : Arrival := { team := t, red := r, counted := true }
/-- An arrival made or not; its phase running, ended alike, ended with reductions that differ. -/
theorem met_barriers : (∀ w, w ∈ [0, 1, 2, 3, 4] → ∀ i, i ∈ [Instr.barArr (barF w), .barWt (barF w), .bar (barF w)] →
    (∀ b, b ∈ [({} : Bar), { last := [(1, some (0, w.toNat))] }, { phase := 1, last := [(1, some (0, w.toNat))], ended := [⟨0, false, 5⟩] },
        { phase := 1, last := [(1, some (0, w.toNat))], ended := [⟨0, true, 5⟩] }, { arr := [arrived 2 w.toNat] }] →
      let s := barred i b [other]
      Issues i s (unit i) ∧ CleanVectors s.cur ∧ s.cur.dying = [] ∧ (block? s s.cur.blk).isSome = true ∧ s.cur.sh = none ∧ s.cur.barin = none
      ∧ barrierOf s (barF w) = b ∧ releaseMet s.cur s.cur.nextOp = true)) := by decide +kernel
/-- The last team to arrive, and one of two. -/
theorem met_barLast :
    (∀ u, u ∈ teamsOf (barred (.bar (barF 3)) { arr := [arrived 2 3] } [other]) 1 → u.status = .ended ∨ u.tid = 1 ∨ u.tid = 2)
    ∧ (∃ u, u ∈ teamsOf (barred (.bar (barF 3)) {} [other]) 1 ∧ u.status ≠ .ended ∧ u.tid ≠ 1) := by decide +kernel
def barOp (b : Bar) : State := modCur (barred (.nop (sr 0 0 0)) b [other]) (fun t => { t with ops := [{ id := 7, i := .barArr (barF 3), flag := some 0 }], flags := [(0, 1)] })
theorem met_barArrives : ∀ b, b ∈ [({ arr := [{ team := 1, red := 3 }] } : Bar), { arr := [{ team := 1, red := 3 }, arrived 2 3] }] →
    StandsNow (barOp b) 7 (theOp (barOp b)) ∧ releaseMet (barOp b).cur 7 = true ∧ CleanVectors (barOp b).cur ∧ (block? (barOp b) 1).isSome = true := by
  decide +kernel
/-- The phase of a block's two teams ends with the sum of what they brought. -/
theorem test_barPhase : after (.longLatencyCompletion 1 7) (barOp { arr := [{ team := 1, red := 3, value := 4 }, { arrived 2 3 with value := 5 }] })
    (fun t => (barrierOf t (barF 3)).ended) = some [⟨0, false, 9⟩] := by decide +kernel

/-- A team that owes a store its step. -/
theorem met_releaseOwed : ∀ i, i ∈ [Instr.bar (barF 0), .gbar (mem 3 4 0 4)] →
    let s := modCur (barred i {} [other]) (fun t => { t with ops := [{ id := 0, i := .st (mem 2 5 1 4), acc := [{ lane := 0 }] }], nextOp := 1 })
    Issues i s (unit i) ∧ s.cur.barin = none ∧ s.cur.ops.any (fun p => decide (p.id < s.cur.nextOp) && p.acc.any (fun a => !a.done)) = true ∧ s.cur.nextOp = 1 := by decide +kernel

def gridF (w : BitVec 3) : MEM := mem w 4 0 4
/-- At the grid barrier: before its arrival is sent, released, released with reductions that differ. -/
def gridded (b : Option Nat) (m : Bool) : State :=
  { machWith (.gbar (gridF 3)) (fun t => { t with barin := b }) with
    launches := [{ lid := 1, d := { nteams := 1, dies := 1 }, grid := { bar := { phase := 1, last := [(1, some (0, 3))] }, done := [(0, ⟨0, m, 9⟩)] } }] }
theorem met_gridBarriers : ∀ e, e ∈ [(none, false), (some 4, false), (some 4, true)] →
    Issues (.gbar (gridF 3)) (gridded e.1 e.2) (unit (.gbar (gridF 3))) ∧ CleanVectors (gridded e.1 e.2).cur ∧ (gridded e.1 e.2).cur.sh = none
    ∧ (gridded e.1 e.2).cur.barin = e.1 ∧ releaseMet (gridded e.1 e.2).cur (gridded e.1 e.2).cur.nextOp = true
    ∧ (grid? (gridded e.1 e.2) (gridOf (gridded e.1 e.2))).map (fun g => (NMap.get none g.bar.last (gridded e.1 e.2).cur.tid, gridDone g (gridded e.1 e.2).cur.die 0))
        = some (some (0, 3), some ⟨0, e.2, 9⟩) := by decide +kernel
/-- An arrival on its way to the apex, the last and not the last, and a release on its way to a die. -/
def tree (n : Nat) : State := { mach (.nop (sr 0 0 0)) with
  launches := [{ lid := 1, d := { nteams := n, dies := 1 } }]
  fabric := { msgs := [.treeUp 1 1 { team := 1, red := 3, value := 9, counted := true }, .treeDown 1 0 ⟨0, false, 9⟩] } }
theorem met_trees : ∀ n, n ∈ [1, 2] → (tree n).fabric.msgs[0]? = some (.treeUp 1 1 { team := 1, red := 3, value := 9, counted := true })
    ∧ (tree n).fabric.msgs[1]? = some (.treeDown 1 0 ⟨0, false, 9⟩) ∧ (gridLaunch? (tree n) 1).isSome = true ∧ (grid? (tree n) 1).isSome = true := by decide +kernel
/-- A pixel block is a grid by itself, whose key is that of the block. -/
theorem met_pixelGrid : let s := { gridded none false with blocks := [{ bid := 1, lid := 2, vsize := 768, pixel := true }], launches := [{ lid := 2, d := { nteams := 1, dies := 1 } }] }
    gridOf s = 1 ∧ (launch? s 1).isSome = false ∧ (grid? s 1).isSome = true ∧ (gridLaunch? s 1).isSome = true := by decide +kernel
theorem test_apex : after (.treeArrival 0) (tree 1) (fun t => t.fabric.msgs) = some [.treeDown 1 0 ⟨0, false, 9⟩, .treeDown 1 0 ⟨0, false, 9⟩] := by decide +kernel

/-! ## Tiles and matrix operations -/

/-- The machine of a launch of 8 accumulator tiles, whose team holds tile 0 and wide tile 8 for group 0. -/
def tiled (i : Instr) (l : NMap DWord) : State :=
  { machS i l with
    cur := { (machS i l).cur with r := { (machS i l).cur.r with tile := [(0, some {})], wide := [(0, some {})] } }
    launches := [{ lid := 1, d := { nteams := 1, tiles := 8, priv := true } }] }
def acq (td : BitVec 4) (g : BitVec 9) : MX := { mx td with imm := g }
theorem met_tacq : (∀ e, e ∈ [((8 : Nat), (1 : BitVec 4), (0 : BitVec 9)), (8, 7, 0), (8, 0, 0), (8, 1, 1), (8, 1, 63), (8, 9, 0), (8, 9, 1)] →
      Issues (.tacq (acq e.2.1 e.2.2)) (tiled (.tacq (acq e.2.1 e.2.2)) []) (unit (.tacq (acq e.2.1 e.2.2)))
      ∧ (tiled (.tacq (acq e.2.1 e.2.2)) []).cur.granted = none ∧ (tiled (.tacq (acq e.2.1 e.2.2)) []).cur.dying = [])
    ∧ holdsTile (tiled (.tacq (acq 0 0)) []).cur 0 = true ∧ holdsTile (tiled (.tacq (acq 7 0)) []).cur 7 = false
    ∧ holdsTile (tiled (.tacq (acq 9 0)) []).cur 9 = false ∧ wideHeld (tiled (.tacq (acq 9 0)) []) 0 < 2
    ∧ Issues (.tacq (acq 1 0)) (mach (.tacq (acq 1 0))) (unit (.tacq (acq 1 0))) ∧ (curLaunch (mach (.tacq (acq 1 0)))).d.tiles ≤ 1
    ∧ (tiled (.tacq (acq 9 0)) []).cur.prot = false ∧ (tiled (.tacq (acq 9 0)) []).cur.width / (tiled (.tacq (acq 9 0)) []).cur.group = 1 := by decide +kernel
/-- A cell whose two wide tiles are in use. -/
def crowdedTiles : State := { tiled (.tacq (acq 9 0)) [] with
  teams := [{ tid := 2, blk := 1, idx := 1, status := .running, r := { wide := [(0, some {})] } }] }
theorem met_tacqWaits : 2 ≤ wideHeld crowdedTiles 0 ∧ (∀ u, u ∈ crowdedTiles.teams → u.tid ≠ crowdedTiles.cur.tid)
    ∧ Issues (.tacq (acq 9 0)) crowdedTiles (unit (.tacq (acq 9 0))) := by decide +kernel
/-- A protected team that holds a wide tile, and one that holds none. -/
theorem met_tacqProtected : let s := modCur (tiled (.tacq (acq 9 0)) []) (fun t => { t with prot := true, sh := some t.r })
    Issues (.tacq (acq 9 0)) s (unit (.tacq (acq 9 0))) ∧ s.cur.granted = none ∧ holdsTile s.cur 9 = false ∧ (wideTile s.cur 0).isSome = true
    ∧ (let u := modCur (mach (.tacq (acq 9 1))) (fun t => { t with prot := true, sh := some t.r })
       Issues (.tacq (acq 9 1)) u (unit (.tacq (acq 9 1))) ∧ u.cur.r.wide = [] ∧ holdsTile u.cur 9 = false ∧ u.cur.width / u.cur.group = 1) := by decide +kernel
theorem met_trel : Issues (.trel (mx 0)) (tiled (.trel (mx 0)) []) (unit (.trel (mx 0))) ∧ (tiled (.trel (mx 0)) []).cur.ops = []
    ∧ (let s := modCur (tiled (.trel (mx 0)) []) (fun t => { t with ops := [{ i := .mxZero (mx 0) }] })
       Issues (.trel (mx 0)) s (unit (.trel (mx 0))) ∧ namesTile (theOp s) 0 = true) := by decide +kernel
theorem met_wideGrant : let s : State := { mach (.tacq (acq 9 0)) with cells := [(0, { wideq := [(1, 1)] })] }
    (cellOf s 0).wideq = (1, 1) :: [] ∧ team? s 1 = some s.cur ∧ s.cur.prot = false ∧ wideHeld s 0 < 2 ∧ s.cur.sh = none := by decide +kernel
theorem met_mxChk : Issues (.mxChk { mx 0 with sc := 5 }) (mach (.mxChk { mx 0 with sc := 5 })) (unit (.mxChk { mx 0 with sc := 5 })) := by decide +kernel
/-- MXT goes to the scalar and is cleared (R215). -/
theorem test_mxChk : after (.mxChk { mx 0 with sc := 5 }) (machWith (.mxChk { mx 0 with sc := 5 }) (fun t => { t with mxt := 7 })) (fun t => (sreg t.cur 5, t.cur.mxt)) = some (7, 0) := by
  decide +kernel

/-- Operand words: vault address 0, stride 64, GROUPS 1. -/
def opWord (a : Nat) : DWord := BitVec.ofNat 64 (a + 64 * 2 ^ 32 + 2 ^ 48)
def matrices : List Instr :=
  [.mxZero (mx 0), .mxWz (mx 8), .mxLd { mx 0 with sa := 1, sb := 2, mod := 1 }, .mxSt { mx 8 with sa := 1, sb := 3, mod := 1 },
   .mxMma { mx 0 with sa := 1, sb := 1, sc := 2 }, .mxBpmma { mx 0 with fa := 10, fb := 10, acc := 1, ns := 2, imm := 0x20, sa := 1, sb := 1, sc := 2 },
   .mxSlice { mx 0 with ns := 1, sa := 4, sb := 1 }, .mxDmma { mx 8 with fa := 11, fb := 11, acc := 4, ns := 1, sa := 1, sb := 1, sc := 63 },
   .mxRc { mx 8 with sa := 4, sb := 0 }, .mxBnd (mx 8)]
def matrixState (i : Instr) (a : Nat) : State := tiled i [(1, opWord a), (2, 64), (3, 256), (4, BitVec.ofNat 64 (a + 256 * 2 ^ 32))]
theorem met_matrixIssue : ∀ i, i ∈ matrices → Issues i (matrixState i 0) (unit i) ∧ (matrixState i 0).cur.dying = [] ∧ planeless (matrixState i 0) i = false
    ∧ (match matrixRanges (matrixState i 0) i with
        | none => false
        | some x => x.2.2.1.all (fun r => r.va % r.al == 0 && (r.n == 0 || (laneVault (matrixState i 0) x.2.1 r.va r.n).isSome))) = true := by decide +kernel
/-- A misaligned operand, one that runs out of the vault, a plane count of 0. -/
theorem met_matrixTraps : let i := Instr.mxMma { mx 0 with sa := 1, sb := 1, sc := 2 }
    (∀ e, e ∈ [(4, true, false), (0x30000 - 64, false, true)] → let s := matrixState i e.1
      Issues i s (unit i) ∧ planeless s i = false
      ∧ (match matrixRanges s i with
          | none => false
          | some x => ((x.2.2.1.find? (fun r => r.va % r.al != 0)).isSome == e.2.1)
            && ((x.2.2.1.find? (fun r => r.n != 0 && (laneVault s x.2.1 r.va r.n).isNone)).isSome == e.2.2)) = true)
    ∧ (let i := Instr.mxBpmma { mx 0 with fa := 10, fb := 10, acc := 1, ns := 2, imm := 0x20, sa := 2, sb := 2, sc := 2 }
       Issues i (matrixState i 0) (unit i) ∧ planeless (matrixState i 0) i = true) := by decide +kernel
/-- Rows in global memory. -/
def globalRows (i : Instr) : State :=
  { matrixState i 0x100 with cells := [(0, { utlb := [leaf0] })], cur := { (matrixState i 0x100).cur with r := { (matrixState i 0x100).cur.r with sr := [(1, 0x100), (2, 64), (3, 256)] } } }
theorem met_globalRows : ∀ e, e ∈ [(Instr.mxLd { mx 0 with sa := 1, sb := 2 }, (0 : Nat), (4 : Nat), Want.read), (.mxSt { mx 8 with sa := 1, sb := 3 }, 8, 16, .write)] →
    let s := globalRows e.1
    Issues e.1 s (unit e.1) ∧ s.cur.dying = [] ∧ execRows s.cur e.2.1 ≠ []
    ∧ (∀ r, r ∈ execRows s.cur e.2.1 → ∀ k, k ∈ List.range e.2.2.1 →
        let a := (0x100 + (if e.2.1 = 0 then 64 else 256) * r + 16 * k)
        globalFault s 0 e.2.2.2 16 none none a = none ∧ (globalPlace s 0 a).isSome = true) := by decide +kernel

/-- A tile operation outstanding, of an instruction, with accesses, over rows 0 and 1. -/
def matrixOp (i : Instr) (acc : List Acc) : State :=
  modCur (tiled (.nop (sr 0 0 0)) []) (fun t => { t with
    ops := [{ id := 7, i := i, flag := some 0, mask := 3#1024, sc := [0, 0, 0], acc := acc }], flags := [(0, 1)], nextOp := 8 })
def row (r a n : Nat) : Acc := { lane := r, va := a, pa := a, mt := vaultMt, data := List.replicate n 0 }
theorem ready_tiles (i : Instr) (acc : List Acc) :
    (∀ td x, accTile (matrixOp i acc).cur td = some x → x.pois = [] ∧ x.bad = []) ∧ (∀ q x, wideTile (matrixOp i acc).cur q = some x → x.pois = [] ∧ x.bad = []) := by
  refine ⟨fun td x h => ?_, fun q x h => ?_⟩
  · have h' : NMap.get none [(0, some ({} : Tile))] td = some x := h
    by_cases hk : (0 : Nat) = td
    · have : x = {} := by simpa [NMap.get, NMap.find?, hk, eq_comm] using h'
      subst this
      exact ⟨rfl, rfl⟩
    · simp [NMap.get, NMap.find?, hk] at h'
  · have h' : NMap.get none [(0, some ({} : WTile))] q = some x := h
    by_cases hk : (0 : Nat) = q
    · have : x = {} := by simpa [NMap.get, NMap.find?, hk, eq_comm] using h'
      subst this
      exact ⟨rfl, rfl⟩
    · simp [NMap.get, NMap.find?, hk] at h'
theorem matrixOp_clean (i : Instr) (acc : List Acc) : CleanMemory (matrixOp i acc) := ⟨rfl, rfl, rfl, rfl, fun _ _ h => absurd h List.not_mem_nil⟩
def completing : List State :=
  [matrixOp (.mxZero (mx 0)) [], matrixOp (.mxWz (mx 8)) [], matrixOp (.mxLd { mx 0 with mod := 1 }) [row 0 0 64, row 16 64 64],
   matrixOp (.mxLd { mx 8 with mod := 1 }) [row 0 0 256, row 16 256 256], matrixOp (.mxSt { mx 0 with mod := 1 }) [row 16 64 64],
   matrixOp (.mxSt { mx 8 with mod := 1 }) [row 16 256 256], matrixOp (.mxMma (mx 0)) ((List.range 2).map (fun i => row i (32 * i) 32) ++ (List.range 16).map (fun j => row (16 + j) (1024 + 32 * j) 32)),
   matrixOp (.mxBpmma { mx 0 with fa := 10, fb := 10, acc := 1, ns := 2, imm := 0x20 }) [], matrixOp (.mxDmma { mx 8 with fa := 11, fb := 11, acc := 4, ns := 1, sc := 63 }) [],
   matrixOp (.mxBnd (mx 8)) [], matrixOp (.mxSlice { mx 0 with ns := 1 }) [row 16 0 0], matrixOp (.mxRc (mx 8)) [row 1 0 128]]
/-- Each completes: nothing holds it back, no earlier operation names its tile. -/
theorem met_matrixComplete : ∀ s, s ∈ completing → StandsNow s 7 (theOp s) ∧ tileBusy s (theOp s) = false ∧ s.cur.dying = [] ∧ s.cur.sh = none := by
  decide +kernel
/-- The tile that each names is held, and its accesses are there. -/
theorem met_matrixOperands :
    (let s := matrixOp (.mxMma (mx 0)) ((List.range 2).map (fun i => row i (32 * i) 32) ++ (List.range 16).map (fun j => row (16 + j) (1024 + 32 * j) 32))
     rowsOf s.cur 0 (theOp s).mask = [0, 1] ∧ holdsTile s.cur 0 = true ∧ holdsTile s.cur 8 = true
     ∧ (∀ r, r ∈ [0, 1] ++ (List.range 16).map (16 + ·) → ((theOp s).acc.find? (fun a => a.lane == r)).map (fun a => (a.data.length, a.mt)) = some (32, vaultMt))
     ∧ (∀ a, a ∈ (theOp s).acc → a.lane < 32))
    ∧ (let s := matrixOp (.mxLd { mx 0 with mod := 1 }) [row 0 0 64, row 16 64 64]
       ∀ i, i ∈ [0, 1] → ((theOp s).acc.filter (fun a => a.lane / 16 == i)).map (·.mt) = [vaultMt])
    ∧ wideTile (matrixOp (.mxBnd (mx 8)) []).cur 0 = some {} ∧ rowsOf (matrixOp (.mxBnd (mx 8)) []).cur 8 3#1024 = [0, 1] := by decide +kernel
/-- A role's access is there with a number of bytes. -/
def hasRole (o : Op) (role n : Nat) : Bool := (o.acc.find? (fun a => a.lane == role)).map (fun a => (a.data.length, a.mt)) == some (n, vaultMt)
theorem role_there {o : Op} {role n : Nat} (h : hasRole o role n = true) : roleThere o role n := by
  have h := eq_of_beq h
  obtain ⟨a, ha, e⟩ := Option.map_eq_some_iff.1 h
  simp only [Prod.mk.injEq] at e
  exact ⟨a, ha, e.1, e.2⟩
/-- E4M3 products of one block without scales; a bit-plane group of 2 by 2 planes; a slice image of one digit to cut, and its parts to multiply. -/
def e4m3Op : State := matrixOp (.mxMma { mx 0 with fa := 2, fb := 2, acc := 1 }) ((List.range 2).map (fun i => row i (32 * i) 32) ++ (List.range 16).map (fun j => row (16 + j) (1024 + 32 * j) 32))
theorem met_products : MmaAccesses e4m3Op (theOp e4m3Op) { mx 0 with fa := 2, fb := 2, acc := 1 } [0, 1] := by
  have h : (∀ i, i ∈ [0, 1] → hasRole (theOp e4m3Op) i 32 = true) ∧ (∀ j, j ∈ List.range 16 → hasRole (theOp e4m3Op) (16 + j) 32 = true) ∧ (∀ a, a ∈ (theOp e4m3Op).acc → a.lane < 32) := by
    decide +kernel
  refine ⟨fun i hi => ⟨role_there (h.1 i hi), ?_, ?_, ?_, ?_⟩, fun j hj => ⟨role_there (h.2.1 j (List.mem_range.2 hj)), ?_, ?_, ?_⟩⟩
  · exact fun a ha e => absurd (h.2.2 a ha) (by omega)
  · exact fun a ha e => absurd (h.2.2 a ha) (by omega)
  · exact fun c => absurd (show inLines 2 = true from c) (by decide)
  · exact fun m c => nomatch (show (none : Option (Nat → Byte)) = some m from c)
  · exact fun a ha e => absurd (h.2.2 a ha) (by omega)
  · exact fun c => absurd (show inLines 2 = true from c) (by decide)
  · exact fun m c => nomatch (show (none : Option (Nat → Byte)) = some m from c)
def planesOp : State := matrixOp (.mxBpmma { mx 0 with fa := 10, fb := 10, acc := 1, ns := 2, imm := 0x20 })
  ((List.range 2).flatMap (fun i => row (32 + i) i 1 :: (List.range 2).map (fun k => row (128 + 16 * i + k) 64 8))
    ++ (List.range 16).flatMap (fun j => row (48 + j) j 1 :: (List.range 2).map (fun k => row (512 + 16 * j + k) 64 8)))
theorem met_planes : StandsNow planesOp 7 (theOp planesOp) ∧ tileBusy planesOp (theOp planesOp) = false ∧ rowsOf planesOp.cur 0 (theOp planesOp).mask = [0, 1]
    ∧ (∀ i, i ∈ [0, 1] → hasRole (theOp planesOp) (32 + i) 1 = true ∧ ∀ k, k ∈ [0, 1] → hasRole (theOp planesOp) (128 + 16 * i + k) 8 = true)
    ∧ (∀ j, j ∈ List.range 16 → hasRole (theOp planesOp) (48 + j) 1 = true ∧ ∀ k, k ∈ [0, 1] → hasRole (theOp planesOp) (512 + 16 * j + k) 8 = true) := by decide +kernel
def sliceOp : State := matrixOp (.mxSlice { mx 0 with ns := 1 }) ((List.range 16).map (fun i => row i (256 * i) 256) ++ [row 16 8192 0])
theorem met_slices : StandsNow sliceOp 7 (theOp sliceOp) ∧ ((theOp sliceOp).acc.find? (fun a => a.lane == 16)).map (fun a => a.mt) = some vaultMt
    ∧ (∀ i, i ∈ List.range 16 → hasRole (theOp sliceOp) i 256 = true) := by decide +kernel
def wideOp : State := matrixOp (.mxDmma { mx 8 with fa := 11, fb := 11, acc := 4, ns := 1, sc := 63 })
  ((List.range 2).flatMap (fun i => [row (256 * i) 0 2, row (256 * i + 1) 64 32, row (256 * i + 2) 128 32])
    ++ (List.range 16).flatMap (fun j => [row (4096 + 256 * j) 0 2, row (4096 + 256 * j + 1) 64 32, row (4096 + 256 * j + 2) 128 32]))
theorem met_wideProducts : StandsNow wideOp 7 (theOp wideOp) ∧ tileBusy wideOp (theOp wideOp) = false ∧ rowsOf wideOp.cur 8 (theOp wideOp).mask = [0, 1]
    ∧ (∀ e, e ∈ [0, 1].map (256 * ·) ++ (List.range 16).map (4096 + 256 * ·) → hasRole (theOp wideOp) e 2 = true ∧ hasRole (theOp wideOp) (e + 1) 32 = true
        ∧ hasRole (theOp wideOp) (e + 2) 32 = true ∧ valueOf 2 (roleByte wideOp (theOp wideOp) e) = 0
        ∧ (∀ k, k ∈ List.range 32 → (roleByte wideOp (theOp wideOp) (e + 1) k).toNat / 4 % 32 = 0 ∧ roleByte wideOp (theOp wideOp) (e + 2) k ≠ 0x80)) := by decide +kernel
/-- INT4 lines whose tag byte says E2M1; a digit of 0x80 in a plane; nothing wrong; and the exit of a team that has such a fault pending. -/
def int4Op : State :=
  matrixOp (.mxMma { mx 0 with fa := 7, fb := 7, acc := 1 }) ((List.range 2).map (fun i => row i (256 * i) 256) ++ (List.range 16).map (fun j => row (16 + j) (1024 + 256 * j) 256))
theorem met_dataFaults : (StandsNow int4Op 7 (theOp int4Op) ∧ tileBusy int4Op (theOp int4Op) = false ∧ rowsOf int4Op.cur 0 (theOp int4Op).mask = [0, 1]
      ∧ rowBytes 7 1 false = 256 ∧ (∀ i, i ∈ [0, 1] ++ (List.range 16).map (16 + ·) → hasRole (theOp int4Op) i 256 = true)
      ∧ (mmaFaults int4Op (theOp int4Op) { mx 0 with fa := 7, fb := 7, acc := 1 } [0, 1]).head? = some (0x22, 0)
      ∧ mmaFaults e4m3Op (theOp e4m3Op) { mx 0 with fa := 2, fb := 2, acc := 1 } [0, 1] = [])
    ∧ (let f : MX := { mx 8 with fa := 11, fb := 11, acc := 4, ns := 1, sc := 63 }
       let s := { wideOp with mem := { wideOp.mem with vault := [(130, 0x80)] } }
       StandsNow s 7 (theOp s) ∧ rowsOf s.cur 8 (theOp s).mask = [0, 1] ∧ (dmmaFaults s (theOp s) f [0, 1]).head? = some (0x23, 130) ∧ dmmaFaults wideOp (theOp wideOp) f [0, 1] = []
       ∧ (∀ e, e ∈ [0, 1].map (256 * ·) ++ (List.range 16).map (4096 + 256 * ·) → hasRole (theOp s) e 2 = true ∧ hasRole (theOp s) (e + 1) 32 = true ∧ hasRole (theOp s) (e + 2) 32 = true)
       ∧ (∀ a, a ∈ (theOp s).acc → a.lane % 256 < 3 ∧ a.lane / 256 % 16 < 16 ∧ a.lane / 4096 < 2 ∧ a.lane = partRole (a.lane / 4096) (a.lane / 256 % 16) 0 (a.lane % 256)))
    ∧ (let i := Instr.exit (br 0 0 0)
       let s := machWith i (fun t => { t with deferred := [{ op := { id := 3, pc := 0x40 }, cause := 0xF, detail := 0x22, addr := 0 }] })
       Issues i s (unit i) ∧ s.cur.ops = [] ∧ s.cur.flags = [] ∧ s.cur.deferred = [{ op := { id := 3, pc := 0x40 }, cause := 0xF, detail := 0x22, addr := 0 }]) := by decide +kernel
/-- The tag's byte is DETAIL `0x22` at the line (R68). -/
theorem test_tagFault : after (.longLatencyCompletion 1 7) int4Op (fun t => t.cur.deferred.map (fun d => (d.cause, d.detail, d.addr, d.replay))) = some [(0xF, 0x22, 0, false)] := by decide +kernel
/-- Rows of a tile over mapped memory: two rows to the vault, a piece to its home, a row of four pieces from their homes, a rounded row beside its bounds. -/
def piece (r k a : Nat) : Acc := { lane := 16 * r + k, va := a, pa := a, mt := 0, page := 65536 }
def rowOp (i : Instr) (acc : List Acc) : State :=
  modCur (mapped (.nop (sr 0 0 0)) 0x100 leaf0) (fun t => { t with
    r := { t.r with tile := [(0, some {})], wide := [(0, some {})] }
    ops := [{ id := 7, i := i, flag := some 0, mask := 3#1024, sc := [0, 0, 0], acc := acc }], flags := [(0, 1)], nextOp := 8 })
theorem rowOp_good (i : Instr) (acc : List Acc) : GoodMemory (rowOp i acc) := mapped_good (.nop (sr 0 0 0)) 0x100 leaf0
def rowMoves : List State :=
  [rowOp (.mxSt { mx 0 with mod := 1 }) [row 0 0 64, row 16 64 64], rowOp (.mxSt (mx 0)) [piece 1 2 0x200], rowOp (.mxSt (mx 8)) [piece 1 15 0x200],
   rowOp (.mxLd (mx 0)) ([0, 1].flatMap (fun r => (List.range 4).map (fun k => piece r k (0x200 + 64 * r + 16 * k)))), rowOp (.mxRc (mx 8)) [row 0 0 128, row 16 128 32], rowOp (.mxBnd (mx 8)) [row 17 0 32]]
theorem met_rowMoves : ∀ s, s ∈ rowMoves → StandsNow s 7 (theOp s) ∧ tileBusy s (theOp s) = false ∧ s.cur.dying = [] ∧ s.cur.sh = none
    ∧ rowsOf s.cur 0 (theOp s).mask = [0, 1] ∧ rowsOf s.cur 8 (theOp s).mask = [0, 1]
    ∧ (∀ a, a ∈ (theOp s).acc → (a.mt = 0 → a.pa % 16 = 0 ∧ locate s a.pa = some (0, a.pa) ∧ (siteOf s 0).lost = false ∧ a.pa + 16 ≤ 2 ^ 36 ∧ a.done = false)
        ∧ ∀ b, b ∈ (theOp s).acc → a ≠ b → a.pa + a.data.length ≤ b.pa ∨ b.pa + b.data.length ≤ a.pa) := by decide +kernel
/-- 2 · 3 added 32 times: signed bytes 2 in A and 3 in B give 192 in an empty tile. -/
theorem test_mma : let s := matrixOp (.mxMma (mx 0)) ((List.range 2).map (fun i => row i (32 * i) 32) ++ (List.range 16).map (fun j => row (16 + j) (1024 + 32 * j) 32))
    after (.longLatencyCompletion 1 7) { s with mem := { s.mem with vault := cellsWrite (cellsWrite [] 0 (List.replicate 32 2)) 1024 (List.replicate 32 3) } }
      (fun t => (accElem t.cur 0 0 0, accElem t.cur 0 0 1, accElem t.cur 0 1 0, flagCount t.cur 0)) = some (192, 0, 0, 0) := by decide +kernel

/-! ## Engines and collectives -/

def engS (i : Instr) : State := machS i [(1, 0x100), (2, 0x400), (3, 64), (4, 0x800), (5, 0x10040), (6, 0x40000000400)]
def engOk : List Instr :=
  [.cp { eng 1 2 3 4 with mod := 2 }, .cp (eng 1 2 3 63), .cp { eng 1 2 3 4 with mod := 1 }, .cp2d { eng 1 2 5 4 with imm := 4 }, .skimG { eng 6 1 0 4 with mod := 2, imm := 15 },
   .skimS { eng 1 6 0 63 with imm := 0 }]
/-- What a command names, as decidable facts. -/
def okCommand (s : State) (i : Instr) : Prop := ∃ m, commandOf s i = some m ∧ ¬m.bad ∧ ¬m.dead ∧ ∀ r, r ∈ m.rs ++ m.sw → rangeFails s r = false
theorem met_engineIssue : (∀ i, i ∈ engOk → Issues i (engS i) (unit i) ∧ (engS i).cur.dying = [] ∧ cellEngines (engS i) 0 0 < 32) := by decide +kernel
theorem met_cpOk : okCommand (engS (.cp { eng 1 2 3 4 with mod := 2 })) (.cp { eng 1 2 3 4 with mod := 2 }) :=
  ⟨_, rfl, by dsimp only; decide +kernel, by dsimp only; decide +kernel, by decide +kernel⟩
theorem met_cp2dOk : okCommand (engS (.cp2d { eng 1 2 5 4 with imm := 4 })) (.cp2d { eng 1 2 5 4 with imm := 4 }) :=
  ⟨_, rfl, by dsimp only; decide +kernel, by dsimp only; decide +kernel, by decide +kernel⟩
theorem met_skimOk : okCommand (engS (.skimG { eng 6 1 0 4 with mod := 2, imm := 15 })) (.skimG { eng 6 1 0 4 with mod := 2, imm := 15 }) :=
  ⟨_, rfl, by dsimp only; decide +kernel, by dsimp only; decide +kernel, by decide +kernel⟩
/-- Between two live dies, in the own form of addresses, with the completion word at the destination. -/
def twoDies (i : Instr) : State :=
  { machS i [(1, 0x180000100), (2, 0x80000400), (3, 64), (4, 0x180000800), (5, 0x580000100)] with
    dies := [(0, { live := true, ready := true }), (1, { live := true, ready := true })] }
theorem met_cpXOk : okCommand (twoDies (.cpX (eng 1 2 3 4))) (.cpX (eng 1 2 3 4)) ∧ Issues (.cpX (eng 1 2 3 4)) (twoDies (.cpX (eng 1 2 3 4))) (unit (.cpX (eng 1 2 3 4))) :=
  ⟨⟨_, rfl, by dsimp only; decide +kernel, by dsimp only; decide +kernel, by decide +kernel⟩, by decide +kernel⟩
theorem met_enqOk : okCommand (machS (.enq (eng 1 2 0 63)) [(1, 128)]) (.enq (eng 1 2 0 63)) ∧ Issues (.enq (eng 1 2 0 63)) (machS (.enq (eng 1 2 0 63)) [(1, 128)]) (unit (.enq (eng 1 2 0 63))) :=
  ⟨⟨_, rfl, by dsimp only; decide +kernel, by dsimp only; decide +kernel, by decide +kernel⟩, by decide +kernel⟩
/-- A length of 0 and one past 192 KiB, a die that is not live, a misaligned completion word. -/
theorem met_engineBad : (∃ m, commandOf (machS (.cp (eng 1 2 3 63)) [(1, 0x100)]) (.cp (eng 1 2 3 63)) = some m ∧ m.bad)
    ∧ (∃ m, commandOf (machS (.cp (eng 1 2 3 63)) [(3, 196624)]) (.cp (eng 1 2 3 63)) = some m ∧ m.bad)
    ∧ (∃ m, commandOf (twoDies (.cpX (eng 5 2 3 63))) (.cpX (eng 5 2 3 63)) = some m ∧ ¬m.bad ∧ m.dead)
    ∧ (∃ m, commandOf (machS (.cp { eng 1 2 3 4 with mod := 2 }) [(1, 0x100), (2, 0x400), (3, 64), (4, 0x808)]) (.cp { eng 1 2 3 4 with mod := 2 }) = some m ∧ ¬m.bad ∧ ¬m.dead
        ∧ ((m.rs ++ m.sw).find? (rangeFails (machS (.cp { eng 1 2 3 4 with mod := 2 }) [(1, 0x100), (2, 0x400), (3, 64), (4, 0x808)]))).isSome = true) :=
  ⟨⟨_, rfl, by dsimp only; decide +kernel⟩, ⟨_, rfl, by dsimp only; decide +kernel⟩, ⟨_, rfl, by dsimp only; decide +kernel, by dsimp only; decide +kernel⟩,
   ⟨_, rfl, by dsimp only; decide +kernel, by dsimp only; decide +kernel, by decide +kernel⟩⟩
/-- A cell with 32 engine operations outstanding. -/
theorem met_engineFull : let i := Instr.cp { eng 1 2 3 4 with mod := 2 }
    let s := modCur (engS i) (fun t => { t with ops := List.replicate 32 { i := i } })
    Issues i s (unit i) ∧ 32 ≤ cellEngines s s.cur.die s.cur.cell := by decide +kernel

/-- An engine operation outstanding: its sync word plus 1, its keys. -/
def engOp (i : Instr) (started : Bool) (sc : List DWord) (arg : List Nat) : State :=
  modCur (mapped (.nop (sr 0 0 0)) 0x100 leaf0) (fun t => { t with
    ops := [{ id := 7, i := i, flag := some 0, mask := lanes32, sc := sc, arg := arg, started := started }], flags := [(0, 1)], nextOp := 8 })
theorem met_engineStarts : (∀ i, i ∈ [Instr.cp (eng 1 2 3 63), .cp2d (eng 1 2 3 63), .cpX (eng 1 2 3 63), .skimG (eng 1 2 3 63), .skimS (eng 1 2 3 63), .enq (eng 1 2 3 63)] →
    let s := engOp i false [0, 0, 64] [0, 0, 0x100, 0x400]
    EngineStands s 7 (theOp s) ∧ isEngine (theOp s).i = true ∧ (theOp s).started = false ∧ gateOpen s (theOp s) = true ∧ engBlocked s (theOp s) = false
    ∧ fenceMet s.cur (theOp s) 1 (2 ^ (theOp s).stream) = true ∧ isLive s (((theOp s).sc.getD 1 0).toNat / 256 % 256) = true) := by unfold EngineStands; decide +kernel
/-- Copies inside the vaults and between dies, with a completion word and without. -/
theorem met_copies : (∀ e, e ∈ [(Instr.cp { eng 1 2 3 4 with mod := 2 }, [(0 : Nat), 0x40001, 0x100, 0x400]), (.cp { eng 1 2 3 63 with mod := 2 }, [0, 0, 0x100, 0x400]), (.cpX (eng 1 2 3 63), [0, 0, 0x100, 0x400])] →
    let s := engOp e.1 true [0, 0, 64] e.2
    EngineStands s 7 (theOp s) ∧ (theOp s).started = true ∧ ((theOp s).sc.getD 2 0).toNat = 64 ∧ isLive s 0 = true
    ∧ (engSync (theOp s) = none ∨ engSync (theOp s) = some 0x40000) ∧ engKeyA (theOp s) + 2 ^ 18 ≤ 0x40100) := by unfold EngineStands; decide +kernel
theorem met_copiesMemory (i : Instr) (b : Bool) (sc : List DWord) (arg : List Nat) : GoodMemory (engOp i b sc arg) := mapped_good (.nop (sr 0 0 0)) 0x100 leaf0
/-- Every byte of a movement stands at its own number in site 0; its leaf is that of its line. -/
theorem mapped_bytes {s : State} {g : Nat → Nat} {m : Nat} {w : Want} {l : Nat → Leaf}
    (h : ∀ j, j ∈ List.range m → ((l j).mt = 0 ∧ (l j).vbase % 128 = 0 ∧ (l j).pbase % 128 = 0 ∧ denied (l j) w (curLaunch s).d.priv = none) ∧ g j < 2 ^ 36
      ∧ (cellOf s (ckey s.cur.die s.cur.cell)).utlb.find? (fun n => n.vbase ≤ g j && g j < n.vbase + n.size) = some (l j)
      ∧ placeAt s (l j) (g j) = some (0, g j) ∧ (siteOf s 0).lost = false)
    (hl : ∀ j k, g j / 128 = g k / 128 → l j = l k) : Mapped s g m w l ∧ OwnLines s g m l := by
  refine ⟨⟨fun j hj => ?_, fun j k _ _ => hl j k⟩, fun j k x p q hj hk hp hq e => ?_⟩
  · obtain ⟨⟨q1, q2, q3, q4⟩, a, b, c, d⟩ := h j (List.mem_range.2 hj)
    exact ⟨q1, q2, q3, q4, by omega, b, 0, g j, c, d, a⟩
  · rw [(h j (List.mem_range.2 hj)).2.2.2.1] at hp
    rw [(h k (List.mem_range.2 hk)).2.2.2.1] at hq
    simp only [Option.some.injEq, Prod.mk.injEq] at hp hq
    omega
/-- Copies by one run and by two rows 256 apart, to and from mapped memory; a gather and a scatter of four words at index 0. -/
def rows2 : DWord := 0x0000010000020001
def moves : List (Instr × List DWord) :=
  [(.cp (eng 1 2 3 63), [0, 0x200, 64]), (.cp { eng 1 2 3 63 with mod := 1 }, [0x200, 0, 64]), (.cp2d { eng 1 2 3 63 with imm := 4 }, [0, 0x200, rows2]),
   (.cp2d { eng 1 2 3 63 with mod := 1, imm := 4 }, [0x200, 0, rows2]), (.skimG { eng 1 2 3 63 with mod := 2, imm := 3 }, [0, 0x200, 0]),
   (.skimS { eng 1 2 3 63 with mod := 2, imm := 3 }, [0x200, 0, 0])]
def moving (e : Instr × List DWord) : State := engOp e.1 true e.2 [0, 0, 0x100, 0x400]
theorem met_moves : ∀ e, e ∈ moves → let s := moving e
    EngineStands s 7 (theOp s) ∧ (theOp s).started = true ∧ engSync (theOp s) = none ∧ engKeyA (theOp s) + 80 ≤ engKeyB (theOp s) ∧ (∀ u, u ∈ allTeams s → u.early = [])
    ∧ (∀ k, k ∈ List.range 4 → valueOf 4 (fun j => vaultByte s (0x400 + 4 * k + j)) = 0) := by unfold EngineStands; decide +kernel
theorem met_runMapped : ∀ w, w ∈ [Want.read, .write] → ∀ e, e ∈ moves → Mapped (moving e) (fun j => 0x200 + j) 64 w (fun _ => leaf0) ∧ OwnLines (moving e) (fun j => 0x200 + j) 64 (fun _ => leaf0) :=
  fun w hw e he => mapped_bytes (by revert w e; decide +kernel) (fun _ _ _ => rfl)
theorem met_rowsMapped : ∀ w, w ∈ [Want.read, .write] → ∀ e, e ∈ (moves.drop 2).take 2 →
    Mapped (moving e) (rowAddr (theOp (moving e)) 0x200) 32 w (fun _ => leaf0) ∧ OwnLines (moving e) (rowAddr (theOp (moving e)) 0x200) 32 (fun _ => leaf0) :=
  fun w hw e he => mapped_bytes (by revert w e; decide +kernel) (fun _ _ _ => rfl)
theorem met_elementsMapped : ∀ w, w ∈ [Want.read, .write] → ∀ e, e ∈ moves.drop 4 →
    Mapped (moving e) (elementAddr (moving e) (theOp (moving e)) 0x200 4) 16 w (fun _ => leaf0) ∧ OwnLines (moving e) (elementAddr (moving e) (theOp (moving e)) 0x200 4) 16 (fun _ => leaf0) :=
  fun w hw e he => mapped_bytes (by revert w e; decide +kernel) (fun _ _ _ => rfl)
/-- A copy of 64 bytes whose halves lie in two pages. -/
def twoPages : State :=
  { moving (.cp (eng 1 2 3 63), [0, 0xFFE0, 64]) with cells := [(0, { utlb := [leaf0, { leaf0 with vbase := 0x10000, pbase := 0x10000 }] })] }
def twoLeaves (j : Nat) : Leaf := if (0xFFE0 + j) / 128 < 512 then leaf0 else { leaf0 with vbase := 0x10000, pbase := 0x10000 }
theorem met_twoPages : (EngineStands twoPages 7 (theOp twoPages) ∧ (theOp twoPages).started = true) ∧ Mapped twoPages (fun j => 0xFFE0 + j) 64 .read twoLeaves
    ∧ OwnLines twoPages (fun j => 0xFFE0 + j) 64 twoLeaves ∧ twoLeaves 31 ≠ twoLeaves 32 :=
  ⟨by unfold EngineStands; decide +kernel, (mapped_bytes (by decide +kernel) (fun j k h => by unfold twoLeaves; rw [h])).1,
    (mapped_bytes (w := .read) (by decide +kernel) (fun j k h => by unfold twoLeaves; rw [h])).2, by decide⟩
/-- A copy from beyond 2^56. -/
theorem met_copyFar : let s := engOp (.cp (eng 1 2 3 63)) true [0, 0x100000000000000, 64] [0, 0, 0x100, 0]
    EngineStands s 7 (theOp s) ∧ 2 ^ 56 ≤ ((theOp s).sc.getD 1 0).toNat ∧ 0 < ((theOp s).sc.getD 2 0).toNat := by unfold EngineStands; decide +kernel
/-- A copy of 16 bytes from home line 4 counts 16 at no word and moves the bytes. -/
theorem test_cp : let s := engOp (.cp (eng 1 2 3 63)) true [0, 0x200, 16] [0, 0, 0x100, 0]
    after (.engineOperationComplete 1 7) { s with mem := { s.mem with hbm := [(0x201, 9)] } } (fun t => (vaultByte t 0x101, vaultByte t 0x102, t.cur.ops, flagCount t.cur 0))
    = some (9, 0, [], 0) := by decide +kernel
/-- A descriptor held for a queue with room. -/
theorem met_queueAppend : let s : State := { mach (.nop (sr 0 0 0)) with dies := [(0, { live := true, ready := true, held := [(1, [{}])] })] }
    NMap.get [] (dieOf s (1 / 64)).held (1 % 64) = {} :: [] ∧ (NMap.get [] (dieOf s (1 / 64)).queues (1 % 64)).length < 256 ∧ ({} : QHeld).box = none ∧ logicOn s 0 = true := by decide +kernel
/-- The held descriptor is that of the team's own `enq`. -/
theorem met_ownEnq : let s := { engOp (.enq (eng 1 2 0 4)) true [0x80, 1, 0] [0, 0x801, 0x80, 0] with dies := [(0, { live := true, ready := true, held := [(1, [{ team := some (1, 7) }])] })] }
    EngineStands s 7 (theOp s) ∧ (∀ u, u ∈ allTeams s → u.early = []) ∧ NMap.get [] (dieOf s (1 / 64)).held (1 % 64) = { team := some (s.cur.tid, 7) } :: []
    ∧ (NMap.get [] (dieOf s (1 / 64)).queues (1 % 64)).length < 256 ∧ logicOn s 0 = true ∧ engSync (theOp s) = some 0x800 := by unfold EngineStands; decide +kernel

/-- The machine whose vault holds a collective descriptor at offset 64: die 0 alone, COUNT 2 words, SRC 0x100, DST 0x200, an OP and a TYPE. -/
def collAt (i : Instr) (op ty : Nat) (a : DWord) : State :=
  let s := machS i [(1, a)]
  { s with mem := { s.mem with vault := cellsWrite [] 64 (valBytes 64 (2 ^ 368 + 2 * 2 ^ 288 + 0x100 * 2 ^ 224 + 0x200 * 2 ^ 192 + op * 16 + ty)) } }
def collWord (s : State) : Nat := valueOf 64 (fun j => vaultByte s (64 + j))
theorem met_collIssue : ∀ i, i ∈ [Instr.coll { eng 1 0 0 63 with scope := 4 }, .collAbort { eng 1 0 0 63 with scope := 5 }] →
    (∀ e, e ∈ [((0 : Nat), (0 : Nat), true), (6, 0, false), (5, 6, false)] → let s := collAt i e.1 e.2.1 64
      Issues i s (unit i) ∧ s.cur.dying = [] ∧ teamVault s ((sreg s.cur 1).toNat % 2 ^ 32) 64 = some 64 ∧ cellEngines s s.cur.die s.cur.cell < 32
      ∧ teamVault s 0 16 ≠ none ∧ (∀ u, u ∈ allTeams s → u.early = [])
      ∧ (match checkColl s 64 (collOf (collWord s)) with | .inr _ => true | .inl _ => false) = e.2.2 ∧ s.mem.vpois = [] ∧ s.mem.vbad = [])
    ∧ Issues i (collAt i 0 0 32) (unit i) ∧ (sreg (collAt i 0 0 32).cur 1).toNat % 2 ^ 32 % 64 ≠ 0 := by decide +kernel
/-- A collective's operation: descriptor of die 0 (and die 1) as captured words, of an attempt. -/
def collSc (dies att : Nat) : List DWord :=
  0 :: (List.range 8).map (fun k => BitVec.ofNat 64 ((dies * 2 ^ 368 + att * 2 ^ 352 + 2 * 2 ^ 288 + 0x100 * 2 ^ 224 + 0x200 * 2 ^ 192) / 2 ^ (64 * k)))
def collOp (dies att : Nat) (started : Bool) (acc : List Acc) : State :=
  let s := engOp (.coll { eng 1 0 0 63 with scope := 4 }) started (collSc dies att) [0, 0, 0x100, 0x200, 0, 0, 0, 0, 0, 0, 0, 84]
  modCur { s with dies := [(0, { live := true, ready := true }), (1, { live := true, ready := true })] } (fun t => { t with ops := t.ops.map (fun o => { o with acc := acc }) })
/-- The memory that a collective meets holds no poison, and no access has run ahead. -/
theorem collOp_good (dies att : Nat) (b : Bool) (acc : List Acc) : GoodMemory (collOp dies att b acc) := mapped_good (.nop (sr 0 0 0)) 0x100 leaf0
theorem met_noneAhead (dies att : Nat) (b : Bool) (acc : List Acc) : NoneAhead (collOp dies att b acc) := fun u hu => by
  rw [List.mem_singleton.1 (show u ∈ [(collOp dies att b acc).cur] from hu)]; rfl
theorem met_collStarts : ∀ e, e ∈ [((3 : Nat), (0 : Nat), false, Age.equal), (5, 0, true, .equal), (3, 65535, false, .older)] → let s := collOp e.1 e.2.1 false []
    EngineStands s 7 (theOp s) ∧ (theOp s).started = false ∧ gateOpen s (theOp s) = true ∧ engBlocked s (theOp s) = false ∧ engSync (theOp s) = none
    ∧ ((opColl (theOp s)).members.any (fun d => !isLive s d)) = e.2.2.1
    ∧ ageOf (opColl (theOp s)).attempt (attemptOf s s.cur.die (curBlock s).lid (opColl (theOp s)).group) = e.2.2.2 := by unfold EngineStands; decide +kernel
/-- A packet from die 1 that matches, one whose descriptor differs, one for a die that is not live; an abort token. -/
def packet (m : State → Msg) : State :=
  let s := collOp 3 0 true [{ lane := 0, data := valBytes 8 5, done := true }]
  { s with fabric := { msgs := [m s] } }
theorem met_packets : ∀ m, m ∈ [fun s => Msg.coll 1 0 0 0 1 0 (opColl (theOp s)).same (valBytes 8 7) [], fun _ => .coll 1 0 0 0 1 0 [9] (valBytes 8 7) [],
      fun _ => .coll 1 0 0 0 1 5 [] [] [], fun _ => .token 1 0 0 0 1 7] → let s := packet m
    s.fabric.msgs[0]? = some (m s) ∧ isLive s 5 = false ∧ isLive s 0 = true ∧ (opColl (theOp s)).same ≠ [9]
    ∧ ageOf 0 (attemptOf s 0 1 0) = .equal ∧ attemptOf s 0 1 0 = 0 ∧ EngineStands s 7 (theOp s) ∧ (theOp s).started = true ∧ s.teams = [] ∧ s.cur.die = 0 ∧ (curBlock s).lid = 1
    ∧ (opColl (theOp s)).group = 0 ∧ (opColl (theOp s)).attempt = 0
    ∧ collOps s 0 1 (fun o => (opColl o).group == 0 && (opColl o).attempt == 0 && opNth o == 0) = [(s.cur.tid, 7)] ∧ engSync (theOp s) = none := by
  unfold EngineStands; decide +kernel
theorem met_firstOfItsWay (m : State → Msg) : FirstOfItsWay (packet m) 0 (m (packet m)) := fun _ h => absurd h List.not_mem_nil
/-- An abort before its tokens go out, and with both taken. -/
def abortOp (started : Bool) (acc : List Acc) : State :=
  modCur (collOp 3 0 started acc) (fun t => { t with ops := t.ops.map (fun o => { o with i := .collAbort { eng 1 0 0 63 with scope := 5 } }) })
theorem met_aborts : (let s := abortOp false []
      EngineStands s 7 (theOp s) ∧ (theOp s).started = false ∧ gateOpen s (theOp s) = true ∧ engBlocked s (theOp s) = false)
    ∧ (let s := abortOp true [{ lane := 0, done := true }, { lane := 1, done := true }]
       EngineStands s 7 (theOp s) ∧ (theOp s).started = true ∧ (∀ a, a ∈ (theOp s).acc → a.done = true)) := by unfold EngineStands; decide +kernel
theorem met_collCompletes : let s := collOp 3 0 true [{ lane := 0, data := valBytes 8 5, done := true }, { lane := 1, data := valBytes 8 7, done := true }]
    EngineStands s 7 (theOp s) ∧ (theOp s).started = true ∧ engSync (theOp s) = none ∧ (∀ e, e ∈ (opColl (theOp s)).members → (theOp s).acc.any (fun a => a.lane == e) = true)
    ∧ opDesc (theOp s) + 24 ≤ engKeyB (theOp s) ∧ (opColl (theOp s)).op < 6 ∧ (opColl (theOp s)).ty < 6 := by unfold EngineStands; decide +kernel
/-- An all-reduce of sums: 5 + 7 at DST and STATUS 1 (R228). -/
theorem test_coll : after (.engineOperationComplete 1 7) (collOp 3 0 true [{ lane := 0, data := valBytes 8 5, done := true }, { lane := 1, data := valBytes 8 7, done := true }])
    (fun t => (vaultByte t 0x200, vaultByte t 84, t.cur.ops)) = some (12, 1, []) := by decide +kernel

/-! ## Graphics, texture and ray queries -/

/-- A block of a stage, with a meshlet, or with fragments in lanes 0 and 1. -/
def drawn (i : Instr) (stage : Nat) (m : Meshlet) : State :=
  { mach i with
    blocks := [{ bid := 1, lid := 1, vsize := 768, mesh := m, frags := [some { x := 5, y := 6, attr := [7] }, some { front := true }] }]
    launches := [{ lid := 1, d := { nteams := 1, stage := stage } }] }
def gfx : List (Instr × Nat) :=
  [(.gVtx { sys with va := 4, vb := 1 }, 2), (.gPrim { sys with va := 4, vb := 1 }, 2), (.gAttr { sys with va := 4, vb := 1, mod := 3, imm := 28 }, 2),
   (.gAttr { sys with vd := 4, mod := 3, imm := 28 }, 3), (.gAttr { sys with vd := 4, imm := 35 }, 3), (.gOut { sys with va := 4, imm := 3 }, 3), (.gKill sys, 3), (.gZq { sys with va := 4 }, 3),
   (.gDone { sys with sa := 6 }, 2)]
theorem met_graphics : (∀ e, e ∈ gfx → Issues e.1 (drawn e.1 e.2 {}) (unit e.1) ∧ CleanVectors (drawn e.1 e.2 {}).cur ∧ (drawn e.1 e.2 {}).cur.dying = []
      ∧ (block? (drawn e.1 e.2 {}) (drawn e.1 e.2 {}).cur.blk).isSome = true ∧ (curLaunch (drawn e.1 e.2 {})).d.stage = e.2 ∧ (curBlock (drawn e.1 e.2 {})).mesh.done = false
      ∧ (e.2 = 2 → lowestBad (drawn e.1 e.2 {}).cur { sys with vb := 1 } = none))
    ∧ (∀ i, i ∈ [Instr.gVtx { sys with va := 4, vb := 1 }, .gPrim { sys with va := 4, vb := 1 }, .gAttr { sys with va := 4, vb := 1 }, .gOut { sys with va := 4 }, .gKill sys, .gZq { sys with va := 4 },
        .gDone { sys with sa := 6 }] → Issues i (mach i) (unit i) ∧ (curLaunch (mach i)).d.stage = 0) := by decide +kernel
/-- A vertex number of 256 in lane 3; an attribute past slot 31 in each stage; more than 256 primitives; a meshlet that is done already. -/
theorem met_graphicsTraps :
    (∀ i, i ∈ [Instr.gVtx { sys with va := 4, vb := 1 }, .gPrim { sys with va := 4, vb := 1 }, .gAttr { sys with va := 4, vb := 1 }] →
      let s := modCur (drawn i 2 {}) (fun t => { t with r := { t.r with v := [(1027, 256)] } })
      Issues i s (unit i) ∧ lowestBad s.cur { sys with vb := 1 } = some 3)
    ∧ (let i := Instr.gAttr { sys with va := 4, vb := 1, mod := 3, imm := 29 }
       Issues i (drawn i 2 {}) (unit i) ∧ (actsOn (drawn i 2 {}).cur 0).head? = some 0)
    ∧ (∀ e, e ∈ [((0 : Nat), (36 : Nat)), (1, 32), (3, 29)] → let i := Instr.gAttr { sys with vd := 4, mod := BitVec.ofNat 4 e.1, imm := BitVec.ofNat 11 e.2 }
       Issues i (drawn i 3 {}) (unit i) ∧ (actsOn (drawn i 3 {}).cur 0).head? = some 0)
    ∧ (let i := Instr.gDone { sys with sa := 6 }
       let s := modCur (drawn i 2 {}) (fun t => { t with r := { t.r with sr := [(6, 257)] } })
       Issues i s (unit i) ∧ (sreg s.cur 6).toNat % 512 = 257 ∧ Issues i (drawn i 2 { done := true }) (unit i)) := by decide +kernel
/-- The block's draw is in the open pass, with one owner; the completion of `g.done` once all it sent is gone. -/
def passing (i : Instr) : State := { drawn i 2 {} with parlour := { pass := some { owners := [0], ndraws := 1, draws := [{ lid := 1 }], width := 31, height := 31 } } }
theorem met_gDone : let i := Instr.gDone { sys with sa := 6 }
    Issues i (passing i) (unit i) ∧ (passHolds (passing i) (curBlock (passing i))).isSome = true
    ∧ (∀ n, n ∈ [0, 1] → let s := modCur (passing i) (fun t => { t with ops := [{ id := 7, i := i, arg := [n], flag := some 0 }], flags := [(0, 1)] })
        StandsNow s 7 (theOp s) ∧ meshSent s s.cur.blk = true) := by decide +kernel
theorem met_drawOpen (i : Instr) : DrawOpen (passing i) (curBlock (passing i)) { owners := [0], ndraws := 1, draws := [{ lid := 1 }], width := 31, height := 31 }
    ∧ ∀ p, ¬DrawOpen (drawn i 2 {}) (curBlock (drawn i 2 {})) p :=
  ⟨⟨rfl, { lid := 1 }, List.mem_singleton.2 rfl, rfl, rfl, rfl⟩, fun p h => nomatch (show (none : Option Pass) = some p from h.1)⟩
/-- `g.attr` reads attribute 0 of lane 0's fragment, and its position; a block's mark goes to the owner. -/
theorem test_gAttr : (∀ e, e ∈ [((0 : Nat), (7 : Word)), (32, 5), (33, 6)] → let i := Instr.gAttr { sys with vd := 4, imm := BitVec.ofNat 11 e.1 }
      after i (modCur (drawn i 3 {}) (fun t => { t with r := { t.r with msk := [(0, 1)] } })) (fun t => vreg t.cur 4 0) = some e.2)
    ∧ after (.gDone { sys with sa := 6 }) (passing (.gDone { sys with sa := 6 })) (fun t => t.fabric.msgs) = some [.mark 1 0 0 0 0 0 1] := by decide +kernel

/-- A texture descriptor of 32-bit channels, 4 by 4 texels at 0x100, at vault offset 64. -/
def texBits : Nat := 0x100 + 3 * 2 ^ 64 + 3 * 2 ^ 78 + 2 * 2 ^ 112 + 64 * 2 ^ 128
def textured (i : Instr) (a : DWord) (x : Nat) : State :=
  let s := machS i [(1, a)]
  { s with mem := { s.mem with vault := cellsWrite [] 64 (valBytes 32 x) } }
def textures : List Instr := [.txSmp { sys with vd := 4, va := 8, vb := 1, sa := 1 }, .txLd { sys with vd := 4, va := 8, vb := 1, sa := 1 }, .txDim { sys with vd := 4, vb := 1, sa := 1 }]
theorem met_textures : ∀ i, i ∈ textures → (∀ e, e ∈ [((64 : DWord), texBits, false), (64, 3 * 2 ^ 116, true), (72, 0, true), (0x40000, 0, true)] → let s := textured i e.1 e.2.1
    Issues i s (unit i) ∧ CleanVectors s.cur ∧ s.cur.dying = [] ∧ s.mem.vpois = [] ∧ s.mem.vbad = []
    ∧ (e.1 = 64 → (sreg s.cur 1).toNat % 2 ^ 32 % 32 = 0 ∧ teamVault s 64 32 = some 64 ∧ badTex (valueOf 32 (fun j => vaultByte s (64 + j))) = e.2.2)
    ∧ (e.1 = 72 → (sreg s.cur 1).toNat % 2 ^ 32 % 32 ≠ 0) ∧ (e.1 = 0x40000 → teamVault s 0x40000 32 = none)) := by decide +kernel
def rayInstrs : List Instr := [.rayTrace { sys with vd := 4, va := 8, sa := 1, mod := 7 }, .rayCont { sys with vd := 4, vb := 1 }, .rayHit { sys with vd := 4 }]
theorem met_rays : (∀ i, i ∈ rayInstrs → Issues i (machS i [(1, 0x80)]) (unit i) ∧ CleanVectors (machS i [(1, 0x80)]).cur ∧ (sreg (machS i [(1, 0x80)]).cur 1).toNat % 128 = 0)
    ∧ Issues (.rayTrace { sys with vd := 4, va := 8, sa := 1 }) (machS (.rayTrace { sys with vd := 4, va := 8, sa := 1 }) [(1, 64)]) (unit (.rayTrace { sys with vd := 4, va := 8, sa := 1 })) := by decide +kernel

/-- A query outstanding for lane 0, with its operand words and captured scalars. -/
def queried (i : Instr) (sc : List DWord) (ws : List Nat) (q : NMap (Option RayQ)) : State :=
  modCur (mapped (.nop (sr 0 0 0)) 0 leaf0) (fun t => { t with
    ops := [{ id := 7, i := i, flag := some 0, mask := 1#1024, sc := sc, acc := [{ lane := 0, data := ws.flatMap (valBytes 4) }] }], flags := [(0, 1)], nextOp := 8, rays := q })
def texSc : List DWord := (List.range 4).map (fun j => BitVec.ofNat 64 (texBits / 2 ^ (64 * j)))
def someHit : Hit := { t := 1, u := 2, v := 3, prim := 4 }
def queries : List State :=
  [queried (.txDim { sys with vd := 4 }) texSc [0] [], queried (.txDim { sys with vd := 4 }) texSc [15] [], queried (.txLd { sys with vd := 4 }) texSc [4, 0, 0, 0] [],
   queried (.txLd { sys with vd := 4 }) texSc [1, 1, 0, 0] [], queried (.txSmp { sys with vd := 4 }) texSc [0x7FC00000, 0, 0, 0] [], queried (.rayTrace { sys with vd := 4 }) [0x80] [0, 0, 0, 0, 0, 0, 0, 0] [],
   queried (.rayCont { sys with vd := 4 }) [] [1] [], queried (.rayCont { sys with vd := 4 }) [] [1] [(0, some { first := true, cand := some someHit })],
   queried (.rayHit { sys with vd := 4 }) [] [] [(0, some { commit := some someHit })]]
theorem met_queries : (∀ s, s ∈ queries → StandsNow s 7 (theOp s) ∧ CleanVectors s.cur ∧ s.cur.dying = [] ∧ (∀ a, a ∈ (theOp s).acc → a.lane < 1024) ∧ (∀ e, e ∈ s.cur.ops → 7 ≤ e.id))
    ∧ (let a : Acc := (((queries.getD 2 (mach (.nop (sr 0 0 0)))).cur.ops.headD {}).acc.headD {})
       levelW (texOf texBits) 0 ≤ (Claims.opWord a 0).toNat)
    ∧ nanWord 0x7FC00000 = true ∧ deadRay { data := [0, 0, 0, 0, 0, 0, 0, 0].flatMap (valBytes 4) } = true
    ∧ (queryOf (queries.getD 7 (mach (.nop (sr 0 0 0)))) 0).first = true ∧ (queryOf (queries.getD 6 (mach (.nop (sr 0 0 0)))) 0).cand = none := by decide +kernel
/-- The texel at (1, 1) stands 80 bytes into the level, in mapped memory. -/
theorem met_texel : let s := queries.getD 3 (mach (.nop (sr 0 0 0)))
    (opTex (theOp s)).fmt = 2 ∧ texelAddr (opTex (theOp s)) 1 1 0 0 = 0x150 ∧ (cellOf s 0).l1 = [] ∧ (cellOf s 0).utlb.find? (fun m => m.vbase ≤ 0x150 && 0x150 < m.vbase + m.size) = some leaf0
    ∧ denied leaf0 .read (curLaunch s).d.priv = none ∧ locate s 0x150 = some (0, 0x150) ∧ (siteOf s 0).lost = false := by decide +kernel
/-- A sample at (0, 0), level 0: the nearest texel, with all the weight. -/
def sampled : State := queried (.txSmp { sys with vd := 4 }) texSc [0, 0, 0, 0] []
theorem zero_denotes {x : ℝ} (h : Denotes (f32v 0) x) : x = 0 := by
  obtain ⟨s, m, e, h, rfl⟩ := h
  have : m = 0 := by
    have z : (f32v 0).isZero = true := by decide
    rw [h] at z
    simpa [FV.isZero] using z
  simp [this]
theorem met_sample : let s := sampled
    let x := opTex (theOp s)
    x.fmt < 6 ∧ x.filter < 3 ∧ Denotes (f32v (Claims.opWord ((theOp s).acc.headD {}) 0)) 0 ∧ LevelOf x (f32v 0) 0 ∧ Sample x 0 0 0 [(some (0, 0, 0), 2 ^ 24)]
    ∧ ReadsAt s 0 (texelAddr x 0 0 0 0) (bytesOfTexel x.fmt) leaf0 ∧ (cellOf s 0).l1 = [] := by
  have hb : (opTex (theOp sampled)).bias = 0 ∧ (opTex (theOp sampled)).levels = 0 ∧ (opTex (theOp sampled)).filter = 0 ∧ (opTex (theOp sampled)).fmt = 2 := by decide +kernel
  have hw : (f32v (Claims.opWord ((theOp sampled).acc.headD {}) 0)) = f32v 0 := by decide +kernel
  have hz : (f32v 0).isNan = false ∧ f32v 0 ≠ .inf false ∧ f32v 0 ≠ .inf true := by decide
  have ha : texelAddr (opTex (theOp sampled)) 0 0 0 0 = 0x100 := by decide +kernel
  refine ⟨by rw [hb.2.2.2]; decide, by rw [hb.2.2.1]; decide, ?_, ⟨fun x h => ?_, fun h => absurd h (by rw [hz.1]; decide), fun h => absurd h hz.2.1, fun h => absurd h hz.2.2⟩, ?_, ?_,
    mapped_l1 (.nop (sr 0 0 0)) 0 leaf0 0⟩
  · rw [hw]
    exact ⟨false, 0, _, rfl, by simp⟩
  · simp [zero_denotes h, hb.1, hb.2.1]
  · have hp : partAt (opTex (theOp sampled)) 0 0 0 (2 ^ 24) = (some (0, 0, 0), 2 ^ 24) := by decide +kernel
    unfold Sample
    rw [hb.2.2.1]
    exact ⟨0, by norm_num, by norm_num, by simpa using hp.symm⟩
  · rw [ha, hb.2.2.2]
    exact ⟨by decide, by decide +kernel, rfl, by decide, by decide, 0, 0x100, by decide +kernel, by decide +kernel, by decide⟩
theorem bitField_zero (h l : Nat) : bitField 0 h l = 0 := by simp [bitField]
/-- A ray along x whose root, at 0x80, has no child. -/
def traced : State := queried (.rayTrace { sys with vd := 4 }) [0x80] [0, 0, 0, 0x3F800000, 0, 0, 0, 0x3F800000] []
theorem met_traced : deadRay ((theOp traced).acc.headD {}) = false ∧ ReadsAt traced 0 0x80 128 leaf0 ∧ nodeRight (bvhNode traced leaf0 0x80)
    ∧ (∀ a, TreeNode traced leaf0 Any 0x80 a → a = 0x80) ∧ (∀ a, ¬TreeLeaf traced leaf0 Any 0x80 a) ∧ (cellOf traced 0).l1 = [] := by
  have hn : bvhNode traced leaf0 0x80 = 0 := by decide +kernel
  have h : ∀ a, TreeNode traced leaf0 Any 0x80 a → a = 0x80 := fun a h => by
    induction h with
    | root => rfl
    | child a c _ hc _ _ ih => subst ih; rw [hn] at hc; simp [hasChild] at hc
  refine ⟨by decide +kernel, ⟨by decide, by decide +kernel, rfl, by decide, by decide, 0, 0x80, by decide +kernel, by decide +kernel, by decide⟩,
    by rw [hn]; simp only [nodeRight, bitField_zero]; decide, h, fun b ⟨a, c, _, ha, hc, _⟩ => ?_, mapped_l1 (.nop (sr 0 0 0)) 0 leaf0 0⟩
  rw [h a ha, hn] at hc
  simp [hasChild] at hc
theorem met_tracedStands : ∀ s, s ∈ [sampled, traced] → StandsNow s 7 (theOp s) ∧ CleanVectors s.cur ∧ s.cur.dying = [] ∧ (theOp s).acc.length = 1 := by decide +kernel
theorem met_arithmetic : ∃ x y, Denotes (.fin false 3 0) x ∧ Denotes (.fin true 1 1) y ∧ y ≠ 0 := ⟨_, _, ⟨_, _, _, rfl, rfl⟩, ⟨_, _, _, rfl, rfl⟩, by norm_num⟩
/-- 1, in each format that has the approximate functions. -/
theorem met_approximations : functionOf64 fmtF32 6 ∧ functionOf64 fmtF64 1 ∧ (∀ fn, fn ≤ 6 → ∃ v, Gives fn 1 v)
    ∧ Denotes (fmtF32.value 0x3F800000) 1 ∧ Denotes (fmtF64.value 0x3FF0000000000000) 1 := by
  refine ⟨.inl ⟨rfl, by decide⟩, .inr ⟨rfl, by decide⟩, fun fn _ => ?_, ⟨false, 2 ^ 23, -23, by decide, by norm_num⟩, ⟨false, 2 ^ 52, -52, by decide, by norm_num⟩⟩
  match fn with
  | 0 | 1 | 2 | 3 | 4 | 5 => exact ⟨_, rfl⟩
  | _ + 6 => exact ⟨_, rfl⟩
theorem test_txDim : after (.longLatencyCompletion 1 7) (queries.getD 0 (mach (.nop (sr 0 0 0)))) (fun t => (List.range 4).map (fun j => vreg t.cur (4 + j) 0)) = some [4, 4, 1, 1] := by decide +kernel

/-! ## System instructions, halts -/

def dbgAt (die reg : Nat) : DWord := BitVec.ofNat 64 (die * 2 ^ 16 + reg)
theorem met_systemIssues :
    (∀ i, i ∈ [Instr.tlbi { sys with sa := 2, mod := 3 }, .tlbi { sys with mod := 4 }, .cinv { sys with mod := 3 }, .sleep { sys with sa := 2 }] → Issues i (mach i) (unit i) ∧ (mach i).cur.dying = [])
    ∧ (∀ i, i ∈ [Instr.dbgrRd { sys with vd := 4, sa := 2 }, .dbgrWr { sys with sa := 2, sb := 3 }] → ∀ e, e ∈ [((1 : Nat), (0 : Nat)), (143, 2), (0, 3), (0, 4095), (0, 2)] →
        let s := machS i [(2, dbgAt e.1 e.2)]
        let d := (sreg s.cur 2).toNat / 2 ^ 16 % 2 ^ 8
        Issues i s (unit i) ∧ s.cur.dying = [] ∧ isLive s d = (e.1 == 0) ∧ (sreg s.cur 2).toNat % 2 ^ 12 = e.2)
    ∧ (∀ b, b ∈ [true, false] → let i := Instr.sleep { sys with sa := 2 }
        let s := modCur (machS i [(2, 5)]) (fun t => { t with slept := b })
        Issues i s (unit i) ∧ (sreg s.cur 2).toNat % 2 ^ 32 ≠ 0 ∧ s.cur.slept = b) := by decide +kernel
def asleep : State := machWith (.sleep { sys with sa := 2 }) (fun t => { t with stalled := true })
theorem met_sleepExpiry : asleep.cur.status = .running ∧ asleep.cur.stalled = true ∧ currentInstr asleep.cur = some (.sleep { sys with sa := 2 }) ∧ asleep.teams = [] := by decide +kernel
theorem met_systemOps :
    (∀ k, k ∈ [(0 : Nat), 4] → let s := queried (.tlbi { sys with mod := BitVec.ofNat 4 k }) [0x100] [] []
      StandsNow s 7 (theOp s) ∧ (theOp s).i = .tlbi { sys with mod := BitVec.ofNat 4 k } ∧ k % 8 ≤ 4 ∧ s.cur.cell < 4607) := by decide +kernel
theorem met_systemOps2 : (∀ k, k ∈ [(0 : Nat), 3] → let s := queried (.cinv { sys with mod := BitVec.ofNat 4 k }) [] [] []
      StandsNow s 7 (theOp s) ∧ (theOp s).i = .cinv { sys with mod := BitVec.ofNat 4 k }) := by decide +kernel
theorem met_debugOps : (let s := queried (.dbgrRd { sys with vd := 4 }) [dbgAt 0 1] [] []
      StandsNow s 7 (theOp s) ∧ CleanVectors s.cur ∧ isLive s 0 = true)
    ∧ (∀ e, e ∈ [((1 : Nat), (2 : DWord)), (0, 4), (0, 1)] → let s := queried (.dbgrWr sys) [dbgAt 0 e.1, e.2] [] []
      StandsNow s 7 (theOp s) ∧ CleanVectors s.cur ∧ isLive s 0 = true ∧ (dieOf s 0).halted = false ∧ (dieOf s 0).halting = false) := by decide +kernel
/-- Two live dies: die 0 halting, and halted. -/
def halting (d : Die) : State := { queried (.dbgrWr sys) [dbgAt 0 0, 2] [] [] with
  dies := [(0, { d with live := true, ready := true, active := [1] }), (1, { live := true, ready := true })], fabric := { msgs := [.notice 0 1] } }
theorem met_halts : StandsNow (halting { halted := true }) 7 (theOp (halting { halted := true })) ∧ (dieOf (halting { halted := true }) 0).halted = true
    ∧ isLive (halting { halting := true, notices := [1], acked := [1] }) 0 = true ∧ (dieOf (halting { halting := true, notices := [1], acked := [1] }) 0).notices = [1]
    ∧ (halting {}).fabric.msgs[0]? = some (.notice 0 1) ∧ isLive (halting {}) 0 = true ∧ (dieOf (halting {}) 0).halting = false := by decide +kernel
/-- A `tlbi` of the page of 0x100 drops it from the cell's TLB; one of another page keeps it (R246). -/
theorem test_tlbi : after (.longLatencyCompletion 1 7) (queried (.tlbi sys) [0x100] [] []) (fun t => (cellOf t 0).utlb) = some []
    ∧ after (.longLatencyCompletion 1 7) (queried (.tlbi sys) [0x10000] [] []) (fun t => (cellOf t 0).utlb) = some [leaf0] := by decide +kernel
/-- The halt's record of kind `0x0A` stands in the die's buffer (R380, R383). -/
theorem test_halt : after (.halt 0) (halting { halting := true, notices := [1], acked := [1] }) (fun t => ((dieOf t 0).halted, NMap.get [] t.evbuf 0)) = some (true, [{ kind := 0xA }]) := by decide +kernel

/-! ## Walks and dealing -/

/-- Tables of three levels and a page of 64 KiB at physical 0x40000, in the stack of site 0, with the root at 0x1000. -/
def treeCells : List Host.Cell :=
  cellsWrite (cellsWrite (cellsWrite (cellsWrite [] 0x1000 (valBytes 8 0x10001)) 0x10000 (valBytes 8 0x20001)) 0x20000 (valBytes 8 0x30001)) 0x30000 (valBytes 8 0x4003B)
def paged (f : Die → Die) (cs : List Host.Cell) : State :=
  let s := mapped (.nop (sr 0 0 0)) 0 leaf0
  { s with mem := { s.mem with root := 0x1000, hbm := cs }, dies := [(0, f { live := true, ready := true })] }
def pageLeaf : Leaf := { pbase := 0x40000, x := true, w := true, r := true }
theorem paged_good (f : Die → Die) (cs : List Host.Cell) : GoodMemory (paged f cs) := mapped_good (.nop (sr 0 0 0)) 0 leaf0
theorem paged_entry (f : Die → Die) (cs : List Host.Cell) (a e : Nat) (h : locate (paged f cs) a = some (0, a)) (h' : a < 2 ^ 36)
    (hv : valueOf 8 (fun i => homeByte (paged id cs) 0 (a + i)) = e) : EntryAt (paged f cs) a e := ⟨0, a, h, rfl, h', hv⟩
theorem paged_set (f : Die → Die) (cs : List Host.Cell) (a n : Nat) (h : a / 2 ^ 44 = 0) (h' : a % 2 ^ 44 + n ≤ 0x100000) : InSet (paged f cs) a n := by
  unfold InSet; rw [h]; exact ⟨_, rfl, fun c hc => by rw [List.mem_singleton.1 hc]; exact h', by decide⟩
theorem paged_maps (f : Die → Die) (va : Nat) (h : va < 65536) : TablesMap (paged f treeCells) va pageLeaf := by
  have e1 : va / 2 ^ 51 % 2 ^ 5 = 0 := by omega
  have e2 : va / 2 ^ 38 % 2 ^ 13 = 0 := by omega
  have e3 : va / 2 ^ 25 % 2 ^ 13 = 0 := by omega
  have e4 : va / 2 ^ 16 % 2 ^ 9 = 0 := by omega
  have hr : (paged f treeCells).mem.root = 0x1000 := rfl
  unfold TablesMap TableAt LeafAt
  rw [e1, e2, e3, e4, hr]
  exact ⟨0x10000, 0x20000, ⟨paged_entry f _ _ _ rfl (by decide) (by decide +kernel), by decide, by decide, by decide, paged_set f _ _ _ (by decide) (by decide)⟩,
    ⟨paged_entry f _ _ _ rfl (by decide) (by decide +kernel), by decide, by decide, by decide, paged_set f _ _ _ (by decide) (by decide)⟩,
    .inr ⟨0x30000, ⟨paged_entry f _ _ _ rfl (by decide) (by decide +kernel), by decide, by decide, by decide, paged_set f _ _ _ (by decide) (by decide)⟩,
      paged_entry f _ _ _ rfl (by decide) (by decide +kernel), rfl, by show 0 = va / 65536 * 65536; omega, by decide, by decide, by decide, .inl (paged_set f _ _ _ (by decide) (by decide))⟩⟩
def askWalk (d : Die) : Die := { d with walkq := [{ page := 0, by_ := [(0, 1)] }] }
theorem met_pageWalk : isLive (paged askWalk treeCells) 0 = true ∧ (dieOf (paged askWalk treeCells) 0).walkq = [{ page := 0, by_ := [(0, 1)] }]
    ∧ (dieOf (paged askWalk treeCells) 0).walking.length < 1024 ∧ (dieOf (paged askWalk treeCells) 0).wcache = [] ∧ (paged askWalk treeCells).mem.root % 256 = 0
    ∧ GoodMemory (paged askWalk treeCells) ∧ TablesMap (paged askWalk treeCells) (0 * 65536) pageLeaf
    ∧ GoodMemory (paged askWalk []) ∧ EntryAt (paged askWalk []) (0x1000 + 8 * (0 * 65536 / 2 ^ 51 % 2 ^ 5)) 0 :=
  ⟨by decide, by decide, by decide, by decide, by decide, paged_good _ _, paged_maps _ _ (by decide), paged_good _ _, paged_entry _ _ _ _ rfl (by decide) (by decide +kernel)⟩
/-- The walk finds the leaf, and a walk under a root of no entry finds none (R283 to R285). -/
theorem test_pageWalk : after (.pageWalk 0) (paged askWalk treeCells) (fun t => (dieOf t 0).walking.map (·.res)) = some [some pageLeaf]
    ∧ after (.pageWalk 0) (paged askWalk []) (fun t => (dieOf t 0).walking.map (·.res)) = some [none] := by decide +kernel
theorem met_walkResult : ∀ r, r ∈ [some pageLeaf, none] → let s := paged (fun d => { d with walking := [{ page := 0, by_ := [(0, 1)], res := r }] }) treeCells
    isLive s 0 = true ∧ (dieOf s 0).walking = [{ page := 0, by_ := [(0, 1)], res := r }] ∧ pageLeaf.size = 2 ^ 16 ∧ (team? s 1).isSome = true := by decide +kernel
/-- A result for an engine operation. -/
theorem met_walkResultOps : let s0 := engOp (.cp (eng 1 2 3 63)) true [0, 0x200, 64] [0, 0, 0x100, 0x400]
    let s := { s0 with dies := [(0, { live := true, ready := true, walking := [{ page := 0, by_ := [], ops := [(0, 1, 7)], res := some pageLeaf }] })] }
    isLive s 0 = true ∧ ((dieOf s 0).walking.headD {}).ops = [(0, 1, 7)] ∧ team? s 1 = some s.cur ∧ theOp s ∈ s.cur.ops ∧ (theOp s).id = 7 := by decide +kernel

/-- A launch descriptor: die 0, a kernel at 0x1000, one block of one team of 32 lanes in groups of 32 (R289). -/
def descBits (x : Nat) : BitVec 1024 := BitVec.ofNat 1024 (x + 2 ^ 576 + 2 ^ 389 + 2 ^ 368 + 2 ^ 352 + 2 ^ 320 + 0x1000)
def queuedLaunch (x : Nat) : State := { dies := [(0, { live := true, ready := true, queues := [(3, [{ bits := descBits x }])] })] }
/-- One that is dealt; a reserved bit; a row past the panel. -/
theorem met_launchTake : ∀ e, e ∈ [((0 : Nat), (none : Option Nat)), (2 ^ 1023, some 1), (63 * 2 ^ 454 + 2 ^ 448, some 4)] → let s := queuedLaunch e.1
    let d := descOf (descBits e.1).toNat
    isLive s 0 = true ∧ dieRuns s 0 = true ∧ (dieOf s 0).active.length < 32 ∧ pickQueue s 0 = some 3 ∧ NMap.get [] (dieOf s 0).queues 3 = [{ bits := descBits e.1 }]
    ∧ ((launchChecks s (descBits e.1).toNat false).find? (fun k => k.2)).map (fun k => k.1) = e.2 ∧ d.stage < 2 ∧ d.edge = 0 ∧ d.kwords = 0 ∧ s.launches = [] := by decide +kernel
def dealing : State := { dies := [(0, { live := true, ready := true, active := [1] })], launches := [{ lid := 1, d := descOf (descBits 0).toNat }], nextId := 2 }
theorem met_clusterOffer : (launch? dealing 1).isSome = true ∧ mayDeal dealing (launchOf dealing 1) = true ∧ (launchOf dealing 1).d.dies.testBit 0 = true
    ∧ turnOf dealing (launchOf dealing 1) 0 0 = true ∧ (windowClusters (launchOf dealing 1).d).contains 0 = true ∧ offerOf dealing (launchOf dealing 1) 0 0 = some (0, [0]) ∧ (launchOf dealing 1).lid = 1
    ∧ (∀ u, u ∈ allTeams dealing → u.tid < dealing.nextId) ∧ dealing.blocks = [] ∧ (launchOf dealing 1).d.paired = false := by decide +kernel
/-- The block's team starts at the kernel, in cell 0 (R31, R298). -/
theorem test_clusterOffer : after (.clusterOfferRequest 1 0) dealing (fun t => t.teams.map (fun u => (u.cell, u.pc, mreg u 0))) = some [(0, 0x1000, lanes32)] := by decide +kernel

/-! ## Pre-emption and resumption -/

def stalledAt (i : Instr) : State := modCur (tiled i []) (fun t => { t with stalled := true })
theorem met_stallsAt : ∀ i, i ∈ [Instr.swWait (mem 2 5 1 0), .qPush (mem 2 5 1 0), .qPop (mem 2 5 1 0), .bar (barF 3), .barWt (barF 3), .gbar (gridF 3), .tacq (acq 1 0), .sleep sys] →
    StallsAt (stalledAt i).cur i ∧ after i (stalledAt i) (fun u => (u.cur.tid, u.cur.status == .absent)) = some (1, false) := by unfold StallsAt; decide +kernel
/-- A sleeper whose count has run out, and `sw.wait` at a word whose GEN has changed. -/
theorem met_stallEnds : (let s := modCur (stalledAt (.sleep sys)) (fun t => { t with slept := true })
      StallsAt s.cur (.sleep sys) ∧ Issues (.sleep sys) s (unit (.sleep sys)) ∧ s.cur.dying = [] ∧ s.cur.slept = true)
    ∧ (let s := modCur (swWaits 1) (fun t => { t with stalled := true })
       let i := Instr.swWait (mem 2 5 1 0)
       StallsAt s.cur i ∧ Issues i s (unit i) ∧ CleanVectors s.cur ∧ s.cur.dying = [] ∧ objectAddr s.cur (mem 2 5 1 0) % 16 = 0 ∧ teamVault s (objectAddr s.cur (mem 2 5 1 0)) 16 = some 64
       ∧ lowest s.cur = some 0 ∧ gateOpen s (stallOp i (mem 2 5 1 0) [64] s) = true ∧ swField (vaultObject s 64) 2 ≠ (vreg s.cur 5 0).toNat) := by unfold StallsAt; decide +kernel
/-- The one team of a block, with a request that has been accepted; beside another team, and alone. -/
def asked1 (u : List Team) : State := { machWith (.nop (sr 0 0 0)) (fun t => { t with preempt := true, clause := none }) with teams := u }
theorem met_teamStop : Alone (asked1 []) (curBlock (asked1 [])) ∧ ((asked1 []).cur.status = .running ∧ (asked1 []).cur.preempt = true ∧ (curBlock (asked1 [])).wantrun = false
    ∧ (asked1 []).cur.ops = [] ∧ (asked1 []).cur.clause = none ∧ CleanVectors (asked1 []).cur) ∧ CleanMemory (asked1 []) ∧ (curBlock (asked1 [])).status = .resident
    ∧ curBlock (asked1 [other]) ∈ gangBlocks (asked1 [other]) 1 0 ∧ isDown other = false ∧ CleanVectors (asked1 [other]).cur := by
  refine ⟨⟨by decide +kernel, by decide +kernel, by decide +kernel, by decide +kernel, by decide +kernel, by decide +kernel, fun _ h => absurd h List.not_mem_nil, fun c h _ => List.mem_singleton.1 h⟩,
    by decide +kernel, ⟨rfl, rfl, rfl, rfl, fun _ _ h => absurd h List.not_mem_nil⟩, by decide +kernel⟩
/-- No byte of a save area that begins at 2^56 is mapped. -/
theorem met_saveUnmapped (s : State) (va : Nat) (h : 2 ^ 56 ≤ va) : (agentAddr s .write va).1 = none := by
  have h' : (va / 2 ^ 56 != 0) = true := by
    have : 0 < va / 2 ^ 56 := Nat.div_pos h (by decide)
    simpa using by omega
  simp only [agentAddr, walkPlain, h', if_true]
theorem met_pmarkTimeout : (team? (asked1 []) 1).isSome = true ∧ (asked1 []).cur.preempt = true ∧ (asked1 []).cur.pmark = none := by decide
def dealtDesc : Desc := descOf (descBits (3 * 2 ^ 454 + 3 * 2 ^ 467)).toNat
/-- A block that waits, saved, with one team; and a block that is to be re-run. -/
def parked (st : BlockStatus) (re : Bool) : State :=
  { cur := { one (.nop (sr 0 0 0)) with status := .saved, clause := none }
    blocks := [{ bid := 1, lid := 1, vsize := 1, status := st, image := 7 :: List.replicate 254 0 ++ [9], wantrun := re }]
    launches := [{ lid := 1, d := dealtDesc, next := 1 }], dies := [(0, { live := true, ready := true, active := [1] })], nextId := 2 }
theorem met_blockResume : let s := parked .waiting false
    let b := curBlock s
    block? s b.bid = some b ∧ gangBlocks s b.lid b.gang = [b] ∧ b.status = .waiting ∧ b.pair = false ∧ b.pixel = false ∧ (launchOf s b.lid).status = .active
    ∧ (launchOf s b.lid).d.dies.testBit (0 / 4608) = true ∧ turnOf s (launchOf s b.lid) (0 / 4608) (clusterOf (0 % 4608)) (some b.gang) = true
    ∧ resumeCells s [b] (launchOf s b.lid).d (0 / 4608) (clusterOf (0 % 4608)) = some [0] ∧ b.imgpois = [] := by decide +kernel
theorem test_blockResume : after (.blockResume 1 0) (parked .waiting false) (fun t => (allocByte t (curBlock t) 0, allocByte t (curBlock t) 255, t.cur.status)) = some (7, 9, .running) := by decide +kernel
theorem met_reRun : let s := parked .resident true
    let b := curBlock s
    block? s b.bid = some b ∧ gangBlocks s b.lid b.gang = [b] ∧ b.wantrun = true ∧ b.status = .resident ∧ b.pair = false ∧ (∀ u, u ∈ teamsOf s b.bid → isDown u = true)
    ∧ (launchOf s b.lid).d.dies.testBit (0 / 4608) = true ∧ isLive s (0 / 4608) = true ∧ dieRuns s (0 / 4608) = true ∧ (launchOf s b.lid).d.paired = false
    ∧ (1 = cellAt (clusterOf (0 % 4608)) 1 ∧ ¬(b.die = 0 / 4608 ∧ b.cell = 1)
      ∧ (admitBase (without s [b.bid]) (launchOf s b.lid).d { needOf (launchOf s b.lid) with vbase := some b.vbase, vunits := b.vsize } (0 / 4608) 1).isSome = true) := by decide +kernel
/-- A resident block with a request held; a resident block beside one that waits and finds no cell; in each the save area has just the room. -/
def resident (held : Bool) (bs : List Block) (cap : Nat) : State :=
  { cur := { one (.nop (sr 0 0 0)) with clause := none }
    blocks := [{ bid := 1, lid := 1, vsize := 768, heldp := held, preempt := held }] ++ bs
    launches := [{ lid := 1, d := descOf (descBits 0).toNat, next := 1 }], dies := [(0, { live := true, ready := true, active := [1], savecap := cap })], nextId := 3 }
def waiter : Block := { bid := 2, lid := 1, vsize := 768, gang := 1, status := .waiting, start := 1 }
def roomFor (s : State) (bs : List Block) : Nat := (bs.map (contextOf s)).sum
theorem met_heldPreempt : let s := resident true [] (roomFor (resident true [] 0) [curBlock (resident true [] 0)])
    let b := curBlock s
    (block? s b.bid = some b ∧ b.heldp = true ∧ b.preempt = true ∧ b.status = .resident ∧ preempting s b = false ∧ (launchOf s b.lid).d.stage ≠ 2)
    ∧ saveRoom s b.die (gangBlocks s b.lid b.gang) = true :=
  ⟨by decide +kernel, by
    show decide ((([] ++ [_] : List Block).map _).sum ≤ _) = true
    exact decide_eq_true (Nat.le_refl _)⟩
theorem met_rotation : let s := resident false [waiter] (roomFor (resident false [waiter] 0) [waiter, curBlock (resident false [waiter] 0)])
    let b := curBlock s
    (isLive s 0 = true ∧ dieRuns s 0 = true ∧ waiter ∈ s.blocks ∧ waiter.status = .waiting ∧ waiter.die = 0 ∧ stuckOn s 0 waiter = true ∧ b ∈ s.blocks ∧ b.status = .resident ∧ b.lid = waiter.lid
    ∧ (s.blocks.map (·.start)).Nodup ∧ s.launches.map (·.lid) = [waiter.lid]
    ∧ (launchOf s b.lid).d.stage ≠ 2 ∧ 0 ∈ blockCells b ∧ inWindow (launchOf s b.lid).d 0 = true ∧ (∀ x, x ∈ s.blocks → x = waiter ∨ x = b) ∧ preempting s b = false
    ∧ (∀ x, x ∈ gangBlocks s b.lid b.gang → x.wantrun = false)) ∧ saveRoom s 0 (gangBlocks s b.lid b.gang) = true :=
  ⟨by decide +kernel, by
    show decide ((([waiter] ++ [_] : List Block).map _).sum ≤ _) = true
    exact decide_eq_true (Nat.le_refl _)⟩

/-! ## The parlour -/

/-- A pass of 4 by 4 pixels in one tile, owned by die 0, of draws 0 and 1. -/
def pass0 : Pass := { ndraws := 2, height := 3, width := 3, tot := [0], owners := [0] }
def parlour (p : Pass) (o : Owner) (ms : List Msg) (rf : List Msg) : State :=
  { dies := [(0, { live := true, ready := true })], parlour := { pass := some p, owners := [(0, o)], refused := rf }, fabric := { msgs := ms } }
def rec_ (d p : Nat) : Rec := { draw := d, prim := p, xy := [0, 0, 1024, 0, 0, 1024], z := [0, 0, 0], rw := [0x3F800000, 0x3F800000, 0x3F800000], tiles := [0, 0, 0, 0] }
def asksRec (o : Owner) (r : Rec) : State := parlour pass0 o [.record 0 0 r 1] []
def known : Owner := { prim := 2, dmarks := [(0, 10)] }
theorem met_parlourMarks : (∀ k, k ∈ [1, 2, 3] → let s := parlour pass0 {} [.mark k 0 0 0 0 5 1] []
      s.fabric.msgs[0]? = some (.mark k 0 0 0 0 5 1) ∧ s.parlour.refused = [] ∧ logicOn s 0 = true)
    ∧ (asksRec known (rec_ 0 2)).fabric.msgs[0]? = some (.record 0 0 (rec_ 0 2) 1) ∧ nordAt known known.draw = some 10 ∧ known.prim ≤ 10 := by decide +kernel
/-- Records of an ended draw and before NEXT; at NEXT; 4,095 and 4,096 past NEXT; of a draw whose position is not known. -/
theorem met_records : Over { emarks := [3] } (rec_ 3 0) ∧ Over known (rec_ 0 1) ∧ ¬Over known (rec_ 0 2) ∧ ¬Over known (rec_ 1 4087)
    ∧ Ahead known 1 4087 4095 ∧ Ahead known 1 4088 4096 ∧ ¬Over known (rec_ 1 4088) ∧ (∀ a, Ahead known 1 4088 a → 4096 ≤ a) ∧ (∀ a, Ahead known 2 0 a → 4096 ≤ a) := by
  refine ⟨.inl (by decide), .inr (.inr (by decide)), by unfold Over Past; decide, by unfold Over Past; decide, ⟨[10], rfl, fun i h => ?_, rfl⟩, ⟨[10], rfl, fun i h => ?_, rfl⟩,
    by unfold Over Past; decide, fun a h => ?_, fun a h => ?_⟩
  · match i, h with | 0, _ => rfl
  · match i, h with | 0, _ => rfl
  · obtain ⟨ns, hl, hn, ha⟩ := h
    match ns, hl with
    | [n], _ => have := hn 0 (by simp); simp [nordAt, known] at this; subst this; simp [known] at ha; omega
  · obtain ⟨ns, hl, hn, ha⟩ := h
    match ns, hl with
    | [n, m], _ => have := hn 1 (by simp); simp [nordAt, known] at this
theorem met_reoffer : (parlour pass0 known [] [.record 0 0 (rec_ 1 4087) 1]).parlour.refused = [.record 0 0 (rec_ 1 4087) 1] := by decide
theorem met_ownerConsume : (∀ o, o ∈ [({ dmarks := [(0, 0)] } : Owner), { emarks := [0] }, { recs := [rec_ 0 0] }, { bmarks := [(0, 0)] }] →
      Owns (parlour pass0 o [] []) 0 pass0 ∧ (ownerOf (parlour pass0 o [] []) 0).draw < pass0.first + pass0.ndraws)
    ∧ nordAt { dmarks := [(0, 0)] } 0 = some 0 ∧ nordAt { recs := [rec_ 0 0] } 0 = none
    ∧ ({ recs := [rec_ 0 0] } : Owner).recs.find? (fun r => r.draw == 0 && r.prim == 0) = some (rec_ 0 0) := by unfold Owns; decide +kernel
/-- The triangle's pixels below its diagonal are ready: 3, 2 and 1 in the rows; the diagonal's own centres fall outside by the top-left rule (R328). -/
theorem test_rasterise : after (.ownerConsume 0) (parlour pass0 { recs := [rec_ 0 0] } [] []) (fun t => (ownerOf t 0).ready.map (fun f => (f.x, f.y)))
    = some [(0, 0), (1, 0), (2, 0), (0, 1), (1, 1), (0, 2)] := by decide +kernel

/-- A pass with a depth buffer and one target, over mapped memory at address 0. -/
def pass1 (dt : Bool) (ts : List Target) : Pass := { pass0 with dtest := dt, dwrite := dt, dfunc := 1, dpitch := 128, targets := ts, draws := [{ lid := 1, pxlid := 2 }] }
def f32t : Target := { pitch := 128, fmt := 2, enable := true, wmask := 15 }
def merging (p : Pass) (o : Owner) (l : List TsLine) (cs : List Host.Cell) : State :=
  { paged id cs with parlour := { pass := some p, owners := [(0, o)], stores := [(0, l)] }, launches := [{ lid := 1 }, { lid := 2, d := dealtDesc, pixel := true }], blocks := [], cur := {}, nextId := 3 }
def frag1 (z : Word) : Frag := { x := 1, y := 1, z := z, outs := [(0, some [1, 2, 3, 4])] }
def line1 (dirty : Bool) : TsLine := { va := 128, pa := 0x40080, data := List.replicate 64 0 ++ List.replicate 64 0x3F, dirty := dirty }
theorem merging_good (p : Pass) (o : Owner) (l : List TsLine) (cs : List Host.Cell) : GoodMemory (merging p o l cs) := paged_good id cs
theorem tables_mem (s t : State) (va : Nat) (l : Leaf) (h : s.mem = t.mem) (ht : TablesMap t va l) : TablesMap s va l := by
  unfold TablesMap TableAt LeafAt EntryAt InSet locate homeByte resident? siteOf at *
  simpa only [h] using ht
theorem merging_maps (p : Pass) (o : Owner) (l : List TsLine) : LineAt (merging p o l treeCells) 128 0 0x40080 pageLeaf :=
  ⟨tables_mem _ (paged id treeCells) _ _ rfl (paged_maps id 128 (by decide)), by show 0x1000 % 256 = 0; decide, by decide, by decide, rfl, rfl, by decide⟩
theorem met_pixelBlockStart : let s := merging (pass1 true []) { ready := [frag1 0, frag1 1] } [] []
    Owns s 0 (pass1 true []) ∧ (ownerOf s 0).ready = frag1 0 :: [frag1 1] ∧ (pixelOf s (pass1 true []) 0).isSome = true
    ∧ isLive s 0 = true ∧ dieRuns s 0 = true ∧ (windowCells dealtDesc).findSome? (fun c => (admitBase s dealtDesc (needOf { lid := 2, d := dealtDesc, pixel := true }) 0 c).map (fun v => (c, v))) = some (0, 0)
    ∧ 0 < dealtDesc.nteams ∧ dealtDesc.prot = false ∧ dealtDesc.paired = false ∧ (∀ u, u ∈ allTeams s → u.tid < s.nextId) := by unfold Owns; decide +kernel
theorem met_tileStoreLoad : (∀ cs, cs ∈ [treeCells, []] → let s := merging (pass1 true []) { merge := [frag1 0] } [] cs
      Owns s 0 (pass1 true []) ∧ (ownerOf s 0).merge = [frag1 0] ∧ (ownerOf s 0).ready = [] ∧ (storeLine? s 0 ((0 + 1 * 128 + 4 * 1) / 128 * 128)).isNone = true
      ∧ (NMap.get [] s.parlour.stores 0).length < 32768 ∧ (launch? s 1).isSome = true ∧ (launchOf s 1).status = .active ∧ (pass1 true []).draws.map (fun d => d.ord) = [(frag1 0).draw] ∧ s.blocks = [])
    ∧ LineAt (merging (pass1 true []) { merge := [frag1 0] } [] treeCells) ((0 + 1 * 128 + 4 * 1) / 128 * 128) 0 0x40080 pageLeaf
    ∧ EntryAt (merging (pass1 true []) { merge := [frag1 0] } [] []) (0x1000 + 8 * ((0 + 1 * 128 + 4 * 1) / 128 * 128 / 2 ^ 51 % 2 ^ 5)) 0 :=
  ⟨by unfold Owns; decide +kernel, merging_maps _ _ _, paged_entry id [] 0x1000 0 rfl (by decide) (by decide +kernel)⟩
theorem met_tileStoreWriteOut : (∀ b, b ∈ [true, false] → let s := merging (pass1 true []) {} [line1 b] treeCells
      (NMap.get [] s.parlour.stores 0).find? (fun m => m.va == 128 * 1) = some (line1 b) ∧ (line1 b).pois = [] ∧ (line1 b).data.length = 128)
    ∧ LineAt (merging (pass1 true []) {} [line1 true] treeCells) (128 * 1) 0 0x40080 pageLeaf := ⟨by decide +kernel, merging_maps _ _ _⟩
/-- A target of each format that blends with the source's alpha and one less it. -/
def blended (n : Nat) : Target := { f32t with fmt := n, blend := true, csrc := 2, cdst := 3, asrc := 1, adst := 5 }
/-- A fragment that is farther than the stored depth (LESS); one that is nearer, with no outputs; one of a pass without a depth buffer, with four values. -/
theorem met_fragmentMerge : (∀ e, e ∈ [(pass1 true [], frag1 0x3F800000, false), (pass1 true [], { frag1 0 with outs := [], x := 31 }, true), (pass1 false [f32t], frag1 0, true), (pass1 false [blended 0], frag1 0, true), (pass1 false [blended 1], frag1 0, true),
        (pass1 false [blended 2], frag1 0, true), (pass1 false [blended 3], frag1 0, true)] →
      let s := merging e.1 { merge := [e.2.1] } [line1 false] treeCells
      Owns s 0 e.1 ∧ (ownerOf s 0).merge = [e.2.1] ∧ (ownerOf s 0).ready = [] ∧ neededLine s 0 e.1 e.2.1 = none ∧ testDepth s 0 e.1 e.2.1 = e.2.2
      ∧ (∀ m, m ∈ NMap.get [] s.parlour.stores 0 → m.data.length = 128 ∧ m.va % 128 = 0) ∧ e.1.dbase % 128 = 0 ∧ e.1.dpitch % 128 = 0)
    ∧ NMap.get none (frag1 0).outs 0 = some [1, 2, 3, 4] := by unfold Owns; decide +kernel
theorem test_fragmentMerge : after (.fragmentMerge 0 0) (merging (pass1 false [f32t]) { merge := [frag1 0] } [line1 false] treeCells) (fun t => (heldByte t 0 144, heldByte t 0 156, heldByte t 0 143))
    = some (some 1, some 4, some 0) := by decide +kernel

/-! ## Scrubbing, failures, start-up, power -/

/-- Site 0 with a slice line of a state, errors in memory words 0 and 1 of it, a scrub result, and an error in vault word 3 of cell 0. -/
def worn (lines : List SliceLine) (scrub : NMap (Option (List (Nat × Bool)))) (e : Err) : State :=
  { dies := [(0, { live := true, ready := true })]
    mem := { hbad := [(0, some .uncorrectable), (1, some .corrected)], vbad := [(3, some e)], sites := [(0, { lines := lines, scrub := scrub })] } }
def sliceLine (st : Nat) : SliceLine := { st := st, data := List.replicate 128 0 }
theorem met_scrub : (∀ st, st ∈ [0, 1, 2] → ((siteOf (worn [sliceLine st] [] .corrected) 0).lines.map (·.line)).Nodup
      ∧ (siteOf (worn [sliceLine st] [] .corrected) 0).lines = [sliceLine st] ∧ (siteOf (worn [sliceLine st] [] .corrected) 0).lost = false)
    ∧ 0 * 128 < 64000000000 ∧ 499999999 * 128 < 64000000000
    ∧ (∀ e, e ∈ [Err.corrected, .uncorrectable] → isLive (worn [] [] e) 0 = true ∧ NMap.get none (worn [] [] e).mem.vbad (0 * 4608 * 2 ^ 14 + 3) = some e)
    ∧ (∀ b, b ∈ [[(0, true)], [(3, false)], []] → ∀ ls, ls ∈ [[], [sliceLine 0]] → let s := worn ls [(0, some b)] .corrected
        NMap.get none (siteOf s 0).scrub 0 = some b ∧ (siteOf s 0).lines.filter (fun l => l.line == 0) = ls ∧ (sliceLine 0).data.length = 128 ∧ (∀ p, p ∈ allTeams s → p.ops = []) ∧ s.host.qps = []) := by decide +kernel
/-- What the scrubber reads of line 0; what it writes back is poisoned where the word was uncorrectable (R282). -/
theorem test_scrub : after (.patrolScrub 0 0) (worn [sliceLine 0] [] .corrected) (fun t => NMap.get none (siteOf t 0).scrub 0) = some (some [(0, true), (1, false)])
    ∧ after (.scrubWriteBack 0 0) (worn [] [(0, some [(0, true), (1, false)])] .corrected) (fun t => (NMap.get none t.mem.hbad 1, NMap.get false t.mem.hpois 0, NMap.get false t.mem.hpois 1)) = some (none, true, false) := by decide +kernel
def watched (g : Bar) : State := { machWith (.nop (sr 0 0 0)) (fun t => { t with ops := [{ acc := [{ lane := 0, mt := 0 }] }] }) with launches := [{ lid := 1, d := { nteams := 1, dies := 1 }, grid := { bar := g } }] }
theorem met_watchdogs : let s := watched { arr := [arrived 1 0] }
    (team? s 1).isSome = true ∧ isLive s s.cur.die = true ∧ s.cur.ops.any (fun o => o.acc.any (fun a => !a.done && a.mt != vaultMt)) = true ∧ watchdogsHeld s s.cur.die = false ∧ (launch? s 1).isSome = true ∧ (launchOf s 1).status = .active
    ∧ ((grid? s 1).map (fun g => g.bar.arr)).getD [] ≠ [] ∧ (∀ e, e < 144 → ((launchOf s 1).d.dies.testBit e = true ↔ e = 0)) := by decide +kernel
theorem met_recordsDropped : let s : State := { evdrop := [(0, 70000)], evbuf := [(0, [{}])] }
    0 < NMap.get 0 s.evdrop 0 ∧ (NMap.get [] s.evbuf 0).length < 256 := by decide

/-- A panel in stage 2, and the same with links out of service. -/
def panel (bad : List Nat) : State := { host := { stage := .two }, fabric := { badlinks := bad }, dies := [(5, { live := true, ready := true })]
                                        mem := { sets := [(0, some { members := [0, 1], bases := [0, 0], caps := [128, 128] })] }
                                        launches := [{ lid := 1, d := { dies := 2 ^ 5 } }], nextId := 2 }
theorem met_linkFailure : PanelRuns (panel []) ∧ 0 ∉ (panel []).fabric.badlinks ∧ Holds { panel [] with fabric := { (panel []).fabric with badlinks := [0] } } :=
  ⟨⟨.inr rfl, rfl⟩, by decide, ⟨(continuing { panel [] with fabric := { (panel []).fabric with badlinks := [0] } }).getD 0, by decide +kernel, by decide +kernel, by decide +kernel⟩⟩
/-- Die 5 with all links but one out of service. -/
theorem met_lastLink : let s := panel (linksOf (dieSite 5)).tail
    PanelRuns s ∧ (linksOf (dieSite 5)).headD 0 < 578 ∧ (linksOf (dieSite 5)).headD 0 ∉ s.fabric.badlinks ∧ (dieOf s 5).dropped = false
    ∧ (∀ k, k ∈ linksOf (dieSite 5) → k = (linksOf (dieSite 5)).headD 0 ∨ k ∈ s.fabric.badlinks) := ⟨⟨.inr rfl, rfl⟩, by decide, by decide, by decide, by decide⟩
theorem met_losses : (dieOf (panel []) 5).dropped = false ∧ NMap.get [] (panel []).evbuf 32768 = [] ∧ (∀ u, u ∈ allTeams (panel []) → u.ops = [])
    ∧ (launchOf (panel []) 1).status = .active ∧ (launchOf (panel []) 1).pixel = false ∧ (launchOf (panel []) 1).d.dies.testBit 5 = true ∧ (siteOf (panel []) 0).lost = false := by decide
theorem test_dieDrop : after (.dieDrop 5) (panel []) (fun t => ((dieOf t 5).dropped, (launchOf t 1).status)) = some (true, .aborted 0x12) := by decide +kernel

theorem met_startUp : State.reset.host.stage = .off ∧ (panel []).host.stage ≠ .off ∧ ({ stage := .zero, booted := some 60 } : HostLink).booted ≠ none
    ∧ 0 < ({ stage := .zero, booted := some 60, rollback := 1 } : HostLink).rollback := by decide
/-- Dies 60 and 61 in stage 1: 60 is next to train; then 61, nearer than those that remain; then all are settled. -/
def training (n : Nat) : State := { host := { stage := .one, booted := some 60 }, dies := (List.range 144).map (fun d => (d, if d == 60 && n == 0 then {} else if d == 61 && n ≤ 1 then {} else { live := true, ready := true })) }
theorem met_dieTraining : (∀ n, n ∈ [(0, 60), (1, 61)] → (training n.1).host.stage = .one ∧ (training n.1).fabric.stopped = false ∧ (training n.1).host.booted = some 60
      ∧ settledDie (training n.1) n.2 = false ∧ (∀ e, e < 144 → settledDie (training n.1) e = false → hops 60 n.2 < hops 60 e ∨ (hops 60 n.2 = hops 60 e ∧ n.2 ≤ e))) := by decide +kernel
/-- A rollback counter past the image's version refuses a die's firmware, whatever the signature check says. -/
theorem met_firmware (image : List Byte) : Config.imageVersion image < ({ (training 0).host with rollback := Config.imageVersion image + 1 } : HostLink).rollback := Nat.lt_succ_self _
theorem met_stage1End : (∀ d, d < 144 → settledDie (training 2) d = true ∧ ((dieOf (training 2) d).failed = true → (dieOf (training 2) d).dropped = true)) ∧ Holds (training 2) :=
  ⟨by decide +kernel, ⟨(continuing (training 2)).getD 0, by decide +kernel, by decide +kernel, by decide +kernel⟩⟩
theorem met_power : (panel []).host.stage ≠ .off ∧ (region { panel [] with host := { stage := .two, regions := [(3, { droop := true, recov := true })] } } 3).recov = true := by decide
/-- The clock falls by a sixteenth while the draw passes the CAP, and rises again (R396). -/
theorem test_power : after (.powerControllerWindow 3 2201) (panel []) (fun t => (region t 3).clock) = some 15
    ∧ after (.powerControllerWindow 3 2200) (panel []) (fun t => (region t 3).clock) = some 16 := by decide +kernel

/-! ## The host link -/

/-- Stage 2 with mapped memory, an open queue pair 256 of key 9, and mailboxes. -/
def hosted (bs : NMap (Option Mailbox)) (cs : List Host.Cell) : State :=
  { paged id cs with host := { stage := .two, qps := [(256, { isOpen := true, key := 9, sends := 1 })], boxes := bs }, cur := {}, blocks := [], launches := [] }
def box5 : Mailbox := { num := 5, wbase := 64, wlen := 64, swkey := 64, expect := 0xFFFFFFFF }
theorem hosted_good (bs : NMap (Option Mailbox)) (cs : List Host.Cell) : GoodMemory (hosted bs cs) := paged_good id cs
theorem hosted_maps (bs : NMap (Option Mailbox)) (va n : Nat) (h : 0 < n) (h' : va % 128 + n ≤ 128) (hv : va < 128) (hq : 0x40000 + va + n ≤ 2 ^ 36)
    (hl : locate (hosted bs treeCells) (0x40000 + va) = some (0, 0x40000 + va)) : SpanAt (hosted bs treeCells) va n 0 (0x40000 + va) pageLeaf :=
  ⟨h, h', tables_mem _ (paged id treeCells) _ _ rfl (paged_maps id va (by omega)), by show 0x1000 % 256 = 0; decide, by omega, rfl, hl, rfl, hq⟩
theorem hosted_span (bs : NMap (Option Mailbox)) : SpanAt (hosted bs treeCells) 64 64 0 0x40040 pageLeaf ∧ SpanAt (hosted bs treeCells) 127 1 0 0x4007F pageLeaf :=
  ⟨hosted_maps bs 64 64 (by decide) (by decide) (by decide) (by decide) rfl, hosted_maps bs 127 1 (by decide) (by decide) (by decide) (by decide) rfl⟩
/-- A transfer with the wrong key; of an address with no mapping; of bytes to which a page maps; into a mailbox's window with a kick that EXPECT admits, and one that it does not. -/
theorem met_hostTransfers : PortOpen (hosted [] treeCells) 256 ∧ PanelRuns (hosted [] treeCells) ∧ GoodMemory (hosted [] treeCells) ∧ 8 ≠ (NMap.get {} (hosted [] treeCells).host.qps 256).key
    ∧ Unmapped (hosted [] []) 64 ∧ (hosted [] []).mem.root % 256 = 0 ∧ GoodMemory (hosted [] []) ∧ PortOpen (hosted [] []) 256
    ∧ 9 = (NMap.get {} (hosted [] treeCells).host.qps 256).key ∧ SpanAt (hosted [] treeCells) 64 64 0 0x40040 pageLeaf
    ∧ SpanAt (hosted [(5, some box5)] treeCells) 64 64 0 0x40040 pageLeaf ∧ box5.wbase ≤ 64 ∧ 64 + 64 ≤ box5.wbase + box5.wlen ∧ box5.num = 5
    ∧ (14 % 2 ^ 32 + 2 ^ 32 - box5.expect) % 2 ^ 32 ≤ 15 ∧ 15 < (15 % 2 ^ 32 + 2 ^ 32 - box5.expect) % 2 ^ 32 :=
  ⟨by unfold PortOpen; decide, by unfold PanelRuns; decide, hosted_good _ _, by decide, ⟨0, ⟨0, 0x1000, by decide, rfl, by decide, by decide +kernel⟩, by decide⟩, by decide,
    hosted_good _ _, by unfold PortOpen; decide, by decide, (hosted_span _).1, (hosted_span _).1, by decide, by decide, by decide, by decide, by decide⟩
theorem test_hostWrite : after (.rdmaWriteWithImmediate 256 9 64 14 [7, 8]) (hosted [(5, some box5)] treeCells) (fun t => (homeByte t 0 0x40041, t.host.out, t.fabric.msgs.length))
      = some (8, [.ack 256], 1)
    ∧ after (.rdmaRead 256 9 0 1) (hosted [] treeCells) (fun t => t.host.out) = some [.data 256 [0]]
    ∧ after (.rdmaWrite 256 8 64 [7, 8]) (hosted [] treeCells) (fun t => (homeByte t 0 0x40041, t.host.out)) = some (0, [.nak 256 2]) := by decide +kernel
/-- A kick whose number has reached the mailbox before its payload is taken in turn (R390). -/
theorem met_newKick : let s : State := { host := { boxes := [(5, some box5)], newkicks := [(64, 14)] } }
    s.host.boxes = [(5, some box5)] ∧ box5.num = 5 ∧ box5.kicks = [] ∧ box5.wbase ≤ 64 ∧ 64 < box5.wbase + box5.wlen ∧ 14 < 2 ^ 32 ∧ (14 + 2 ^ 32 - box5.expect) % 2 ^ 32 ≤ 15
    ∧ box5.expect < 2 ^ 32 ∧ 14 ≠ box5.expect := by decide
/-- No WRITE of the queue pair is under way, and no READ. -/
theorem met_noneUnderWay : (NMap.get {} (hosted [] treeCells).host.qps 256).rest = none ∧ (NMap.get {} (hosted [] treeCells).host.qps 256).get = [] := by decide
/-- A region of which S1 or S2 has been taken. -/
def resting (n : Nat) : State := { hosted [] [] with host := { (hosted [] []).host with regions := [(regionOf 0, { sstate := n })] } }
theorem met_sStates : (∀ n, n ∈ [0, 1, 2] → (resting n).host.stage ≠ .off ∧ NoneWaits (resting n) ∧ (region (resting n) (regionOf 0)).sstate = n ∧ regionOf 0 < 16 ∧ (resting n).blocks = [])
    ∧ StageTwo (resting 2) ∧ isLive (resting 2) 0 = true ∧ logicOn (resting 2) 0 = false ∧ logicOn (hosted [] []) 0 = true := by unfold StageTwo NoneWaits; decide +kernel
theorem met_lateCommands : (∀ i, i ∈ [Instr.append 1 0 0 [], .preEmpt 1 0 none, .replay 1 0 0 0 0, .resume 1 0 0 0 0, .endLaunch 1 0 0 0 0, .registerMailbox 1 [], .unregisterMailbox 1 0,
      .defineInterleaveSet 1 0 0 [] [], .translationRoot 1 0, .saveArea 1 0 0 0, .retireCell 1 0 0, .dropDie 1 0, .haltDie 1 0, .releaseDie 1 0, .patrolPeriod 1 1] → (lateCommand i).isSome = true)
    ∧ (∀ g, g ∈ [Stage.zero, .refused] → ({ host := { stage := g } } : State).host.stage = g ∧ (NMap.get {} ({ host := { stage := g } } : State).host.qps 256).rest = none)
    ∧ (List.replicate 64 (7 : Byte)).length = 64 ∧ ((hosted [] []).evbuf.map (fun e => e.2.length)).sum ≤ 127 ∧ (mach (.nop (sr 0 0 0))).blocks.map (fun b => (b.status, regionOf b.die)) = [(.resident, 0)]
    ∧ capOf (region (hosted [] []) 3).pstate = 2200 := by decide +kernel
theorem test_powerState : after (.powerState 1 3 2) (hosted [] []) (fun t => (t.host.out, (region t 3).cap)) = some ([.ack 256, .answer 1 2 0 []], 1400)
    ∧ after (.capAndStep 1 3 599 1 0) (hosted [] []) (fun t => t.host.out) = some [.ack 256, .answer 1 3 1 []] := by decide +kernel

/-! ## Commands of stage 2 -/

/-- A block whose team stopped with CODE `0x20`, beside the trap state to return to. -/
def stopState : TrapState := kept (.nop (sr 0 0 0))
def stoppedAt (code : Nat) (replay : Bool) : State :=
  { machWith (.nop (sr 0 0 0)) (fun t => { t with status := .stopped code, stop := some stopState, clause := none, trapcause := if replay then 0x10000 else 0 }) with host := { stage := .two } }
theorem met_stopped : (∀ e, e ∈ [((0x20 : Nat), true), (0x21, false), (0x22, false)] → StageTwo (stoppedAt e.1 e.2) ∧ ((stoppedAt e.1 e.2).cur.trapcause.getLsbD 16 = e.2)
    ∧ (launch? (stoppedAt e.1 e.2) 1).isSome = true ∧ (launchOf (stoppedAt e.1 e.2) 1).status = .active)
    ∧ StoppedTeam (stoppedAt 0x20 true) (stoppedAt 0x20 true).cur (curBlock (stoppedAt 0x20 true)) 0x20 stopState ∧ stopState.clause = some (unit (.nop (sr 0 0 0))) :=
  ⟨by unfold StageTwo NoneWaits; decide +kernel, ⟨rfl, rfl, rfl, rfl, rfl, rfl, rfl, rfl, fun _ _ h => absurd h List.not_mem_nil, fun _ h => absurd h List.not_mem_nil⟩, rfl⟩
theorem test_replay : after (.replay 1 0 0 0 0) (stoppedAt 0x20 true) (fun t => (t.cur.status, t.cur.pc, t.host.out)) = some (.running, 0x1000, [.ack 256, .answer 1 0x12 0 []]) := by decide +kernel
theorem met_steers : StageTwo (hosted [] []) ∧ isLive (hosted [] []) 0 = true ∧ isLive (hosted [] []) 1 = false ∧ (NMap.get [] (dieOf (hosted [] []) 0).queues 63).length < 256
    ∧ (List.replicate 128 (0 : Byte)).length = 128 ∧ (∀ u, u ∈ allTeams (hosted [] []) → u.status = .absent) := by unfold StageTwo NoneWaits; decide +kernel
theorem met_preEmpt : let s0 := { resident false [] 0 with host := { stage := .two } }
    let s := { resident false [] (roomFor s0 [curBlock s0]) with host := { stage := .two } }
    let b := curBlock s
    StageTwo s ∧ s.blocks = [b] ∧ (launch? s b.lid).isSome = true ∧ (launchOf s b.lid).status = .active ∧ (launchOf s b.lid).d.stage ≠ 2 ∧ b.status = .resident ∧ preempting s b = false
    ∧ gangBlocks s b.lid b.gang = [b] ∧ saveRoom s b.die [b] = true ∧ s.cur ∈ teamsOf s b.bid ∧ s.cur.status ≠ .ended :=
  ⟨⟨rfl, rfl, by unfold NoneWaits; decide +kernel⟩, rfl, by decide +kernel, by decide +kernel, by decide +kernel, rfl, by decide +kernel, by decide +kernel, by
    show decide ((([] ++ [_] : List Block).map _).sum ≤ _) = true
    exact decide_eq_true (Nat.le_refl _), by decide +kernel, by decide +kernel⟩

/-- A mailbox descriptor: number 5, a window of 128 bytes at an address, a sync word at 0x40 of cell 0 of a die (R389). -/
def boxBytes (base swdie sw : Nat) : List Byte := valBytes 64 (base * 2 ^ 384 + 128 * 2 ^ 352 + 64 * 2 ^ 320 + sw * 2 ^ 288 + swdie * 2 ^ 280 + 5)
theorem met_registerMailbox : let s := hosted [] []
    StageTwo s ∧ CleanMemory s ∧ (∀ e, e ∈ [((128 : Nat), (0 : Nat), (0x80000040 : Nat), true), (128, 1, 0x80000040, true), (128, 0, 0x40, true), (129, 0, 0x80000040, false)] → let d := boxBytes e.1 e.2.1 e.2.2.1
      d.length = 64 ∧ (boxOf (boxDesc d)).isSome = e.2.2.2 ∧ (e.2.2.2 = true → isLive s ((boxOf (boxDesc d)).getD {}).swdie = (e.2.1 == 0)) ∧ bitsOf (boxDesc d) 319 288 = e.2.2.1)
    ∧ vaultKey s {} 0 0 0x80000040 16 = some 64
    ∧ (let t := hosted [(6, some { num := 6, wbase := 64, wlen := 128 })] []
       ∃ c, c ∈ boxesOf t ∧ c.num ≠ 5 ∧ c.wbase < 128 + 128 ∧ 128 < c.wbase + c.wlen ∧ 0 < c.wlen) :=
  ⟨⟨rfl, rfl, by unfold NoneWaits; decide +kernel⟩, (hosted_good [] []).1, by decide +kernel, by decide +kernel, ⟨{ num := 6, wbase := 64, wlen := 128 }, by decide +kernel, by decide⟩⟩
theorem test_registerMailbox : after (.registerMailbox 1 (boxBytes 128 0 0x80000040)) (hosted [] []) (fun t => (swField (vaultObject t 64) 0, t.host.out)) = some (64, [.ack 256, .answer 1 0x13 0 []]) := by decide +kernel
/-- The panel of one live die, with the sites that it serves; boundary operands of each command. -/
theorem met_configures : let s := hosted [(5, some box5)] []
    StageTwo s ∧ NMap.get none s.host.boxes 5 ≠ none ∧ NMap.get none s.host.boxes 4 = none ∧ isLive s 0 = true ∧ isLive s 1 = false ∧ s.blocks = []
    ∧ membersOf s 2 = [] ∧ membersOf s 1 ≠ [] ∧ (membersOf s 1).length = (List.replicate (membersOf s 1).length 128).length ∧ 254 < 255 ∧ 128 + 63999999872 ≤ 64000000000
    ∧ 63999999872 % 128 = 0 ∧ 64000000000 < 256 + 63999999872
    ∧ (2 ^ 52 - 256) % 256 = 0 ∧ cellLive s 0 4607 = true ∧ cellLive s 0 4608 = false ∧ (cellOf s (4608 * 0 + 4607)).drain = false
    ∧ (dieOf s 143).dropped = false ∧ (dieOf { s with dies := [(0, { dropped := true })] } 0).dropped = true ∧ (dieOf s 0).halted = false ∧ (dieOf s 0).halting = false
    ∧ (dieOf { s with dies := [(0, { live := true, halted := true })] } 0).halted = true := by unfold StageTwo NoneWaits; decide +kernel

/-! ## Poison, the death of lanes, protected teams -/

/-- A team whose register words, or scalars, are marked. -/
def marked (i : Instr) (f : Regs → Regs) : State := machWith i (fun t => { t with r := f t.r })
def addI : Instr := .vAdd (vr 0 5 1 2)
theorem met_lanesConsume : let s := marked addI (fun r => { r with vpois := [(1027, true)] })
    Issues addI s (unit addI) ∧ (laneRule s.cur addI).isSome = true ∧ OnlyPoison s ∧ wordsRead s.cur (vr 0 5 1 2) 3 = [1027, 2051] := by unfold OnlyPoison; decide +kernel
/-- Lane 3 dies and writes nothing; lane 4's sum is whole (R363). -/
theorem test_laneDies : after addI (marked addI (fun r => { r with v := [(1027, 1), (1028, 1), (5123, 9)], vpois := [(1027, true)] }))
    (fun t => (t.cur.dead, vreg t.cur 5 3, vreg t.cur 5 4)) = some (8#1024, 9, 1) := by decide +kernel
theorem met_accessesConsume : let i := Instr.st (mem 2 5 1 4)
    let s := modCur (mapped i 0x100 leaf0) (fun t => { t with r := { t.r with vpois := [(5 * 1024 + 1, true)] } })
    Issues i s (unit i) ∧ OnlyPoison s ∧ accessDies s.cur i 1 = true
    ∧ (match accessOf s.cur i with
        | none => false
        | some x => !x.lines && (accessLanes s.cur x).all (fun l => (accessFault s x l).isNone && (accessPlace s x l).isSome)) = true := by unfold OnlyPoison; decide +kernel
/-- Lanes 0 to 15 act; the error lies in lane 20 of a register that is read. -/
theorem met_latentStays : let s := marked addI (fun r => { r with msk := [(0, 0xFFFF#1024)], vbad := [(1044, some .uncorrectable)] })
    Issues addI s (unit addI) ∧ s.cur.sh = none ∧ s.found = [] ∧ s.cur.dying = [] ∧ (0 < 1024 ∧ acts s.cur 0 0 = true ∧ 1024 ∈ wordsRead s.cur (vr 0 5 1 2) 0 ∧ 1024 / 32 = 1044 / 32)
    ∧ (∀ l, l ∈ List.range 1024 → acts s.cur 0 l = true → 1044 ∉ wordsRead s.cur (vr 0 5 1 2) l)
    ∧ (match laneRule s.cur addI with
        | none => false
        | some r => r.pred == 0 && !writesWord s.cur r (fun _ => false) 1 20) = true := by decide +kernel
theorem met_poisonComes : (let s := modCur (finished (.ld (mem 2 5 1 4)) [lane 3 0x100 [1, 2, 3, 4]]) (fun t => { t with ops := t.ops.map (fun o => { o with pois := [3] }), sh := some t.r })
      StandsNow s 7 (theOp s) ∧ (theOp s).acc.all (·.done) = true ∧ (theOp s).kills = [] ∧ (theOp s).killAll = false ∧ s.cur.absent = [] ∧ s.cur.dying = []
      ∧ (accessOf s.cur (theOp s).i).isSome = true ∧ (delivered s (theOp s)).map (fun x => x.2.2.map (·.1)) = some [3])
    ∧ (∀ e, e ∈ [(Instr.lds (mem 2 5 1 0), [(0 : Byte), 0, 0, 0]), (.sts (mem 2 5 1 0), List.replicate 32 1)] → let s0 := asked e.1 [vlane 0 64 e.2]
        let s := { s0 with mem := { s0.mem with vpois := [(4, true), (6, true)] } }
        StandsNow s 7 (theOp s) ∧ (stepGroups s (theOp s))[0]? = some [vlane 0 64 e.2] ∧ s.mem.vbad = []) := by decide +kernel
theorem met_teamStateKills : let i := Instr.sAdd (sr 3 1 2)
    let s := marked i (fun r => { r with sbad := [(2, some .uncorrectable)] })
    Reaches i s (unit i) ∧ s.cur.sh = none ∧ 2 ∈ scalarReads i ∧ s.cur.dying = [] := by unfold Reaches; decide +kernel
/-- Lanes that die at the clause's end, at its last word and before it. -/
theorem met_doomed : ∀ n, n ∈ [1, 2] → let i := Instr.sAdd (sr 3 1 2)
    let c : Clause := { unit i with words := List.replicate n ((encode i).getD 0) }
    let s := machWith i (fun t => { t with clause := some c, dying := [(3, some 0x40)] })
    Issues i s c ∧ s.cur.dying ≠ [] ∧ (scalarWrite (sreg s.cur) i).isSome = true := by decide +kernel

/-- A protected team at an instruction, with its second copy and its block changed. -/
def paired (i : Instr) (f : Regs → Regs) (g : Team → Team) (k : Block → Block) : State :=
  let s := mapped i 0x100 leaf0
  { modCur s (fun t => g { t with prot := true, sh := some (f t.r) }) with blocks := [k { bid := 1, lid := 1, vsize := 768 }] }
def stI : Instr := .st (mem 2 5 1 4)
theorem noErrors_of (r : Regs) (h : r.sbad = [] ∧ r.vbad = [] ∧ r.tile = [] ∧ r.wide = []) : NoErrors r :=
  ⟨h.1, h.2.1, fun n x e => by rw [h.2.2.1] at e; simp [NMap.get, NMap.find?] at e, fun n x e => by rw [h.2.2.2] at e; simp [NMap.get, NMap.find?] at e⟩
/-- Copies whose data in lane 0 differ: with room in the log, and with a full log, or the re-runs used up. -/
def apart (k : Block → Block) : State := paired stI (fun r => { r with v := [(5120, 1)] }) id k
def otherRegs : Regs := { (apart id).cur.r with v := [(5120, 1)] }
theorem met_copiesApart : (∀ k, k ∈ [id, (fun (b : Block) => { b with nlog := 16384 }), fun b => { b with reruns := 3 }] → let s := apart k
      Reaches stI s (unit stI) ∧ compared stI = true ∧ s.cur = (apart id).cur ∧ s.cur.sh = some otherRegs ∧ s.cur.dying = [] ∧ block? s s.cur.blk = some (k { bid := 1, lid := 1, vsize := 768 })
      ∧ (s.blocks.map (·.bid)).Nodup ∧ (k { bid := 1, lid := 1, vsize := 768 }).held = none ∧ (accessOf s.cur stI).isSome = true)
    ∧ (NoErrors (apart id).cur.r ∧ NoErrors otherRegs) ∧ CopiesApart stI (apart id).cur (copyOf (apart id).cur otherRegs) :=
  ⟨by unfold Reaches; decide +kernel, ⟨noErrors_of _ ⟨rfl, rfl, rfl, rfl⟩, noErrors_of _ ⟨rfl, rfl, rfl, rfl⟩⟩,
    .inr (.inl ⟨0, by decide +kernel, .inr ⟨by decide +kernel, _, _, rfl, rfl, .inr (by decide +kernel)⟩, fun f h => nomatch h⟩)⟩
/-- Copies that agree: nothing held; held here with the candidates' values; held with others; in a re-run before the recorded position. -/
def heldAs (p : List Nat) : Option HeldCmp := some { team := 0, seq := 0, p := p, h := [] }
theorem met_copiesAgree : let s0 := paired stI id id id
    (∀ x, x ∈ [none, heldAs (cmpAll stI s0.cur), heldAs [1]] → ∀ n, n ∈ [none, some 1] →
      let s := paired stI id (fun t => { t with rerun := n }) (fun b => { b with held := x })
      Reaches stI s (unit stI) ∧ s.cur.sh = some s.cur.r ∧ CleanVectors s.cur ∧ s.cur.dying = [] ∧ block? s s.cur.blk = some { bid := 1, lid := 1, vsize := 768, held := x }
      ∧ s.cur.pseq = 0 ∧ s.cur.idx = 0 ∧ (launch? s 1).isSome = true ∧ (launchOf s 1).status = .active ∧ cmpAll stI s.cur ≠ [1] ∧ cmpAll stI s.cur ≠ []
      ∧ (match accessOf s.cur stI with
          | none => false
          | some x => !x.vault && (accessLanes s.cur x).all (fun l => (accessFault s x l).isNone && (accessPlace s x l).isSome)) = true)
    ∧ NoErrors s0.cur.r ∧ Alike s0.cur s0.cur.r :=
  ⟨by unfold Reaches; decide +kernel, noErrors_of _ ⟨rfl, rfl, rfl, rfl⟩, ⟨fun _ => rfl, fun _ => rfl, fun _ _ => rfl, rfl, rfl⟩⟩
/-- An error found in the primary copy's S1, which the store reads. -/
theorem met_errorInOneCopy : let s := modCur (paired stI id id id) (fun t => { t with r := { t.r with sbad := [(1, some .uncorrectable)] } })
    (Reaches stI s (unit stI) ∧ s.cur.sh = some { s.cur.r with sbad := [] } ∧ 1 ∈ scalarReads stI ∧ s.cur.r.vbad = [] ∧ s.cur.r.tile = [] ∧ s.cur.r.wide = [])
    ∧ NoErrors { s.cur.r with sbad := [] } := ⟨by unfold Reaches; decide +kernel, noErrors_of _ ⟨rfl, rfl, rfl, rfl⟩⟩
/-- A mismatch stops the team and asks for the re-run; nothing is sent. -/
theorem test_mismatch : after stI (paired stI (fun r => { r with v := [(5120, 1)] }) id id) (fun t => (t.cur.status, t.cur.ops, t.blocks.map (·.wantrun))) = some (.held, [], [true]) := by decide +kernel

end Sys2Proof.Tests
end

/-! # SUPPORT. How an instruction that issues ends, and what a delivered scalar changes (R72, R99, R372) -/

namespace Sys2Proof.Proofs.Issuing

open Sys2Proof Sys2Proof.Machine Sys2Proof.Claims

/-! ## Going on to the next instruction (R72) -/

/-- Going on changes the place in the program and the stall marks, nothing else. -/
@[simp] theorem beyondPlace_advance (t : Team) : beyondPlace (advance t) = beyondPlace t := by
  unfold advance; split
  · rfl
  · split <;> rfl

/-! So every field that `beyondPlace` keeps is as before. -/

@[simp] theorem advance_r (t : Team) : (advance t).r = t.r := (congrArg Team.r (beyondPlace_advance t) :)
@[simp] theorem advance_sh (t : Team) : (advance t).sh = t.sh := (congrArg Team.sh (beyondPlace_advance t) :)
@[simp] theorem advance_rm (t : Team) : (advance t).rm = t.rm := (congrArg Team.rm (beyondPlace_advance t) :)
@[simp] theorem advance_ftz (t : Team) : (advance t).ftz = t.ftz := (congrArg Team.ftz (beyondPlace_advance t) :)
@[simp] theorem advance_fl (t : Team) : (advance t).fl = t.fl := (congrArg Team.fl (beyondPlace_advance t) :)
@[simp] theorem advance_deadsrc (t : Team) : (advance t).deadsrc = t.deadsrc := (congrArg Team.deadsrc (beyondPlace_advance t) :)

@[simp] theorem sreg_advance (t : Team) (k : Nat) : sreg (advance t) k = sreg t k := by rw [sreg, advance_r, sreg]

@[simp] theorem beyondScalars_advance (t : Team) : beyondScalars (advance t) = beyondScalars t :=
  (congrArg beyondScalars (beyondPlace_advance t) :)

/-- A team in clause c goes on in c, its program counter counted from any team at the same place. -/
theorem goesOn_advance {c : Clause} {u t : Team} (hc : t.clause = some c) (hpc : t.pc = u.pc) : GoesOn c u (advance t) := by
  unfold GoesOn advance
  simp only [hc]
  split
  · exact ⟨rfl, hpc⟩
  · exact ⟨rfl, rfl⟩

/-! ## The two ends of an instruction: its effect is done, or it traps -/

/-- An instruction that issues and whose effect is done completes in the effect's state, its team gone on. -/
theorem completes_of_done {i : Instr} {s s' : State} {c : Clause} {eff : State → Res} {P : State → Prop} (hi : Issues i s c)
    (hx : exec i s = ok (issue i s eff)) (he : eff s = .done s') (hd : s'.cur.dying = []) (hP : P (modCur s' advance)) :
    Completes i s P :=
  ⟨modCur s' advance, by rw [hx, issue_of_issues hi, he, finish_done hd], hP⟩

/-- An instruction that issues and whose effect traps takes the trap at its own address. -/
theorem exec_eq_takeTrap {i : Instr} {s : State} {c : Clause} {eff : State → Res} {x : TrapInfo} (hi : Issues i s c)
    (hx : exec i s = ok (issue i s eff)) (he : eff s = .trap s x) :
    exec i s = .next (takeTrap s (c.hdr + 8 * (c.idx + 1)) x .instr) := by
  rw [hx, issue_of_issues hi, he, finish_trap]; rfl

/-! ## A change of the current team alone -/

@[simp] theorem others_modCur (s : State) (g : Team → Team) : others (modCur s g) = others s := rfl

theorem sameBytes_modCur (s : State) (g : Team → Team) : SameBytes s (modCur s g) := fun _ => ⟨rfl, rfl⟩

/-! ## A value delivered to a scalar register of both copies (R27, R372) -/

theorem sget_sset_same (r : Regs) (d : Nat) (x : DWord) : (r.sset d x).sget d = reads d x := by
  rw [Regs.sget_sset, if_pos rfl]; rfl

theorem sget_sset_of_ne (r : Regs) {d k : Nat} (h : k ≠ d) (x : DWord) : (r.sset d x).sget k = r.sget k := by
  rw [Regs.sget_sset, if_neg h]
  split
  · subst k; rfl
  · rfl

/-- Deliver x to S(d) of every copy. -/
def deliverScalar (d : Nat) (x : DWord) : Team → Team := deliverRegs (fun r => r.sset d x)

@[simp] theorem deliverScalar_sh (d : Nat) (x : DWord) (t : Team) : (deliverScalar d x t).sh = t.sh.map (fun r => r.sset d x) := rfl

theorem sreg_deliverScalar_same (d : Nat) (x : DWord) (t : Team) : sreg (deliverScalar d x t) d = reads d x :=
  sget_sset_same t.r d x

theorem sreg_deliverScalar_of_ne (d : Nat) (x : DWord) (t : Team) {k : Nat} (h : k ≠ d) : sreg (deliverScalar d x t) k = sreg t k :=
  sget_sset_of_ne t.r h x

/-- What a copy holds beside its scalars does not change when a scalar is written. -/
theorem sset_beyond_scalars (r : Regs) (d : Nat) (x : DWord) :
    ({ r.sset d x with sr := [], sbad := [] } : Regs) = { r with sr := [], sbad := [] } := by
  unfold Regs.sset; split <;> rfl

theorem beyondScalars_deliverScalar (d : Nat) (x : DWord) (t : Team) : beyondScalars (deliverScalar d x t) = beyondScalars t := by
  simp only [beyondScalars, deliverScalar, deliverRegs, clearWait, sset_beyond_scalars, Option.map_map, Function.comp_def]

end Sys2Proof.Proofs.Issuing

/-! # The system registers (R40 to R44, R118) -/

namespace Sys2Proof.Proofs.SystemRegisters

open Sys2Proof Sys2Proof.Machine Sys2Proof.Claims Sys2Proof.Proofs.Issuing

/-! ## Their fields as one number -/

/-- The number whose fields, by lowest bit, are listed. -/
def fieldSum (l : List (Nat × Nat)) : Nat := (l.map (fun e => e.2 * 2 ^ e.1)).sum

theorem wordOf_eq (l : List (Nat × Nat)) : wordOf l = BitVec.ofNat 64 (fieldSum l) := rfl
@[simp] theorem fieldSum_nil : fieldSum [] = 0 := rfl
@[simp] theorem fieldSum_cons (k v : Nat) (l : List (Nat × Nat)) : fieldSum ((k, v) :: l) = v * 2 ^ k + fieldSum l := by
  simp only [fieldSum, List.map_cons, List.sum_cons]

theorem fieldSum_bits (p : Nat → Bool) (js : List Nat) :
    fieldSum (js.map (fun j => (j, bit (p j)))) = (js.map (fun j => bit (p j) * 2 ^ j)).sum := by
  rw [fieldSum, List.map_map]; rfl

/-- A number that stands where a bit is set is the bit times the number. -/
theorem ite_eq_bit_mul (b : Bool) (n : Nat) : (if b then n else 0) = bit b * n := by cases b <;> simp [bit]

theorem fpmode_eq (t : Team) : fpmode t = fieldSum [(2, bit t.ftz), (0, t.rm.toNat)] := by
  simp [fpmode, ite_eq_bit_mul]

theorem deadCount_eq (t : Team) : deadCount t = (List.range t.width).countP (fun l => t.dead.getLsbD l) := by
  rw [deadCount, lanesOf, List.countP_eq_length_filter]

theorem teamstat_eq (t : Team) : teamstat t = fieldSum [(48, (List.range t.width).countP (fun l => t.dead.getLsbD l)),
    (32, latentCount t), (16, t.r.stack.length), (8, t.xblk), (4, bit t.prot), (3, bit t.compact), (0, bit t.deadsrc)] := by
  simp [teamstat, deadCount_eq, ite_eq_bit_mul, Nat.add_assoc]

/-- CLUSTER.LIVE: a bit for each position whose cell is not retired (R40). -/
theorem clusterLive_eq (s : State) (die cluster : Nat) : clusterLive s die cluster = ((List.range 4).map (fun p =>
    bit (!NMap.get false (dieOf s die).cellret (cellAt cluster p)) * 2 ^ p)).sum := by
  unfold clusterLive
  congr 2
  funext p
  cases NMap.get false (dieOf s die).cellret (cellAt cluster p) <;> simp [bit]

theorem dieliveWord_eq (s : State) (k : Nat) :
    dieliveWord s k = fieldSum ((List.range 64).map (fun j => (j, bit (isLive s (64 * k + j))))) := by
  rw [fieldSum_bits]
  simp only [dieliveWord, ite_eq_bit_mul]

theorem cellretWord_eq (s : State) (die w : Nat) : cellretWord s die w
    = fieldSum ((List.range 64).map (fun j => (j, bit (NMap.get false (dieOf s die).cellret (64 * w + j))))) := by
  rw [fieldSum_bits]
  simp only [cellretWord, ite_eq_bit_mul]

/-- A register that holds no clock reads as its fields, and reading it changes nothing (R40, R44): number by number, the indexed ones
inside their range. -/
theorem sysValue_of_sysFields {s : State} {n x : Nat} {l : List (Nat × Nat)} (h : sysFields s n x = some l) :
    sysValue s n x = (fieldSum l, s) := by
  unfold sysFields at h
  dsimp only at h
  split at h <;> (try split at h) <;> cases h <;>
    simp [sysValue, teamstat_eq, fpmode_eq, clusterLive_eq, dieliveWord_eq, cellretWord_eq, ite_eq_bit_mul, Nat.add_assoc]

/-! ## The access codes: which number, index and SA are accepted (R40, R118) -/

theorem sysKnown_eq_named (n : Nat) : sysKnown n = named n := rfl
theorem sysIndexed_eq_indexed (n : Nat) : sysIndexed n = indexed n := rfl

theorem sysKnown_of_sysFields {s : State} {n x : Nat} {l : List (Nat × Nat)} (h : sysFields s n x = some l) : sysKnown n = true := by
  unfold sysFields at h
  dsimp only at h
  split at h
  case h_26 => cases h
  all_goals rfl

theorem indexed_cases {n : Nat} (h : indexed n = true) : n = 0x020 ∨ n = 0x021 ∨ n = 0x022 ∨ n = 0x023 ∨ n = 0x024 ∨ n = 0x025 := by
  simp only [indexed, Bool.and_eq_true, decide_eq_true_eq] at h
  omega

/-- An indexed register has fields exactly where the index is in its range. -/
theorem sysFields_isSome_of_indexed (s : State) {n : Nat} (x : Nat) (h : indexed n = true) :
    (sysFields s n x).isSome = sysIndexOk n x := by
  rcases indexed_cases h with rfl | rfl | rfl | rfl | rfl | rfl <;>
    simp [sysFields, sysIndexOk, apply_ite Option.isSome]

/-- An access that the codes accept reads the register's value and delivers it to both copies (R118, R372). -/
theorem readSys_accepted {f : SR} {s : State} (hk : sysKnown (sysNum f) = true)
    (hx : indexed (sysNum f) = true → sysIndexOk (sysNum f) (sreg s.cur f.sa.toNat).toNat = true)
    (hs : indexed (sysNum f) = true ∨ f.sa = 63) :
    readSys f s = .done (modCur (sysValue s (sysNum f) (sreg s.cur f.sa.toNat).toNat).2
      (deliverScalar f.sd.toNat (BitVec.ofNat 64 (sysValue s (sysNum f) (sreg s.cur f.sa.toNat).toNat).1))) := by
  unfold readSys
  simp only [hk, sysIndexed_eq_indexed]
  by_cases hi : indexed (sysNum f) = true
  · simp [hi, hx hi, deliverScalar]
  · have h63 : f.sa = 63 := hs.resolve_left hi
    simp [hi, h63, deliverScalar]

/-- Any other access traps (R118). -/
theorem readSys_refused {f : SR} {s : State} (h : named (sysNum f) = false
      ∨ (indexed (sysNum f) = true ∧ sysIndexOk (sysNum f) (sreg s.cur f.sa.toNat).toNat = false)
      ∨ (indexed (sysNum f) = false ∧ f.sa ≠ 63)) :
    readSys f s = .trap s (badSys (sysNum f)) := by
  unfold readSys
  simp only [sysKnown_eq_named, sysIndexed_eq_indexed]
  rcases h with hn | ⟨hi, hx⟩ | ⟨hi, hs⟩
  · simp [hn]
  · simp [hi, hx]
  · have h63 : f.sa.toNat ≠ 63 := fun e => hs (BitVec.eq_of_toNat_eq e)
    simp [hi, h63]

/-! ## CYCLE (R42, log 7) -/

/-- The machine once the count of the team's left cell reads x, the free value that says so being used up. -/
def countClocks (s : State) (x : DWord) : State :=
  modCell { s with free := s.free + 1 } (s.cur.die * 4608 + s.cur.cell) (fun y => { y with cyc := x })

/-- Reading CYCLE brings the count of the team's left cell to a free value and gives it. -/
theorem readCycle_eq (s : State) : ∃ x : DWord, readCycle s = (x.toNat, countClocks s x) := ⟨_, rfl⟩

@[simp] theorem countClocks_cur (s : State) (x : DWord) : (countClocks s x).cur = s.cur := rfl

theorem cellOf_countClocks (s : State) (x : DWord) (n : Nat) : cellOf (countClocks s x) n
    = if n = s.cur.die * 4608 + s.cur.cell then { cellOf s n with cyc := x } else cellOf s n := by
  unfold cellOf countClocks modCell
  rw [NMap.get_modify]
  split
  · subst n; rfl
  · rfl

theorem others_countClocks (s : State) (x : DWord) :
    others { countClocks s x with free := 0, cells := [] } = others { s with free := 0, cells := [] } := rfl

theorem sameBytes_countClocks (s : State) (x : DWord) : SameBytes s (countClocks s x) := fun _ => ⟨rfl, rfl⟩

/-! ## Writes (R7, R61, R118) -/

theorem writeSys_unknown {f : SR} {s : State} (h : named (sysNum f) = false) : writeSys f s = .trap s (badSys (sysNum f)) := by
  unfold writeSys
  simp [sysKnown_eq_named, h]

theorem writeSys_fpmode {f : SR} {s : State} (h : sysNum f = 0x010) :
    writeSys f s = .done (modCur s (fun t => setFpmode t (sreg t f.sa.toNat))) := by
  unfold writeSys
  simp [h, sysKnown]

/-- A write to any other known number is ignored: the register is read-only (R7). -/
theorem writeSys_ignored {f : SR} {s : State} (hn : named (sysNum f) = true) (h : sysNum f ≠ 0x010) : writeSys f s = .done s := by
  unfold writeSys
  simp [sysKnown_eq_named, hn, h]

theorem setFpmode_rm (t : Team) (x : DWord) : (setFpmode t x).rm.toNat = x.toNat % 4 := by
  simp [setFpmode, BitVec.extractLsb'_toNat]

/-- Each of the five flags stays unless it is written as 1. -/
theorem clearFpflags_getLsbD (t : Team) (x : DWord) {i : Nat} (hi : i < 5) :
    (clearFpflags t x).fl.getLsbD i = (t.fl.getLsbD i && !x.getLsbD i) := by
  simp [clearFpflags, hi]

theorem beyondPlace_setFpmode (t : Team) (x : DWord) :
    beyondPlace (setFpmode t x) = { beyondPlace t with rm := (setFpmode t x).rm, ftz := (setFpmode t x).ftz } := rfl
theorem beyondPlace_clearFpflags (t : Team) (x : DWord) :
    beyondPlace (clearFpflags t x) = { beyondPlace t with fl := (clearFpflags t x).fl } := rfl
theorem beyondPlace_deadsrc (t : Team) (b : Bool) :
    beyondPlace { t with deadsrc := b } = { beyondPlace t with deadsrc := b } := rfl

/-! ## What an instruction of this group leaves (R72, R118) -/

section
variable {s : State} {c : Clause} {f : SR}

/-- `s.rdsys` of a register that holds no clock delivers the word of its fields. -/
theorem rdsys_completes {l : List (Nat × Nat)} {P : State → Prop} (hi : Issues (.sRdsys f) s c) (hd : s.cur.dying = [])
    (hl : sysFields s (sysNum f) (sreg s.cur f.sa.toNat).toNat = some l) (hs : indexed (sysNum f) = true ∨ f.sa = 63)
    (hP : P (modCur s (fun t => advance (deliverScalar f.sd.toNat (wordOf l) t)))) : Completes (.sRdsys f) s P := by
  have hx (h : indexed (sysNum f) = true) : sysIndexOk (sysNum f) (sreg s.cur f.sa.toNat).toNat = true := by
    rw [← sysFields_isSome_of_indexed s _ h, hl]; rfl
  have he := readSys_accepted (sysKnown_of_sysFields hl) hx hs
  rw [sysValue_of_sysFields hl, ← wordOf_eq] at he
  exact completes_of_done hi rfl he hd hP

/-- `s.rdsys` of CYCLE delivers the count that the left cell then has, whatever it is. -/
theorem rdsys_cycle_completes {P : State → Prop} (hi : Issues (.sRdsys f) s c) (hd : s.cur.dying = []) (hn : sysNum f = 0x00B)
    (hs : f.sa = 63) (hP : ∀ x, P (modCur (countClocks s x) (fun t => advance (deliverScalar f.sd.toNat x t)))) :
    Completes (.sRdsys f) s P := by
  obtain ⟨x, hx⟩ := readCycle_eq s
  have hv (k : Nat) : sysValue s (sysNum f) k = readCycle s := by rw [hn]; rfl
  have he := readSys_accepted (f := f) (s := s) (by rw [hn]; rfl) (by rw [hn]; exact nofun) (.inr hs)
  rw [hv, hx, BitVec.ofNat_toNat, BitVec.setWidth_eq] at he
  exact completes_of_done hi rfl he hd (hP x)

/-- `s.rdsys` of an unknown number, an index that has no fields, or an SA where none is taken. -/
theorem rdsys_traps (hi : Issues (.sRdsys f) s c) (h : named (sysNum f) = false
      ∨ (indexed (sysNum f) = true ∧ sysFields s (sysNum f) (sreg s.cur f.sa.toNat).toNat = none)
      ∨ (indexed (sysNum f) = false ∧ f.sa ≠ 63)) :
    exec (.sRdsys f) s = .next (takeTrap s (c.hdr + 8 * (c.idx + 1)) (badSys (sysNum f)) .instr) := by
  refine exec_eq_takeTrap hi rfl (readSys_refused (h.imp_right (Or.imp_left fun ⟨hx, hf⟩ => ⟨hx, ?_⟩)))
  rw [← sysFields_isSome_of_indexed s _ hx, hf]; rfl

end

/-- Settles O9: an access that the codes accept delivers the register's fields, or the count of CYCLE, to both copies; any other
traps; a write changes the field that it names and nothing else. -/
theorem systemRegisters : Obligations.SystemRegisters := by
  unfold Obligations.SystemRegisters
  refine ⟨fun f s c l hi hd hl hs => ?read, fun f s c hi hd hn hs => ?cycle, fun f s c hi h => rdsys_traps hi h,
    fun f s c => ⟨fun hi => ⟨fun hn => exec_eq_takeTrap hi rfl (writeSys_unknown hn), fun hd hn => ?fpmode, fun hd hk hn => ?readOnly⟩,
      fun hi hd => ?fpflags, fun hi hd => ?teamstat⟩⟩
  case read =>
    refine rdsys_completes hi hd hl hs ⟨?_, fun h hh => ⟨h.sset f.sd.toNat (wordOf l), ?_, sget_sset_same h _ _⟩, fun k hk => ?_, ?_,
      goesOn_advance hi.clause rfl, others_modCur s _, sameBytes_modCur s _⟩
    · simp [sreg_deliverScalar_same]
    · simp [hh]
    · simp [sreg_deliverScalar_of_ne _ _ _ hk]
    · simp [beyondScalars_deliverScalar]
  case cycle =>
    refine rdsys_cycle_completes hi hd hn hs fun x => ⟨?_, fun k hk => ?_, ?_, goesOn_advance hi.clause rfl, fun ck hck => ?_,
      others_countClocks s x, sameBytes_countClocks s x⟩
    · have hx : (cellOf (countClocks s x) (s.cur.die * 4608 + s.cur.cell)).cyc = x := by rw [cellOf_countClocks, if_pos rfl]
      exact ((sreg_advance _ _).trans (sreg_deliverScalar_same _ _ _)).trans (congrArg (reads _) hx.symm)
    · simp [sreg_deliverScalar_of_ne _ _ _ hk]
    · simp [beyondScalars_deliverScalar]
    · exact (cellOf_countClocks s x ck).trans (if_neg hck)
  case fpmode =>
    refine completes_of_done hi rfl (writeSys_fpmode hn) hd ⟨?_, ?_, ?_, goesOn_advance hi.clause rfl, rfl⟩
    · simp [setFpmode_rm]
    · simp [setFpmode]
    · simp [beyondPlace_setFpmode]
  case readOnly =>
    exact completes_of_done hi rfl (writeSys_ignored hk hn) hd ⟨beyondPlace_advance _, goesOn_advance hi.clause rfl, others_modCur s _⟩
  case fpflags =>
    refine completes_of_done hi rfl rfl hd ⟨fun k hk => ?_, ?_, goesOn_advance hi.clause rfl, rfl⟩
    · simp [clearFpflags_getLsbD _ _ hk]
    · simp [beyondPlace_clearFpflags]
  case teamstat =>
    refine completes_of_done hi rfl rfl hd ⟨?_, ?_, goesOn_advance hi.clause rfl, rfl⟩
    · simp
    · simp [beyondPlace_deadsrc]

end Sys2Proof.Proofs.SystemRegisters

/-! # Power-on (R7, R44, R393) -/

namespace Sys2Proof.Proofs.Reset

open Sys2Proof Sys2Proof.Machine Sys2Proof.Claims

/-- No die is live before stage 2 (R393). -/
theorem isLive_reset (d : Nat) : isLive State.reset d = false := by simp [isLive, dieOf, State.reset]

/-- A scalar register of the absent team reads 0, s63 as every other (R27, log 15). -/
theorem sreg_reset (k : Nat) : sreg State.reset.cur k = 0 := by
  show (if k = 63 then 0 else 0) = (0 : DWord)
  rw [ite_self]

/-- COLRET marks the two spare columns (R348, log 16). -/
theorem colret_reset (d x : Nat) : (dieOf State.reset d).colret.getLsbD x = (decide (36 ≤ x) && decide (x < 38)) := by
  by_cases hx : x < 38
  · have h : ∀ y : Fin 38, (0x3000000000#38).getLsbD y = (decide (36 ≤ y.val) && decide (y.val < 38)) := by decide
    exact h ⟨x, hx⟩
  · rw [BitVec.getLsbD_of_ge _ _ (Nat.le_of_not_lt hx)]
    simp [hx]

/-- Settles O18: no list of the reset state has an entry, so every table reads its default at every key, and every other field holds its
reset value. -/
theorem resetValues : Obligations.ResetValues := by
  unfold Obligations.ResetValues
  exact ⟨⟨rfl, rfl, rfl, rfl, rfl, isLive_reset, fun _ => rfl, fun _ => rfl, fun _ => rfl, fun _ => rfl, fun _ => rfl, fun _ _ => rfl,
    fun _ _ => rfl, fun _ => rfl, fun _ => rfl, rfl, fun _ => rfl, rfl, rfl, fun _ => ⟨rfl, rfl, rfl, rfl, rfl⟩, colret_reset,
    fun _ _ => rfl, sreg_reset, fun _ _ => rfl, rfl, rfl, rfl⟩, reset_memory_wf⟩

end Sys2Proof.Proofs.Reset

/-! # Matrix products: an access that no role of the operation accounts for (R194, R199, R202) -/

namespace Sys2Proof.Proofs.StrayRole

open Sys2Proof Sys2Proof.Machine Sys2Proof.Claims

/-- A vault access of one block of 32 bytes for a role, at address 0. -/
def blockAcc (role : Nat) : Acc := { lane := role, mt := vaultMt, data := List.replicate 32 0 }

/-- `mx.mma` of one block of 8-bit integers into tile 0, dense, without scales. -/
def denseMma : MX :=
  { td := 0, fa := 0, fb := 0, acc := 0, fs := false, spa := false, ns := 0, sa := 0, sb := 0, sc := 0, mod := 0, imm := 0 }

/-- Its operation over row 0: the accesses of row 0 of A and of the columns of B, and one more, of role 1000. -/
def strayOp : Op :=
  { id := 7, i := .mxMma denseMma, mask := 1, acc := blockAcc 0 :: blockAcc 1000 :: (List.range 16).map (fun j => blockAcc (16 + j)) }

/-- A team that holds tile 0, empty, and has that operation outstanding; the 32 bytes that every access names hold 1. -/
def strayState : State :=
  { cur := { tid := 1, status := .running, r := { tile := [(0, some {})] }, ops := [strayOp] }
    mem := { vault := cellsWrite [] 0 (List.replicate 32 1) } }

/-! ## The state meets the hypotheses of `MatrixProducts` -/

theorem ready_strayState : Ready strayState 7 strayOp := by
  refine ⟨⟨by decide, by decide, List.mem_singleton_self _, rfl, by decide, rfl, rfl, .inr (by decide)⟩, by decide, rfl, rfl, fun td x h => ?_, fun q x h => nomatch h⟩
  have h' : NMap.get none [(0, some ({} : Tile))] td = some x := h
  by_cases hk : (0 : Nat) = td
  · obtain rfl : ({} : Tile) = x := by simpa [NMap.get, NMap.find?, hk] using h'
    exact ⟨rfl, rfl⟩
  · simp [NMap.get, NMap.find?, hk] at h'

theorem cleanMemory_strayState : CleanMemory strayState := ⟨rfl, rfl, rfl, rfl, fun _ _ h => absurd h List.not_mem_nil⟩

theorem hasTile_strayState : HasTile strayState.cur denseMma.td.toNat :=
  show (accTile strayState.cur 0).isSome = true from rfl

theorem rowsOf_strayState : rowsOf strayState.cur 0 strayOp.mask = [0] := by decide +kernel

/-- Every role that `MmaAccesses` asks for is there with 32 bytes. -/
theorem roleThere_strayOp {k : Nat} (hk : k = 0 ∨ 16 ≤ k ∧ k < 32) : roleThere strayOp k 32 := by
  have h : ∀ k : Fin 32, k.val = 0 ∨ 16 ≤ k.val → (strayOp.acc.find? (fun a => a.lane == k.val)) = some (blockAcc k.val) := by decide
  exact ⟨blockAcc k, h ⟨k, by omega⟩ (by simpa using hk.imp_right (·.1)), rfl, rfl⟩

/-- No access has one of the roles 32 to 79 of scales and metadata. -/
theorem lane_strayOp_ne {k : Nat} (h₁ : 32 ≤ k) (h₂ : k < 80) : ∀ a, a ∈ strayOp.acc → a.lane ≠ k := by
  have h : ∀ a, a ∈ strayOp.acc → a.lane < 32 ∨ 80 ≤ a.lane := by decide
  intro a ha e
  have := h a ha
  omega

/-- A dense row of 8-bit elements has no tag and no metadata that could be wrong. -/
theorem sound_of_plain {r : OperandRow} (nb : Nat) (hc : inLines r.c = false) (hk : r.kept = none) : r.Sound nb :=
  ⟨fun h => by simp [hc] at h, fun m h => by simp [hk] at h⟩

theorem mmaAccesses_strayState : MmaAccesses strayState strayOp denseMma [0] := by
  refine ⟨fun i hi => ?_, fun j hj => ⟨roleThere_strayOp (.inr ⟨by omega, by omega⟩), lane_strayOp_ne (by omega) (by omega), sound_of_plain _ rfl rfl⟩⟩
  obtain rfl := List.mem_singleton.1 hi
  exact ⟨roleThere_strayOp (.inl rfl), lane_strayOp_ne (by omega) (by omega), lane_strayOp_ne (by omega) (by omega), sound_of_plain _ rfl rfl⟩

/-! ## What the statement asks of element (0, 0), and what the model leaves there -/

/-- Element (0, 0) as `MatrixProducts` gives it: the 32 products of the dense rows, each 1, on 0. -/
theorem denseElement_strayState :
    wrap 32 ((List.range 1).foldl (fun c b => intBlock c
      ((List.range 32).map (fun p => intCodeOf 0 ((mmaA strayState strayOp denseMma 0).code b p)))
      ((List.range 32).map (fun p => intCodeOf 0 ((mmaB strayState strayOp denseMma 0).code b p)))) (accElem strayState.cur 0 0 0).toInt) = 32 := by
  decide

/-- The model takes the bytes of role 1000 for metadata of B, keeps 12 of the 32 positions, and leaves 12. -/
theorem exec_strayState {t : State} (h : exec (.longLatencyCompletion 1 7) strayState = .next t) : accElem t.cur 0 0 0 = 12 := by
  have e : (match exec (.longLatencyCompletion 1 7) strayState with
      | .next t => accElem t.cur 0 0 0
      | _ => 12) = 12 := by decide +kernel
  rw [h] at e
  exact e

/-- `MatrixProducts` fails: its hypotheses bound no role beyond 79, so they admit an access of role 1000. -/
theorem not_matrixProducts : ¬ MatrixProducts := by
  intro h
  obtain ⟨t, ht, -, -, -, -, -, -, -, hint, -⟩ := h strayState 7 strayOp denseMma ready_strayState cleanMemory_strayState rfl (by decide) hasTile_strayState
    (.inl ⟨rfl, by decide, by decide, rfl⟩) (fun c => nomatch c) (rowsOf_strayState ▸ mmaAccesses_strayState)
  have hmem : 0 ∈ rowsOf strayState.cur 0 strayOp.mask := by rw [rowsOf_strayState]; exact List.mem_singleton_self _
  have hel := (hint rfl 0 0 hmem (by decide)).trans denseElement_strayState
  exact absurd ((exec_strayState ht).symm.trans hel) (by decide)

/-- Refutes O41: its part `MatrixProducts` asks only of the roles below 80 that an `mx.mma` has the accesses of R194 and no other. The model looks
for the metadata of a row of B, which B never has, under role 1000; an operation that holds an access of that role, which no issue makes, has B read
as a compressed operand. On the state here a dense product of ones, which R199 makes 32, comes out as 12. -/
theorem not_matrixOperationsComplete : ¬ Obligations.MatrixOperationsComplete := by
  unfold Obligations.MatrixOperationsComplete
  rintro ⟨⟨h, -⟩, -⟩
  exact not_matrixProducts h

end Sys2Proof.Proofs.StrayRole

/-! # Rounding to a format (R50, R54 to R56, R60, R61) -/

namespace Sys2Proof.Proofs.Rounding

open Sys2Proof Sys2Proof.Machine Sys2Proof.Claims

/-! ## Signs and powers of two -/

/-- (−1)^s. -/
def sgn (s : Bool) : ℝ := if s then -1 else 1

@[simp] theorem sgn_true : sgn true = -1 := rfl
@[simp] theorem sgn_false : sgn false = 1 := rfl

@[simp] theorem sgn_mul_eq_zero {s : Bool} {a : ℝ} : sgn s * a = 0 ↔ a = 0 := by cases s <;> simp

@[simp] theorem abs_sgn_mul (s : Bool) (a : ℝ) : |sgn s * a| = |a| := by cases s <;> simp

theorem sgn_mul_inj {s : Bool} {a b : ℝ} : sgn s * a = sgn s * b ↔ a = b := by cases s <;> simp

theorem sgn_bne (s t : Bool) : sgn (s != t) = sgn s * sgn t := by cases s <;> cases t <;> simp

theorem two_zpow_pos (k : Int) : (0 : ℝ) < (2 : ℝ) ^ k := zpow_pos two_pos k

theorem two_zpow_add (j k : Int) : (2 : ℝ) ^ (j + k) = (2 : ℝ) ^ j * (2 : ℝ) ^ k := zpow_add₀ two_ne_zero j k

theorem two_zpow_le {j k : Int} : (2 : ℝ) ^ j ≤ (2 : ℝ) ^ k ↔ j ≤ k := zpow_le_zpow_iff_right₀ one_lt_two

theorem two_zpow_lt {j k : Int} : (2 : ℝ) ^ j < (2 : ℝ) ^ k ↔ j < k := zpow_lt_zpow_iff_right₀ one_lt_two

/-- A power of two at an exponent j places higher. -/
theorem two_zpow_of_le {e k : Int} (h : k ≤ e) : (2 : ℝ) ^ e = (2 : ℝ) ^ (e - k).toNat * (2 : ℝ) ^ k := by
  rw [← zpow_natCast, ← two_zpow_add, Int.toNat_of_nonneg (by omega)]
  congr 1; omega

/-! ## The integers beside a magnitude (R54) -/

/-- The magnitude that m units w stand for: m × w itself, or with `st` any strictly between it and (m + 1) × w. -/
def StandsAt (m : Nat) (w : ℝ) (st : Bool) (a : ℝ) : Prop := ∃ t, a = m * w + t ∧ 0 ≤ t ∧ t < w ∧ (t = 0 ↔ st = false)

theorem standsAt_self {m : Nat} {w : ℝ} (hw : 0 < w) : StandsAt m w false (m * w) := ⟨0, by ring, le_rfl, hw, by simp⟩

theorem StandsAt.eq {m : Nat} {w a : ℝ} (h : StandsAt m w false a) : a = m * w := by
  obtain ⟨t, rfl, -, -, ht⟩ := h
  rw [ht.2 rfl, add_zero]

theorem StandsAt.le {m : Nat} {w a : ℝ} {st : Bool} (h : StandsAt m w st a) : m * w ≤ a := by
  obtain ⟨t, rfl, ht, -⟩ := h
  linarith

theorem StandsAt.lt {m : Nat} {w a : ℝ} {st : Bool} (h : StandsAt m w st a) : a < (m + 1) * w := by
  obtain ⟨t, rfl, -, ht, -⟩ := h
  linarith

/-- Q units U lie at or below a and Q + 1 above it; whether a is Q units, and how what is left compares with half a unit. -/
structure Split (U a : ℝ) (Q : Nat) (exact : Bool) (low : Ordering) : Prop where
  lower : Q * U ≤ a
  upper : a < (Q + 1) * U
  exact_iff : exact = true ↔ a = Q * U
  lt_iff : low = .lt ↔ 2 * a < (2 * Q + 1) * U
  eq_iff : low = .eq ↔ 2 * a = (2 * Q + 1) * U

/-- How R units and an amount t below one more compare with P units. -/
theorem cmp_units {R P : Nat} {w t : ℝ} {st : Bool} (h0 : 0 ≤ t) (hw : t < w) (ht : t = 0 ↔ st = false) :
    (R < P ↔ R * w + t < P * w) ∧ ((R = P ∧ st = false) ↔ R * w + t = P * w) := by
  have hwp : 0 < w := h0.trans_lt hw
  have hlt : R < P → R * w + t < P * w := fun h => by
    have : ((R : ℝ) + 1) * w ≤ P * w := mul_le_mul_of_nonneg_right (by exact_mod_cast h) hwp.le
    linarith
  have hge : P ≤ R → (P : ℝ) * w ≤ R * w := fun h => mul_le_mul_of_nonneg_right (by exact_mod_cast h) hwp.le
  refine ⟨⟨hlt, fun h => not_le.1 fun c => ?_⟩, fun ⟨e, hs⟩ => by rw [e, ht.2 hs, add_zero], fun h => ?_⟩
  · linarith [hge c]
  · obtain hl | rfl | hg := lt_trichotomy R P
    · exact absurd h (hlt hl).ne
    · exact ⟨rfl, ht.1 (by linarith)⟩
    · have : ((P : ℝ) + 1) * w ≤ R * w := mul_le_mul_of_nonneg_right (by exact_mod_cast hg) hwp.le
      linarith

/-- Cutting bits off a significand splits the magnitude it stands for by the unit of the last bit kept. -/
theorem split_of_cut {m j : Nat} {st : Bool} {a w : ℝ} (ha : StandsAt m w st a) :
    Split ((2 : ℝ) ^ (j + 1) * w) a (m / 2 ^ (j + 1)) (m % 2 ^ (j + 1) == 0 && !st)
      (if m % 2 ^ (j + 1) < 2 ^ j then .lt else if m % 2 ^ (j + 1) = 2 ^ j && !st then .eq else .gt) := by
  obtain ⟨t, rfl, h0, hw, ht⟩ := ha
  have hm : (m : ℝ) = (m / 2 ^ (j + 1) : Nat) * 2 ^ (j + 1) + (m % 2 ^ (j + 1) : Nat) := by
    exact_mod_cast (Nat.div_add_mod' m (2 ^ (j + 1))).symm
  have hR : m % 2 ^ (j + 1) < 2 * 2 ^ j := (Nat.mod_lt m (by positivity)).trans_eq (by ring)
  generalize m / 2 ^ (j + 1) = Q at *
  generalize m % 2 ^ (j + 1) = R at *
  rw [hm]
  have c0 := cmp_units (R := R) (P := 0) h0 hw ht
  have c1 := cmp_units (R := R) (P := 2 ^ j) h0 hw ht
  have c2 := (cmp_units (R := R) (P := 2 * 2 ^ j) h0 hw ht).1.1 hR
  push_cast at c0 c1 c2
  have hle : 0 ≤ (R : ℝ) * w := mul_nonneg (Nat.cast_nonneg _) (h0.trans hw.le)
  refine ⟨by nlinarith, by rw [pow_succ]; linarith, ?_, ?_, ?_⟩
  · have : R = 0 ∧ st = false ↔ (R == 0 && !st) = true := by simp
    rw [← this, c0.2]
    constructor <;> intro h <;> linarith
  · have : R < 2 ^ j ↔ (if R < 2 ^ j then Ordering.lt else if (decide (R = 2 ^ j) && !st) = true then .eq else .gt) = .lt := by
      split_ifs <;> simp_all
    rw [← this, c1.1, pow_succ]
    constructor <;> intro h <;> linarith
  · have : R = 2 ^ j ∧ st = false ↔ (if R < 2 ^ j then Ordering.lt else if (decide (R = 2 ^ j) && !st) = true then .eq else .gt) = .eq := by
      split_ifs with h1 h2
      · simp [h1.ne]
      · simpa using h2
      · simpa using h2
    rw [← this, c1.2, pow_succ]
    constructor <;> intro h <;> linarith

/-- A whole number of units is split into itself and nothing. -/
theorem split_of_eq {U a : ℝ} {Q : Nat} (hU : 0 < U) (ha : a = Q * U) : Split U a Q true .lt := by
  subst ha
  exact ⟨le_rfl, by linarith, by simp, iff_of_true rfl (by linarith), iff_of_false nofun (by linarith)⟩

/-- What a rounding writes from Q. -/
def rounded (mode : Nat) (s : Bool) (Q : Nat) (exact : Bool) (low : Ordering) : Nat := if roundUp mode s Q exact low then Q + 1 else Q

/-- `roundAt` rounds a split of the magnitude by the unit 2^k. -/
theorem roundAt_split (mode : Nat) (s : Bool) {m : Nat} {e k : Int} {st : Bool} {a : ℝ} (ha : StandsAt m ((2 : ℝ) ^ e) st a) (hst : st = true → e < k) :
    ∃ Q exact low, roundAt mode s m e k st = (rounded mode s Q exact low, exact) ∧ Split ((2 : ℝ) ^ k) a Q exact low := by
  by_cases hk : e < k
  · obtain ⟨j, hj⟩ : ∃ j : Nat, (k - e).toNat = j + 1 := ⟨(k - e).toNat - 1, by omega⟩
    have hsplit := split_of_cut (j := j) ha
    rw [← hj, ← two_zpow_of_le hk.le] at hsplit
    exact ⟨_, _, _, by simp [roundAt, hk, hj, roundShift, rounded], hsplit⟩
  · obtain rfl : st = false := by cases st <;> simp_all
    refine ⟨m * 2 ^ (e - k).toNat, true, .lt, by simp [roundAt, hk, rounded, roundUp], split_of_eq (two_zpow_pos k) ?_⟩
    rw [ha.eq, two_zpow_of_le (not_lt.1 hk)]
    push_cast
    ring

/-! ## What the modes select (R54, R55) -/

section Selecting
variable {U a : ℝ} {Q : Nat} {exact : Bool} {low : Ordering}

theorem Split.pos (h : Split U a Q exact low) : 0 < U := by nlinarith [h.lower, h.upper]

theorem rounded_cases (mode : Nat) (s : Bool) (Q : Nat) (exact : Bool) (low : Ordering) :
    rounded mode s Q exact low = Q ∨ rounded mode s Q exact low = Q + 1 := by
  unfold rounded; split <;> simp

theorem rounded_exact (mode : Nat) (s : Bool) (Q : Nat) (low : Ordering) : rounded mode s Q true low = Q := by simp [rounded, roundUp]

/-- It writes the magnitude itself exactly where nothing is left. -/
theorem Split.rounded_eq_iff (h : Split U a Q exact low) (mode : Nat) (s : Bool) : rounded mode s Q exact low * U = a ↔ exact = true := by
  refine ⟨fun e => ?_, fun e => ?_⟩
  · obtain hq | hq := rounded_cases mode s Q exact low <;> rw [hq] at e
    · exact h.exact_iff.2 e.symm
    · have := h.upper
      push_cast at e
      linarith
  · subst e
    rw [rounded_exact, h.exact_iff.1 rfl]

/-- A rounded magnitude stays on its side of every whole number of units. -/
theorem Split.le_rounded (h : Split U a Q exact low) (mode : Nat) (s : Bool) {n : Nat} (hn : n * U ≤ a) : n ≤ rounded mode s Q exact low := by
  have : (n : ℝ) < Q + 1 := lt_of_mul_lt_mul_right (hn.trans_lt h.upper) h.pos.le
  have : n < Q + 1 := by exact_mod_cast this
  obtain hq | hq := rounded_cases mode s Q exact low <;> omega

theorem Split.rounded_le (h : Split U a Q exact low) (mode : Nat) (s : Bool) {n : Nat} (hn : a < n * U) : rounded mode s Q exact low ≤ n := by
  have : (Q : ℝ) < n := lt_of_mul_lt_mul_right (h.lower.trans_lt hn) h.pos.le
  have : Q < n := by exact_mod_cast this
  obtain hq | hq := rounded_cases mode s Q exact low <;> omega

end Selecting

/-- Round to nearest stays within half a unit, and gives an even number where it stands a half away. -/
theorem Split.nearest {U a : ℝ} {Q : Nat} {exact : Bool} {low : Ordering} (h : Split U a Q exact low) (s : Bool) :
    |2 * (a - rounded 0 s Q exact low * U)| ≤ U
      ∧ (|2 * (a - rounded 0 s Q exact low * U)| = U → rounded 0 s Q exact low % 2 = 0) := by
  have hU := h.pos
  have hl := h.lower
  have hu := h.upper
  cases exact
  case true =>
    have e : a - Q * U = 0 := sub_eq_zero.2 (h.exact_iff.1 rfl)
    rw [rounded_exact, e]
    simp only [mul_zero, abs_zero]
    exact ⟨hU.le, fun c => absurd c hU.ne⟩
  case false =>
    cases low
    case lt =>
      have hlt := h.lt_iff.1 rfl
      have e : rounded 0 s Q false .lt = Q := by simp [rounded, roundUp]
      rw [e, abs_of_nonneg (by linarith)]
      exact ⟨by linarith, fun c => by linarith⟩
    case eq =>
      have heq := h.eq_iff.1 rfl
      obtain hQ | hQ := Nat.mod_two_eq_zero_or_one Q
      · have e : rounded 0 s Q false .eq = Q := by simp [rounded, roundUp, hQ]
        rw [e, abs_of_nonneg (by linarith)]
        exact ⟨by linarith, fun _ => hQ⟩
      · have e : rounded 0 s Q false .eq = Q + 1 := by simp [rounded, roundUp, hQ]
        rw [e, abs_of_nonpos (by push_cast; linarith)]
        exact ⟨by push_cast; linarith, fun _ => by omega⟩
    case gt =>
      have hgt : (2 * Q + 1) * U < 2 * a :=
        lt_of_le_of_ne (not_lt.1 fun c => nomatch h.lt_iff.2 c) fun c => nomatch h.eq_iff.2 c.symm
      have e : rounded 0 s Q false .gt = Q + 1 := by simp [rounded, roundUp]
      rw [e, abs_of_nonpos (by push_cast; linarith)]
      exact ⟨by push_cast; linarith, fun c => by push_cast at c; linarith⟩

/-- A directed mode goes to the unit below the magnitude, or to the one above. -/
theorem Split.directed {U a : ℝ} {Q : Nat} {exact : Bool} {low : Ordering} (h : Split U a Q exact low) {mode : Nat} (hm : mode ≠ 0) (s : Bool) :
    if (mode = 1 ∨ mode = 2 ∧ s = true ∨ 3 ≤ mode ∧ s = false)
    then rounded mode s Q exact low * U ≤ a ∧ a < (rounded mode s Q exact low + 1) * U
    else a ≤ rounded mode s Q exact low * U ∧ rounded mode s Q exact low * U < a + U := by
  have hU := h.pos
  have hl := h.lower
  have hu := h.upper
  cases exact
  case true =>
    have e := h.exact_iff.1 rfl
    rw [rounded_exact]
    split_ifs
    · exact ⟨hl, hu⟩
    · exact ⟨e.le, by linarith⟩
  case false =>
    have hn : rounded mode s Q false low = if (mode = 1 ∨ mode = 2 ∧ s = true ∨ 3 ≤ mode ∧ s = false) then Q else Q + 1 := by
      match mode, hm with
      | 1, _ => rfl
      | 2, _ => cases s <;> rfl
      | n + 3, _ => cases s <;> simp [rounded, roundUp]
    rw [hn]
    split_ifs
    · exact ⟨hl, hu⟩
    · have hlt : Q * U < a := lt_of_le_of_ne hl fun c => nomatch h.exact_iff.2 c.symm
      push_cast
      exact ⟨hu.le, by linarith⟩

/-- The mode selects the signed multiple of 2^k that the split rounds to (R54, R55). -/
theorem Split.selects {k : Int} {a : ℝ} {Q : Nat} {exact : Bool} {low : Ordering} (h : Split ((2 : ℝ) ^ k) a Q exact low) (mode : Nat) (s : Bool) :
    Selects mode k (sgn s * a) (sgn s * (rounded mode s Q exact low * (2 : ℝ) ^ k)) := by
  have ha : 0 ≤ a := (mul_nonneg (Nat.cast_nonneg _) h.pos.le).trans h.lower
  refine ⟨if s then -(rounded mode s Q exact low : Int) else rounded mode s Q exact low, by cases s <;> simp, ?_⟩
  match mode with
  | 0 =>
    have e : |2 * (sgn s * a - sgn s * (rounded 0 s Q exact low * (2 : ℝ) ^ k))| = |2 * (a - rounded 0 s Q exact low * (2 : ℝ) ^ k)| := by
      rw [← mul_sub, mul_left_comm, abs_sgn_mul]
    obtain ⟨hle, heven⟩ := h.nearest s
    simp only [e]
    refine ⟨hle, fun c => ?_⟩
    have := heven c
    cases s <;> simp <;> omega
  | 1 =>
    obtain ⟨hle, hlt⟩ : _ ∧ _ := h.directed one_ne_zero s
    have hr : 0 ≤ (rounded 1 s Q exact low : ℝ) * (2 : ℝ) ^ k := mul_nonneg (Nat.cast_nonneg _) h.pos.le
    simp only [abs_sgn_mul, abs_of_nonneg ha, abs_of_nonneg hr]
    refine ⟨hle, by linarith, ?_⟩
    have := mul_nonneg hr ha
    cases s <;> simp <;> linarith
  | 2 =>
    have hd := h.directed two_ne_zero s
    cases s <;> simp at hd ⊢ <;> constructor <;> linarith
  | n + 3 =>
    have hd := h.directed (mode := n + 3) (by omega) s
    cases s <;> simp at hd ⊢ <;> constructor <;> linarith

/-! ## Magnitudes by their encodings (R50) -/

/-- The significand and the exponent that an encoding without its sign stands for, and its value. -/
def sigOf (F : Fmt) (c : Nat) : Nat := if c / 2 ^ F.m = 0 then c % 2 ^ F.m else 2 ^ F.m + c % 2 ^ F.m
def expOf (F : Fmt) (c : Nat) : Int := if c / 2 ^ F.m = 0 then 1 - F.bias - F.m else (c / 2 ^ F.m : Nat) - F.bias - F.m
noncomputable def magnitude (F : Fmt) (c : Nat) : ℝ := sigOf F c * (2 : ℝ) ^ expOf F c

/-- The exponent of a format's least magnitudes. -/
def minExpOf (F : Fmt) : Int := 1 - F.bias - F.m

/-- A significand q of the place j above the least is encoded by j steps of the exponent field. -/
theorem magnitude_place (F : Fmt) {j q : Nat} (hq : q ≤ 2 ^ (F.m + 1)) (hj : j ≠ 0 → 2 ^ F.m ≤ q) :
    magnitude F (j * 2 ^ F.m + q) = q * (2 : ℝ) ^ (minExpOf F + j) := by
  have hp : 0 < 2 ^ F.m := by positivity
  rw [pow_succ] at hq
  unfold magnitude sigOf expOf minExpOf
  obtain h | h | h : q < 2 ^ F.m ∨ (2 ^ F.m ≤ q ∧ q < 2 * 2 ^ F.m) ∨ q = 2 * 2 ^ F.m := by omega
  · obtain rfl : j = 0 := by_contra fun c => absurd (hj c) (by omega)
    simp [Nat.div_eq_of_lt h, Nat.mod_eq_of_lt h]
  · obtain ⟨r, rfl⟩ := Nat.exists_eq_add_of_le h.1
    have hr : r < 2 ^ F.m := by omega
    have e : j * 2 ^ F.m + (2 ^ F.m + r) = r + 2 ^ F.m * (j + 1) := by ring
    rw [e, Nat.add_mul_div_left _ _ hp, Nat.add_mul_mod_self_left, Nat.div_eq_of_lt hr, Nat.mod_eq_of_lt hr, if_neg (by omega), if_neg (by omega)]
    congr 2
    push_cast
    ring
  · subst h
    have e : j * 2 ^ F.m + 2 * 2 ^ F.m = 0 + 2 ^ F.m * (j + 2) := by ring
    rw [e, Nat.add_mul_div_left _ _ hp, Nat.add_mul_mod_self_left, Nat.zero_div, Nat.zero_mod, if_neg (by omega), if_neg (by omega)]
    have : ((0 + (j + 2) : Nat) : Int) - F.bias - F.m = 1 + (1 - F.bias - F.m + j) := by push_cast; ring
    rw [this, two_zpow_add]
    push_cast
    ring

/-- The magnitudes ascend with their encodings. -/
theorem magnitude_strictMono (F : Fmt) : StrictMono (magnitude F) := by
  refine strictMono_nat_of_lt_succ fun c => ?_
  have hp : 0 < 2 ^ F.m := by positivity
  have hc := Nat.div_add_mod' c (2 ^ F.m)
  have hm := Nat.mod_lt c hp
  obtain ⟨j, q, rfl, hq, hj⟩ : ∃ j q, c = j * 2 ^ F.m + q ∧ q < 2 ^ (F.m + 1) ∧ (j ≠ 0 → 2 ^ F.m ≤ q) := by
    rw [pow_succ]
    obtain h | ⟨j, h⟩ : c / 2 ^ F.m = 0 ∨ ∃ j, c / 2 ^ F.m = j + 1 := by
      cases c / 2 ^ F.m <;> simp
    · exact ⟨0, c % 2 ^ F.m, by rw [h] at hc; omega, by omega, by simp⟩
    · exact ⟨j, 2 ^ F.m + c % 2 ^ F.m, by rw [h] at hc; linarith, by omega, by simp⟩
  rw [magnitude_place F hq.le hj, add_assoc, magnitude_place F (Nat.succ_le_of_lt hq) (fun h => (hj h).trans (Nat.le_succ q))]
  exact mul_lt_mul_of_pos_right (by exact_mod_cast Nat.lt_succ_self q) (two_zpow_pos _)

@[simp] theorem magnitude_zero (F : Fmt) : magnitude F 0 = 0 := by simp [magnitude, sigOf]

theorem magnitude_nonneg (F : Fmt) (c : Nat) : 0 ≤ magnitude F c := mul_nonneg (Nat.cast_nonneg _) (two_zpow_pos _).le

theorem magnitude_eq_zero {F : Fmt} {c : Nat} : magnitude F c = 0 ↔ c = 0 := by
  rw [← magnitude_zero F, (magnitude_strictMono F).injective.eq_iff]

/-- The least normal magnitude. -/
theorem magnitude_minNormal (F : Fmt) : magnitude F (2 ^ F.m) = (2 : ℝ) ^ (1 - F.bias) := by
  have h := magnitude_place F (j := 0) (q := 2 ^ F.m) (Nat.pow_le_pow_right two_pos (by omega)) (by simp)
  simp only [zero_mul, zero_add] at h
  rw [h, minExpOf]
  push_cast
  rw [← zpow_natCast, ← two_zpow_add]
  congr 1; ring

/-- A sign and an encoding of a magnitude encode the signed real number. -/
theorem encodes_magnitude {F : Fmt} {c : Nat} (hc : c < 2 ^ (F.e + F.m)) (neg : Bool) : Encodes F (F.sign neg + c) neg (sgn neg * magnitude F c) := by
  have hp : 0 < 2 ^ F.m := by positivity
  refine ⟨c / 2 ^ F.m, c % 2 ^ F.m, Nat.div_lt_of_lt_mul (by rwa [mul_comm, ← pow_add]), Nat.mod_lt _ hp, ?_, ?_, ?_, ?_⟩
  · rw [add_assoc, Nat.div_add_mod']; rfl
  · rw [abs_sgn_mul, abs_of_nonneg (magnitude_nonneg F c), magnitude, sigOf, expOf]
    split_ifs <;> push_cast <;> rfl
  · rintro rfl
    simpa using magnitude_nonneg F c
  · rintro rfl
    simpa using magnitude_nonneg F c

/-! ## round_to (R55, R56, R60, R61) -/

/-- The exponent of the highest bit of a magnitude. -/
theorem log_of_standsAt {m : Nat} {e : Int} {st : Bool} {a : ℝ} (hm : m ≠ 0) (ha : StandsAt m ((2 : ℝ) ^ e) st a) : Int.log 2 a = e + Nat.log2 m := by
  have hlo : (2 : ℝ) ^ (e + Nat.log2 m) ≤ a := by
    refine le_trans ?_ ha.le
    rw [add_comm, two_zpow_add, zpow_natCast]
    exact mul_le_mul_of_nonneg_right (by exact_mod_cast Nat.log2_self_le hm) (two_zpow_pos e).le
  have hhi : a < (2 : ℝ) ^ (e + Nat.log2 m + 1) := by
    refine ha.lt.trans_le ?_
    rw [add_assoc, two_zpow_add, mul_comm ((2 : ℝ) ^ e)]
    refine mul_le_mul_of_nonneg_right ?_ (two_zpow_pos e).le
    exact_mod_cast Nat.succ_le_of_lt (Nat.lt_log2_self (n := m))
  have hpos : 0 < a := (two_zpow_pos _).trans_le hlo
  have h1 := (Int.zpow_le_iff_le_log (b := 2) one_lt_two hpos).1 (by exact_mod_cast hlo)
  have h2 := (Int.lt_zpow_iff_log_lt (b := 2) one_lt_two hpos).1 (by exact_mod_cast hhi)
  omega

/-- What `roundNZ` writes for a magnitude that it encodes by `mag` (R56, R60, R61). -/
def written (F : Fmt) (mode : Nat) (ftz s : Bool) (mag : Nat) (exact tiny : Bool) : Nat × Fl :=
  if F.max < mag then (F.sign s + F.overflow mode s, flOF ||| flNX)
  else if ftz && mag != 0 && decide (mag < 2 ^ F.m) then (F.sign s, flUF ||| flNX)
  else (F.sign s + mag, flIf (!exact) flNX ||| flIf (tiny && !exact) flUF)

/-- A significand of full precision at the place k₀ lies below the least normal magnitude where that place does, unless it has rounded up to it (R61). -/
theorem tiny_iff {F : Fmt} {q : Nat} {k₀ : Int} (hlo : 2 ^ F.m ≤ q) (hhi : q ≤ 2 ^ (F.m + 1)) :
    (decide (k₀ < minExpOf F) && !(k₀ + 1 == minExpOf F && q == 2 ^ (F.m + 1))) = true ↔ q * (2 : ℝ) ^ k₀ < (2 : ℝ) ^ (1 - F.bias) := by
  have hmin : (2 : ℝ) ^ (1 - F.bias) = (2 : ℝ) ^ F.m * (2 : ℝ) ^ minExpOf F := by
    rw [← zpow_natCast, ← two_zpow_add, minExpOf]; congr 1; ring
  have hp : (0 : ℝ) < (2 : ℝ) ^ F.m := by positivity
  rw [hmin]
  obtain h | h := le_or_gt (minExpOf F) k₀
  · refine iff_of_false (by simp [h]) (not_lt.2 (mul_le_mul (by exact_mod_cast hlo) (two_zpow_le.2 h) (two_zpow_pos _).le (Nat.cast_nonneg _)))
  · have hup : (2 : ℝ) ^ (F.m + 1) * (2 : ℝ) ^ k₀ = (2 : ℝ) ^ F.m * (2 : ℝ) ^ (k₀ + 1) := by rw [two_zpow_add, pow_succ]; ring
    obtain hq | rfl := hhi.lt_or_eq
    · refine iff_of_true (by simp [h, hq.ne]) ?_
      calc (q : ℝ) * (2 : ℝ) ^ k₀ < (2 : ℝ) ^ (F.m + 1) * (2 : ℝ) ^ k₀ := mul_lt_mul_of_pos_right (by exact_mod_cast hq) (two_zpow_pos _)
        _ ≤ (2 : ℝ) ^ F.m * (2 : ℝ) ^ minExpOf F := by rw [hup]; exact mul_le_mul_of_nonneg_left (two_zpow_le.2 h) hp.le
    · push_cast
      rw [hup, mul_lt_mul_iff_right₀ hp, two_zpow_lt]
      simp [h]

/-- The significand at the place of the format's least magnitude or at the place k0 of full precision, whichever is higher, is encoded by j steps
of the exponent field above it; what an unbounded exponent range rounds to lies below the least normal magnitude exactly where `tiny` says so. -/
theorem roundNZ_written (F : Fmt) (mode : Nat) (ftz s : Bool) {m : Nat} {e : Int} {st : Bool} {a : ℝ} (hm : m ≠ 0)
    (ha : StandsAt m ((2 : ℝ) ^ e) st a) (hst : st = true → F.m < Nat.log2 m) :
    ∃ mag q exact low Q₀ x₀ low₀ tiny, F.roundNZ mode ftz s m e st = written F mode ftz s mag exact tiny
      ∧ Split ((2 : ℝ) ^ max (Int.log 2 a - F.m) (minExpOf F)) a q exact low
      ∧ rounded mode s q exact low * (2 : ℝ) ^ max (Int.log 2 a - F.m) (minExpOf F) = magnitude F mag
      ∧ Split ((2 : ℝ) ^ (Int.log 2 a - F.m)) a Q₀ x₀ low₀
      ∧ (tiny = true ↔ rounded mode s Q₀ x₀ low₀ * (2 : ℝ) ^ (Int.log 2 a - F.m) < (2 : ℝ) ^ (1 - F.bias)) := by
  have hlog := log_of_standsAt hm ha
  set k₀ : Int := Int.log 2 a - F.m with hk₀
  have hpos : 0 < a := by
    have : (0 : ℝ) < m := by exact_mod_cast Nat.pos_of_ne_zero hm
    exact (mul_pos this (two_zpow_pos e)).trans_le ha.le
  have hlo : ((2 ^ F.m : Nat) : ℝ) * (2 : ℝ) ^ k₀ ≤ a := by
    push_cast
    rw [← zpow_natCast, ← two_zpow_add, show (F.m : Int) + k₀ = Int.log 2 a by omega]
    exact_mod_cast Int.zpow_log_le_self (b := 2) one_lt_two hpos
  have hhi : a < ((2 ^ (F.m + 1) : Nat) : ℝ) * (2 : ℝ) ^ k₀ := by
    push_cast
    rw [← zpow_natCast, ← two_zpow_add, show ((F.m + 1 : Nat) : Int) + k₀ = Int.log 2 a + 1 by push_cast; omega]
    exact_mod_cast Int.lt_zpow_succ_log_self (b := 2) one_lt_two a
  obtain ⟨Q, exact, low, hq, hs⟩ := roundAt_split mode s (k := max k₀ (minExpOf F)) ha (fun h => by have := hst h; omega)
  obtain ⟨Q₀, x₀, low₀, hq₀, hs₀⟩ := roundAt_split mode s (k := k₀) ha (fun h => by have := hst h; omega)
  have hmag : rounded mode s Q exact low * (2 : ℝ) ^ max k₀ (minExpOf F)
      = magnitude F ((max k₀ (minExpOf F) - minExpOf F).toNat * 2 ^ F.m + rounded mode s Q exact low) := by
    rw [magnitude_place F (hs.rounded_le mode s (hhi.trans_le ?_)) fun h => hs.le_rounded mode s ?_]
    · congr 2; omega
    · exact mul_le_mul_of_nonneg_left (two_zpow_le.2 (le_max_left _ _)) (Nat.cast_nonneg _)
    · rwa [show max k₀ (minExpOf F) = k₀ by omega]
  have h₀hi := hs₀.rounded_le mode s hhi
  have h₀lo := hs₀.le_rounded mode s hlo
  refine ⟨_, Q, exact, low, Q₀, x₀, low₀, decide (k₀ < minExpOf F) && !(k₀ + 1 == minExpOf F && rounded mode s Q₀ x₀ low₀ == 2 ^ (F.m + 1)), ?_, hs, hmag, hs₀, ?_⟩
  · have e1 : e + (Nat.log2 m : Int) - F.m = k₀ := by omega
    have e2 : (max k₀ (minExpOf F) + F.m + F.bias - 1).toNat = (max k₀ (minExpOf F) - minExpOf F).toNat := by unfold minExpOf; congr 1; ring
    simp only [minExpOf] at hq e2
    simp only [Fmt.roundNZ, written, e1, hq, hq₀, e2, minExpOf]
    rfl
  · exact tiny_iff h₀lo h₀hi

/-- `roundNZ` is round_to of any magnitude that its significand stands for, under a sign (R55, R56, R60, R61). -/
theorem roundNZ_roundsTo {F : Fmt} (hF : F.max < 2 ^ (F.e + F.m)) (mode : Nat) (ftz s : Bool) {m : Nat} {e : Int} {st : Bool} {a : ℝ} (hm : m ≠ 0)
    (ha : StandsAt m ((2 : ℝ) ^ e) st a) (hst : st = true → F.m < Nat.log2 m) :
    RoundsTo F mode ftz (sgn s * a) (F.roundNZ mode ftz s m e st) := by
  obtain ⟨mag, Q, exact, low, Q₀, x₀, low₀, tiny, hw, hs, hmag, hs₀, htiny⟩ := roundNZ_written F mode ftz s hm ha hst
  have hpos : 0 < a := by
    have : (0 : ℝ) < m := by exact_mod_cast Nat.pos_of_ne_zero hm
    exact (mul_pos this (two_zpow_pos e)).trans_le ha.le
  have hr := hs.selects mode s
  have hu := hs₀.selects mode s
  have hexact := hs.rounded_eq_iff mode s
  rw [hmag] at hr hexact
  have hmono := magnitude_strictMono F
  have hu0 : 0 ≤ (rounded mode s Q₀ x₀ low₀ : ℝ) * (2 : ℝ) ^ (Int.log 2 a - F.m) := mul_nonneg (Nat.cast_nonneg _) hs₀.pos.le
  have hne : sgn s * magnitude F mag ≠ sgn s * a ↔ (!exact) = true := by rw [Ne, sgn_mul_inj, hexact]; simp
  rw [hw]
  refine ⟨sgn s * magnitude F mag, sgn s * (rounded mode s Q₀ x₀ low₀ * (2 : ℝ) ^ (Int.log 2 a - F.m)), magnitude F F.max, s, ?_, ?_, ?_, ?_, ?_, ?_, ?_⟩
  · cases s <;> simp [SignOf, hpos]
  · simpa [Fmt.sign] using encodes_magnitude hF false
  · rwa [abs_sgn_mul, abs_of_pos hpos]
  · rwa [abs_sgn_mul, abs_of_pos hpos]
  · rw [abs_sgn_mul, abs_of_nonneg (magnitude_nonneg F mag), hmono.lt_iff_lt]
    intro h
    rw [written, if_pos h]
    simp [Fmt.sign, Fmt.overflow, Fmt.infBits, or_assoc]
  · rw [abs_sgn_mul, abs_of_nonneg (magnitude_nonneg F mag), hmono.le_iff_le, ← magnitude_minNormal, hmono.lt_iff_lt, Ne, sgn_mul_eq_zero, magnitude_eq_zero]
    intro h hz h0 hlt
    rw [written, if_neg (not_lt.2 h), if_pos (by simp [hz, h0, hlt])]
    rfl
  · rw [abs_sgn_mul, abs_of_nonneg (magnitude_nonneg F mag), hmono.le_iff_le, ← magnitude_minNormal, hmono.le_iff_le, sgn_mul_eq_zero, magnitude_eq_zero,
      abs_sgn_mul, abs_of_nonneg hu0, magnitude_minNormal, ← htiny, hne]
    intro h hkept
    rw [written, if_neg (not_lt.2 h), if_neg (by rcases hkept with hz | h0 | hle <;> simp [*])]
    exact ⟨encodes_magnitude (h.trans_lt hF) s, !exact, tiny && !exact, rfl, Iff.rfl, by simp [and_comm]⟩

end Sys2Proof.Proofs.Rounding

/-! # Values, formats and their encodings (R50 to R52, R55) -/

namespace Sys2Proof.Proofs.FloatValues

open Sys2Proof Sys2Proof.Machine Sys2Proof.Claims Sys2Proof.Proofs.Rounding

/-! ## Finite values as real numbers -/

/-- The real number that a finite value is. -/
noncomputable def real : FV → ℝ
  | .fin s m e => sgn s * (m * (2 : ℝ) ^ e)
  | _ => 0

theorem denotes_iff {v : FV} {x : ℝ} : Denotes v x ↔ isFin v = true ∧ x = real v := by
  constructor
  · rintro ⟨s, m, e, rfl, rfl⟩
    exact ⟨rfl, rfl⟩
  · rintro ⟨hv, rfl⟩
    match v, hv with
    | .fin s m e, _ => exact ⟨s, m, e, rfl, rfl⟩

theorem abs_real (s : Bool) (m : Nat) (e : Int) : |real (.fin s m e)| = m * (2 : ℝ) ^ e := by
  rw [real, abs_sgn_mul, abs_of_nonneg (mul_nonneg (Nat.cast_nonneg _) (two_zpow_pos e).le)]

theorem not_denotes_inf {s : Bool} {x : ℝ} : ¬Denotes (.inf s) x := fun h => nomatch (denotes_iff.1 h).1

theorem not_denotes_nan {s : Bool} {x : ℝ} : ¬Denotes (.nan s) x := fun h => nomatch (denotes_iff.1 h).1

theorem real_fin_eq_zero {s : Bool} {m : Nat} {e : Int} : real (.fin s m e) = 0 ↔ m = 0 := by
  rw [real, sgn_mul_eq_zero]
  simp [(two_zpow_pos e).ne']

theorem isZero_iff_real {v : FV} (hv : isFin v = true) : v.isZero = true ↔ real v = 0 := by
  match v, hv with
  | .fin s m e, _ => rw [real_fin_eq_zero]; simp [FV.isZero]

/-- A finite nonzero value has the sign of its real number. -/
theorem signOf_real {v : FV} (h : real v ≠ 0) : SignOf v.neg? (real v) := by
  match v, h with
  | .fin s m e, h =>
    have hm : 0 < (m : ℝ) * (2 : ℝ) ^ e := mul_pos (by exact_mod_cast Nat.pos_of_ne_zero (fun c => h (real_fin_eq_zero.2 c))) (two_zpow_pos e)
    cases s <;> simp [SignOf, FV.neg?, real, hm]
  | .inf _, h => exact absurd rfl h
  | .nan _, h => exact absurd rfl h

theorem neg?_eq_decide {v : FV} (h : real v ≠ 0) : v.neg? = decide (real v < 0) := by
  obtain ⟨ht, hf⟩ := signOf_real h
  cases hs : v.neg?
  · simpa using (hf hs).le
  · simpa using ht hs

/-! ## Rounding a finite value (R55, R57) -/

/-- y is round_to of x, or the zero of the sign s where x is 0. -/
def RoundsSigned (F : Fmt) (mode : Nat) (ftz s : Bool) (x : ℝ) (y : Nat × Fl) : Prop :=
  (x ≠ 0 → RoundsTo F mode ftz x y) ∧ (x = 0 → y = zeroOf F s)

theorem round_zero (F : Fmt) (mode : Nat) (ftz s : Bool) (e : Int) (st : Bool) : F.round mode ftz s 0 e st = zeroOf F s := rfl

theorem round_roundsSigned {F : Fmt} (hF : F.max < 2 ^ (F.e + F.m)) (mode : Nat) (ftz s : Bool) (m : Nat) (e : Int) :
    RoundsSigned F mode ftz s (real (.fin s m e)) (F.round mode ftz s m e) := by
  refine ⟨fun h => ?_, fun h => ?_⟩
  · have hm : m ≠ 0 := fun c => h (real_fin_eq_zero.2 c)
    rw [Fmt.round, if_neg hm]
    exact roundNZ_roundsTo hF mode ftz s hm (standsAt_self (two_zpow_pos e)) nofun
  · obtain rfl := real_fin_eq_zero.1 h
    exact round_zero F mode ftz s e false

/-! ## Numbers that a format holds (R55) -/

/-- A multiple of 2^k is what every mode selects for it. -/
theorem eq_of_selects {mode : Nat} {k : Int} {x r : ℝ} {n : Int} (hx : x = n * (2 : ℝ) ^ k) (h : Selects mode k x r) : r = x := by
  have hU := two_zpow_pos k
  obtain ⟨q, rfl, hm⟩ := h
  have habs : |(n : ℝ) - q| < 1 → (q : ℝ) * (2 : ℝ) ^ k = x := fun hlt => by
    have : |n - q| < 1 := by exact_mod_cast hlt
    rw [hx, show q = n by rw [abs_lt] at this; omega]
  have hscale : |x - q * (2 : ℝ) ^ k| = |(n : ℝ) - q| * (2 : ℝ) ^ k := by rw [hx, ← sub_mul, abs_mul, abs_of_pos hU]
  have hlt : |x - q * (2 : ℝ) ^ k| < (2 : ℝ) ^ k := by
    match mode, hm with
    | 0, ⟨hle, _⟩ =>
      rw [abs_mul, abs_two] at hle
      linarith [abs_nonneg (x - q * (2 : ℝ) ^ k)]
    | 1, ⟨hle, hlt, hsgn⟩ =>
      have hmul : |x| * |q * (2 : ℝ) ^ k| = q * (2 : ℝ) ^ k * x := by rw [← abs_mul, mul_comm, abs_of_nonneg hsgn]
      have : |x - q * (2 : ℝ) ^ k| = |x| - |q * (2 : ℝ) ^ k| := by
        rw [← sq_eq_sq₀ (abs_nonneg _) (by linarith), sq_abs]
        linear_combination (sq_abs x).symm + (sq_abs ((q : ℝ) * (2 : ℝ) ^ k)).symm + 2 * hmul
      linarith
    | 2, ⟨hle, hlt⟩ => rw [abs_of_nonpos (by linarith)]; linarith
    | _ + 3, ⟨hle, hlt⟩ => rw [abs_of_nonneg (by linarith)]; linarith
  rw [hscale] at hlt
  exact habs (by nlinarith)

/-- A multiple of 2^e is a multiple of every lower power. -/
theorem exists_int_mul_zpow {x : ℝ} {n : Nat} {e k : Int} (hx : |x| = n * (2 : ℝ) ^ e) (hk : k ≤ e) : ∃ z : Int, x = z * (2 : ℝ) ^ k := by
  rw [two_zpow_of_le hk, ← mul_assoc] at hx
  obtain h | h := eq_or_eq_neg_of_abs_eq hx
  · exact ⟨n * 2 ^ (e - k).toNat, by rw [h]; push_cast; rfl⟩
  · exact ⟨-(n * 2 ^ (e - k).toNat), by rw [h]; push_cast; ring⟩

/-- An encoding encodes its magnitude alone. -/
theorem abs_eq_of_encodes {F : Fmt} {neg : Bool} {c : Nat} {r : ℝ} (h : Encodes F (F.sign neg + c) neg r) : |r| = magnitude F c := by
  obtain ⟨ef, mf, -, hmf, hc, hr, -⟩ := h
  obtain rfl : c = ef * 2 ^ F.m + mf := by
    rw [add_assoc] at hc
    exact Nat.add_left_cancel hc
  have hp : 0 < 2 ^ F.m := by positivity
  have hdiv : (ef * 2 ^ F.m + mf) / 2 ^ F.m = ef := by rw [mul_comm, Nat.mul_add_div hp, Nat.div_eq_of_lt hmf, add_zero]
  have hmod : (ef * 2 ^ F.m + mf) % 2 ^ F.m = mf := by rw [mul_comm, Nat.mul_add_mod, Nat.mod_eq_of_lt hmf]
  rw [hr, magnitude, sigOf, expOf, hdiv, hmod]
  split_ifs <;> push_cast <;> rfl

/-- A number with few enough significant bits, none below the format's least place, and not above its greatest magnitude is rounded to itself, with no
flag. -/
theorem exact_of_roundsTo {F : Fmt} {mode : Nat} {ftz : Bool} {x : ℝ} {y : Nat × Fl} (h : RoundsTo F mode ftz x y) {n : Nat} {e : Int}
    (hx : |x| = n * (2 : ℝ) ^ e) (hx0 : x ≠ 0) (hn : n < 2 ^ (F.m + 1)) (he : minExpOf F ≤ e) (hmax : |x| ≤ magnitude F F.max)
    (hftz : ftz = false ∨ (2 : ℝ) ^ (1 - F.bias) ≤ |x|) : ∃ neg, SignOf neg x ∧ Encodes F y.1 neg x ∧ y.2 = 0 := by
  obtain ⟨r, u, top, neg, hneg, htop, hr, -, -, -, hkept⟩ := h
  have hn0 : n ≠ 0 := by
    rintro rfl
    exact hx0 (abs_eq_zero.1 (by rw [hx]; simp))
  have hlog : Int.log 2 |x| = e + Nat.log2 n := by rw [hx]; exact log_of_standsAt hn0 (standsAt_self (two_zpow_pos e))
  have hlog2 : Nat.log2 n < F.m + 1 := (Nat.log2_lt hn0).2 hn
  obtain ⟨z, hz⟩ := exists_int_mul_zpow (k := max (Int.log 2 |x| - F.m) (1 - F.bias - F.m)) hx (by unfold minExpOf at he; omega)
  obtain rfl := eq_of_selects hz hr
  have htop' : |top| = magnitude F F.max := abs_eq_of_encodes (neg := false) (by simpa [Fmt.sign] using htop)
  have hle : |r| ≤ top := by
    obtain ⟨_, _, _, _, _, _, _, h0⟩ := htop
    rwa [← abs_of_nonneg (h0 rfl), htop']
  obtain ⟨henc, nx, uf, hfl, hnx, huf⟩ := hkept hle (hftz.imp_right .inr)
  have h1 : nx = false := by simpa using hnx
  have h2 : uf = false := by simpa using huf
  exact ⟨neg, hneg, henc, by rw [hfl, h1, h2]; rfl⟩

/-! ## The formats of R51 -/

/-- A format with an exponent field kept for infinities and NaNs, and the bias of IEEE 754. -/
structure Ieee (F : Fmt) : Prop where
  inf : F.inf = true
  nan : F.nan = true
  max : F.max + 1 = F.infBits
  two_le_e : 2 ≤ F.e
  two_le_m : 2 ≤ F.m
  bias : F.bias = 2 ^ (F.e - 1) - 1
  m_le_bias : (F.m : Int) ≤ F.bias

theorem ieee_of_mem {F : Fmt} (h : F ∈ [fmtF64, fmtF32, fmtF16, fmtBF16]) : Ieee F := by
  simp only [List.mem_cons, List.not_mem_nil, or_false] at h
  rcases h with rfl | rfl | rfl | rfl <;> exact ⟨rfl, rfl, rfl, by decide, by decide, rfl, by decide⟩

theorem ieee_fmtE5M2 : Ieee fmtE5M2 := ⟨rfl, rfl, rfl, by decide, by decide, rfl, by decide⟩

theorem infBits_lt (F : Fmt) : F.infBits < 2 ^ (F.e + F.m) := by
  have := Nat.one_le_two_pow (n := F.e)
  have : (2 ^ F.e - 1) * 2 ^ F.m < 2 ^ F.e * 2 ^ F.m := Nat.mul_lt_mul_of_pos_right (by omega) (by positivity)
  rwa [← pow_add] at this

section
variable {F : Fmt} (h : Ieee F)
include h

theorem Ieee.max_lt_infBits : F.max < F.infBits := by have := h.max; omega

theorem Ieee.max_lt : F.max < 2 ^ (F.e + F.m) := h.max_lt_infBits.trans (infBits_lt F)

/-- The exponent field of 1 stands in the middle of its range. -/
theorem Ieee.two_mul_bias : 2 * F.bias + 2 = 2 ^ F.e := by
  have h2 := h.two_le_e
  rw [h.bias, ← Nat.sub_add_cancel (n := F.e) (m := 1) (by omega), pow_succ]
  simp
  ring

theorem Ieee.one_le_bias : 1 ≤ F.bias := by have := h.m_le_bias; have := h.two_le_m; omega

/-- The powers of two up to 2^bias are no greater than the greatest magnitude. -/
theorem Ieee.two_zpow_le_max {k : Int} (hk : k ≤ F.bias) : (2 : ℝ) ^ k ≤ magnitude F F.max := by
  have hb := h.two_mul_bias
  have h1 := h.one_le_bias
  obtain ⟨b, hbn⟩ := Int.eq_ofNat_of_zero_le (by omega : 0 ≤ F.bias)
  have hE : 2 ^ F.e = 2 * b + 2 := by
    have : ((2 ^ F.e : Nat) : Int) = 2 * b + 2 := by push_cast; omega
    exact_mod_cast this
  have hplace := magnitude_place F (j := 2 * b - 1) (q := 2 ^ F.m) (Nat.pow_le_pow_right two_pos (by omega)) (fun _ => le_rfl)
  have hle : (2 * b - 1) * 2 ^ F.m + 2 ^ F.m ≤ F.max := by
    have hmax := h.max
    have e : F.infBits = (2 * b - 1) * 2 ^ F.m + 2 ^ F.m + 2 ^ F.m := by
      unfold Fmt.infBits
      rw [hE, show 2 * b + 2 - 1 = (2 * b - 1) + 1 + 1 by omega]
      ring
    have : 0 < 2 ^ F.m := by positivity
    omega
  calc (2 : ℝ) ^ k ≤ (2 : ℝ) ^ (b : Int) := two_zpow_le.2 (by omega)
    _ = magnitude F ((2 * b - 1) * 2 ^ F.m + 2 ^ F.m) := by
      rw [hplace]
      push_cast
      rw [← zpow_natCast, ← two_zpow_add, minExpOf]
      congr 1
      omega
    _ ≤ magnitude F F.max := (magnitude_strictMono F).monotone hle

end

end Sys2Proof.Proofs.FloatValues

/-! # The value of each encoding (R50 to R52, R60) -/

namespace Sys2Proof.Proofs.FloatEncodings

open Sys2Proof Sys2Proof.Machine Sys2Proof.Claims Sys2Proof.Proofs.Rounding Sys2Proof.Proofs.FloatValues

/-- The sign of an encoding, and the encoding without it. -/
def negOf (F : Fmt) (c : Nat) : Bool := decide (2 ^ (F.e + F.m) ≤ c % 2 ^ F.bits)
def lowBits (F : Fmt) (c : Nat) : Nat := c % 2 ^ (F.e + F.m)

theorem lowBits_lt (F : Fmt) (c : Nat) : lowBits F c < 2 ^ (F.e + F.m) := Nat.mod_lt _ (by positivity)

theorem negOf_of_lt {F : Fmt} {c : Nat} (hc : c < 2 ^ (F.e + F.m + 1)) : negOf F c = decide (2 ^ (F.e + F.m) ≤ c) := by
  rw [negOf, Fmt.bits, Nat.mod_eq_of_lt hc]

/-- An encoding is its sign and the rest. -/
theorem sign_add_lowBits {F : Fmt} {c : Nat} (hc : c < 2 ^ (F.e + F.m + 1)) : F.sign (negOf F c) + lowBits F c = c := by
  rw [negOf_of_lt hc, lowBits, Fmt.sign]
  rw [pow_succ] at hc
  by_cases h : 2 ^ (F.e + F.m) ≤ c
  · rw [decide_eq_true h, Nat.mod_eq_sub_mod h, Nat.mod_eq_of_lt (by omega)]
    simp only [if_true]
    omega
  · rw [decide_eq_false h, Nat.mod_eq_of_lt (by omega)]
    simp

/-- The sign is the bit above the exponent field. -/
theorem negOf_eq_bit (F : Fmt) (c : Nat) : negOf F c = decide (c / 2 ^ (F.e + F.m) % 2 = 1) := by
  have hp : 0 < 2 ^ (F.e + F.m) := by positivity
  have h : c % 2 ^ F.bits / 2 ^ (F.e + F.m) = c / 2 ^ (F.e + F.m) % 2 := by
    rw [Fmt.bits, pow_succ, Nat.mod_mul_right_div_self]
  rw [negOf, decide_eq_decide, ← h, ← Nat.one_le_div_iff hp, h]
  omega

/-- The value of an encoding by its sign and the rest. -/
theorem value_eq (F : Fmt) (c : Nat) : F.value c =
    if F.inf && lowBits F c / 2 ^ F.m == 2 ^ F.e - 1 then
      (if lowBits F c % 2 ^ F.m = 0 then .inf (negOf F c) else .nan (decide (lowBits F c % 2 ^ F.m < 2 ^ (F.m - 1))))
    else if F.nan && !F.inf && lowBits F c == 0x7F then .nan false
    else .fin (negOf F c) (sigOf F (lowBits F c)) (expOf F (lowBits F c)) := by
  have h : c % 2 ^ F.bits % 2 ^ (F.e + F.m) = lowBits F c := Nat.mod_mod_of_dvd c (pow_dvd_pow 2 (Nat.le_succ _))
  simp only [Fmt.value, h, sigOf, expOf, negOf]
  split_ifs <;> rfl

/-- The exponent field is all ones from the encoding of infinity on. -/
theorem div_eq_ones_iff {F : Fmt} {a : Nat} (ha : a < 2 ^ (F.e + F.m)) : a / 2 ^ F.m = 2 ^ F.e - 1 ↔ F.infBits ≤ a := by
  have hp : 0 < 2 ^ F.m := by positivity
  have h1 := Nat.one_le_two_pow (n := F.e)
  have hlt : a / 2 ^ F.m < 2 ^ F.e := Nat.div_lt_of_lt_mul (by rwa [mul_comm, ← pow_add])
  rw [Fmt.infBits, ← Nat.le_div_iff_mul_le hp]
  omega

/-- Neither an infinity nor a NaN. -/
def Finite (F : Fmt) (a : Nat) : Prop := (F.inf = true → a < F.infBits) ∧ (F.nan = true → F.inf = false → a ≠ 0x7F)

theorem value_of_finite {F : Fmt} {c : Nat} (h : Finite F (lowBits F c)) : F.value c = .fin (negOf F c) (sigOf F (lowBits F c)) (expOf F (lowBits F c)) := by
  have h1 : ¬(F.inf && lowBits F c / 2 ^ F.m == 2 ^ F.e - 1) = true := by
    simp only [Bool.and_eq_true, beq_iff_eq, div_eq_ones_iff (lowBits_lt F c)]
    exact fun ⟨hi, hle⟩ => absurd (h.1 hi) (not_lt.2 hle)
  have h2 : ¬(F.nan && !F.inf && lowBits F c == 0x7F) = true := by
    simp only [Bool.and_eq_true, beq_iff_eq, Bool.not_eq_true']
    exact fun ⟨⟨hn, hi⟩, he⟩ => h.2 hn hi he
  rw [value_eq, if_neg h1, if_neg h2]

theorem value_of_infBits {F : Fmt} (hF : F.inf = true) {c : Nat} (h : lowBits F c = F.infBits) : F.value c = .inf (negOf F c) := by
  have h1 : lowBits F c / 2 ^ F.m = 2 ^ F.e - 1 := (div_eq_ones_iff (lowBits_lt F c)).2 h.ge
  rw [value_eq, if_pos (by simp [hF, h1]), if_pos (by rw [h, Fmt.infBits, Nat.mul_mod_left])]

theorem value_of_infBits_lt {F : Fmt} (hF : F.inf = true) {c : Nat} (h : F.infBits < lowBits F c) :
    F.value c = .nan (decide (lowBits F c < F.infBits + 2 ^ (F.m - 1))) := by
  have h1 : lowBits F c / 2 ^ F.m = 2 ^ F.e - 1 := (div_eq_ones_iff (lowBits_lt F c)).2 h.le
  have h2 : lowBits F c = F.infBits + lowBits F c % 2 ^ F.m := by rw [Fmt.infBits, ← h1, Nat.div_add_mod']
  rw [value_eq, if_pos (by simp [hF, h1]), if_neg (by omega)]
  congr 1
  rw [decide_eq_decide]
  omega

/-- The real number of an encoding is its magnitude under its sign. -/
theorem real_value {F : Fmt} {c : Nat} (h : Finite F (lowBits F c)) : real (F.value c) = sgn (negOf F c) * magnitude F (lowBits F c) := by
  rw [value_of_finite h, real, magnitude]

/-- An encoding encodes its own value. -/
theorem encodes_value {F : Fmt} {c : Nat} (hc : c < 2 ^ (F.e + F.m + 1)) (h : Finite F (lowBits F c)) : Encodes F c (negOf F c) (real (F.value c)) := by
  rw [real_value h]
  nth_rw 1 [← sign_add_lowBits hc]
  exact encodes_magnitude (lowBits_lt F c) _

theorem Finite.of_le {F : Fmt} {a b : Nat} (hi : F.inf = true → F.infBits = a + 1) (hn : F.nan = true → F.inf = false → a < 0x7F) (h : b ≤ a) : Finite F b :=
  ⟨fun c => by have := hi c; omega, fun c d => by have := hn c d; omega⟩

/-- In a format with infinities an encoding is finite, an infinity or a NaN. -/
theorem value_cases {F : Fmt} (hF : Ieee F) (c : Nat) :
    (lowBits F c < F.infBits ∧ F.value c = .fin (negOf F c) (sigOf F (lowBits F c)) (expOf F (lowBits F c)))
    ∨ (lowBits F c = F.infBits ∧ F.value c = .inf (negOf F c)) ∨ (F.infBits < lowBits F c ∧ ∃ sg, F.value c = .nan sg) := by
  obtain h | h | h := lt_trichotomy (lowBits F c) F.infBits
  · exact .inl ⟨h, value_of_finite ⟨fun _ => h, fun _ hi => by simp [hF.inf] at hi⟩⟩
  · exact .inr (.inl ⟨h, value_of_infBits hF.inf h⟩)
  · exact .inr (.inr ⟨h, _, value_of_infBits_lt hF.inf h⟩)

theorem sigOf_lt (F : Fmt) (a : Nat) : sigOf F a < 2 ^ (F.m + 1) := by
  have : a % 2 ^ F.m < 2 ^ F.m := Nat.mod_lt _ (by positivity)
  rw [pow_succ, sigOf]
  split_ifs <;> omega

theorem minExpOf_le_expOf (F : Fmt) (a : Nat) : minExpOf F ≤ expOf F a := by
  unfold minExpOf expOf
  generalize a / 2 ^ F.m = d
  split_ifs <;> omega

theorem expOf_le {F : Fmt} {a : Nat} (ha : a < 2 ^ (F.e + F.m)) : expOf F a ≤ (2 ^ F.e : Nat) - F.bias - F.m := by
  have hlt : a / 2 ^ F.m < 2 ^ F.e := Nat.div_lt_of_lt_mul (by rwa [mul_comm, ← pow_add])
  unfold expOf
  generalize a / 2 ^ F.m = d at *
  split_ifs <;> omega

/-- Subnormals and zeros are the encodings whose significand lacks the leading bit. -/
theorem sigOf_lt_iff (F : Fmt) (a : Nat) : sigOf F a < 2 ^ F.m ↔ a / 2 ^ F.m = 0 := by
  have : a % 2 ^ F.m < 2 ^ F.m := Nat.mod_lt _ (by positivity)
  unfold sigOf
  split_ifs with h <;> simp [h, this]

/-! ## EncodingValues and SourceFlush -/

/-- What `EncodingValues` says of a finite encoding. -/
theorem finite_encoding {F : Fmt} (hi : F.inf = true → F.infBits = F.max + 1) (hn : F.nan = true → F.inf = false → F.max < 0x7F) :
    ∀ c, c < 2 ^ (F.e + F.m + 1) → let neg := decide (2 ^ (F.e + F.m) ≤ c); let a := c % 2 ^ (F.e + F.m)
      (a ≤ F.max → F.value c ≠ .nan true ∧ ∃ x, Denotes (F.value c) x ∧ Encodes F c neg x ∧ (F.value c).neg? = neg) := by
  intro c hc neg a ha
  have hfin : Finite F (lowBits F c) := .of_le hi hn ha
  have hv := value_of_finite hfin
  refine ⟨by rw [hv]; exact nofun, real (F.value c), denotes_iff.2 ⟨by rw [hv]; rfl, rfl⟩, ?_, by rw [hv]; exact negOf_of_lt hc⟩
  have := encodes_value hc hfin
  rwa [negOf_of_lt hc] at this

/-- What it says of the infinities and NaNs of a format. -/
theorem special_encoding {F : Fmt} (hF : Ieee F) :
    ∀ c, c < 2 ^ (F.e + F.m + 1) → let neg := decide (2 ^ (F.e + F.m) ≤ c); let a := c % 2 ^ (F.e + F.m); let top := (2 ^ F.e - 1) * 2 ^ F.m
        (a = top → F.value c = .inf neg) ∧ (top < a → F.value c = .nan (decide (a < top + 2 ^ (F.m - 1)))) := by
  intro c hc neg a top
  refine ⟨fun h => ?_, fun h => value_of_infBits_lt hF.inf h⟩
  rw [value_of_infBits hF.inf h, negOf_of_lt hc]

theorem encodingValues : EncodingValues := by
  refine ⟨fun e he => ?_, fun e he => ?_, by decide, rfl, rfl, by decide, by decide, fun F hF => ?_⟩
  · simp only [List.mem_cons, List.not_mem_nil, or_false] at he
    rcases he with rfl | rfl | rfl | rfl | rfl | rfl | rfl | rfl | rfl <;>
      exact ⟨rfl, finite_encoding (by decide) (by decide)⟩
  · simp only [List.mem_cons, List.not_mem_nil, or_false] at he
    rcases he with rfl | rfl | rfl | rfl | rfl
    · exact ⟨by decide, rfl, rfl, special_encoding (ieee_of_mem (by simp))⟩
    · exact ⟨by decide, rfl, rfl, special_encoding (ieee_of_mem (by simp))⟩
    · exact ⟨by decide, rfl, rfl, special_encoding (ieee_of_mem (by simp))⟩
    · exact ⟨by decide, rfl, rfl, special_encoding (ieee_of_mem (by simp))⟩
    · exact ⟨by decide, rfl, rfl, special_encoding ieee_fmtE5M2⟩
  · simp only [List.mem_cons, List.not_mem_nil, or_false] at hF
    rcases hF with rfl | rfl | rfl <;> exact ⟨rfl, rfl⟩

/-- The exponent field of an encoding. -/
theorem exponentField_eq (F : Fmt) (c : Nat) : c / 2 ^ F.m % 2 ^ F.e = lowBits F c / 2 ^ F.m := by
  rw [lowBits, add_comm, pow_add, Nat.mod_mul_right_div_self]

theorem sourceFlush : SourceFlush := by
  intro F hmem z c
  have hF := ieee_of_mem hmem
  rw [exponentField_eq, ← negOf_eq_bit]
  have hinf : 2 ^ F.m ≤ F.infBits := by
    have h2 : 2 ≤ 2 ^ F.e := Nat.le_self_pow (by have := hF.two_le_e; omega) 2
    exact Nat.le_mul_of_pos_left _ (by omega)
  have hsmall : lowBits F c / 2 ^ F.m = 0 ↔ lowBits F c < 2 ^ F.m := Nat.div_eq_zero_iff_lt (by positivity)
  obtain ⟨hlt, hv⟩ | ⟨heq, hv⟩ | ⟨hgt, sg, hv⟩ := value_cases hF c
  · have e : (z && decide (sigOf F (lowBits F c) < 2 ^ F.m)) = true ↔ z = true ∧ lowBits F c / 2 ^ F.m = 0 := by simp [sigOf_lt_iff]
    simp only [hv, flushIn, e]
    split_ifs
    · exact ⟨_, rfl⟩
    · rfl
  all_goals
    rw [if_neg (fun c => by have := hsmall.1 c.2; omega), hv]
    rfl

end Sys2Proof.Proofs.FloatEncodings

/-! # Sums, products and square roots (R55 to R57, R61, R144, R147) -/

namespace Sys2Proof.Proofs.FloatArithmetic

open Sys2Proof Sys2Proof.Machine Sys2Proof.Claims Sys2Proof.Proofs.Rounding Sys2Proof.Proofs.FloatValues Sys2Proof.Proofs.FloatEncodings

/-! ## Exact sums -/

theorem foldl_le_of_decreasing {α : Type} {f : Int → α → Int} (hf : ∀ b v, f b v ≤ b) : ∀ (l : List α) (b : Int), l.foldl f b ≤ b
  | [], _ => le_rfl
  | v :: l, b => (foldl_le_of_decreasing hf l (f b v)).trans (hf b v)

theorem foldl_le_of_mem {α : Type} {f : Int → α → Int} (hf : ∀ b v, f b v ≤ b) {v : α} {e : Int} (he : ∀ b, f b v ≤ e) :
    ∀ {l : List α} (b : Int), v ∈ l → l.foldl f b ≤ e
  | u :: l, b, h => by
    obtain rfl | h := List.mem_cons.1 h
    · exact (foldl_le_of_decreasing hf l _).trans (he b)
    · exact foldl_le_of_mem (l := l) hf he (f b u) h

/-- No exponent lies below the least. -/
theorem minExp_le {l : List FV} {s : Bool} {m : Nat} {e : Int} (h : .fin s m e ∈ l) : minExp l ≤ e := by
  unfold minExp
  refine foldl_le_of_mem (fun b v => ?_) (fun b => ?_) _ h
  · cases v <;> simp
  · exact min_le_right b e

/-- The integer of a finite value at a place at or below its own. -/
theorem at_mul_zpow {s : Bool} {m : Nat} {e b : Int} (h : b ≤ e) : (FV.at b (.fin s m e) : ℝ) * (2 : ℝ) ^ b = real (.fin s m e) := by
  rw [real, two_zpow_of_le h]
  cases s <;> simp [FV.at] <;> ring

theorem sum_at_mul_zpow {b : Int} : ∀ {l : List FV}, (∀ v ∈ l, isFin v = true) → (∀ s m e, FV.fin s m e ∈ l → b ≤ e) →
    (((l.map (FV.at b)).sum : Int) : ℝ) * (2 : ℝ) ^ b = (l.map real).sum
  | [], _, _ => by simp
  | v :: l, hf, hb => by
    have ih := sum_at_mul_zpow (l := l) (fun u hu => hf u (List.mem_cons_of_mem _ hu)) (fun s m e h => hb s m e (List.mem_cons_of_mem _ h))
    match v, hf v List.mem_cons_self with
    | .fin s m e, _ =>
      have hv := at_mul_zpow (s := s) (m := m) (hb s m e List.mem_cons_self)
      simp only [List.map_cons, List.sum_cons, Int.cast_add, add_mul, ih, hv]

/-- The sign of an exact sum that is zero (R57). -/
def zeroSign (mode : Nat) (l : List FV) : Bool :=
  if l.all (fun v => v.isZero && !v.neg?) then false else if l.all (fun v => v.isZero && v.neg?) then true else mode == 3

/-- A sum of zeros of one sign keeps it. -/
theorem zeroSign_of_all {mode : Nat} {l : List FV} {s : Bool} (hl : l ≠ []) (h : ∀ v ∈ l, v.isZero = true ∧ v.neg? = s) : zeroSign mode l = s := by
  have hall (p : Bool) : l.all (fun v => v.isZero && (v.neg? == p)) = (s == p) := by
    rw [Bool.eq_iff_iff, List.all_eq_true]
    refine ⟨fun c => ?_, fun c v hv => by simp [h v hv, c]⟩
    obtain ⟨v, hv⟩ := List.exists_mem_of_ne_nil l hl
    simpa [h v hv] using c v hv
  have h0 := hall false
  have h1 := hall true
  simp only [beq_false, beq_true] at h0 h1
  rw [zeroSign, h0, h1]
  cases s <;> rfl

/-- Any other sum that is zero takes its sign from the mode. -/
theorem zeroSign_of_not_all {mode : Nat} {l : List FV} (h : ∀ s, ¬∀ v ∈ l, v.isZero = true ∧ v.neg? = s) : zeroSign mode l = (mode == 3) := by
  have h0 : ¬(l.all (fun v => v.isZero && !v.neg?) = true) := fun c => h false fun v hv => by simpa using List.all_eq_true.1 c v hv
  have h1 : ¬(l.all (fun v => v.isZero && v.neg?) = true) := fun c => h true fun v hv => by simpa using List.all_eq_true.1 c v hv
  rw [zeroSign, if_neg h0, if_neg h1]

theorem any_eq_false_of_finite {l : List FV} (hl : ∀ v ∈ l, isFin v = true) {p : FV → Bool} (hp : ∀ s m e, p (.fin s m e) = false) : l.any p = false := by
  rw [List.any_eq_false]
  intro v hv
  match v, hl v hv with
  | .fin s m e, _ => simp [hp]

theorem contains_inf_of_finite {l : List FV} (hl : ∀ v ∈ l, isFin v = true) (s : Bool) : l.contains (.inf s) = false := by
  rw [Bool.eq_false_iff, Ne, List.contains_iff_mem]
  exact fun h => nomatch hl _ h

/-- The exact sum of finite values (R57, R61). -/
theorem sumFV_of_finite (mode : Nat) {l : List FV} (hl : ∀ v ∈ l, isFin v = true) :
    ∃ v, sumFV mode l = (v, false) ∧ isFin v = true ∧ real v = (l.map real).sum ∧ ((l.map real).sum = 0 → v.neg? = zeroSign mode l) := by
  have hsum := sum_at_mul_zpow hl fun s m e h => minExp_le h
  have hz : (l.map (FV.at (minExp l))).sum = 0 ↔ (l.map real).sum = 0 := by
    rw [← hsum, mul_eq_zero, or_iff_left (two_zpow_pos _).ne', Int.cast_eq_zero]
  simp only [sumFV, any_eq_false_of_finite hl (p := FV.snan) (fun _ _ _ => rfl), any_eq_false_of_finite hl (p := FV.isNan) (fun _ _ _ => rfl),
    contains_inf_of_finite hl, hz]
  by_cases h : (l.map real).sum = 0
  · exact ⟨.fin (zeroSign mode l) 0 0, by simp [h, zeroSign], rfl, by simp [real, h], fun _ => rfl⟩
  · refine ⟨.fin (decide ((l.map (FV.at (minExp l))).sum < 0)) (l.map (FV.at (minExp l))).sum.natAbs (minExp l), by simp [h], rfl, ?_, fun c => absurd c h⟩
    rw [← hsum, real, ← mul_assoc]
    congr 1
    rw [Nat.cast_natAbs, Int.cast_abs]
    obtain hn | hn := lt_or_ge (l.map (FV.at (minExp l))).sum 0
    · rw [decide_eq_true hn, abs_of_neg (by exact_mod_cast hn)]; simp
    · rw [decide_eq_false (not_lt.2 hn), abs_of_nonneg (by exact_mod_cast hn)]; simp

/-- One infinity, of either sign, or infinities of one sign. -/
theorem sumFV_of_inf {mode : Nat} {l : List FV} {s : Bool} (hn : l.any FV.isNan = false) (hs : .inf s ∈ l) (hs' : .inf (!s) ∉ l) :
    sumFV mode l = (.inf s, false) := by
  have hsn : l.any FV.snan = false := by
    rw [List.any_eq_false] at hn ⊢
    intro v hv
    have := hn v hv
    cases v <;> simp_all [FV.isNan, FV.snan]
  cases s
  · rw [Bool.not_false] at hs'
    simp [sumFV, hn, hsn, hs, hs']
  · rw [Bool.not_true] at hs'
    simp [sumFV, hn, hsn, hs, hs']

theorem sumFV_of_opposite {mode : Nat} {l : List FV} {s : Bool} (h : .inf s ∈ l) (h' : .inf (!s) ∈ l) : sumFV mode l = (.nan false, true) := by
  cases s <;> simp_all [sumFV]

theorem sumFV_of_nan {mode : Nat} {l : List FV} {s : Bool} (hn : l.any FV.isNan = true) (h : .inf s ∉ l) : sumFV mode l = (.nan false, l.any FV.snan) := by
  cases s <;> simp [sumFV, hn, h]

/-! ## Exact products -/

theorem mulFV_of_finite {a b : FV} (ha : isFin a = true) (hb : isFin b = true) :
    ∃ v, mulFV a b = (v, false) ∧ isFin v = true ∧ real v = real a * real b ∧ v.neg? = (a.neg? != b.neg?) := by
  match a, ha, b, hb with
  | .fin s m e, _, .fin t n g, _ =>
    refine ⟨.fin (s != t) (m * n) (e + g), by simp [mulFV, FV.isNan, FV.snan, FV.isInf], rfl, ?_, rfl⟩
    simp only [real, sgn_bne, two_zpow_add]
    push_cast
    ring

theorem mulFV_of_nan {a b : FV} (h : a.isNan = true ∨ b.isNan = true) : mulFV a b = (.nan false, a.snan || b.snan) := by
  cases a <;> cases b <;> simp_all [mulFV, FV.isNan, FV.snan, FV.isInf, FV.isZero]

/-- An infinity times a value that is neither zero nor NaN. -/
theorem mulFV_inf {s : Bool} {b : FV} (hz : b.isZero = false) (hn : b.isNan = false) :
    mulFV (.inf s) b = (.inf (s != b.neg?), false) ∧ mulFV b (.inf s) = (.inf (s != b.neg?), false) := by
  cases b <;> simp_all [mulFV, FV.isNan, FV.snan, FV.isInf, FV.isZero, FV.neg?, bne_comm]

theorem mulFV_inf_zero {s : Bool} {b : FV} (hz : b.isZero = true) : mulFV (.inf s) b = (.nan false, true) ∧ mulFV b (.inf s) = (.nan false, true) := by
  cases b <;> simp_all [mulFV, FV.isNan, FV.snan, FV.isInf, FV.isZero]

/-! ## Writing a result -/

section
variable {F : Fmt}

theorem finishFV_finite (hF : F.max < 2 ^ (F.e + F.m)) (mode : Nat) (ftz : Bool) {v : FV} (hv : isFin v = true) :
    RoundsSigned F mode ftz v.neg? (real v) (finishFV F mode ftz (v, false)) := by
  match v, hv with
  | .fin s m e, _ =>
    have h : finishFV F mode ftz (.fin s m e, false) = F.round mode ftz s m e := by simp [finishFV, Fmt.ofValue, flIf]
    rw [h]
    exact round_roundsSigned hF mode ftz s m e

theorem finishFV_inf (hF : F.inf = true) (mode : Nat) (ftz s : Bool) : finishFV F mode ftz (.inf s, false) = infOf F s := by
  simp [finishFV, Fmt.ofValue, flIf, hF, infOf, Fmt.sign, Fmt.infBits]

theorem finishFV_nan (hF : F.nan = true) (mode : Nat) (ftz nv : Bool) : finishFV F mode ftz (.nan false, nv) = nanOf F nv := by
  simp [finishFV, Fmt.ofValue, hF, nanOf, Fmt.nanRes, flIf]

/-- The exact sum of finite values, written (R55, R57). -/
theorem finishFV_sum (hF : F.max < 2 ^ (F.e + F.m)) (mode : Nat) (ftz : Bool) {l : List FV} (hl : ∀ v ∈ l, isFin v = true) :
    RoundsSigned F mode ftz (zeroSign mode l) (l.map real).sum (finishFV F mode ftz (sumFV mode l)) := by
  obtain ⟨v, hv, hfin, hreal, hsign⟩ := sumFV_of_finite mode hl
  obtain ⟨hnz, hz⟩ := finishFV_finite hF mode ftz hfin
  rw [hreal] at hnz hz
  rw [hv]
  exact ⟨hnz, fun h => (hz h).trans (by rw [hsign h])⟩

end

/-! ## Additions, Products and FusedSums -/

/-- The zero of a sum of two (R57). -/
theorem zeroSign_pair {mode : Nat} {a b : FV} (ha : isFin a = true) (hb : isFin b = true) (h : real a + real b = 0) :
    zeroSign mode [a, b] = if real b = 0 ∧ a.neg? = b.neg? then b.neg? else mode == 3 := by
  have hza := isZero_iff_real ha
  have hzb := isZero_iff_real hb
  split_ifs with c
  · refine zeroSign_of_all (by simp) fun v hv => ?_
    have h0 : real a = 0 := by linarith [c.1]
    simp only [List.mem_cons, List.not_mem_nil, or_false] at hv
    obtain rfl | rfl := hv
    · exact ⟨hza.2 h0, c.2⟩
    · exact ⟨hzb.2 c.1, rfl⟩
  · refine zeroSign_of_not_all fun s hall => c ⟨hzb.1 (hall b (by simp)).1, ?_⟩
    rw [(hall a (by simp)).2, (hall b (by simp)).2]

/-- A finite value is no infinity and no NaN. -/
theorem not_special_of_finite {v : FV} (h : isFin v = true) : (∀ s, v ≠ .inf s) ∧ v.isNan = false ∧ v.snan = false ∧ v.isInf = false := by
  cases v <;> simp_all [isFin, FV.isNan, FV.snan, FV.isInf]

theorem additions : Additions := by
  intro F hmem mode _ z a b
  have hF := ieee_of_mem hmem
  refine ⟨fun x y hx hy => ?_, fun s x hb ha => ?_, fun s ha hb => ?_, fun h => ?_⟩
  · obtain ⟨ha, rfl⟩ := denotes_iff.1 hx
    obtain ⟨hb, rfl⟩ := denotes_iff.1 hy
    obtain ⟨hnz, hz⟩ := finishFV_sum hF.max_lt mode z (l := [a, b]) (by simp [ha, hb])
    simp only [List.map_cons, List.map_nil, List.sum_cons, List.sum_nil, add_zero] at hnz hz
    refine ⟨hnz, fun h c => ?_, fun h c => ?_⟩
    · have : real b = 0 := by linarith [c.1]
      rw [fAdd, hz h, zeroSign_pair ha hb h, if_pos ⟨this, c.2⟩, c.2]
    · rw [fAdd, hz h, zeroSign_pair ha hb h, if_neg fun d => c ⟨by linarith [d.1], d.2⟩]
  · subst ha
    have hn : b.isNan = false ∧ b ≠ .inf (!s) := by
      obtain hb | rfl := hb
      · have := not_special_of_finite (denotes_iff.1 hb).1
        exact ⟨this.2.1, this.1 _⟩
      · simp [FV.isNan]
    have hi : (FV.inf s).isNan = false := rfl
    rw [fAdd, fAdd, sumFV_of_inf (s := s) (by simp [hn.1, hi]) (by simp) (by simp [Ne.symm hn.2]),
      sumFV_of_inf (s := s) (by simp [hn.1, hi]) (by simp) (by simp [Ne.symm hn.2]), finishFV_inf hF.inf]
    exact ⟨rfl, rfl⟩
  · subst ha hb
    rw [fAdd, sumFV_of_opposite (s := s) (by simp) (by simp), finishFV_nan hF.nan]
  · obtain ⟨s, hs⟩ : ∃ s, FV.inf s ∉ [a, b] := by
      cases a <;> cases b <;> simp_all [FV.isNan]
    rw [fAdd, sumFV_of_nan (by simpa using h) hs, finishFV_nan hF.nan]
    simp

/-- A value that is neither zero nor NaN, as the statements name it. -/
theorem not_zero_nan {b : FV} {y : ℝ} (h : Denotes b y ∧ y ≠ 0 ∨ b = .inf false ∨ b = .inf true) : b.isZero = false ∧ b.isNan = false := by
  obtain ⟨hb, hy⟩ | rfl | rfl := h
  · obtain ⟨hfin, rfl⟩ := denotes_iff.1 hb
    exact ⟨by rw [Bool.eq_false_iff, Ne, isZero_iff_real hfin]; exact hy, (not_special_of_finite hfin).2.1⟩
  · exact ⟨rfl, rfl⟩
  · exact ⟨rfl, rfl⟩

theorem isZero_of_denotes_zero {b : FV} {y : ℝ} (hb : Denotes b y) (hy : y = 0) : b.isZero = true := by
  obtain ⟨hfin, rfl⟩ := denotes_iff.1 hb
  exact (isZero_iff_real hfin).2 hy

theorem products : Products := by
  intro F hmem mode _ z a b
  have hF := ieee_of_mem hmem
  refine ⟨fun x y hx hy => ?_, fun s x hb ha => ⟨fun h => ?_, fun h => ?_⟩, fun s u ha hb => ?_, fun h => ?_⟩
  · obtain ⟨ha, rfl⟩ := denotes_iff.1 hx
    obtain ⟨hb, rfl⟩ := denotes_iff.1 hy
    obtain ⟨v, hv, hfin, hreal, hsign⟩ := mulFV_of_finite ha hb
    rw [fMul, hv, ← hreal, ← hsign]
    exact finishFV_finite hF.max_lt mode z hfin
  · obtain ⟨hz, hn⟩ := not_zero_nan (.inl ⟨hb, h⟩)
    obtain ⟨h1, h2⟩ := mulFV_inf (s := s) hz hn
    rw [ha, fMul, fMul, h1, h2, finishFV_inf hF.inf]
    exact ⟨rfl, rfl⟩
  · obtain ⟨h1, h2⟩ := mulFV_inf_zero (s := s) (isZero_of_denotes_zero hb h)
    rw [ha, fMul, fMul, h1, h2, finishFV_nan hF.nan]
    exact ⟨rfl, rfl⟩
  · rw [ha, hb, fMul, (mulFV_inf rfl rfl).1, finishFV_inf hF.inf]
    rfl
  · rw [fMul, mulFV_of_nan h, finishFV_nan hF.nan]

/-- The fused multiply-add is the sum of its exact product and c. -/
theorem fFma_of_mulFV {F : Fmt} {mode : Nat} {z : Bool} {a b c p : FV} {nv : Bool} (h : mulFV a b = (p, nv)) :
    fFma F mode z a b c = finishFV F mode z ((sumFV mode [p, c]).1, nv || (sumFV mode [p, c]).2) := by
  simp only [fFma, h]

section
variable {F : Fmt} (hF : Ieee F) {mode : Nat} {z : Bool} {a b c : FV}
include hF

/-- An infinite product, and whatever c is (R57, R61). -/
theorem fFma_of_inf_product {p : Bool} (h : mulFV a b = (.inf p, false)) :
    (∀ w, Denotes c w ∨ c = .inf p → fFma F mode z a b c = infOf F p) ∧ (c = .inf (!p) → fFma F mode z a b c = nanOf F true)
      ∧ (c.isNan = true → fFma F mode z a b c = nanOf F c.snan) := by
  have hi : (FV.inf p).isNan = false ∧ (FV.inf p).snan = false := ⟨rfl, rfl⟩
  rw [fFma_of_mulFV h]
  refine ⟨fun w hc => ?_, fun hc => ?_, fun hc => ?_⟩
  · have hn : c.isNan = false ∧ c ≠ .inf (!p) := by
      obtain hc | rfl := hc
      · have := not_special_of_finite (denotes_iff.1 hc).1
        exact ⟨this.2.1, this.1 _⟩
      · simp [FV.isNan]
    rw [sumFV_of_inf (s := p) (by simp [hn.1, hi]) (by simp) (by simp [Ne.symm hn.2])]
    exact finishFV_inf hF.inf mode z p
  · rw [hc, sumFV_of_opposite (s := p) (by simp) (by simp)]
    exact finishFV_nan hF.nan mode z true
  · rw [sumFV_of_nan (s := !p) (by simp [hc]) (by cases c <;> simp_all [FV.isNan])]
    simpa [hi] using finishFV_nan hF.nan mode z c.snan

/-- An invalid product, or one of a NaN (R61). -/
theorem fFma_of_nan_product {nv : Bool} (h : mulFV a b = (.nan false, nv)) : fFma F mode z a b c = nanOf F (nv || c.snan) := by
  obtain ⟨s, hs⟩ : ∃ s, FV.inf s ∉ [.nan false, c] := by
    cases c with
    | inf t => exact ⟨!t, by simp⟩
    | _ => exact ⟨true, by simp⟩
  have hi : (FV.nan false).isNan = true ∧ (FV.nan false).snan = false := ⟨rfl, rfl⟩
  rw [fFma_of_mulFV h, sumFV_of_nan (s := s) (by simp [hi]) hs]
  simpa [hi] using finishFV_nan hF.nan mode z (nv || c.snan)

end

theorem fusedSums : FusedSums := by
  intro F hmem mode _ z a b c
  have hF := ieee_of_mem hmem
  refine ⟨fun x y w hx hy hw => ?_, fun x y s hx hy hc => ?_, fun s y ha hb => ?_, fun s y ha hb hy => ?_, fun h => ?_, fun x y hx hy hc => ?_⟩
  · obtain ⟨ha, rfl⟩ := denotes_iff.1 hx
    obtain ⟨hb, rfl⟩ := denotes_iff.1 hy
    obtain ⟨hc, rfl⟩ := denotes_iff.1 hw
    obtain ⟨v, hv, hfin, hreal, hsign⟩ := mulFV_of_finite ha hb
    obtain ⟨hnz, hz⟩ := finishFV_sum hF.max_lt mode z (l := [v, c]) (by simp [hfin, hc])
    simp only [List.map_cons, List.map_nil, List.sum_cons, List.sum_nil, add_zero] at hnz hz
    have he : fFma F mode z a b c = finishFV F mode z (sumFV mode [v, c]) := by rw [fFma_of_mulFV hv, Bool.false_or]
    rw [he, ← hreal, ← hsign]
    refine ⟨hnz, fun h d => ?_, fun h d => ?_⟩
    · rw [hz h, zeroSign_pair hfin hc h, if_pos d]
    · rw [hz h, zeroSign_pair hfin hc h, if_neg d]
  · obtain ⟨ha, rfl⟩ := denotes_iff.1 hx
    obtain ⟨hb, rfl⟩ := denotes_iff.1 hy
    obtain ⟨v, hv, hfin, -, -⟩ := mulFV_of_finite ha hb
    obtain ⟨hni, hnn, -⟩ := not_special_of_finite hfin
    have hi : (FV.inf s).isNan = false := rfl
    rw [fFma_of_mulFV hv, hc, sumFV_of_inf (s := s) (by simp [hnn, hi]) (by simp) (by simp [Ne.symm (hni _)])]
    exact finishFV_inf hF.inf mode z s
  · obtain ⟨hz, hn⟩ := not_zero_nan hb
    obtain ⟨h1, h2⟩ := mulFV_inf (s := s) hz hn
    subst ha
    obtain ⟨p1, p2, p3⟩ := fFma_of_inf_product hF (mode := mode) (z := z) (c := c) h1
    obtain ⟨q1, q2, q3⟩ := fFma_of_inf_product hF (mode := mode) (z := z) (c := c) h2
    exact ⟨fun w hw => ⟨p1 w hw, q1 w hw⟩, fun hw => ⟨p2 hw, q2 hw⟩, fun hw => ⟨p3 hw, q3 hw⟩⟩
  · obtain ⟨h1, h2⟩ := mulFV_inf_zero (s := s) (isZero_of_denotes_zero hb hy)
    subst ha
    exact ⟨fFma_of_nan_product hF h1, fFma_of_nan_product hF h2⟩
  · exact fFma_of_nan_product hF (mulFV_of_nan h)
  · obtain ⟨v, hv, hfin, -, -⟩ := mulFV_of_finite (denotes_iff.1 hx).1 (denotes_iff.1 hy).1
    obtain ⟨hni, -, hsn, -⟩ := not_special_of_finite hfin
    rw [fFma_of_mulFV hv, sumFV_of_nan (s := true) (by simp [hc]) (by cases c <;> simp_all [FV.isNan, Ne.symm (hni _)])]
    simpa [hsn] using finishFV_nan hF.nan mode z c.snan

/-! ## Roots -/

/-- `isqrt` is the integer square root. -/
theorem isqrt_bounds : ∀ {k n : Nat}, n < 4 ^ k → isqrt k n * isqrt k n ≤ n ∧ n < (isqrt k n + 1) * (isqrt k n + 1)
  | 0, n, h => by
    obtain rfl : n = 0 := by simpa using h
    simp [isqrt]
  | k + 1, n, h => by
    rw [pow_succ] at h
    obtain ⟨hlo, hhi⟩ := isqrt_bounds (k := k) (n := n / 4) (by omega)
    simp only [isqrt]
    generalize isqrt k (n / 4) = r at *
    have h4 := Nat.div_add_mod n 4
    have hm := Nat.mod_lt n (by norm_num : 0 < 4)
    generalize n / 4 = d at *
    generalize n % 4 = q at *
    split_ifs with hc
    · exact ⟨hc, by nlinarith⟩
    · exact ⟨by nlinarith, by nlinarith⟩

/-- The root of n units of 2^(2 k) stands at the integer root of n in units of 2^k. -/
theorem standsAt_sqrt {r n : Nat} {k : Int} (hlo : r * r ≤ n) (hhi : n < (r + 1) * (r + 1)) :
    StandsAt r ((2 : ℝ) ^ k) (r * r != n) (Real.sqrt (n * ((2 : ℝ) ^ k * (2 : ℝ) ^ k))) := by
  have hU := two_zpow_pos k
  have hlo' : (r : ℝ) ≤ Real.sqrt n := Real.le_sqrt_of_sq_le (by rw [sq]; exact_mod_cast hlo)
  have hhi' : Real.sqrt n < r + 1 := (Real.sqrt_lt' (by positivity)).2 (by rw [sq]; exact_mod_cast hhi)
  have heq : Real.sqrt n = r ↔ r * r = n := by
    rw [Real.sqrt_eq_iff_mul_self_eq (Nat.cast_nonneg _) (Nat.cast_nonneg _)]
    rw [eq_comm]
    exact_mod_cast Iff.rfl
  rw [Real.sqrt_mul (Nat.cast_nonneg _), Real.sqrt_mul_self hU.le]
  refine ⟨(Real.sqrt n - r) * (2 : ℝ) ^ k, by ring, mul_nonneg (by linarith) hU.le, by nlinarith, ?_⟩
  rw [mul_eq_zero, or_iff_left hU.ne', sub_eq_zero, heq]
  simp

/-- √ of a positive finite value that fits the format's significand (R147). -/
theorem fSqrt_roundsTo {F : Fmt} (hF : F.max < 2 ^ (F.e + F.m)) (mode : Nat) (ftz : Bool) {m : Nat} {e : Int} (hm : m ≠ 0) (hlt : m < 2 ^ (F.m + 1)) :
    RoundsTo F mode ftz (Real.sqrt (real (.fin false m e))) (fSqrt F mode ftz (.fin false m e)) := by
  obtain ⟨m', g, hm', hlt', hreal, hdef⟩ : ∃ (m' : Nat) (g : Int), m' ≠ 0 ∧ m' < 2 ^ (F.m + 2) ∧ real (.fin false m e) = m' * ((2 : ℝ) ^ g * (2 : ℝ) ^ g)
      ∧ fSqrt F mode ftz (.fin false m e) = (let n := m' * 4 ^ (F.m + 3); let r := isqrt (F.m * 2 + 8) n
          F.round mode ftz false r (g - (F.m + 3)) (r * r != n)) := by
    rw [pow_succ] at hlt
    obtain ⟨g, hg⟩ := Int.even_or_odd' e
    obtain rfl | rfl := hg
    · refine ⟨m, g, hm, by rw [pow_succ, pow_succ]; omega, ?_, ?_⟩
      · rw [real, sgn_false, one_mul, ← two_zpow_add, two_mul]
      · simp [fSqrt, hm]
    · refine ⟨2 * m, g, by omega, by rw [pow_succ, pow_succ]; omega, ?_, ?_⟩
      · rw [real, sgn_false, one_mul, ← two_zpow_add, ← two_mul, two_zpow_add]
        push_cast
        ring
      · have h1 : (2 * g + 1) % 2 = 1 := by omega
        have h2 : (2 * g + 1 - 1) / 2 = g := by omega
        simp [fSqrt, hm, h1]
  have hn : m' * 4 ^ (F.m + 3) < 4 ^ (F.m * 2 + 8) := by
    calc m' * 4 ^ (F.m + 3) < 2 ^ (F.m + 2) * 4 ^ (F.m + 3) := Nat.mul_lt_mul_of_pos_right hlt' (by positivity)
      _ ≤ 4 ^ (F.m + 2) * 4 ^ (F.m + 3) := Nat.mul_le_mul_right _ (Nat.pow_le_pow_left (by norm_num) _)
      _ ≤ 4 ^ (F.m * 2 + 8) := by rw [← pow_add]; exact Nat.pow_le_pow_right (by norm_num) (by omega)
  obtain ⟨hlo, hhi⟩ := isqrt_bounds hn
  have hroot : Real.sqrt (real (.fin false m e)) = Real.sqrt ((m' * 4 ^ (F.m + 3) : Nat) * ((2 : ℝ) ^ (g - (F.m + 3)) * (2 : ℝ) ^ (g - (F.m + 3)))) := by
    have h4 : (4 : ℝ) ^ (F.m + 3) = (2 : ℝ) ^ ((F.m : Int) + 3) * (2 : ℝ) ^ ((F.m : Int) + 3) := by
      rw [← mul_zpow, show (2 : ℝ) * 2 = 4 by norm_num]
      exact (zpow_natCast (4 : ℝ) (F.m + 3)).symm
    have hg : (2 : ℝ) ^ g = (2 : ℝ) ^ ((F.m : Int) + 3) * (2 : ℝ) ^ (g - ((F.m : Int) + 3)) := by rw [← two_zpow_add]; congr 1; ring
    rw [hreal, hg]
    push_cast
    rw [h4]
    ring_nf
  have hr : 2 ^ (F.m + 3) ≤ isqrt (F.m * 2 + 8) (m' * 4 ^ (F.m + 3)) := by
    by_contra c
    have h4 : 2 ^ (F.m + 3) * 2 ^ (F.m + 3) = 4 ^ (F.m + 3) := by rw [← mul_pow]; norm_num
    have : 1 * 4 ^ (F.m + 3) ≤ m' * 4 ^ (F.m + 3) := Nat.mul_le_mul_right _ (Nat.one_le_iff_ne_zero.2 hm')
    have : isqrt (F.m * 2 + 8) (m' * 4 ^ (F.m + 3)) + 1 ≤ 2 ^ (F.m + 3) := by omega
    have := Nat.mul_le_mul this this
    omega
  have hr0 : isqrt (F.m * 2 + 8) (m' * 4 ^ (F.m + 3)) ≠ 0 := by have := Nat.one_le_two_pow (n := F.m + 3); omega
  have hst := standsAt_sqrt (k := g - (F.m + 3)) hlo hhi
  rw [hdef, hroot]
  simp only [Fmt.round, if_neg hr0]
  have h := roundNZ_roundsTo hF mode ftz false hr0 hst (fun _ => by
    have := (Nat.le_log2 hr0).2 hr
    omega)
  rwa [sgn_false, one_mul] at h

/-- A source as an instruction reads it: its exponent and its significand stay inside the format's. -/
theorem flushIn_cases {F : Fmt} (hF : Ieee F) (z : Bool) (c : Nat) :
    (∃ m e, flushIn F z (F.value c) = .fin (negOf F c) m e ∧ m < 2 ^ (F.m + 1) ∧ minExpOf F ≤ e ∧ e ≤ (2 ^ F.e : Nat) - F.bias - F.m
        ∧ lowBits F c < F.infBits ∧ (m ≠ 0 → m = sigOf F (lowBits F c) ∧ e = expOf F (lowBits F c)))
    ∨ (lowBits F c = F.infBits ∧ flushIn F z (F.value c) = .inf (negOf F c)) ∨ (F.infBits < lowBits F c ∧ ∃ sg, flushIn F z (F.value c) = .nan sg) := by
  obtain ⟨h, hv⟩ | ⟨h, hv⟩ | ⟨h, sg, hv⟩ := value_cases hF c
  · left
    rw [hv]
    simp only [flushIn]
    have he := expOf_le (lowBits_lt F c)
    split_ifs
    · exact ⟨0, _, rfl, by positivity, minExpOf_le_expOf F _, he, h, fun c => absurd rfl c⟩
    · exact ⟨_, _, rfl, sigOf_lt F _, minExpOf_le_expOf F _, he, h, fun _ => ⟨rfl, rfl⟩⟩
  · exact .inr (.inl ⟨h, by rw [hv]; rfl⟩)
  · exact .inr (.inr ⟨h, sg, by rw [hv]; rfl⟩)

theorem roots : Roots := by
  intro F hmem mode _ z n a
  have hF := ieee_of_mem hmem
  refine ⟨fun x hx => ?_, fun ha => ?_, fun ha => ?_, fun sg ha => ?_⟩
  · obtain ⟨hfin, rfl⟩ := denotes_iff.1 hx
    obtain ⟨m, e, ha, hlt, -⟩ | ⟨-, ha⟩ | ⟨-, sg, ha⟩ := flushIn_cases hF z n
    · have ha : a = .fin (negOf F n) m e := ha
      rw [ha]
      refine ⟨fun hpos => ?_, fun h0 => ?_, fun hneg => ?_⟩
      · have hs : negOf F n = false := (neg?_eq_decide (v := .fin (negOf F n) m e) hpos.ne').trans (decide_eq_false (not_lt.2 hpos.le))
        rw [hs] at hpos ⊢
        exact fSqrt_roundsTo hF.max_lt mode z (fun c => hpos.ne' (real_fin_eq_zero.2 c)) hlt
      · obtain rfl := real_fin_eq_zero.1 h0
        rw [fSqrt, if_pos rfl]
        rfl
      · have hs : negOf F n = true := (neg?_eq_decide (v := .fin (negOf F n) m e) hneg.ne).trans (decide_eq_true hneg)
        have hm : m ≠ 0 := fun c => hneg.ne (real_fin_eq_zero.2 c)
        simp [fSqrt, hs, hm, Fmt.nanRes, nanOf, flIf]
    · exact absurd hfin (by rw [show a = _ from ha]; simp [isFin])
    · exact absurd hfin (by rw [show a = _ from ha]; simp [isFin])
  · simp [ha, fSqrt, infOf, Fmt.infBits]
  · simp [ha, fSqrt, nanOf, Fmt.nanRes, flIf]
  · simp [ha, fSqrt, nanOf, Fmt.nanRes, flIf]

end Sys2Proof.Proofs.FloatArithmetic

/-! # Conversions and integral values (R58, R59, R147, R151) -/

namespace Sys2Proof.Proofs.FloatConversions

open Sys2Proof Sys2Proof.Machine Sys2Proof.Claims Sys2Proof.Proofs.Rounding Sys2Proof.Proofs.FloatValues Sys2Proof.Proofs.FloatEncodings
  Sys2Proof.Proofs.FloatArithmetic

/-! ## Rounding to an integer (R54, R58) -/

/-- (−1)^s × n. -/
def signed (s : Bool) (n : Nat) : Int := if s then -(n : Int) else n

theorem cast_signed (s : Bool) (n : Nat) : (signed s n : ℝ) = sgn s * n := by cases s <;> simp [signed]

/-- `roundAt` at the place of the units rounds a finite value to the integer that the mode selects. -/
theorem roundAt_units (mode : Nat) (s : Bool) (m : Nat) (e : Int) : ∃ n exact, roundAt mode s m e 0 false = (n, exact)
    ∧ Selects mode 0 (real (.fin s m e)) (signed s n) ∧ (exact = true ↔ real (.fin s m e) = signed s n)
    ∧ (∀ N : Nat, m * (2 : ℝ) ^ e < N → n ≤ N) := by
  obtain ⟨Q, exact, low, hr, hs⟩ := roundAt_split mode s (k := 0) (standsAt_self (m := m) (two_zpow_pos e)) nofun
  have hsel := hs.selects mode s
  have hex := hs.rounded_eq_iff mode s
  have hle := fun N => hs.rounded_le mode s (n := N)
  simp only [zpow_zero, mul_one] at hsel hex hle
  refine ⟨_, exact, hr, ?_, ?_, hle⟩
  · rw [cast_signed]; exact hsel
  · rw [cast_signed, real, sgn_mul_inj]
    exact ⟨fun h => (hex.2 h).symm, fun h => hex.1 h.symm⟩

/-- A value without a fractional part is its own integer. -/
theorem roundAt_units_exact {mode : Nat} {s : Bool} {m : Nat} {e : Int} (h : m = 0 ∨ 0 ≤ e) : (roundAt mode s m e 0 false).2 = true := by
  unfold roundAt
  split_ifs with he
  · obtain rfl : m = 0 := by omega
    simp [roundShift]
  · rfl

/-! ## The codes of `v.cvt` (R151) -/

theorem floatCode_spec {c : Nat} {F : Fmt} (h : floatCode c = some F) :
    cvtFloat c = true ∧ cvtFmt c = F ∧ cvtBits c = F.e + F.m + 1 ∧ F.nan = true ∧ F.max < 2 ^ (F.e + F.m) := by
  unfold floatCode at h
  split at h <;> cases h <;> decide

theorem intCode_spec {c : Nat} {w : Nat × Bool} (h : intCode c = some w) :
    cvtFloat c = false ∧ cvtBits c = w.1 ∧ cvtLo c = lowOf w ∧ cvtHi c = highOf w ∧ cvtSigned c = w.2 ∧ lowOf w ≤ 0 ∧ 0 < highOf w := by
  unfold intCode at h
  split at h <;> cases h <;> decide

theorem toNat_wrap (n : Nat) (i : Int) : (wrap n i).toNat = (i % 2 ^ n).toNat := by
  rw [wrap, BitVec.toNat_ofInt]
  rfl

theorem cvtInt_eq {c : Nat} {w : Nat × Bool} (h : intCode c = some w) (x : Nat) : cvtInt c (x % 2 ^ w.1) = intOf w x := by
  obtain ⟨-, hb, -, -, hs, -⟩ := intCode_spec h
  simp only [cvtInt, intOf, hb, hs]

/-- A float source as `v.cvt` reads it. -/
theorem convert_float_float {fr dst mode : Nat} {ftz sat : Bool} {x : Nat} {F G : Fmt} (hF : floatCode fr = some F) (hG : floatCode dst = some G)
    (hx : x < 2 ^ (F.e + F.m + 1)) : convert fr dst mode ftz sat x = G.ofValue mode (ftz && dst == 2) (flushIn F (ftz && fr == 2) (F.value x)) := by
  obtain ⟨f1, f2, f3, -⟩ := floatCode_spec hF
  obtain ⟨g1, g2, -⟩ := floatCode_spec hG
  simp only [convert, f1, f2, f3, g1, g2, Nat.mod_eq_of_lt hx, if_true]

theorem convert_float_int {fr dst mode : Nat} {ftz sat : Bool} {x : Nat} {F : Fmt} {w : Nat × Bool} (hF : floatCode fr = some F) (hw : intCode dst = some w)
    (hx : x < 2 ^ (F.e + F.m + 1)) : convert fr dst mode ftz sat x
      = (bitsFor w (toIntFV mode (lowOf w) (highOf w) (flushIn F (ftz && fr == 2) (F.value x))).1,
          (toIntFV mode (lowOf w) (highOf w) (flushIn F (ftz && fr == 2) (F.value x))).2) := by
  obtain ⟨f1, f2, f3, -⟩ := floatCode_spec hF
  obtain ⟨g1, g2, g3, g4, -⟩ := intCode_spec hw
  simp only [convert, f1, f2, f3, g1, toNat_wrap, bitsFor, g2, g3, g4, Nat.mod_eq_of_lt hx, if_true, Bool.false_eq_true, if_false]

theorem sat_eq {lo hi i : Int} (h : lo ≤ hi) : Sys2Proof.sat i lo hi = max lo (min hi i) := by
  unfold Sys2Proof.sat
  split_ifs <;> omega

theorem real_int (i : Int) : real (.fin (decide (i < 0)) i.natAbs 0) = i := by
  rw [real, zpow_zero, mul_one, Nat.cast_natAbs, Int.cast_abs]
  obtain h | h := lt_or_ge i 0
  · rw [decide_eq_true h, abs_of_neg (by exact_mod_cast h)]; simp
  · rw [decide_eq_false (not_lt.2 h), abs_of_nonneg (by exact_mod_cast h)]; simp

theorem conversions : Conversions := by
  intro fr dst mode ftz sat x _
  refine ⟨fun F G hF hG hx => ?_, fun F w hF hw hx => ?_, fun w G hw hG => ?_, fun w v hw hv => ?_⟩
  · obtain ⟨-, -, -, hnan, hmax⟩ := floatCode_spec hG
    rw [convert_float_float hF hG hx]
    refine ⟨fun r hr => ?_, fun s hs => ?_, fun sg hs => ?_⟩
    · obtain ⟨hfin, rfl⟩ := denotes_iff.1 hr
      generalize flushIn F (ftz && fr == 2) (F.value x) = v at hfin
      match v, hfin with
      | .fin s m e, _ => exact round_roundsSigned hmax mode _ s m e
    · rw [hs]
      rfl
    · rw [hs]
      simp only [Fmt.ofValue, hnan, if_true]
      rfl
  · rw [convert_float_int hF hw hx]
    generalize flushIn F (ftz && fr == 2) (F.value x) = v
    obtain ⟨-, -, -, -, -, hlo, hhi⟩ := intCode_spec hw
    refine ⟨fun r hr => ?_, fun s hs => ?_, fun sg hs => ?_⟩
    · obtain ⟨hfin, rfl⟩ := denotes_iff.1 hr
      match v, hfin with
      | .fin s m e, _ =>
        obtain ⟨n, exact, hround, hsel, hexact, -⟩ := roundAt_units mode s m e
        have hto : toIntFV mode (lowOf w) (highOf w) (.fin s m e) = if signed s n < lowOf w then (lowOf w, flNV)
            else if highOf w < signed s n then (highOf w, flNV) else (signed s n, flIf (!exact) flNX) := by
          simp only [toIntFV, hround, signed]
          rfl
        rw [hto]
        refine ⟨signed s n, hsel, fun h => by rw [if_pos h], fun h => by rw [if_neg (by omega), if_pos h], fun h1 h2 => ?_⟩
        rw [if_neg (by omega), if_neg (by omega)]
        exact ⟨rfl, fun h => by rw [hexact.2 h]; rfl, fun h => by
          have : exact = false := by rw [Bool.eq_false_iff]; exact fun c => h (hexact.1 c)
          rw [this]; rfl⟩
    · rw [hs]
      rfl
    · rw [hs]
      simp [toIntFV, bitsFor]
  · obtain ⟨-, -, -, -, hmax⟩ := floatCode_spec hG
    obtain ⟨f1, f2, -⟩ := intCode_spec hw
    obtain ⟨g1, g2, -⟩ := floatCode_spec hG
    have he : convert fr dst mode ftz sat x = G.round mode (ftz && dst == 2) (decide (intOf w x < 0)) (intOf w x).natAbs 0 := by
      simp [convert, f1, f2, g1, g2, cvtInt_eq hw]
    rw [he]
    obtain ⟨hnz, hz⟩ := round_roundsSigned hmax mode (ftz && dst == 2) (decide (intOf w x < 0)) (intOf w x).natAbs 0
    rw [real_int] at hnz hz
    refine ⟨fun h => ?_, fun h => hnz (by exact_mod_cast h)⟩
    rw [hz (by exact_mod_cast h), h]
    rfl
  · obtain ⟨f1, f2, -⟩ := intCode_spec hw
    obtain ⟨g1, g2, g3, g4, -, hlo, hhi⟩ := intCode_spec hv
    rw [← sat_eq (by omega)]
    simp [convert, f1, f2, g1, bitsFor, g2, g3, g4, cvtInt_eq hw]

/-! ## `v.frnd` (R147) -/

/-- A nonzero source that is read as finite is its encoding's magnitude under its sign. -/
theorem real_flushIn {F : Fmt} {c m : Nat} {e : Int} (hm : m = sigOf F (lowBits F c) ∧ e = expOf F (lowBits F c)) :
    real (.fin (negOf F c) m e) = sgn (negOf F c) * magnitude F (lowBits F c) := by
  rw [hm.1, hm.2, real, magnitude]

theorem encodes_zero (F : Fmt) (s : Bool) : Encodes F (F.sign s) s 0 := by
  simpa using encodes_magnitude (F := F) (c := 0) (by positivity) s

/-- A number with few enough significant bits, none below the format's least place, and not above its greatest magnitude is written as it is. -/
theorem round_exact {F : Fmt} (hF : Ieee F) (mode : Nat) (ftz s : Bool) {n : Nat} {e : Int} (hn : n < 2 ^ (F.m + 1)) (he : minExpOf F ≤ e)
    (hmax : n * (2 : ℝ) ^ e ≤ magnitude F F.max) (hftz : n ≠ 0 → ftz = false ∨ (2 : ℝ) ^ (1 - F.bias) ≤ n * (2 : ℝ) ^ e) :
    Encodes F (F.round mode ftz s n e).1 s (real (.fin s n e)) ∧ (F.round mode ftz s n e).2 = 0 := by
  by_cases hn0 : n = 0
  · rw [hn0, round_zero, real_fin_eq_zero.2 rfl]
    exact ⟨encodes_zero F s, rfl⟩
  · have hne : real (.fin s n e) ≠ 0 := fun h => hn0 (real_fin_eq_zero.1 h)
    have habs := abs_real s n e
    obtain ⟨neg, hneg, henc, hfl⟩ := exact_of_roundsTo ((round_roundsSigned hF.max_lt mode ftz s n e).1 hne) habs hne hn he (habs ▸ hmax) (habs ▸ hftz hn0)
    have hs : s = neg := by
      have h2 : s = decide (real (.fin s n e) < 0) := neg?_eq_decide hne
      obtain ⟨ht, hf⟩ := hneg
      cases neg
      · rw [h2, decide_eq_false (not_lt.2 (hf rfl).le)]
      · rw [h2, decide_eq_true (ht rfl)]
    subst hs
    exact ⟨henc, hfl⟩

theorem round_integer {F : Fmt} (hF : Ieee F) (mode : Nat) (ftz s : Bool) {n : Nat} (hn : n ≤ 2 ^ F.m) :
    Encodes F (F.round mode ftz s n 0).1 s (signed s n) ∧ (F.round mode ftz s n 0).2 = 0 := by
  have hb := hF.one_le_bias
  have h := round_exact hF mode ftz s (n := n) (e := 0) (hn.trans_lt (Nat.pow_lt_pow_right one_lt_two (Nat.lt_succ_self _))) (by unfold minExpOf; omega)
    (by calc (n : ℝ) * (2 : ℝ) ^ (0 : Int) ≤ (2 : ℝ) ^ (F.m : Int) := by rw [zpow_zero, mul_one, zpow_natCast]; exact_mod_cast hn
          _ ≤ magnitude F F.max := hF.two_zpow_le_max hF.m_le_bias)
    (fun h0 => .inr (by
      rw [zpow_zero, mul_one]
      exact le_trans (zpow_le_one_of_nonpos₀ one_le_two (by omega)) (by exact_mod_cast Nat.one_le_iff_ne_zero.2 h0)))
  rwa [real, zpow_zero, mul_one, ← cast_signed] at h

theorem integrals : Integrals := by
  intro F hmem mode _ z n hn a
  have hF := ieee_of_mem hmem
  obtain ⟨m, e, ha, hlt, hmin, -, hlow, hkept⟩ | ⟨hlow, ha⟩ | ⟨-, sg, ha⟩ := flushIn_cases hF z n
  · have ha : a = .fin (negOf F n) m e := ha
    rw [ha]
    refine ⟨fun x hx => ?_, nofun, nofun⟩
    obtain ⟨-, rfl⟩ := denotes_iff.1 hx
    obtain ⟨q, exact, hround, hsel, hexact, hle⟩ := roundAt_units mode (negOf F n) m e
    refine ⟨signed (negOf F n) q, hsel, ?_⟩
    have hself : m = 0 ∨ 0 ≤ e → real (.fin (negOf F n) m e) = signed (negOf F n) q := fun h => by
      have := roundAt_units_exact (mode := mode) (s := negOf F n) h
      rw [hround] at this
      exact hexact.1 this
    by_cases hm : m = 0
    · rw [← hself (.inl hm), real_fin_eq_zero.2 hm, fRnd, if_pos hm]
      exact ⟨encodes_zero F _, rfl⟩
    · by_cases he : 0 ≤ e
      · rw [← hself (.inr he), real_flushIn (hkept hm), fRnd, if_neg hm, if_pos he]
        refine ⟨?_, rfl⟩
        nth_rw 1 [← sign_add_lowBits hn]
        exact encodes_magnitude (lowBits_lt F n) _
      · have hsmall : m * (2 : ℝ) ^ e < (2 ^ F.m : Nat) := by
          have h1 : (m : ℝ) < 2 ^ F.m * 2 := by rw [← pow_succ]; exact_mod_cast hlt
          have h2 : (2 : ℝ) ^ e ≤ 2⁻¹ := by
            rw [← zpow_neg_one]; exact two_zpow_le.2 (by omega)
          have h3 := two_zpow_pos e
          push_cast
          nlinarith
        have h := (round_integer hF mode z (negOf F n) (hle _ hsmall)).1
        rw [fRnd, if_neg hm, if_neg he, hround]
        exact ⟨h, rfl⟩
  · have ha : a = .inf (negOf F n) := ha
    rw [ha]
    refine ⟨fun x hx => absurd hx not_denotes_inf, fun s hs => ?_, nofun⟩
    obtain rfl : negOf F n = s := by simpa using hs
    have hsplit := sign_add_lowBits hn
    rw [hlow] at hsplit
    exact congrArg (·, 0) hsplit.symm
  · have ha : a = .nan sg := ha
    rw [ha]
    refine ⟨fun x hx => absurd hx not_denotes_nan, nofun, fun sg' hs => ?_⟩
    obtain rfl : sg = sg' := by simpa using hs
    rfl

end Sys2Proof.Proofs.FloatConversions

/-! # Minimum and maximum, inspection, scaling and packed dot products (R145, R150, R152) -/

namespace Sys2Proof.Proofs.FloatInspections

open Sys2Proof Sys2Proof.Machine Sys2Proof.Claims Sys2Proof.Proofs.Rounding Sys2Proof.Proofs.FloatValues Sys2Proof.Proofs.FloatEncodings
  Sys2Proof.Proofs.FloatArithmetic Sys2Proof.Proofs.FloatConversions

/-! ## `v.fmin` and `v.fmax` (R145) -/

/-- The order of finite values is that of their real numbers. -/
theorem lt_iff_real {a b : FV} (ha : isFin a = true) (hb : isFin b = true) : a.lt b = true ↔ real a < real b := by
  match a, ha, b, hb with
  | .fin s m e, _, .fin t n g, _ =>
    have h1 := at_mul_zpow (s := s) (m := m) (min_le_left e g)
    have h2 := at_mul_zpow (s := t) (m := n) (min_le_right e g)
    rw [← h1, ← h2, mul_lt_mul_iff_left₀ (two_zpow_pos _), Int.cast_lt]
    simp [FV.lt]

/-- An operand as the result holds it: a zero by its sign, another as it is encoded. -/
def operand (F : Fmt) (v : FV) (k : Nat) : Nat := if v.isZero then F.sign v.neg? else k

theorem denotes_zero_iff {v : FV} : Denotes v 0 ↔ v.isZero = true := by
  rw [denotes_iff]
  cases v with
  | fin s m e => rw [isZero_iff_real rfl]; simp [isFin, eq_comm]
  | _ => simp [isFin, FV.isZero]

theorem operand_spec (F : Fmt) (v : FV) (k : Nat) :
    (Denotes v 0 → operand F v k = (zeroOf F v.neg?).1) ∧ (¬Denotes v 0 → operand F v k = k) := by
  rw [denotes_zero_iff]
  exact ⟨fun h => if_pos h, fun h => if_neg h⟩

/-- The first operand goes before the second, −0 before +0. -/
def before (a b : FV) : Bool := a.lt b || (a.isZero && b.isZero && a.neg? && !b.neg?)

theorem fMinMax_of_not_nan {F : Fmt} {a b : FV} (ha : a.isNan = false) (hb : b.isNan = false) (mx : Bool) (m n : Nat) :
    fMinMax F mx m n a b = (if before a b != mx then operand F a m else operand F b n, flIf (a.snan || b.snan) flNV) := by
  simp [fMinMax, ha, hb, operand, before]

theorem fMinMax_of_nan_left {F : Fmt} {a b : FV} (ha : a.isNan = true) (hb : b.isNan = false) (mx : Bool) (m n : Nat) :
    fMinMax F mx m n a b = (operand F b n, flIf (a.snan || b.snan) flNV) := by simp [fMinMax, ha, hb, operand]

theorem fMinMax_of_nan_right {F : Fmt} {a b : FV} (ha : a.isNan = false) (hb : b.isNan = true) (mx : Bool) (m n : Nat) :
    fMinMax F mx m n a b = (operand F a m, flIf (a.snan || b.snan) flNV) := by simp [fMinMax, ha, hb, operand]

theorem fMinMax_of_nan_both {F : Fmt} {a b : FV} (ha : a.isNan = true) (hb : b.isNan = true) (mx : Bool) (m n : Nat) :
    fMinMax F mx m n a b = (F.nanBits, flIf (a.snan || b.snan) flNV) := by simp [fMinMax, ha, hb]

/-- Finite sources of one value and one sign stand in the result alike. -/
theorem operand_eq {F : Fmt} (hF : Ieee F) {z : Bool} {m n : Nat} (hm : m < 2 ^ (F.e + F.m + 1)) (hn : n < 2 ^ (F.e + F.m + 1))
    (ha : isFin (flushIn F z (F.value m)) = true) (hb : isFin (flushIn F z (F.value n)) = true)
    (h : real (flushIn F z (F.value m)) = real (flushIn F z (F.value n))) (hs : (flushIn F z (F.value m)).neg? = (flushIn F z (F.value n)).neg?) :
    operand F (flushIn F z (F.value m)) m = operand F (flushIn F z (F.value n)) n := by
  have hz : (flushIn F z (F.value m)).isZero = (flushIn F z (F.value n)).isZero := by
    rw [Bool.eq_iff_iff, isZero_iff_real ha, isZero_iff_real hb, h]
  unfold operand
  rw [hz, hs]
  split_ifs with h0
  · rfl
  have hb0 : real (flushIn F z (F.value n)) ≠ 0 := fun c => h0 ((isZero_iff_real hb).2 c)
  have ha0 : real (flushIn F z (F.value m)) ≠ 0 := h ▸ hb0
  obtain ⟨p, e, hp, -, -, -, -, hkp⟩ | ⟨-, hp⟩ | ⟨-, sg, hp⟩ := flushIn_cases hF z m
  · obtain ⟨q, g, hq, -, -, -, -, hkq⟩ | ⟨-, hq⟩ | ⟨-, sg, hq⟩ := flushIn_cases hF z n
    · rw [hp] at ha0 h hs
      rw [hq] at hb0 h hs
      rw [real_flushIn (hkp fun c => ha0 (real_fin_eq_zero.2 c)), real_flushIn (hkq fun c => hb0 (real_fin_eq_zero.2 c))] at h
      have hs : negOf F m = negOf F n := hs
      rw [hs, sgn_mul_inj, (magnitude_strictMono F).injective.eq_iff] at h
      rw [← sign_add_lowBits hm, ← sign_add_lowBits hn, h, hs]
    · rw [hq] at hb; exact nomatch hb
    · rw [hq] at hb; exact nomatch hb
  · rw [hp] at ha; exact nomatch ha
  · rw [hp] at ha; exact nomatch ha

/-- −∞ goes before, and +∞ after, every other value. -/
theorem before_inf_left {b : FV} {y : ℝ} (h : Denotes b y ∨ b = .inf false) :
    b.isNan = false ∧ before (.inf true) b = true ∧ before (.inf false) b = false := by
  obtain ⟨s, m, e, rfl, -⟩ | rfl := h <;> exact ⟨rfl, rfl, rfl⟩

theorem before_inf_right {a : FV} {x : ℝ} (h : Denotes a x ∨ a = .inf true) :
    a.isNan = false ∧ before a (.inf false) = true ∧ before a (.inf true) = false := by
  obtain ⟨s, m, e, rfl, -⟩ | rfl := h
  · exact ⟨rfl, rfl, by simp [before, FV.lt, FV.isZero]⟩
  · exact ⟨rfl, rfl, rfl⟩

theorem extremes : Extremes := by
  intro F hmem z m n hm hn a b lo hi nv is below above
  have hF := ieee_of_mem hmem
  have hself (v : FV) (k : Nat) : is v k (operand F v k, nv) := ⟨rfl, operand_spec F v k⟩
  have hbelow (ha : a.isNan = false) (hb : b.isNan = false) (h : before a b = true) : below := by
    refine ⟨?_, ?_⟩
    · rw [show lo = _ from fMinMax_of_not_nan ha hb false m n, h]; exact hself a m
    · rw [show hi = _ from fMinMax_of_not_nan ha hb true m n, h]; exact hself b n
  have habove (ha : a.isNan = false) (hb : b.isNan = false) (h : before a b = false) : above := by
    refine ⟨?_, ?_⟩
    · rw [show lo = _ from fMinMax_of_not_nan ha hb false m n, h]; exact hself b n
    · rw [show hi = _ from fMinMax_of_not_nan ha hb true m n, h]; exact hself a m
  refine ⟨fun x y hx hy => ?_, fun y hy => ⟨fun ha => ?_, fun ha => ?_⟩, fun x hx => ⟨fun hb => ?_, fun hb => ?_⟩,
    fun ha hb => ⟨?_, ?_⟩, fun ha hb => ⟨?_, ?_⟩, fun ha hb => ⟨?_, ?_⟩⟩
  · obtain ⟨ha, rfl⟩ := denotes_iff.1 hx
    obtain ⟨hb, rfl⟩ := denotes_iff.1 hy
    have na := (not_special_of_finite ha).2.1
    have nb := (not_special_of_finite hb).2.1
    have hlt := lt_iff_real ha hb
    refine ⟨fun h => hbelow na nb (by rw [before, hlt.2 h, Bool.true_or]), fun h => habove na nb ?_, fun h => ?_⟩
    · have h1 : a.lt b = false := by rw [Bool.eq_false_iff, Ne, hlt]; exact not_lt.2 h.le
      have h2 : (a.isZero && b.isZero) = false := by
        rw [Bool.eq_false_iff, Ne, Bool.and_eq_true, isZero_iff_real ha, isZero_iff_real hb]
        exact fun c => h.ne (c.2.trans c.1.symm)
      rw [before, h1, h2]
      rfl
    · have h1 : a.lt b = false := by rw [Bool.eq_false_iff, Ne, hlt]; exact not_lt.2 h.ge
      by_cases hs : a.neg? = b.neg?
      · have hop := operand_eq hF hm hn ha hb h hs
        have h2 : before a b = false := by rw [before, h1, hs]; cases b.neg? <;> simp
        have hab := habove na nb h2
        refine ⟨fun _ => ⟨?_, ?_⟩, fun _ => hab⟩
        · rw [show lo = _ from fMinMax_of_not_nan na nb false m n, h2]
          have := hself a m
          rwa [show operand F a m = operand F b n from hop] at this
        · rw [show hi = _ from fMinMax_of_not_nan na nb true m n, h2]
          have := hself b n
          rwa [show operand F b n = operand F a m from hop.symm] at this
      · have hz : real a = 0 := by
          by_contra c
          have c' : real b ≠ 0 := h ▸ c
          rw [neg?_eq_decide c, neg?_eq_decide c', h] at hs
          exact hs rfl
        have za := (isZero_iff_real ha).2 hz
        have zb := (isZero_iff_real hb).2 (h ▸ hz)
        have h2 : before a b = (a.neg? && !b.neg?) := by rw [before, h1, za, zb]; rfl
        refine ⟨fun c => hbelow na nb ?_, fun c => habove na nb ?_⟩ <;> rw [h2] <;> cases ha' : a.neg? <;> cases hb' : b.neg? <;> simp_all
  · obtain ⟨nb, h, -⟩ := before_inf_left hy
    exact hbelow (by rw [ha]; rfl) nb (by rw [ha]; exact h)
  · obtain ⟨nb, -, h⟩ := before_inf_left hy
    exact habove (by rw [ha]; rfl) nb (by rw [ha]; exact h)
  · obtain ⟨na, h, -⟩ := before_inf_right hx
    exact hbelow na (by rw [hb]; rfl) (by rw [hb]; exact h)
  · obtain ⟨na, -, h⟩ := before_inf_right hx
    exact habove na (by rw [hb]; rfl) (by rw [hb]; exact h)
  · rw [show lo = _ from fMinMax_of_nan_left ha hb false m n]; exact hself b n
  · rw [show hi = _ from fMinMax_of_nan_left ha hb true m n]; exact hself b n
  · rw [show lo = _ from fMinMax_of_nan_right ha hb false m n]; exact hself a m
  · rw [show hi = _ from fMinMax_of_nan_right ha hb true m n]; exact hself a m
  · exact fMinMax_of_nan_both ha hb false m n
  · exact fMinMax_of_nan_both ha hb true m n

/-! ## `v.fscale`, `v.fclass` and `v.fexp` (R150) -/

/-- Far above the greatest magnitude every significand overflows. -/
theorem roundNZ_of_huge {F : Fmt} (hF : F.max < 2 ^ (F.e + F.m)) (mode : Nat) (ftz s : Bool) {m : Nat} {e : Int}
    (h : minExpOf F + (2 ^ F.e : Nat) ≤ e + Nat.log2 m - F.m) : F.roundNZ mode ftz s m e false = (F.sign s + F.overflow mode s, flOF ||| flNX) := by
  have hk : max (e + (Nat.log2 m : Int) - F.m) (1 - F.bias - F.m) = e + Nat.log2 m - F.m := by
    unfold minExpOf at h
    have : (0 : Int) ≤ (2 ^ F.e : Nat) := Int.natCast_nonneg _
    omega
  have hj : 2 ^ F.e ≤ (e + (Nat.log2 m : Int) - F.m + F.m + F.bias - 1).toNat := by
    unfold minExpOf at h
    omega
  have hmag : ∀ q, F.max < (e + (Nat.log2 m : Int) - F.m + F.m + F.bias - 1).toNat * 2 ^ F.m + q := fun q => by
    have h1 := Nat.mul_le_mul_right (2 ^ F.m) hj
    rw [pow_add] at hF
    omega
  simp only [Fmt.roundNZ, hk, if_pos (hmag _)]

/-- Far below the least magnitude every significand stands for less than half of it. -/
theorem roundNZ_of_tiny {F : Fmt} (mode : Nat) (ftz s : Bool) {m : Nat} {e : Int} (hm : m ≠ 0) (h : e + Nat.log2 m + 1 < minExpOf F) :
    F.roundNZ mode ftz s m e false = written F mode ftz s (rounded mode s 0 false .lt) false true := by
  obtain ⟨j, hj⟩ : ∃ j, (minExpOf F - e).toNat = j + 1 := ⟨(minExpOf F - e).toNat - 1, by omega⟩
  have hlt : m < 2 ^ j := lt_of_lt_of_le (Nat.lt_log2_self (n := m)) (Nat.pow_le_pow_right two_pos (by omega))
  have hlt' : m < 2 ^ (j + 1) := by rw [pow_succ]; omega
  have hm' : (m == 0) = false := beq_eq_false_iff_ne.2 hm
  have hround : roundAt mode s m e (minExpOf F) false = (rounded mode s 0 false .lt, false) := by
    simp [roundAt, show e < minExpOf F by omega, hj, roundShift, rounded, Nat.div_eq_of_lt hlt', Nat.mod_eq_of_lt hlt', hm', hlt]
  have hk : max (e + (Nat.log2 m : Int) - F.m) (minExpOf F) = minExpOf F := by omega
  have hmag : (minExpOf F + F.m + F.bias - 1).toNat = 0 := by unfold minExpOf; omega
  have hlow : e + (Nat.log2 m : Int) - F.m < minExpOf F := by omega
  have hnext : (e + (Nat.log2 m : Int) - F.m + 1 == minExpOf F) = false := beq_eq_false_iff_ne.2 (by omega)
  simp only [minExpOf] at hround hk hmag hlow hnext
  simp only [Fmt.roundNZ, hk, hround, hmag, hlow, hnext, written, decide_true, zero_mul, zero_add, Bool.false_and, Bool.not_false, Bool.and_true]

/-- A scale beyond any format's range acts as the one at its end. -/
theorem fScale_fin {F : Fmt} (hF : Ieee F) (hR : 2 ^ F.e + F.m + 1 ≤ 5000) (mode : Nat) (z s : Bool) {m : Nat} {e : Int} (hm : m < 2 ^ (F.m + 1))
    (hmin : minExpOf F ≤ e) (hmax : e ≤ (2 ^ F.e : Nat) - F.bias - F.m) (n : Int) : fScale F mode z (.fin s m e) n = F.round mode z s m (e + n) := by
  simp only [fScale, Fmt.round]
  split_ifs with hm0
  · rfl
  have hlog : Nat.log2 m < F.m + 1 := (Nat.log2_lt hm0).2 hm
  obtain h | h | h : (-5000 ≤ n ∧ n ≤ 5000) ∨ 5000 < n ∨ n < -5000 := by omega
  · rw [show max (-5000) (min 5000 n) = n by omega]
  · rw [show max (-5000) (min 5000 n) = 5000 by omega, roundNZ_of_huge hF.max_lt mode z s (by unfold minExpOf at *; omega),
      roundNZ_of_huge hF.max_lt mode z s (by unfold minExpOf at *; omega)]
  · rw [show max (-5000) (min 5000 n) = -5000 by omega, roundNZ_of_tiny mode z s hm0 (by unfold minExpOf at *; omega),
      roundNZ_of_tiny mode z s hm0 (by unfold minExpOf at *; omega)]

theorem real_scale (s : Bool) (m : Nat) (e n : Int) : real (.fin s m (e + n)) = real (.fin s m e) * (2 : ℝ) ^ n := by
  rw [real, real, two_zpow_add]
  ring

/-- What `v.fscale` gives for a finite source. -/
theorem fScale_roundsSigned {F : Fmt} (hF : Ieee F) (hR : 2 ^ F.e + F.m + 1 ≤ 5000) (mode : Nat) (z s : Bool) {m : Nat} {e : Int} (hm : m < 2 ^ (F.m + 1))
    (hmin : minExpOf F ≤ e) (hmax : e ≤ (2 ^ F.e : Nat) - F.bias - F.m) (n : Int) :
    RoundsSigned F mode z s (real (.fin s m e) * (2 : ℝ) ^ n) (fScale F mode z (.fin s m e) n) := by
  rw [← real_scale, fScale_fin hF hR mode z s hm hmin hmax]
  exact round_roundsSigned hF.max_lt mode z s m (e + n)

/-- A source is subnormal exactly where its significand lacks the leading bit. -/
theorem sigOf_lt_iff_magnitude (F : Fmt) (c : Nat) : sigOf F c < 2 ^ F.m ↔ magnitude F c < (2 : ℝ) ^ (1 - F.bias) := by
  rw [sigOf_lt_iff, ← magnitude_minNormal, (magnitude_strictMono F).lt_iff_lt, Nat.div_eq_zero_iff_lt (by positivity)]

/-- The class of a nonzero finite value. -/
theorem fClass_fin {F : Fmt} {s : Bool} {m : Nat} {e : Int} (hm : m ≠ 0) :
    fClass F (.fin s m e) = if m < 2 ^ F.m then (if s then 2 ^ 2 else 2 ^ 5) else (if s then 2 ^ 1 else 2 ^ 6) := by
  simp [fClass, hm]

theorem fExp_fin {s : Bool} {m : Nat} {e : Int} (hm : m ≠ 0) (b : Nat) : fExp b (.fin s m e) = Int.log 2 |real (.fin s m e)| := by
  rw [abs_real, log_of_standsAt hm (standsAt_self (two_zpow_pos e)), fExp, if_neg hm]

theorem inspections : Inspections := by
  intro F hmem z c _ a b
  have hF := ieee_of_mem hmem
  have hR : 2 ^ F.e + F.m + 1 ≤ 5000 := (by decide : ∀ F ∈ [fmtF64, fmtF32, fmtF16, fmtBF16], 2 ^ F.e + F.m + 1 ≤ 5000) F hmem
  obtain ⟨m, e, ha, hlt, hmin, hmax, -, hkept⟩ | ⟨-, ha⟩ | ⟨-, sg, ha⟩ := flushIn_cases hF z c
  · have ha : a = .fin (negOf F c) m e := ha
    rw [ha]
    refine ⟨fun x hx => ?_, nofun, nofun⟩
    obtain ⟨-, rfl⟩ := denotes_iff.1 hx
    refine ⟨fun mode n _ => ?_, fun h0 => ?_, fun h0 => ?_⟩
    · obtain ⟨hnz, hz⟩ := fScale_roundsSigned hF hR mode z (negOf F c) hlt hmin hmax n
      exact ⟨fun h => hnz (mul_ne_zero h (two_zpow_pos n).ne'), fun h => hz (by rw [h, zero_mul])⟩
    · obtain rfl := real_fin_eq_zero.1 h0
      exact ⟨rfl, rfl⟩
    · have hm : m ≠ 0 := fun h => h0 (real_fin_eq_zero.2 h)
      have habs : |real (.fin (negOf F c) m e)| = magnitude F (lowBits F c) := by
        rw [real_flushIn (hkept hm), abs_sgn_mul, abs_of_nonneg (magnitude_nonneg F _)]
      have hclass : m < 2 ^ F.m ↔ |real (.fin (negOf F c) m e)| < (2 : ℝ) ^ (1 - F.bias) := by rw [habs, (hkept hm).1, sigOf_lt_iff_magnitude]
      rw [fClass_fin hm]
      exact ⟨fun h => if_pos (hclass.2 h), fun h => if_neg fun d => absurd (hclass.1 d) (not_lt.2 h), fExp_fin hm b⟩
  · have ha : a = .inf (negOf F c) := ha
    rw [ha]
    refine ⟨fun x hx => absurd hx not_denotes_inf, fun s hs => ?_, nofun⟩
    obtain rfl : negOf F c = s := by simpa using hs
    exact ⟨rfl, rfl, fun _ _ => rfl⟩
  · have ha : a = .nan sg := ha
    rw [ha]
    refine ⟨fun x hx => absurd hx not_denotes_nan, nofun, fun sg' hs => ?_⟩
    obtain rfl : sg = sg' := by simpa using hs
    exact ⟨rfl, rfl, fun _ _ => rfl⟩

end Sys2Proof.Proofs.FloatInspections

/-! # Packed dot products (R152) -/

namespace Sys2Proof.Proofs.DotProducts

open Sys2Proof Sys2Proof.Machine Sys2Proof.Claims Sys2Proof.Proofs.FloatValues Sys2Proof.Proofs.FloatArithmetic

theorem ieee_fmtF32 : Ieee fmtF32 := ieee_of_mem (by simp)

/-- `v.dot2` writes the exact sum of its two exact products and c. -/
theorem dot2_of_products {F : Fmt} {mode a0 a1 b0 b1 c : Nat} {p q : FV} {n0 n1 : Bool} (h0 : mulFV (F.value a0) (F.value b0) = (p, n0))
    (h1 : mulFV (F.value a1) (F.value b1) = (q, n1)) : dot2 F mode [a0, a1] [b0, b1] c
      = finishFV fmtF32 mode false ((sumFV mode [p, q, fmtF32.value c]).1, (sumFV mode [p, q, fmtF32.value c]).2 || (n0 || n1)) := by
  simp [dot2, h0, h1]

/-- The zero of a sum of three zeros (R57). -/
theorem zeroSign_three {mode : Nat} {a b c : FV} (ha : a.isZero = true) (hb : b.isZero = true) (hc : c.isZero = true) :
    zeroSign mode [a, b, c] = if a.neg? = b.neg? ∧ b.neg? = c.neg? then a.neg? else mode == 3 := by
  split_ifs with h
  · exact zeroSign_of_all (by simp) (by simp [ha, hb, hc, h.1, h.2])
  · refine zeroSign_of_not_all fun s hall => h ?_
    simp only [List.mem_cons, List.not_mem_nil, or_false, forall_eq_or_imp, forall_eq] at hall
    obtain ⟨⟨-, h0⟩, ⟨-, h1⟩, -, h2⟩ := hall
    exact ⟨h0.trans h1.symm, h1.trans h2.symm⟩

/-- A product without infinities is a NaN where a factor is, and invalid where a factor signals. -/
theorem mulFV_of_not_inf {a b : FV} (ha : a.isInf = false) (hb : b.isInf = false) :
    ∃ v, mulFV a b = (v, a.snan || b.snan) ∧ v.isInf = false ∧ v.isNan = (a.isNan || b.isNan) ∧ v.snan = false := by
  by_cases h : a.isNan = true ∨ b.isNan = true
  · exact ⟨.nan false, mulFV_of_nan h, rfl, by simpa [FV.isNan] using h, rfl⟩
  · have hfin : ∀ v : FV, v.isInf = false → ¬v.isNan = true → isFin v = true := by
      rintro (_ | _ | _) h1 h2 <;> simp_all [FV.isInf, FV.isNan, isFin]
    have hfa := hfin a ha fun c => h (.inl c)
    have hfb := hfin b hb fun c => h (.inr c)
    obtain ⟨v, hv, hf, -⟩ := mulFV_of_finite hfa hfb
    obtain ⟨-, na, sa, -⟩ := not_special_of_finite hfa
    obtain ⟨-, nb, sb, -⟩ := not_special_of_finite hfb
    obtain ⟨-, nv, sv, iv⟩ := not_special_of_finite hf
    exact ⟨v, by rw [hv, sa, sb]; rfl, iv, by rw [nv, na, nb]; rfl, sv⟩

/-- 0 × ∞ is invalid (R61). -/
theorem mulFV_invalid {a b : FV} (h : (a.isZero && b.isInf || a.isInf && b.isZero) = true) : mulFV a b = (.nan false, true) := by
  simp only [Bool.or_eq_true, Bool.and_eq_true] at h
  obtain ⟨hz, hi⟩ | ⟨hi, hz⟩ := h
  · cases b with
    | inf s => exact (mulFV_inf_zero hz).2
    | _ => simp [FV.isInf] at hi
  · cases a with
    | inf s => exact (mulFV_inf_zero hz).1
    | _ => simp [FV.isInf] at hi

/-- A sum with a NaN in it is a NaN. -/
theorem sumFV_fst_of_nan {mode : Nat} {l : List FV} (h : l.any FV.isNan = true) : (sumFV mode l).1 = .nan false := by
  simp only [sumFV, h, Bool.true_or, if_true]

theorem dotSums : DotSums := by
  intro F _ mode _ a0 a1 b0 b1 c y v anyNan
  have hF := ieee_fmtF32
  refine ⟨fun p q r t w hp hq hr ht hw => ?_, fun hn hi hc => ?_, fun hn hz => ?_, fun p q r t s hp hq hr ht hc => ?_⟩
  · obtain ⟨fa0, rfl⟩ := denotes_iff.1 hp
    obtain ⟨fb0, rfl⟩ := denotes_iff.1 hq
    obtain ⟨fa1, rfl⟩ := denotes_iff.1 hr
    obtain ⟨fb1, rfl⟩ := denotes_iff.1 ht
    obtain ⟨fc, rfl⟩ := denotes_iff.1 hw
    obtain ⟨p0, h0, f0, r0, s0⟩ := mulFV_of_finite fa0 fb0
    obtain ⟨p1, h1, f1, r1, s1⟩ := mulFV_of_finite fa1 fb1
    have hy : y = finishFV fmtF32 mode false (sumFV mode [p0, p1, fmtF32.value c]) := by
      rw [show y = _ from dot2_of_products h0 h1, Bool.or_false, Bool.or_false]
    obtain ⟨hnz, hz⟩ := finishFV_sum hF.max_lt mode false (l := [p0, p1, fmtF32.value c]) (by simp [f0, f1, fc])
    simp only [List.map_cons, List.map_nil, List.sum_cons, List.sum_nil, add_zero, ← add_assoc, r0, r1] at hnz hz
    rw [hy]
    refine ⟨hnz, fun hx h => ?_, fun e0 e1 e2 => ?_⟩
    · rw [hz hx, zeroSign_of_not_all fun s hall => h ?_]
      simp only [List.mem_cons, List.not_mem_nil, or_false, forall_eq_or_imp, forall_eq, isZero_iff_real f0, isZero_iff_real f1, isZero_iff_real fc, r0, r1] at hall
      exact ⟨hall.1.1, hall.2.1.1, hall.2.2.1⟩
    · rw [hz (by rw [e0, e1, e2]; norm_num),
        zeroSign_three ((isZero_iff_real f0).2 (r0.trans e0)) ((isZero_iff_real f1).2 (r1.trans e1)) ((isZero_iff_real fc).2 e2), s0, s1]
  · simp only [List.any_cons, List.any_nil, Bool.or_false, Bool.or_eq_false_iff] at hi
    obtain ⟨i0, i1, j0, j1⟩ := hi
    obtain ⟨p0, h0, k0, m0, s0⟩ := mulFV_of_not_inf i0 j0
    obtain ⟨p1, h1, k1, m1, s1⟩ := mulFV_of_not_inf i1 j1
    have hnan : [p0, p1, fmtF32.value c].any FV.isNan = true := by
      rw [← hn]
      simp only [List.any_cons, List.any_nil, m0, m1, anyNan, v]
      ac_rfl
    have hinf : FV.inf true ∉ [p0, p1, fmtF32.value c] := by
      intro h
      simp only [List.mem_cons, List.not_mem_nil, or_false] at h
      rcases h with h | h | h
      · rw [← h] at k0; exact nomatch k0
      · rw [← h] at k1; exact nomatch k1
      · rw [← h] at hc; exact nomatch hc
    rw [show y = _ from dot2_of_products h0 h1, sumFV_of_nan hnan hinf, finishFV_nan hF.nan]
    congr 1
    simp only [List.any_cons, List.any_nil, s0, s1, Bool.or_false, Bool.false_or, v]
    ac_rfl
  · have hp : mulFV (v a0) (v b0) = (.nan false, true) ∨ mulFV (v a1) (v b1) = (.nan false, true) := by
      rw [Bool.or_assoc, Bool.or_eq_true] at hz
      exact hz.imp mulFV_invalid mulFV_invalid
    obtain ⟨p0, n0, h0⟩ : ∃ p n, mulFV (v a0) (v b0) = (p, n) := ⟨_, _, rfl⟩
    obtain ⟨p1, n1, h1⟩ : ∃ p n, mulFV (v a1) (v b1) = (p, n) := ⟨_, _, rfl⟩
    have hnan : [p0, p1, fmtF32.value c].any FV.isNan = true ∧ (n0 || n1) = true := by
      rw [h0, h1, Prod.mk.injEq, Prod.mk.injEq] at hp
      obtain ⟨rfl, rfl⟩ | ⟨rfl, rfl⟩ := hp <;> simp [FV.isNan]
    rw [show y = _ from dot2_of_products h0 h1, sumFV_fst_of_nan hnan.1, hnan.2, Bool.or_true, finishFV_nan hF.nan]
  · obtain ⟨p0, h0, f0, -⟩ := mulFV_of_finite (denotes_iff.1 hp).1 (denotes_iff.1 hq).1
    obtain ⟨p1, h1, f1, -⟩ := mulFV_of_finite (denotes_iff.1 hr).1 (denotes_iff.1 ht).1
    obtain ⟨i0, m0, -⟩ := not_special_of_finite f0
    obtain ⟨i1, m1, -⟩ := not_special_of_finite f1
    have hi : (FV.inf s).isNan = false := rfl
    rw [show y = _ from dot2_of_products h0 h1, hc, sumFV_of_inf (s := s) (by simp [m0, m1, hi]) (by simp)
      (by simp [Ne.symm (i0 _), Ne.symm (i1 _)])]
    exact finishFV_inf hF.inf mode false s

end Sys2Proof.Proofs.DotProducts

/-! # The exact cases of the approximate functions (R147, R149) -/

namespace Sys2Proof.Proofs.ApproximateFunctions

open Sys2Proof Sys2Proof.Machine Sys2Proof.Claims Sys2Proof.Proofs.Rounding Sys2Proof.Proofs.FloatValues Sys2Proof.Proofs.FloatEncodings
  Sys2Proof.Proofs.FloatArithmetic Sys2Proof.Proofs.FloatConversions

/-- A format of the approximate functions: it holds 1, and the exponents of its values as integers. -/
structure Wide (F : Fmt) : Prop where
  ieee : Ieee F
  one : (F.round 0 false false 1 0).1 = F.bias.toNat * 2 ^ F.m
  bias_le : F.bias + F.m + 2 ≤ (2 ^ F.m : Nat)

theorem wide_fmtF32 : Wide fmtF32 := ⟨ieee_of_mem (by simp), by decide, by decide⟩
theorem wide_fmtF64 : Wide fmtF64 := ⟨ieee_of_mem (by simp), by decide, by decide⟩

/-! ## Powers of two and integers -/

/-- A magnitude is a power of two where its significand is one. -/
theorem abs_real_eq_two_zpow {s : Bool} {m : Nat} {e k : Int} (hm : m ≠ 0) : |real (.fin s m e)| = (2 : ℝ) ^ k ↔ m = 2 ^ Nat.log2 m ∧ k = e + Nat.log2 m := by
  have hlog := log_of_standsAt hm (standsAt_self (m := m) (two_zpow_pos e))
  have hp := two_zpow_pos e
  have hpow : (2 : ℝ) ^ (e + Nat.log2 m) = (2 ^ Nat.log2 m : Nat) * (2 : ℝ) ^ e := by rw [two_zpow_add, zpow_natCast, mul_comm]; push_cast; rfl
  rw [abs_real]
  refine ⟨fun h => ?_, fun ⟨h, hk⟩ => ?_⟩
  · have hk : k = e + Nat.log2 m := by
      rw [← hlog, h]
      exact (Int.log_zpow (R := ℝ) one_lt_two k).symm
    rw [hk, hpow] at h
    exact ⟨by exact_mod_cast mul_right_cancel₀ hp.ne' h, hk⟩
  · rw [hk, hpow, ← h]

theorem real_pos_iff {s : Bool} {m : Nat} {e : Int} (hm : m ≠ 0) : 0 < real (.fin s m e) ↔ s = false := by
  have h : real (.fin s m e) ≠ 0 := fun c => hm (real_fin_eq_zero.1 c)
  obtain ⟨ht, hf⟩ := signOf_real h
  cases s
  · exact iff_of_true (hf rfl) rfl
  · exact iff_of_false (not_lt.2 (ht rfl).le) nofun

/-- A finite value is an integer where the bits below its units are zero. -/
theorem real_eq_int {s : Bool} {m : Nat} {e k : Int} :
    real (.fin s m e) = k ↔ FV.at (min e 0) (.fin s m e) % 2 ^ (-(min e 0)).toNat = 0 ∧ FV.at (min e 0) (.fin s m e) / 2 ^ (-(min e 0)).toNat = k := by
  have hat := at_mul_zpow (s := s) (m := m) (min_le_left e 0)
  have hd : (2 : ℝ) ^ (-(min e 0)).toNat * (2 : ℝ) ^ min e 0 = 1 := by
    rw [← zero_sub, ← two_zpow_of_le (min_le_right e 0), zpow_zero]
  generalize FV.at (min e 0) (.fin s m e) = X at *
  have hp : (0 : Int) < 2 ^ (-(min e 0)).toNat := by positivity
  have h1 : real (.fin s m e) = k ↔ X = k * 2 ^ (-(min e 0)).toNat := by
    have h2 : (k : ℝ) = (k * 2 ^ (-(min e 0)).toNat : Int) * (2 : ℝ) ^ min e 0 := by
      push_cast
      rw [mul_assoc, hd, mul_one]
    rw [← hat, h2, mul_left_inj' (two_zpow_pos _).ne', Int.cast_inj]
  rw [h1]
  constructor
  · rintro rfl
    exact ⟨Int.mul_emod_left _ _, Int.mul_ediv_cancel _ hp.ne'⟩
  · rintro ⟨hr, rfl⟩
    exact (Int.ediv_mul_cancel (Int.dvd_of_emod_eq_zero hr)).symm

/-- A power of two of the format is written as it is. -/
theorem round_two_zpow {F : Fmt} (hF : Ieee F) (s : Bool) {k : Int} (hlo : minExpOf F ≤ k) (hhi : k ≤ F.bias) :
    Encodes F (F.round 0 false s 1 k).1 s (sgn s * (2 : ℝ) ^ k) ∧ (F.round 0 false s 1 k).2 = 0 := by
  have h := round_exact hF 0 false s (n := 1) (e := k) (Nat.one_lt_two_pow (by omega)) hlo
    (by rw [Nat.cast_one, one_mul]; exact hF.two_zpow_le_max hhi) fun _ => .inl rfl
  rwa [real, Nat.cast_one, one_mul] at h

/-! ## `exactCase` of a nonzero finite value -/

section
variable {F : Fmt} {s : Bool} {m : Nat} {e : Int} (hm : m ≠ 0)
include hm

theorem exactCase_frcp : exactCase F 0 (.fin s m e) =
    if m = 2 ^ Nat.log2 m ∧ 1 - F.bias ≤ -(e + Nat.log2 m) ∧ -(e + Nat.log2 m) ≤ F.bias then some (F.round 0 false s 1 (-(e + Nat.log2 m))) else none := by
  simp [exactCase, hm]

theorem exactCase_frsq : exactCase F 1 (.fin s m e) = if s then some (F.nanRes true)
    else if m = 2 ^ Nat.log2 m ∧ (e + Nat.log2 m) % 2 = 0 then some (F.round 0 false false 1 (-((e + Nat.log2 m) / 2))) else none := by
  simp [exactCase, hm]

theorem exactCase_exp2 : exactCase F 2 (.fin s m e) =
    if FV.at (min e 0) (.fin s m e) % 2 ^ (-(min e 0)).toNat = 0 ∧ 1 - F.bias - F.m ≤ FV.at (min e 0) (.fin s m e) / 2 ^ (-(min e 0)).toNat
      ∧ FV.at (min e 0) (.fin s m e) / 2 ^ (-(min e 0)).toNat ≤ F.bias
    then some ((F.round 0 false false 1 (FV.at (min e 0) (.fin s m e) / 2 ^ (-(min e 0)).toNat)).1, 0) else none := by
  simp [exactCase, hm]

theorem exactCase_log2 : exactCase F 3 (.fin s m e) = if s then some (F.nanRes true)
    else if m = 2 ^ Nat.log2 m then some ((F.round 0 false (decide (e + Nat.log2 m < 0)) (e + Nat.log2 m).natAbs 0).1, 0) else none := by
  simp [exactCase, hm]

/-- A nonzero input with an exact result is one that R149 lists. -/
theorem listed_of_exactCase {fn : Nat} {y : Nat × Fl} (hs : fn = 1 ∨ fn = 3 → s = false) (h : exactCase F fn (.fin s m e) = some y) :
    Listed F fn (real (.fin s m e)) := by
  have hpos (c : s = false) (k : Int) (hk : m = 2 ^ Nat.log2 m ∧ k = e + Nat.log2 m) : real (.fin s m e) = (2 : ℝ) ^ k := by
    rw [← (abs_real_eq_two_zpow hm).2 hk, abs_of_pos ((real_pos_iff hm).2 c)]
  match fn with
  | 0 =>
    rw [exactCase_frcp hm] at h
    split_ifs at h with c
    exact .inl ⟨rfl, _, (abs_real_eq_two_zpow hm).2 ⟨c.1, rfl⟩, c.2⟩
  | 1 =>
    have hs := hs (.inl rfl)
    rw [exactCase_frsq hm, hs, if_neg nofun] at h
    split_ifs at h with c
    exact .inr (.inl ⟨rfl, _, hpos hs _ ⟨c.1, rfl⟩, c.2⟩)
  | 2 =>
    rw [exactCase_exp2 hm] at h
    split_ifs at h with c
    exact .inr (.inr (.inl ⟨rfl, _, real_eq_int.2 ⟨c.1, rfl⟩, c.2⟩))
  | 3 =>
    have hs := hs (.inr rfl)
    rw [exactCase_log2 hm, hs, if_neg nofun] at h
    split_ifs at h with c
    exact .inr (.inr (.inr ⟨rfl, _, hpos hs _ ⟨c, rfl⟩⟩))
  | _ + 4 => simp [exactCase, hm] at h

end

/-- Every special value has an exact result. -/
theorem exactCase_ne_none {F : Fmt} {fn : Nat} {a : FV} (ha : isFin a = false) : exactCase F fn a ≠ none := by
  match a, ha, fn with
  | .nan _, _, _ => exact nofun
  | .inf _, _, 0 | .inf _, _, 1 | .inf _, _, 2 | .inf _, _, 3 | .inf _, _, 4 | .inf _, _, 5 | .inf _, _, _ + 6 => exact nofun

/-! ## `fApprox` by `exactCase` -/

theorem fApprox_of_exactCase {F : Fmt} {fn x : Nat} {a : FV} {y : Nat × Fl} (h : exactCase F fn a = some y) : fApprox F fn false a x = y := by
  simp [fApprox, h]

theorem fApprox_of_none {F : Fmt} {fn x : Nat} {s : Bool} {m : Nat} {e : Int} (h : exactCase F fn (.fin s m e) = none) :
    fApprox F fn false (.fin s m e) x = (Machine.delivered F fn (inUnitRange (.fin s m e)) (refValue fn s m e) x,
      approxFlags F (Machine.delivered F fn (inUnitRange (.fin s m e)) (refValue fn s m e) x)) := by
  simp [fApprox, h]

/-- Under FTZ a subnormal result is a zero of its sign, with UF and NX (R60). -/
theorem fApprox_flush (F : Fmt) (fn x : Nat) (a : FV) : fApprox F fn true a x =
    if lowBits F (fApprox F fn false a x).1 ≠ 0 ∧ lowBits F (fApprox F fn false a x).1 < 2 ^ F.m
    then ((fApprox F fn false a x).1 - lowBits F (fApprox F fn false a x).1, (fApprox F fn false a x).2 ||| flUF ||| flNX) else fApprox F fn false a x := by
  cases h : exactCase F fn a with
  | some y => simp [fApprox, h, lowBits]
  | none =>
    match a with
    | .fin s m e => simp [fApprox, h, lowBits]
    | .nan _ | .inf _ => exact absurd h (exactCase_ne_none rfl)

/-! ## What is delivered -/

theorem lowBits_sign_add {F : Fmt} (s : Bool) {c : Nat} (hc : c < 2 ^ (F.e + F.m)) : lowBits F (F.sign s + c) = c := by
  cases s <;> simp [lowBits, Fmt.sign, Nat.mod_eq_of_lt hc]

/-- No rounding writes a NaN. -/
theorem lowBits_round_le {F : Fmt} (hF : Ieee F) (mode : Nat) (ftz s : Bool) (m : Nat) (e : Int) : lowBits F (F.round mode ftz s m e).1 ≤ F.infBits := by
  have hmax := hF.max_lt_infBits
  have hinf := infBits_lt F
  have hzero : lowBits F (F.sign s) = 0 := lowBits_sign_add (c := 0) s (by positivity)
  by_cases hm : m = 0
  · simp [Fmt.round, hm, hzero]
  · obtain ⟨mag, q, exact, low, Q₀, x₀, low₀, tiny, hw, -⟩ := roundNZ_written F mode ftz s hm (standsAt_self (two_zpow_pos e)) nofun
    rw [Fmt.round, if_neg hm, hw, written]
    split_ifs with h1 h2
    · have : F.overflow mode s ≤ F.infBits := by unfold Fmt.overflow; split_ifs <;> omega
      rwa [lowBits_sign_add s (this.trans_lt hinf)]
    · rw [hzero]; exact Nat.zero_le _
    · rw [lowBits_sign_add s (by omega)]
      omega

/-- No approximation is a NaN. -/
theorem lowBits_delivered_le {F : Fmt} (hF : Ieee F) (fn : Nat) (u : Bool) (r : Int × Int) (x : Nat) : lowBits F (Machine.delivered F fn u r x) ≤ F.infBits := by
  unfold Machine.delivered
  lift_lets
  intro x' v good
  split_ifs with hgood
  · obtain ⟨h, -⟩ | ⟨h, -⟩ | ⟨-, sg, h⟩ := value_cases hF x'
    · exact h.le
    · exact h.le
    · have hv : v = .nan sg := h
      simp [good, hv] at hgood
  · exact lowBits_round_le hF 0 false _ _ _

/-- The flags of an approximation (R149). -/
theorem approxFlags_eq {F : Fmt} (hF : Ieee F) (y : Nat) :
    approxFlags F y = flNX ||| flIf (lowBits F y == F.infBits) flOF ||| flIf (decide (lowBits F y < 2 ^ F.m)) flUF := by
  have hinf : 2 ^ F.m ≤ F.infBits := Nat.le_mul_of_pos_left _ (by
    have := Nat.one_lt_two_pow (n := F.e) (by have := hF.two_le_e; omega)
    omega)
  have hdef : approxFlags F y = if lowBits F y = F.infBits then flOF ||| flNX else flNX ||| flIf (decide (lowBits F y < 2 ^ F.m)) flUF := rfl
  rw [hdef]
  split_ifs with h
  · rw [h, decide_eq_false (not_lt.2 hinf), beq_self_eq_true]
    rfl
  · rw [beq_eq_false_iff_ne.2 h]
    rfl

/-! ## ExactCases -/

/-- The exponent of a value lies inside the format, or at most two above its greatest. -/
def ExponentWithin (F : Fmt) (a : FV) : Prop := ∀ s m e, a = .fin s m e → m ≠ 0 → minExpOf F ≤ e + Nat.log2 m ∧ e + Nat.log2 m ≤ F.bias + 2

theorem exactCases {F : Fmt} (hF : Wide F) {fn : Nat} (hfn : fn ≤ 6) {a : FV} (ha : ExponentWithin F a) (x : Nat) : ExactCases F fn a (fApprox F fn false a x) := by
  have hb := hF.bias_le
  have hb1 := hF.ieee.one_le_bias
  refine ⟨?_, ?_, ?_⟩
  · rintro sg rfl
    exact fApprox_of_exactCase rfl
  · rintro s rfl
    refine fApprox_of_exactCase ?_
    match fn, hfn with
    | 0, _ | 4, _ | 5, _ => rfl
    | 1, _ | 2, _ | 3, _ => cases s <;> simp [exactCase, zeroOf, infOf, nanOf, Fmt.nanRes, Fmt.infBits, flIf]
    | 6, _ => simp [exactCase, hF.one, isOne, Fmt.sign]
  · intro v hv
    obtain ⟨hfin, rfl⟩ := denotes_iff.1 hv
    match a, hfin with
    | .fin s m e, _ =>
    have hnz {r : ℝ} (hr : 0 < r) (h : |real (.fin s m e)| = r) : m ≠ 0 := by
      rintro rfl
      rw [real_fin_eq_zero.2 rfl, abs_zero] at h
      exact hr.ne h
    refine ⟨fun h0 => ?_, fun hneg hfn => ?_, fun k hk => ?_, fun k hfn hk h0 hlo hhi => ?_⟩
    · obtain rfl := real_fin_eq_zero.1 h0
      refine fApprox_of_exactCase ?_
      match fn, hfn with
      | 0, _ | 1, _ | 3, _ | 4, _ | 6, _ => rfl
      | 2, _ | 5, _ => simp [exactCase, hF.one, isOne]
    · have hm : m ≠ 0 := fun c => hneg.ne (real_fin_eq_zero.2 c)
      have hs : s = true := by
        rw [← Bool.not_eq_false, ← real_pos_iff (s := s) (e := e) hm]
        exact not_lt.2 hneg.le
      obtain rfl | rfl := hfn
      · exact fApprox_of_exactCase (by rw [exactCase_frsq hm, if_pos hs]; rfl)
      · exact fApprox_of_exactCase (by rw [exactCase_log2 hm, if_pos hs]; rfl)
    · have hm := hnz (two_zpow_pos k) hk
      obtain ⟨hpow, hk'⟩ := (abs_real_eq_two_zpow hm).1 hk
      obtain ⟨hmin, hmax⟩ := ha s m e rfl hm
      rw [← hk'] at hmin hmax
      refine ⟨fun hfn hlo hhi => ?_, fun hfn hpos hev => ?_, fun hfn hpos => ?_⟩
      · have hinv : 1 / real (.fin s m e) = sgn s * (2 : ℝ) ^ (-k) := by
          rw [abs_real] at hk
          rw [real, hk, zpow_neg]
          cases s <;> simp
        rw [hfn, fApprox_of_exactCase (by rw [exactCase_frcp hm, ← hk', if_pos ⟨hpow, hlo, hhi⟩]), hinv]
        exact round_two_zpow hF.ieee s (by unfold minExpOf; omega) hhi
      · have hs := (real_pos_iff hm).1 hpos
        rw [hfn, fApprox_of_exactCase (by rw [exactCase_frsq hm, ← hk', hs, if_neg nofun, if_pos ⟨hpow, hev⟩])]
        have h := round_two_zpow hF.ieee false (k := -(k / 2)) (by unfold minExpOf at *; have := hF.ieee.two_le_m; omega)
          (by unfold minExpOf at hmin; have := hF.ieee.m_le_bias; omega)
        rwa [sgn_false, one_mul] at h
      · have hs := (real_pos_iff hm).1 hpos
        rw [hfn, fApprox_of_exactCase (by rw [exactCase_log2 hm, ← hk', hs, if_neg nofun, if_pos hpow])]
        have h := round_integer hF.ieee 0 false (decide (k < 0)) (n := k.natAbs) (by unfold minExpOf at hmin; omega)
        have hk : signed (decide (k < 0)) k.natAbs = k := by
          unfold signed
          split_ifs with c <;> simp at c <;> omega
        rw [hk] at h
        exact ⟨h.1, rfl⟩
    · have hm : m ≠ 0 := fun c => h0 (real_fin_eq_zero.2 c)
      obtain ⟨hr, hq⟩ := real_eq_int.1 hk
      rw [hfn, fApprox_of_exactCase (by rw [exactCase_exp2 hm, hq, if_pos ⟨hr, hlo, hhi⟩])]
      have h := round_two_zpow hF.ieee false (k := k) (by unfold minExpOf; omega) hhi
      rw [sgn_false, one_mul] at h
      exact ⟨h.1, rfl⟩

/-! ## ApproximationsExact -/

theorem exponentWithin_value {F : Fmt} (hF : Ieee F) (c : Nat) : ExponentWithin F (F.value c) := by
  intro s m e h hm
  obtain ⟨-, hv⟩ | ⟨-, hv⟩ | ⟨-, sg, hv⟩ := value_cases hF c
  · rw [hv] at h
    injection h with _ hm' he
    rw [← hm'] at hm ⊢
    have hlog := (Nat.log2_lt hm).2 (sigOf_lt F _)
    have hmin := minExpOf_le_expOf F (lowBits F c)
    have hmax := expOf_le (lowBits_lt F c)
    have hbias := hF.two_mul_bias
    push_cast at hmax
    constructor <;> omega
  · rw [hv] at h; exact nomatch h
  · rw [hv] at h; exact nomatch h

theorem ExponentWithin.mono {F G : Fmt} {a : FV} (h : ExponentWithin F a) (hmin : minExpOf G ≤ minExpOf F) (hbias : F.bias ≤ G.bias) : ExponentWithin G a := by
  intro s m e ha hm
  obtain ⟨h1, h2⟩ := h s m e ha hm
  exact ⟨by omega, by omega⟩

/-- An input that R149 does not list gives an approximation, with the flags of one. -/
theorem fApprox_of_not_listed {F : Fmt} (hF : Ieee F) {fn : Nat} {a : FV} {v : ℝ} (hv : Denotes a v) (h0 : v ≠ 0) (hpos : fn = 1 ∨ fn = 3 → 0 < v)
    (hl : ¬Listed F fn v) (x : Nat) : lowBits F (fApprox F fn false a x).1 ≤ F.infBits ∧ (fApprox F fn false a x).2
      = flNX ||| flIf (lowBits F (fApprox F fn false a x).1 == F.infBits) flOF ||| flIf (decide (lowBits F (fApprox F fn false a x).1 < 2 ^ F.m)) flUF := by
  obtain ⟨hfin, rfl⟩ := denotes_iff.1 hv
  match a, hfin with
  | .fin s m e, _ =>
    have hm : m ≠ 0 := fun c => h0 (real_fin_eq_zero.2 c)
    have hnone : exactCase F fn (.fin s m e) = none := by
      by_contra c
      obtain ⟨y, hy⟩ := Option.ne_none_iff_exists'.1 c
      exact hl (listed_of_exactCase hm (fun d => (real_pos_iff hm).1 (hpos d)) hy)
    rw [fApprox_of_none hnone]
    exact ⟨lowBits_delivered_le hF fn _ _ x, approxFlags_eq hF _⟩

/-- The functions of f32 and f64, at a free value of their own. -/
theorem approxElem_eq {F : Fmt} (hF : F.bits ≠ 16) (fn n : Nat) : ∃ x, ∀ z a, approxElem fn F z n a = fApprox F fn z a x :=
  ⟨_, fun _ _ => if_neg hF⟩

/-- An element of a packed type rounds an f32 result. -/
theorem approxElem_packed {F : Fmt} (hF : F.bits = 16) (fn n : Nat) (a : FV) :
    ∃ x, (approxElem fn F false n a).1 = (F.ofValue 0 false (fmtF32.value (fApprox fmtF32 fn false a x).1)).1 :=
  ⟨_, by rw [approxElem, if_pos hF]; rfl⟩

/-- A value written in a format: a finite one rounded, an infinity and a NaN as such. -/
theorem ofValue_spec {F : Fmt} (hF : Ieee F) (v : FV) :
    (∀ r, Denotes v r → (r ≠ 0 → RoundsTo F 0 false r (F.ofValue 0 false v)) ∧ (r = 0 → F.ofValue 0 false v = zeroOf F v.neg?))
      ∧ (∀ s, v = .inf s → F.ofValue 0 false v = infOf F s) ∧ (v.isNan = true → (F.ofValue 0 false v).1 = F.nanBits) := by
  refine ⟨fun r hr => ?_, ?_, fun h => ?_⟩
  · obtain ⟨hfin, rfl⟩ := denotes_iff.1 hr
    match v, hfin with
    | .fin s m e, _ => exact round_roundsSigned hF.max_lt 0 false s m e
  · rintro s rfl
    simp only [Fmt.ofValue, hF.inf, if_true]
    rfl
  · match v, h with
    | .nan sg, _ => simp only [Fmt.ofValue, hF.nan, if_true]; rfl

theorem wide_of_functionOf64 {F : Fmt} {fn : Nat} (h : functionOf64 F fn) : Wide F ∧ F.bits ≠ 16 ∧ fn ≤ 6 := by
  obtain ⟨rfl, hfn⟩ | ⟨rfl, hfn⟩ := h
  · exact ⟨wide_fmtF32, by decide, hfn⟩
  · exact ⟨wide_fmtF64, by decide, by omega⟩

theorem packed_of_mem {F : Fmt} (h : F ∈ [fmtF16, fmtBF16]) : Ieee F ∧ F.bits = 16 ∧ minExpOf fmtF32 ≤ minExpOf F ∧ F.bias ≤ fmtF32.bias := by
  simp only [List.mem_cons, List.not_mem_nil, or_false] at h
  rcases h with rfl | rfl <;> exact ⟨ieee_of_mem (by simp), by decide, by decide, by decide⟩

theorem approximationsExact : ApproximationsExact := by
  refine ⟨fun F fn n h _ => ?_, fun F h fn n hfn _ => ?_⟩
  · obtain ⟨hF, hbits, hfn⟩ := wide_of_functionOf64 h
    obtain ⟨x, hx⟩ := approxElem_eq hbits fn n
    simp only [hx]
    refine ⟨exactCases hF hfn (exponentWithin_value hF.ieee n) x, fun v hv h0 hpos hl => fApprox_of_not_listed hF.ieee hv h0 hpos hl x, fun a _ => ?_⟩
    rw [fApprox_flush]
    refine ⟨fun hg => if_neg fun c => ?_, fun h0 hlt => ?_⟩
    · exact hg.elim c.1 (not_le.2 c.2)
    · rw [if_pos ⟨h0.ne', hlt⟩]
      exact ⟨Nat.sub_add_cancel (Nat.mod_le _ _), rfl⟩
  · obtain ⟨hF, hbits, hmin, hbias⟩ := packed_of_mem h
    obtain ⟨x, hx⟩ := approxElem_packed hbits fn n (F.value n)
    refine ⟨fApprox fmtF32 fn false (F.value n) x, exactCases wide_fmtF32 hfn ((exponentWithin_value hF n).mono hmin hbias) x, ?_⟩
    obtain ⟨hfin, hinf, hnan⟩ := ofValue_spec hF (fmtF32.value (fApprox fmtF32 fn false (F.value n) x).1)
    rw [hx]
    refine ⟨fun r hr => ⟨fun h0 => ⟨_, (hfin r hr).1 h0⟩, fun h0 => congrArg Prod.fst ((hfin r hr).2 h0)⟩, fun s hs => congrArg Prod.fst (hinf s hs), hnan⟩

end Sys2Proof.Proofs.ApproximateFunctions

/-! # RoundingModes (R50 to R61, R144, R145, R147, R149 to R152) -/

namespace Sys2Proof.Proofs.RoundingModes

open Sys2Proof Sys2Proof.Machine Sys2Proof.Claims Sys2Proof.Proofs.Rounding

/-- `roundShift` rounds the whole number m by the unit 2^sh. -/
theorem roundShift_split (mode : Nat) (s : Bool) (m sh : Nat) :
    ∃ Q exact low, (roundShift mode s m sh false).1 = rounded mode s Q exact low ∧ Split ((2 : ℝ) ^ sh) m Q exact low := by
  cases sh with
  | zero => exact ⟨m, true, .lt, by simp [roundShift, rounded, roundUp, Nat.mod_one], split_of_eq (by simp) (by simp)⟩
  | succ j =>
    have h := split_of_cut (j := j) (standsAt_self (m := m) one_pos)
    rw [mul_one, mul_one] at h
    exact ⟨_, _, _, by simp [roundShift, rounded], h⟩

theorem roundShift_exact (mode : Nat) (s : Bool) (m sh : Nat) : (roundShift mode s m sh false).2 = decide (2 ^ sh ∣ m) := by
  simp [roundShift, Nat.dvd_iff_mod_eq_zero, beq_eq_decide]

/-- To nearest, ties to even (R55). -/
theorem roundShift_nearest (s : Bool) (m sh : Nat) : let q := (roundShift 0 s m sh false).1
    (2 * m ≤ 2 * (q * 2 ^ sh) + 2 ^ sh ∧ 2 * (q * 2 ^ sh) ≤ 2 * m + 2 ^ sh)
      ∧ ((2 * (q * 2 ^ sh) = 2 * m + 2 ^ sh ∨ 2 * m = 2 * (q * 2 ^ sh) + 2 ^ sh) → q % 2 = 0) := by
  intro q
  obtain ⟨Q, exact, low, hq, h⟩ := roundShift_split 0 s m sh
  obtain ⟨hle, heven⟩ := h.nearest s
  rw [← hq] at hle heven
  obtain ⟨hlo, hhi⟩ := abs_le.1 hle
  have h1 : (2 * m : ℝ) ≤ 2 * (q * 2 ^ sh) + 2 ^ sh := by linarith
  have h2 : (2 * (q * 2 ^ sh) : ℝ) ≤ 2 * m + 2 ^ sh := by linarith
  refine ⟨⟨by exact_mod_cast h1, by exact_mod_cast h2⟩, fun htie => heven ?_⟩
  obtain ht | ht := htie
  · have ht : (2 * (q * 2 ^ sh) : ℝ) = 2 * m + 2 ^ sh := by exact_mod_cast ht
    rw [abs_of_nonpos] <;> linarith [h.pos]
  · have ht : (2 * m : ℝ) = 2 * (q * 2 ^ sh) + 2 ^ sh := by exact_mod_cast ht
    rw [abs_of_nonneg] <;> linarith [h.pos]

/-- A directed mode goes down, or up, by the sign (R55). -/
theorem roundShift_directed {mode : Nat} (hm : mode ≠ 0) (s : Bool) (m sh : Nat) : let q := (roundShift mode s m sh false).1
    if (mode = 1 ∨ mode = 2 ∧ s = true ∨ 3 ≤ mode ∧ s = false) then q * 2 ^ sh ≤ m ∧ m < (q + 1) * 2 ^ sh else m ≤ q * 2 ^ sh ∧ q * 2 ^ sh < m + 2 ^ sh := by
  intro q
  obtain ⟨Q, exact, low, hq, h⟩ := roundShift_split mode s m sh
  have hd := h.directed hm s
  rw [← hq] at hd
  exact_mod_cast hd

/-- Settles O24: the operations come to one rounding of an exact value, and that rounding picks the unit beside a magnitude that the mode selects. -/
theorem roundingModes : Obligations.RoundingModes := by
  refine ⟨⟨FloatEncodings.encodingValues, FloatEncodings.sourceFlush, FloatArithmetic.additions, FloatArithmetic.products, FloatArithmetic.fusedSums,
    FloatArithmetic.roots, FloatConversions.conversions, FloatConversions.integrals, FloatInspections.extremes, FloatInspections.inspections,
    DotProducts.dotSums, ApproximateFunctions.approximationsExact⟩, fun s m sh => ?_⟩
  obtain ⟨hnear, heven⟩ := roundShift_nearest s m sh
  refine ⟨hnear, heven, roundShift_directed one_ne_zero s m sh, ?_, ?_, fun mode => roundShift_exact mode s m sh⟩
  · rintro rfl
    exact ⟨roundShift_directed two_ne_zero false m sh, roundShift_directed three_ne_zero false m sh⟩
  · rintro rfl
    exact ⟨roundShift_directed three_ne_zero true m sh, roundShift_directed two_ne_zero true m sh⟩

end Sys2Proof.Proofs.RoundingModes


/-! # Words and instructions (R85 to R98, R100) -/

namespace Sys2Proof.Proofs.Encoding

open Sys2Proof

/-! ## The formats: a word's fields are its bits, and no bit is dropped (R86 to R98) -/

theorem ofBool_getLsbD {n : Nat} (x : BitVec n) (i : Nat) : BitVec.ofBool (x.getLsbD i) = x.extractLsb' i 1 := by
  rw [BitVec.getLsbD_eq_extractLsb']
  generalize x.extractLsb' i 1 = b
  revert b; decide

theorem getLsbD_append_of_lt {n m i : Nat} (x : BitVec n) (y : BitVec m) (h : i < m) : (x ++ y).getLsbD i = y.getLsbD i := by
  rw [BitVec.getLsbD_append, if_pos h]

theorem getLsbD_append_of_le {n m i : Nat} (x : BitVec n) (y : BitVec m) (h : m ≤ i) : (x ++ y).getLsbD i = x.getLsbD (i - m) := by
  rw [BitVec.getLsbD_append, if_neg (Nat.not_lt.mpr h)]

@[simp] theorem unpackSrc_packSrc (f : Src) : unpackSrc (packSrc f) = f := by
  unfold unpackSrc packSrc
  simp (disch := decide) only [BitVec.extractLsb'_append_eq_of_le, BitVec.extractLsb'_append_eq_of_add_le]
  simp

@[simp] theorem packSrc_unpackSrc (x : BitVec 16) : packSrc (unpackSrc x) = x := by
  unfold packSrc unpackSrc
  simp (disch := decide) only [BitVec.extractLsb'_append_extractLsb'_eq_extractLsb']
  exact BitVec.extractLsb'_eq_self

@[simp] theorem unpackSrcC_packSrcC (f : SrcC) : unpackSrcC (packSrcC f) = f := by
  unfold unpackSrcC packSrcC
  simp (disch := decide) only [BitVec.extractLsb'_append_eq_of_le, BitVec.extractLsb'_append_eq_of_add_le]
  simp

@[simp] theorem packSrcC_unpackSrcC (x : BitVec 14) : packSrcC (unpackSrcC x) = x := by
  unfold packSrcC unpackSrcC
  simp (disch := decide) only [BitVec.extractLsb'_append_extractLsb'_eq_extractLsb']
  exact BitVec.extractLsb'_eq_self

@[simp] theorem unpackSR_packSR (f : SR) : unpackSR (packSR f) = f := by
  unfold unpackSR packSR
  simp (disch := decide) only [BitVec.extractLsb'_append_eq_of_le, BitVec.extractLsb'_append_eq_of_add_le, getLsbD_append_of_le, getLsbD_append_of_lt]
  simp

@[simp] theorem packSR_unpackSR (x : BitVec 52) : packSR (unpackSR x) = x := by
  unfold packSR unpackSR
  simp (disch := decide) only [ofBool_getLsbD, BitVec.extractLsb'_append_extractLsb'_eq_extractLsb']
  exact BitVec.extractLsb'_eq_self

@[simp] theorem unpackBR_packBR (f : BR) : unpackBR (packBR f) = f := by
  unfold unpackBR packBR
  simp (disch := decide) only [BitVec.extractLsb'_append_eq_of_le, BitVec.extractLsb'_append_eq_of_add_le]
  simp

@[simp] theorem packBR_unpackBR (x : BitVec 52) : packBR (unpackBR x) = x := by
  unfold packBR unpackBR
  simp (disch := decide) only [BitVec.extractLsb'_append_extractLsb'_eq_extractLsb']
  exact BitVec.extractLsb'_eq_self

@[simp] theorem unpackVR_packVR (f : VR) : unpackVR (packVR f) = f := by
  unfold unpackVR packVR
  simp (disch := decide) only [BitVec.extractLsb'_append_eq_of_le, BitVec.extractLsb'_append_eq_of_add_le, getLsbD_append_of_le, getLsbD_append_of_lt]
  simp

@[simp] theorem packVR_unpackVR (x : BitVec 52) : packVR (unpackVR x) = x := by
  unfold packVR unpackVR
  simp (disch := decide) only [ofBool_getLsbD, packSrc_unpackSrc, BitVec.extractLsb'_append_extractLsb'_eq_extractLsb']
  exact BitVec.extractLsb'_eq_self

@[simp] theorem unpackMX_packMX (f : MX) : unpackMX (packMX f) = f := by
  unfold unpackMX packMX
  simp (disch := decide) only [BitVec.extractLsb'_append_eq_of_le, BitVec.extractLsb'_append_eq_of_add_le, getLsbD_append_of_le, getLsbD_append_of_lt]
  simp

@[simp] theorem packMX_unpackMX (x : BitVec 52) : packMX (unpackMX x) = x := by
  unfold packMX unpackMX
  simp (disch := decide) only [ofBool_getLsbD, BitVec.extractLsb'_append_extractLsb'_eq_extractLsb']
  exact BitVec.extractLsb'_eq_self

@[simp] theorem unpackENG_packENG (f : ENG) : unpackENG (packENG f) = f := by
  unfold unpackENG packENG
  simp (disch := decide) only [BitVec.extractLsb'_append_eq_of_le, BitVec.extractLsb'_append_eq_of_add_le, getLsbD_append_of_le, getLsbD_append_of_lt]
  simp

@[simp] theorem packENG_unpackENG (x : BitVec 52) : packENG (unpackENG x) = x := by
  unfold packENG unpackENG
  simp (disch := decide) only [ofBool_getLsbD, BitVec.extractLsb'_append_extractLsb'_eq_extractLsb']
  exact BitVec.extractLsb'_eq_self

@[simp] theorem unpackSYS_packSYS (f : SYS) : unpackSYS (packSYS f) = f := by
  unfold unpackSYS packSYS
  simp (disch := decide) only [BitVec.extractLsb'_append_eq_of_le, BitVec.extractLsb'_append_eq_of_add_le, getLsbD_append_of_le, getLsbD_append_of_lt]
  simp

@[simp] theorem packSYS_unpackSYS (x : BitVec 52) : packSYS (unpackSYS x) = x := by
  unfold packSYS unpackSYS
  simp (disch := decide) only [ofBool_getLsbD, BitVec.extractLsb'_append_extractLsb'_eq_extractLsb']
  exact BitVec.extractLsb'_eq_self

@[simp] theorem unpackMEM_packMEM (f : MEM) : unpackMEM (packMEM f) = f := by
  unfold unpackMEM packMEM
  simp (disch := decide) only [BitVec.extractLsb'_append_eq_of_le, BitVec.extractLsb'_append_eq_of_add_le, getLsbD_append_of_le, getLsbD_append_of_lt]
  simp

@[simp] theorem packMEM_unpackMEM (x : BitVec 54) : packMEM (unpackMEM x) = x := by
  unfold packMEM unpackMEM
  simp (disch := decide) only [ofBool_getLsbD, BitVec.extractLsb'_append_extractLsb'_eq_extractLsb']
  exact BitVec.extractLsb'_eq_self

@[simp] theorem unpackVF_packVF (f : VF) : unpackVF (packVF f) = f := by
  unfold unpackVF packVF
  simp (disch := decide) only [BitVec.extractLsb'_append_eq_of_le, BitVec.extractLsb'_append_eq_of_add_le]
  simp

@[simp] theorem packVF_unpackVF (x : BitVec 56) : packVF (unpackVF x) = x := by
  unfold packVF unpackVF
  simp (disch := decide) only [packSrc_unpackSrc, packSrcC_unpackSrcC, BitVec.extractLsb'_append_extractLsb'_eq_extractLsb']
  exact BitVec.extractLsb'_eq_self

/-! ## The opcode and what follows it -/

/-- Bits [63:52] of a word (R85). -/
def opcode (w : DWord) : Nat := (w.extractLsb' 52 12).toNat

theorem opcode_lt (w : DWord) : opcode w < 4096 := (w.extractLsb' 52 12).isLt

/-- The format in which a word of an opcode is read (R85, R100). -/
inductive Format where | vf | br | mem | mx | eng | sys | sr | vr
deriving DecidableEq

def formatOf (op : Nat) : Format :=
  let g := op / 64
  if 0x3C ≤ g then .vf
  else if g == 6 then .br
  else if 0x14 ≤ g && g ≤ 0x1C then .mem
  else if 0x1D ≤ g && g ≤ 0x20 then .mx
  else if g == 0x21 || g == 0x22 then .eng
  else if 0x23 ≤ g && g ≤ 0x27 then .sys
  else if g ≤ 7 && op != 0x1CE && op != 0x1CF || op == 0x4C1 then .sr
  else .vr

theorem decode_eq (w : DWord) : decode w = match formatOf (opcode w) with
    | .vf => (rowOf vfOps (opcode w / 16 % 16)).map (· (unpackVF (w.extractLsb' 0 56)))
    | .br => (rowOf brOps (opcode w)).map (· (unpackBR (w.extractLsb' 0 52)))
    | .mem => decodeMEM (opcode w) (unpackMEM (w.extractLsb' 0 54))
    | .mx => (rowOf mxOps (opcode w)).map (· (unpackMX (w.extractLsb' 0 52)))
    | .eng => (rowOf engOps (opcode w)).map (· (unpackENG (w.extractLsb' 0 52)))
    | .sys => decodeSYS (opcode w) (unpackSYS (w.extractLsb' 0 52))
    | .sr => decodeSR (opcode w) (unpackSR (w.extractLsb' 0 52))
    | .vr => (rowOf vrOps (opcode w)).map (· (unpackVR (w.extractLsb' 0 52))) := by
  unfold decode formatOf opcode
  dsimp only
  split_ifs <;> rfl

/-! A word is its opcode and the bits that its format gives to the fields. -/

theorem toNat_append_eq {n m : Nat} (x : BitVec n) (y : BitVec m) : (x ++ y).toNat = x.toNat * 2 ^ m + y.toNat := by
  rw [BitVec.toNat_append, ← Nat.shiftLeft_add_eq_or_of_lt y.isLt, Nat.shiftLeft_eq]

theorem opcode_eq (w : DWord) : opcode w = w.toNat / 2 ^ 52 % 2 ^ 12 := by
  rw [opcode, BitVec.extractLsb'_toNat, Nat.shiftRight_eq_div_pow]

theorem word_eq (w : DWord) : w = BitVec.ofNat 12 (opcode w) ++ w.extractLsb' 0 52 := by
  rw [opcode, BitVec.ofNat_toNat, BitVec.setWidth_eq]
  exact (BitVec.extractLsb'_append_extractLsb' (w := 12) (len := 52)).symm

theorem opcode_append {n : Nat} (hn : n < 4096) (x : BitVec 52) : opcode (BitVec.ofNat 12 n ++ x) = n := by
  rw [opcode, BitVec.extractLsb'_append_eq_left, BitVec.toNat_ofNat, Nat.mod_eq_of_lt hn]

theorem fields_append (x : BitVec 12) (y : BitVec 52) : (x ++ y).extractLsb' 0 52 = y := BitVec.extractLsb'_append_eq_right

/-- A VF word: fifteen, the function in four bits, 56 bits of fields (R92). -/
theorem vfWord_eq {w : DWord} (h : 0xF00 ≤ opcode w) :
    w = 15#4 ++ BitVec.ofNat 4 (opcode w / 16 % 16) ++ w.extractLsb' 0 56 := by
  rw [opcode_eq] at h ⊢
  apply BitVec.eq_of_toNat_eq
  simp only [toNat_append_eq, BitVec.toNat_ofNat, BitVec.extractLsb'_toNat, Nat.shiftRight_zero]
  have hw := w.isLt
  omega

theorem opcode_vfWord {n : Nat} (hn : n < 16) (x : BitVec 56) : opcode (15#4 ++ BitVec.ofNat 4 n ++ x) / 16 = 240 + n := by
  rw [opcode_eq]
  simp only [toNat_append_eq, BitVec.toNat_ofNat]
  omega

theorem vfFields (x y : BitVec 4) (z : BitVec 56) : (x ++ y ++ z).extractLsb' 0 56 = z := BitVec.extractLsb'_append_eq_right

/-- A MEM word: ten bits of operation, 54 bits of fields (R95). -/
theorem memWord_eq (w : DWord) : w = BitVec.ofNat 10 (opcode w / 4) ++ w.extractLsb' 0 54 := by
  rw [opcode_eq]
  apply BitVec.eq_of_toNat_eq
  simp only [toNat_append_eq, BitVec.toNat_ofNat, BitVec.extractLsb'_toNat, Nat.shiftRight_zero]
  omega

theorem opcode_memWord {n : Nat} (hn : n < 1024) (x : BitVec 54) : opcode (BitVec.ofNat 10 n ++ x) / 4 = n := by
  rw [opcode_eq]
  simp only [toNat_append_eq, BitVec.toNat_ofNat]
  omega

theorem memFields (x : BitVec 10) (y : BitVec 54) : (x ++ y).extractLsb' 0 54 = y := BitVec.extractLsb'_append_eq_right

/-! ## The opcode map -/

theorem mem_of_rowOf {α : Type} {t : List (Nat × α)} {k : Nat} {a : α} (h : rowOf t k = some a) : (k, a) ∈ t := by
  obtain ⟨e, he, rfl⟩ := Option.map_eq_some_iff.mp h
  have hk : e.1 = k := by simpa using List.find?_some he
  exact hk ▸ List.mem_of_find?_eq_some he

/-- The instruction of a system-register write, by its register (R61, R118). -/
def sysWrite (f : SR) : Instr := if sysNum f == 0x011 then .fpflags f else if sysNum f == 0x00A then .teamstat f else .sWrsys f
/-- The instruction of a debug-register access, by MOD[0] (R247). -/
def debugAccess (f : SYS) : Instr := if f.mod.getLsbD 0 then .dbgrWr f else .dbgrRd f

/-- The opcode map: an instruction and its word (R86 to R98, R100). -/
inductive WordOf : Instr → DWord → Prop where
  | sr {n : Nat} {g : SR → Instr} (h : rowOf srOps n = some g) (f : SR) : WordOf (g f) (BitVec.ofNat 12 n ++ packSR f)
  | sysWrite (f : SR) : WordOf (sysWrite f) (0x141#12 ++ packSR f)
  | br {n : Nat} {g : BR → Instr} (h : rowOf brOps n = some g) (f : BR) : WordOf (g f) (BitVec.ofNat 12 n ++ packBR f)
  | vr {n : Nat} {g : VR → Instr} (h : rowOf vrOps n = some g) (f : VR) : WordOf (g f) (BitVec.ofNat 12 n ++ packVR f)
  | vf {n : Nat} {g : VF → Instr} (h : rowOf vfOps n = some g) (f : VF) : WordOf (g f) (15#4 ++ BitVec.ofNat 4 n ++ packVF f)
  | mem {n : Nat} {g : MEM → Instr} (h : rowOf memOps n = some g) (f : MEM) (hox : (f.ox && !memOx.contains n) = false) :
    WordOf (g f) (BitVec.ofNat 10 n ++ packMEM f)
  | mx {n : Nat} {g : MX → Instr} (h : rowOf mxOps n = some g) (f : MX) : WordOf (g f) (BitVec.ofNat 12 n ++ packMX f)
  | eng {n : Nat} {g : ENG → Instr} (h : rowOf engOps n = some g) (f : ENG) : WordOf (g f) (BitVec.ofNat 12 n ++ packENG f)
  | sys {n : Nat} {g : SYS → Instr} (h : rowOf sysOps n = some g) (f : SYS) : WordOf (g f) (BitVec.ofNat 12 n ++ packSYS f)
  | debugAccess (f : SYS) : WordOf (debugAccess f) (0x9CB#12 ++ packSYS f)

/-! Each table stands in one format's range of opcodes. -/

theorem srOps_format : ∀ e ∈ srOps, e.1 < 4096 ∧ formatOf e.1 = .sr ∧ e.1 ≠ 0x141 := by decide
theorem brOps_format : ∀ e ∈ brOps, e.1 < 4096 ∧ formatOf e.1 = .br := by decide
theorem vrOps_format : ∀ e ∈ vrOps, e.1 < 4096 ∧ formatOf e.1 = .vr := by decide
theorem mxOps_format : ∀ e ∈ mxOps, e.1 < 4096 ∧ formatOf e.1 = .mx := by decide
theorem engOps_format : ∀ e ∈ engOps, e.1 < 4096 ∧ formatOf e.1 = .eng := by decide
theorem sysOps_format : ∀ e ∈ sysOps, e.1 < 4096 ∧ formatOf e.1 = .sys ∧ e.1 ≠ 0x9CB := by decide
theorem vfOps_key : ∀ e ∈ vfOps, e.1 < 16 := by decide
theorem memOps_key : ∀ e ∈ memOps, 0x140 ≤ e.1 ∧ e.1 < 0x1D0 := by decide

theorem formatOf_eq_vf {op : Nat} : formatOf op = .vf ↔ 0xF00 ≤ op := by
  unfold formatOf
  dsimp only
  split_ifs <;> simp <;> omega

theorem formatOf_eq_mem {op : Nat} (h : 0x500 ≤ op) (h' : op < 0x740) : formatOf op = .mem := by
  have hg : (0x14 ≤ op / 64 && op / 64 ≤ 0x1C) = true := by simp; omega
  have h6 : (op / 64 == 6) = false := by simp; omega
  unfold formatOf
  simp only [hg, h6]
  rw [if_neg (by omega)]; rfl

/-! ## Each way between the words, the decoder and the encoder -/

theorem decode_of_wordOf {i : Instr} {w : DWord} (h : WordOf i w) : decode w = some i := by
  rw [decode_eq]
  cases h with
  | @sr n g hg f =>
    obtain ⟨hn, hf, h141⟩ : n < 4096 ∧ formatOf n = .sr ∧ n ≠ 0x141 := srOps_format _ (mem_of_rowOf hg)
    simp [opcode_append hn, hf, fields_append, decodeSR, hg, h141]
  | sysWrite f =>
    have ho : opcode (0x141#12 ++ packSR f) = 0x141 := opcode_append (by decide) _
    have hf : formatOf 0x141 = .sr := by decide
    simp [ho, hf, fields_append, decodeSR, sysWrite]
  | @br n g hg f =>
    obtain ⟨hn, hf⟩ : n < 4096 ∧ formatOf n = .br := brOps_format _ (mem_of_rowOf hg)
    simp [opcode_append hn, hf, fields_append, hg]
  | @vr n g hg f =>
    obtain ⟨hn, hf⟩ : n < 4096 ∧ formatOf n = .vr := vrOps_format _ (mem_of_rowOf hg)
    simp [opcode_append hn, hf, fields_append, hg]
  | @vf n g hg f =>
    have hn : n < 16 := vfOps_key _ (mem_of_rowOf hg)
    have ho := opcode_vfWord hn (packVF f)
    have hk : opcode (15#4 ++ BitVec.ofNat 4 n ++ packVF f) / 16 % 16 = n := by omega
    have hf : formatOf (opcode (15#4 ++ BitVec.ofNat 4 n ++ packVF f)) = .vf := formatOf_eq_vf.mpr (by omega)
    simp [hf, hk, vfFields, hg]
  | @mem n g hg f hox =>
    obtain ⟨hlo, hhi⟩ : 0x140 ≤ n ∧ n < 0x1D0 := memOps_key _ (mem_of_rowOf hg)
    have ho := opcode_memWord (n := n) (by omega) (packMEM f)
    have hf : formatOf (opcode (BitVec.ofNat 10 n ++ packMEM f)) = .mem := formatOf_eq_mem (by omega) (by omega)
    simp only [hf, decodeMEM, ho, memFields, unpackMEM_packMEM, hox, hg]
    rfl
  | @mx n g hg f =>
    obtain ⟨hn, hf⟩ : n < 4096 ∧ formatOf n = .mx := mxOps_format _ (mem_of_rowOf hg)
    simp [opcode_append hn, hf, fields_append, hg]
  | @eng n g hg f =>
    obtain ⟨hn, hf⟩ : n < 4096 ∧ formatOf n = .eng := engOps_format _ (mem_of_rowOf hg)
    simp [opcode_append hn, hf, fields_append, hg]
  | @sys n g hg f =>
    obtain ⟨hn, hf, h9CB⟩ : n < 4096 ∧ formatOf n = .sys ∧ n ≠ 0x9CB := sysOps_format _ (mem_of_rowOf hg)
    simp [opcode_append hn, hf, fields_append, decodeSYS, hg, h9CB]
  | debugAccess f =>
    have ho : opcode (0x9CB#12 ++ packSYS f) = 0x9CB := opcode_append (by decide) _
    have hf : formatOf 0x9CB = .sys := by decide
    simp [ho, hf, fields_append, decodeSYS, debugAccess]

theorem wordOf_of_decode {i : Instr} {w : DWord} (h : decode w = some i) : WordOf i w := by
  rw [decode_eq] at h
  split at h
  next hf =>
    obtain ⟨g, hg, rfl⟩ := Option.map_eq_some_iff.mp h
    have hv := WordOf.vf hg (unpackVF (w.extractLsb' 0 56))
    rwa [packVF_unpackVF, ← vfWord_eq (formatOf_eq_vf.mp hf)] at hv
  next =>
    obtain ⟨g, hg, rfl⟩ := Option.map_eq_some_iff.mp h
    have hv := WordOf.br hg (unpackBR (w.extractLsb' 0 52))
    rwa [packBR_unpackBR, ← word_eq] at hv
  next =>
    unfold decodeMEM at h
    split_ifs at h with hox
    obtain ⟨g, hg, rfl⟩ := Option.map_eq_some_iff.mp h
    have hv := WordOf.mem hg (unpackMEM (w.extractLsb' 0 54)) (Bool.eq_false_iff.mpr hox)
    rwa [packMEM_unpackMEM, ← memWord_eq] at hv
  next =>
    obtain ⟨g, hg, rfl⟩ := Option.map_eq_some_iff.mp h
    have hv := WordOf.mx hg (unpackMX (w.extractLsb' 0 52))
    rwa [packMX_unpackMX, ← word_eq] at hv
  next =>
    obtain ⟨g, hg, rfl⟩ := Option.map_eq_some_iff.mp h
    have hv := WordOf.eng hg (unpackENG (w.extractLsb' 0 52))
    rwa [packENG_unpackENG, ← word_eq] at hv
  next =>
    unfold decodeSYS at h
    split at h <;> rename_i ho
    · have hv := WordOf.debugAccess (unpackSYS (w.extractLsb' 0 52))
      rw [packSYS_unpackSYS, ← eq_of_beq ho, ← word_eq] at hv
      exact Option.some.inj h ▸ hv
    · obtain ⟨g, hg, rfl⟩ := Option.map_eq_some_iff.mp h
      have hv := WordOf.sys hg (unpackSYS (w.extractLsb' 0 52))
      rwa [packSYS_unpackSYS, ← word_eq] at hv
  next =>
    unfold decodeSR at h
    split at h <;> rename_i ho
    · have hv := WordOf.sysWrite (unpackSR (w.extractLsb' 0 52))
      rw [packSR_unpackSR, ← eq_of_beq ho, ← word_eq] at hv
      exact Option.some.inj h ▸ hv
    · obtain ⟨g, hg, rfl⟩ := Option.map_eq_some_iff.mp h
      have hv := WordOf.sr hg (unpackSR (w.extractLsb' 0 52))
      rwa [packSR_unpackSR, ← word_eq] at hv
  next =>
    obtain ⟨g, hg, rfl⟩ := Option.map_eq_some_iff.mp h
    have hv := WordOf.vr hg (unpackVR (w.extractLsb' 0 52))
    rwa [packVR_unpackVR, ← word_eq] at hv

theorem encode_sysWrite (f : SR) : encode (sysWrite f) = some (0x141#12 ++ packSR f) := by
  have hf : encode (.fpflags f) = if sysNum f == 0x011 then some (0x141#12 ++ packSR f) else none := rfl
  have ht : encode (.teamstat f) = if sysNum f == 0x00A then some (0x141#12 ++ packSR f) else none := rfl
  have hw : encode (.sWrsys f) = if sysNum f == 0x011 || sysNum f == 0x00A then none else some (0x141#12 ++ packSR f) := rfl
  unfold sysWrite
  split_ifs with h h'
  · rw [hf, if_pos h]
  · rw [ht, if_pos h']
  · rw [hw, if_neg (by simp [h, h'])]

theorem encode_debugAccess (f : SYS) : encode (debugAccess f) = some (0x9CB#12 ++ packSYS f) := by
  have hr : encode (.dbgrRd f) = if f.mod.getLsbD 0 then none else some (0x9CB#12 ++ packSYS f) := rfl
  have hw : encode (.dbgrWr f) = if f.mod.getLsbD 0 then some (0x9CB#12 ++ packSYS f) else none := rfl
  unfold debugAccess
  split_ifs with h
  · rw [hw, if_pos h]
  · rw [hr, if_neg h]

/-! Each row of a table is what `encode` gives for its instruction. -/

theorem srOps_encode : ∀ e ∈ srOps, ∀ f, encode (e.2 f) = some (BitVec.ofNat 12 e.1 ++ packSR f) := by
  simp only [srOps, srOps0, srOps1, srOps2, srOps3, srOps4, srOps5, List.cons_append, List.nil_append, List.forall_mem_cons,
    List.not_mem_nil, false_implies, implies_true, and_true]
  repeat' apply And.intro
  all_goals exact fun _ => rfl

theorem brOps_encode : ∀ e ∈ brOps, ∀ f, encode (e.2 f) = some (BitVec.ofNat 12 e.1 ++ packBR f) := by
  simp only [brOps, brOps0, brOps1, List.cons_append, List.nil_append, List.forall_mem_cons, List.not_mem_nil,
    false_implies, implies_true, and_true]
  repeat' apply And.intro
  all_goals exact fun _ => rfl

theorem vrOps_encode : ∀ e ∈ vrOps, ∀ f, encode (e.2 f) = some (BitVec.ofNat 12 e.1 ++ packVR f) := by
  simp only [vrOps, vrOps0, vrOps1, vrOps2, vrOps3, vrOps4, List.cons_append, List.nil_append, List.forall_mem_cons, List.not_mem_nil,
    false_implies, implies_true, and_true]
  repeat' apply And.intro
  all_goals exact fun _ => rfl

theorem vfOps_encode : ∀ e ∈ vfOps, ∀ f, encode (e.2 f) = some (15#4 ++ BitVec.ofNat 4 e.1 ++ packVF f) := by
  simp only [vfOps, vfOps0, List.forall_mem_cons, List.not_mem_nil,
    false_implies, implies_true, and_true]
  repeat' apply And.intro
  all_goals exact fun _ => rfl

theorem memOps_encode : ∀ e ∈ memOps, ∀ f, encode (e.2 f) =
    if f.ox && !memOx.contains e.1 then none else some (BitVec.ofNat 10 e.1 ++ packMEM f) := by
  simp only [memOps, memOps0, memOps1, memOps2, List.cons_append, List.nil_append, List.forall_mem_cons, List.not_mem_nil,
    false_implies, implies_true, and_true]
  repeat' apply And.intro
  all_goals exact fun _ => rfl

theorem mxOps_encode : ∀ e ∈ mxOps, ∀ f, encode (e.2 f) = some (BitVec.ofNat 12 e.1 ++ packMX f) := by
  simp only [mxOps, mxOps0, mxOps1, List.cons_append, List.nil_append, List.forall_mem_cons, List.not_mem_nil,
    false_implies, implies_true, and_true]
  repeat' apply And.intro
  all_goals exact fun _ => rfl

theorem engOps_encode : ∀ e ∈ engOps, ∀ f, encode (e.2 f) = some (BitVec.ofNat 12 e.1 ++ packENG f) := by
  simp only [engOps, engOps0, List.forall_mem_cons, List.not_mem_nil,
    false_implies, implies_true, and_true]
  repeat' apply And.intro
  all_goals exact fun _ => rfl

theorem sysOps_encode : ∀ e ∈ sysOps, ∀ f, encode (e.2 f) = some (BitVec.ofNat 12 e.1 ++ packSYS f) := by
  simp only [sysOps, sysOps0, sysOps1, List.cons_append, List.nil_append, List.forall_mem_cons, List.not_mem_nil,
    false_implies, implies_true, and_true]
  repeat' apply And.intro
  all_goals exact fun _ => rfl

theorem encode_of_wordOf {i : Instr} {w : DWord} (h : WordOf i w) : encode i = some w := by
  cases h with
  | sr h f => exact srOps_encode _ (mem_of_rowOf h) f
  | sysWrite f => exact encode_sysWrite f
  | br h f => exact brOps_encode _ (mem_of_rowOf h) f
  | vr h f => exact vrOps_encode _ (mem_of_rowOf h) f
  | vf h f => exact vfOps_encode _ (mem_of_rowOf h) f
  | mem h f hox => exact (memOps_encode _ (mem_of_rowOf h) f).trans (if_neg (Bool.eq_false_iff.mp hox))
  | mx h f => exact mxOps_encode _ (mem_of_rowOf h) f
  | eng h f => exact engOps_encode _ (mem_of_rowOf h) f
  | sys h f => exact sysOps_encode _ (mem_of_rowOf h) f
  | debugAccess f => exact encode_debugAccess f

theorem wordOf_encMem {n : Nat} {g : MEM → Instr} {b : Bool} {f : MEM} {w : DWord} (hg : rowOf memOps (n / 4) = some g)
    (hb : memOx.contains (n / 4) = b) (h : encMem n b f = some w) : WordOf (g f) w := by
  subst hb
  unfold encMem at h
  split_ifs at h with hox
  obtain rfl := Option.some.inj h
  exact .mem hg f (Bool.eq_false_iff.mpr hox)

/-! An instruction has the word that its row gives; a device step has none. -/

theorem wordOf_of_encode {i : Instr} {w : DWord} (h : encode i = some w) : WordOf i w := by
  cases i
  case sAdd f | sSub f | sMul f | sMulh f | sMulhU f | sDiv f | sDivU f | sRem f | sRemU f | sMin f | sMinU f | sMax f | sMaxU f | sAnd f |
    sOr f | sXor f | sAndn f | sShl f | sShr f | sSra f | sMov f | sLi f | sLih f | sBfe f | sBfi f | sClz f | sCtz f | sPopc f | sCmpEq f |
    sCmpNe f | sCmpLt f | sCmpLe f | sCmpGt f | sCmpGe f | sCmpLtU f | sCmpLeU f | sCmpGtU f | sCmpGeU f | sSel f | sRdsys f | nop f | waitf f
    | yield f | mAnd f | mOr f | mXor f | mAndn f | mNot f | mMov f | mPopc f | mFirst f | mCompact f | mUncompact f | racq f | rrel f | pmark
    f | shpSet f =>
    obtain rfl := Option.some.inj h
    exact .sr rfl f
  case br f | brz f | brnz f | bany f | ball f | call f | ret f | jmpi f | exit f | bdiv f | belse f | bjoin f | bloop f | bbrk f =>
    obtain rfl := Option.some.inj h
    exact .br rfl f
  case mFrom f | mTo f | vAdd f | vSub f | vMul f | vMulh f | vMin f | vMax f | vAbs f | vAnd f | vOr f | vXor f | vAndn f | vShl f | vShr f
    | vSra f | vCmp f | vSel f | vClz f | vPopc f | vBrev f | vMov f | vLi f | vLane f | vFadd f | vFmul f | vFmin f | vFmax f | vFcmp f |
    vFrnd f | vFrcp f | vFrsq f | vFsqrt f | vExp2 f | vLog2 f | vSin f | vCos f | vTanh f | vFclass f | vFscale f | vFexp f | vCvt f | vPk f
    | vMxq f | vMxd f | vBpk f | vBpu f | vBpand f | vTidx f | vShfl f | vVote f | vRed f | vScan f =>
    obtain rfl := Option.some.inj h
    exact .vr rfl f
  case vMad f | vBfe f | vBfi f | vFma f | vDot2 f | vDot4 f =>
    obtain rfl := Option.some.inj h
    exact .vf rfl f
  case tacq f | trel f | mxZero f | mxLd f | mxSt f | mxMma f | mxBpmma f | mxChk f | mxBnd f | mxSlice f | mxDmma f | mxWz f | mxRc f =>
    obtain rfl := Option.some.inj h
    exact .mx rfl f
  case cp f | cp2d f | cpX f | skimG f | skimS f | coll f | collAbort f | enq f =>
    obtain rfl := Option.some.inj h
    exact .eng rfl f
  case brk f | trap f | tret f | gVtx f | gAttr f | gPrim f | gDone f | gOut f | gKill f | gZq f | txSmp f | txLd f | txDim f | rayTrace f |
    rayCont f | rayHit f | tlbi f | cinv f | sleep f =>
    obtain rfl := Option.some.inj h
    exact .sys rfl f
  case sLd k f => cases k <;> (obtain rfl := Option.some.inj h; exact .sr rfl f)
  case sSt k f => cases k <;> (obtain rfl := Option.some.inj h; exact .sr rfl f)
  case sLdk k f => cases k <;> (obtain rfl := Option.some.inj h; exact .sr rfl f)
  case sWrsys f =>
    change (if sysNum f == 0x011 || sysNum f == 0x00A then none else some (0x141#12 ++ packSR f)) = some w at h
    split_ifs at h with hn
    obtain rfl := Option.some.inj h
    have hw : sysWrite f = .sWrsys f := by
      rw [Bool.or_eq_true, not_or] at hn
      rw [sysWrite, if_neg hn.1, if_neg hn.2]
    exact hw ▸ .sysWrite f
  case fpflags f =>
    change (if sysNum f == 0x011 then some (0x141#12 ++ packSR f) else none) = some w at h
    split_ifs at h with hn
    obtain rfl := Option.some.inj h
    have hw : sysWrite f = .fpflags f := if_pos hn
    exact hw ▸ .sysWrite f
  case teamstat f =>
    change (if sysNum f == 0x00A then some (0x141#12 ++ packSR f) else none) = some w at h
    split_ifs at h with hn
    obtain rfl := Option.some.inj h
    have hw : sysWrite f = .teamstat f := by
      rw [sysWrite, if_neg (by simp [eq_of_beq hn]), if_pos hn]
    exact hw ▸ .sysWrite f
  case dbgrRd f =>
    change (if f.mod.getLsbD 0 then none else some (0x9CB#12 ++ packSYS f)) = some w at h
    split_ifs at h with hm
    obtain rfl := Option.some.inj h
    have hw : debugAccess f = .dbgrRd f := if_neg hm
    exact hw ▸ .debugAccess f
  case dbgrWr f =>
    change (if f.mod.getLsbD 0 then some (0x9CB#12 ++ packSYS f) else none) = some w at h
    split_ifs at h with hm
    obtain rfl := Option.some.inj h
    have hw : debugAccess f = .dbgrWr f := if_pos hm
    exact hw ▸ .debugAccess f
  case ld f | st f | prf f | lds f | sts f | ldv f | aCasv f | aAdd f | aMin f | aMax f | aAnd f | aOr f | aXor f | aXchg f | aCas f | aFadd
    f | aInc f | disc f | wb f =>
    change encMem _ _ f = some w at h
    exact wordOf_encMem rfl rfl h
  case valset f | fence f | fenceX f | swArm f | swAdd f | swWait f | swRead f | qInit f | qPush f | qPop f | bar f | barArr f | barWt f |
    gbar f =>
    change encMem _ _ f = some w at h
    exact wordOf_encMem rfl rfl h
  all_goals exact nomatch h

theorem decode_iff_encode {i : Instr} {w : DWord} : decode w = some i ↔ encode i = some w :=
  ⟨fun h => encode_of_wordOf (wordOf_of_decode h), fun h => decode_of_wordOf (wordOf_of_encode h)⟩

/-- Settles O12: decoder and encoder are both the opcode map, which gives an instruction its word and a word its instruction. -/
theorem decodeAndEncodeAgree : Obligations.DecodeAndEncodeAgree :=
  ⟨fun _ _ => decode_iff_encode.mpr, fun _ _ => decode_iff_encode.mp⟩

end Sys2Proof.Proofs.Encoding

/-! # The next move and what it runs (R72, R99, R300, R301, R310) -/

namespace Sys2Proof.Proofs.Moves

open Sys2Proof Sys2Proof.Machine

/-! ## The turn of a team whose clause holds a pipe -/

/-- In a clause that holds a pipe the current team's turn is the instruction of its word. -/
theorem teamTurn_of_pipe {s : State} {c : Clause} {i : Instr} (hc : s.cur.clause = some c) (hp : c.pipe.isSome = true)
    (hd : decode (c.words.getD c.idx 0) = some i) : teamTurn s = .run i s := by
  have hp : c.pipe.isNone = false := by simpa using hp
  simp only [teamTurn, hc, hp, hd, Bool.false_eq_true, if_false]

theorem midClause_of_pipe {t : Team} {c : Clause} (ht : t.status = .running) (hc : t.clause = some c) (hp : c.pipe.isSome = true) :
    midClause t = true := by
  simp [midClause, ht, hc, hp]

theorem focus_cur {s : State} (h : s.cur.status ≠ .absent) : focus s s.cur.tid = s := by
  simp [focus, h]

theorem step_of_run {s u : State} {i : Instr} (h : nextMove s = .run i u) : step s = settled (exec i u) := by
  unfold step; rw [h]

/-- Where the schedule is empty, a team in its clause goes on with its word. -/
theorem nextMove_of_pipe {s : State} {c : Clause} {i : Instr} (hr : s.cur.status = .running) (hc : s.cur.clause = some c)
    (hp : c.pipe.isSome = true) (hd : decode (c.words.getD c.idx 0) = some i) (hs : s.sched = []) : nextMove s = .run i s := by
  unfold nextMove defaultMove
  simp only [hs, midClause_of_pipe hr hc hp, if_true, teamTurn_of_pipe hc hp hd]

/-! ## A placed word -/

@[simp] theorem length_valBytes (n x : Nat) : (valBytes n x).length = n := by
  induction n generalizing x with
  | zero => rfl
  | succ n ih => simp [valBytes, ih]

/-- The table word's instruction is what the eight bytes of the word decode to. -/
theorem decode_of_decodeTableWord {n w : Nat} {i : Instr} (h : decodeTableWord n w = some i) :
    decode (BitVec.ofNat 64 (bytesVal (valBytes 8 w))) = some i := by
  have ht : (valBytes 8 w).take 8 = valBytes 8 w := List.take_of_length_le (by simp)
  simpa [decodeTableWord, decodeBytes, ht] using h

/-- Settles O15: each turn of the schedule, and the default in a clause, is the instruction of the word that stands there. -/
theorem stepRunsTheDecodedInstruction : Obligations.StepRunsTheDecodedInstruction := by
  refine ⟨fun s c i hr hp hd => ?_, fun s n w i h => ?_⟩
  · obtain ⟨hst, hc⟩ := running_eq hr
    refine ⟨fun hs => step_of_run (nextMove_of_pipe hst hc hp hd hs), fun rest hs => step_of_run ?_, fun j rest hs => step_of_run ?_⟩
    · have hf : focus { s with sched := rest } s.cur.tid = { s with sched := rest } :=
        focus_cur (s := { s with sched := rest }) (by simp [hst])
      simp only [nextMove, hs, hf]
      exact teamTurn_of_pipe (s := { s with sched := rest }) hc hp hd
    · simp only [nextMove, hs]
  · exact step_of_run (nextMove_of_pipe (s := s.withFetchWord n w) (c := (placedTeam (BitVec.ofNat 64 (bytesVal (valBytes 8 w)))).clause.get rfl)
      rfl rfl rfl (decode_of_decodeTableWord h) rfl)

/-! ## Every move answers a next state -/

/-- Every arm of the machine's meaning answers a next state, on any state (R310: a trap is taken, not a fault). -/
theorem exec_answers (i : Instr) (s : State) : ∃ t, exec i s = .next t := by
  cases i <;> exact ⟨_, rfl⟩

/-- A meaning that answers a next state on any state. -/
def Total (f : State → Host.Outcome State Fault Refusal) : Prop := ∀ s, ∃ t, f s = .next t

/-- A command that holds where its body has the length that it takes. -/
theorem total_of_whole {p : Prop} [Decidable p] {f g : State → Host.Outcome State Fault Refusal} (hf : Total f)
    (h : (if p then some f else none) = some g) : Total g :=
  Option.some.inj (Option.ite_none_right_eq_some.mp h).2 ▸ hf

/-- Every command of a message answers a next state (R384, R388). -/
theorem commandOf_total {code tag : Nat} {body : List Byte} {g : State → Host.Outcome State Fault Refusal}
    (h : commandOf code tag body = some g) : Total g := by
  unfold commandOf at h
  split at h
  case h_1 | h_10 => cases h; exact fun _ => ⟨_, rfl⟩
  case h_8 =>
    obtain h | ⟨-, h⟩ := Option.or_eq_some_iff.mp h
    · exact total_of_whole (fun _ => ⟨_, rfl⟩) h
    · exact total_of_whole (fun _ => ⟨_, rfl⟩) h
  case h_9 =>
    dsimp only at h
    split at h
    case h_4 => cases h
    all_goals exact total_of_whole (fun _ => ⟨_, rfl⟩) h
  case h_17 =>
    dsimp only at h
    split at h
    case h_3 => cases h
    all_goals exact total_of_whole (fun _ => ⟨_, rfl⟩) h
  case h_19 => cases h
  all_goals exact total_of_whole (fun _ => ⟨_, rfl⟩) h

theorem messageCommand_total {bytes : List Byte} {g : State → Host.Outcome State Fault Refusal} (h : messageCommand bytes = some g) :
    Total g := by
  unfold messageCommand at h
  exact commandOf_total (Option.ite_none_left_eq_some.mp h).2

/-- A move that a step turns into a next state. -/
def Answers (m : Move) : Prop := ∀ r, m = .done r → ∃ t, r = .next t

theorem answers_run (i : Instr) (s : State) : Answers (.run i s) := fun _ => nofun
theorem answers_next (s : State) : Answers (.next s) := fun _ => nofun

theorem teamTurn_answers (s : State) : Answers (teamTurn s) := by
  unfold teamTurn
  split
  · exact answers_run _ s
  · split
    · exact answers_run _ s
    · dsimp only
      split
      · exact answers_run _ s
      · split
        · exact answers_next _
        · exact answers_next s

theorem answers_of_changes {s : State} {i : Instr} {m : Move} (h : changes s i = some m) : Answers m := by
  unfold changes at h
  split at h
  · obtain ⟨-, h⟩ := Option.ite_none_left_eq_some.mp h
    cases h
    exact answers_run i s
  · cases h

/-- The default is a team's turn or a device step. -/
theorem defaultMove_answers (s : State) : Answers (defaultMove s) := by
  unfold defaultMove
  split
  · exact teamTurn_answers s
  · split
    case h_1 m hm =>
      obtain ⟨i, -, hi⟩ := List.exists_of_findSome?_eq_some hm
      exact answers_of_changes hi
    case h_2 =>
      split
      · exact teamTurn_answers _
      · exact teamTurn_answers s

theorem nextMove_answers (s : State) : Answers (nextMove s) := by
  unfold nextMove
  split
  case h_3 qp bytes rest hs =>
    dsimp only
    split
    case h_1 g hg =>
      rintro r ⟨⟩
      exact messageCommand_total (Option.ite_none_right_eq_some.mp hg).2 _
    case h_2 => exact answers_next _
  case h_1 => exact answers_run _ _
  case h_2 => exact teamTurn_answers _
  case h_8 => exact defaultMove_answers s
  all_goals exact answers_next _

/-- Settles O16: the only outcomes that a step passes on are those of `exec` and of a message's command, and both answer a next state. -/
theorem everyStepAnswersANextState : Obligations.EveryStepAnswersANextState := by
  intro s
  unfold step
  split
  case h_1 i u hm =>
    obtain ⟨t, ht⟩ := exec_answers i u
    exact ⟨settle t, by rw [ht]; rfl⟩
  case h_2 u hm => exact ⟨settle u, rfl⟩
  case h_3 r hm =>
    obtain ⟨t, rfl⟩ := nextMove_answers s r hm
    exact ⟨settle t, rfl⟩

end Sys2Proof.Proofs.Moves

/-! # Return from a trap taken at an instruction (R83, R122) -/

namespace Sys2Proof.Proofs.TrapReturn

open Sys2Proof Sys2Proof.Machine Sys2Proof.Claims Sys2Proof.Proofs.Issuing

theorem getLsbD_lanesBelow (w : Nat) {l : Nat} (h : l < 1024) : (lanesBelow w).getLsbD l = decide (l < w) := by
  rw [lanesBelow, BitVec.getLsbD_ofNat, Nat.testBit_two_pow_sub_one]
  simp [h]

/-- A stack without the lanes that died since it was kept (R83). -/
def liveStack (t : Team) (l : List DivEntry) : List DivEntry :=
  l.map (fun e => { e with saved := e.saved &&& ~~~ t.dead, pending := e.pending &&& ~~~ t.dead })

/-- The team that `restoreTrap` brings back, before it goes on after the instruction. -/
def restoredTeam (x : TrapState) (t : Team) : Team :=
  { clearWait t with
    handler := none
    r := { t.r.mset t.width 0 (x.m0 &&& ~~~ t.dead) with stack := liveStack t x.stack }
    sh := t.sh.map (fun r => { r.mset t.width 0 (x.m0s &&& ~~~ t.dead) with stack := liveStack t x.stackSh })
    compact := x.compact, force := x.force, pc := x.pc, status := .running, barin := x.barin
    clause := x.clause.map (fun c => { c with pipe := none }) }

/-- From a trap at an instruction a team returns to the instruction for replay, and goes on after it for resume. -/
theorem restoreTrap_of_instr {x : TrapState} (hk : x.kind = .instr) (s : State) (replay : Bool) (redo : State → Op → State) :
    restoreTrap (modCur s (fun t => { clearWait t with handler := none })) x replay redo
      = modCur s (fun t => if replay then restoredTeam x t else advance (restoredTeam x t)) := by
  unfold restoreTrap
  rw [hk]
  cases replay <;> rfl

/-! ## What is restored -/

theorem mreg_zero_restoredTeam (x : TrapState) (t : Team) {l : Nat} (h : l < 1024) (hw : l < t.width) :
    (mreg (restoredTeam x t) 0).getLsbD l = (x.m0.getLsbD l && !t.dead.getLsbD l) := by
  show ((t.r.mset t.width 0 (x.m0 &&& ~~~ t.dead)).mget 0).getLsbD l = _
  rw [Regs.mget_mset, if_pos rfl, BitVec.getLsbD_and, getLsbD_lanesBelow _ h]
  simp [h, hw]

theorem mreg_restoredTeam_of_ne (x : TrapState) (t : Team) {k : Nat} (h : k ≠ 0) : mreg (restoredTeam x t) k = mreg t k := by
  show (t.r.mset t.width 0 _).mget k = _
  rw [Regs.mget_mset, if_neg h]
  rfl

/-- The place after the instruction of a restored clause: the next word, or the clause's end (R72). -/
theorem advance_restoredTeam_place (x : TrapState) (t : Team) {d : Clause} (hx : x.clause = some d) :
    if d.idx + 1 < d.words.length
    then (advance (restoredTeam x t)).clause = some { d with idx := d.idx + 1, pipe := none } ∧ (advance (restoredTeam x t)).pc = x.pc
    else (advance (restoredTeam x t)).clause = none ∧ (advance (restoredTeam x t)).pc = nextHeader d % 2 ^ 64 := by
  have hc : (restoredTeam x t).clause = some { d with pipe := none } := by simp [restoredTeam, hx]
  unfold advance
  simp only [hc]
  split
  · exact ⟨rfl, rfl⟩
  · exact ⟨rfl, congrArg (· % 2 ^ 64) (by simp [nextHdr, nextHeader]; omega)⟩

/-- What both ways to go on leave as restored. -/
theorem field_of_either {α : Type} (g : Team → α) (hg : ∀ t, g (advance t) = g t) (b : Bool) (t : Team) :
    g (if b then t else advance t) = g t := by
  cases b
  · exact hg t
  · rfl

theorem trap_of_tret {f : SYS} {s : State} {c : Clause} (hi : Issues (.tret f) s c)
    (h : s.cur.handler = none ∨ (f.imm.getLsbD 0 = true ∧ s.cur.trapcause.getLsbD 16 = false)) :
    exec (.tret f) s = .next (takeTrap s (c.hdr + 8 * (c.idx + 1)) { cause := 3, detail := 3 } .instr) := by
  refine exec_eq_takeTrap hi rfl ?_
  cases hh : s.cur.handler with
  | none => rfl
  | some x =>
    obtain ⟨hf, hr⟩ := h.resolve_left (by simp [hh])
    simp only [hf, hr, Bool.not_false, Bool.and_self, if_true]

theorem exec_tret {f : SYS} {s : State} {c : Clause} {x : TrapState} (hi : Issues (.tret f) s c) (hh : s.cur.handler = some x)
    (hk : x.kind = .instr) (hr : f.imm.getLsbD 0 = true → s.cur.trapcause.getLsbD 16 = true) :
    exec (.tret f) s
      = .next (modCur s (fun t => if f.imm.getLsbD 0 then restoredTeam x t else advance (restoredTeam x t))) := by
  have hx : exec (.tret f) s = ok (issue (.tret f) s _) := rfl
  have hno : (f.imm.getLsbD 0 && !s.cur.trapcause.getLsbD 16) = false := by
    cases hb : f.imm.getLsbD 0
    · rfl
    · rw [hr hb]; rfl
  rw [hx, issue_of_issues hi]
  simp only [hh, hno, hk, replayWaits, Bool.and_false, Bool.false_eq_true, if_false, finish_leave, restoreTrap_of_instr hk]

/-- Settles O7: the trap where there is nothing to return to, and else the restored team, at its instruction or after it. -/
theorem returnFromTrap : Obligations.ReturnFromTrap := by
  intro f s c hi
  refine ⟨trap_of_tret hi, fun x hh hk hr => ⟨_, exec_tret hi hh hk hr, ?_⟩⟩
  have keep {α : Type} (g : Team → α) (hg : ∀ t, g (advance t) = g t) := field_of_either g hg (f.imm.getLsbD 0) (restoredTeam x s.cur)
  have hR := keep (·.r) Machine.advance_r
  refine ⟨fun l hl hw => ?_, fun k hk0 => ?_, congrArg Regs.stack hR, keep (·.compact) Machine.advance_compact, keep (·.force) Machine.advance_force,
    keep (·.handler) Machine.advance_handler, keep (·.status) Machine.advance_status, ?_, fun k => ?_, fun n l => ?_,
    keep (·.flags) Machine.advance_flags, rfl, sameBytes_modCur s _⟩
  · rw [← mreg_zero_restoredTeam x s.cur hl hw]
    exact congrArg (fun r : Regs => (r.mget 0).getLsbD l) hR
  · rw [← mreg_restoredTeam_of_ne x s.cur hk0]
    exact congrArg (·.mget k) hR
  · cases hb : f.imm.getLsbD 0
    · exact fun d hd => by simpa [hb] using advance_restoredTeam_place x s.cur hd
    · exact ⟨rfl, rfl⟩
  · exact congrArg (·.sget k) hR
  · exact congrArg (·.vget n l) hR

end Sys2Proof.Proofs.TrapReturn

/-! # nop, yield, layout forces, pmark, waitf and exit (R79, R121, R130, R134) -/

namespace Sys2Proof.Proofs.PlainControl

open Sys2Proof Sys2Proof.Machine Sys2Proof.Claims Sys2Proof.Proofs.Issuing

/-- Memory that is the same reads the same. -/
theorem sameBytes_of_mem {s t : State} (h : t.mem = s.mem) : SameBytes s t := by
  intro a
  constructor
  · unfold globalByte locate homeByte resident? siteOf
    rw [h]
  · unfold vaultByte
    rw [h]

/-! ## Instructions that change at most the current team -/

/-- An instruction whose effect is a change of its team completes with the change made, its team gone on. -/
theorem completes_of_team {i : Instr} {s : State} {c : Clause} {eff : State → Res} {g : Team → Team} (hi : Issues i s c)
    (hd : s.cur.dying = []) (hx : exec i s = ok (issue i s eff)) (he : eff s = .done (modCur s g)) (hgd : (g s.cur).dying = s.cur.dying)
    (hc : (g s.cur).clause = s.cur.clause) (hpc : (g s.cur).pc = s.cur.pc) :
    Completes i s (fun t => t.cur = advance (g s.cur) ∧ beyondPlace t.cur = beyondPlace (g s.cur) ∧ GoesOn c s.cur t.cur
      ∧ others t = others s) :=
  completes_of_done hi hx he (hgd.trans hd) ⟨rfl, beyondPlace_advance _, goesOn_advance (hc.trans hi.clause) hpc, rfl⟩

theorem completes_of_nothing {i : Instr} {s : State} {c : Clause} {eff : State → Res} (hi : Issues i s c) (hd : s.cur.dying = [])
    (hx : exec i s = ok (issue i s eff)) (he : eff s = .done s) :
    Completes i s (fun t => beyondPlace t.cur = beyondPlace s.cur ∧ GoesOn c s.cur t.cur ∧ others t = others s) :=
  completes_of_done hi hx he hd ⟨beyondPlace_advance _, goesOn_advance hi.clause rfl, rfl⟩

theorem completes_of_stall {i : Instr} {s : State} {c : Clause} {eff : State → Res} (hi : Issues i s c)
    (hx : exec i s = ok (issue i s eff)) (he : eff s = .stall s) :
    Completes i s (fun t => t.cur = stallTeam s.cur ∧ others t = others s) :=
  ⟨modCur s stallTeam, by rw [hx, issue_of_issues hi, he, finish_stall], rfl, rfl⟩

/-! ## pmark (R134) -/

/-- What `pmark` makes of its team. -/
def marked (f : SR) (t : Team) : Team := if t.preempt then { t with pmark := some (f.imm.toNat % 256, f.imm.toNat / 256 % 4) } else t

theorem marked_eq (f : SR) (t : Team) :
    marked f t = { t with pmark := if t.preempt then some (f.imm.toNat % 256, f.imm.toNat / 256 % 4) else t.pmark } := by
  unfold marked; split <;> rfl

theorem pmark_completes {f : SR} {s : State} {c : Clause} (hi : Issues (.pmark f) s c) (hd : s.cur.dying = []) :
    Completes (.pmark f) s (fun t =>
      t.cur.pmark = (if s.cur.preempt then some (f.imm.toNat % 2 ^ 8, f.imm.toNat / 2 ^ 8 % 2 ^ 2) else s.cur.pmark)
      ∧ beyondPlace t.cur = { beyondPlace s.cur with pmark := t.cur.pmark } ∧ GoesOn c s.cur t.cur ∧ others t = others s) := by
  obtain ⟨t, ht, hcur, hb, hgo, ho⟩ := completes_of_team (g := marked f) hi hd rfl rfl
    (by rw [marked_eq]) (by rw [marked_eq]) (by rw [marked_eq])
  have hp : t.cur.pmark = (marked f s.cur).pmark := by rw [hcur, advance_pmark]
  rw [marked_eq] at hb hp
  exact ⟨t, ht, hp, hb.trans (by rw [hp]; rfl), hgo, ho⟩

/-! ## waitf (R79, R81, log 66) -/

/-- A point with no fault pending observes nothing (R196). -/
theorem observe_of_no_fault {cov : Op → Bool} {s : State} {k : State → Res} (h : s.cur.deferred = []) : observe cov s k = k s := by
  simp [observe, firstDeferred, h]

/-- An operation that the wait covers is one of its flag, issued before the last n. -/
theorem waitCovers_eq_false {t : Team} {f n : Nat} {o : Op} (h : o.flag ≠ some f ∨ NMap.get 0 t.issued f < n + o.seq) :
    waitCovers t f n o = false := by
  unfold waitCovers
  rcases h with h | h
  · simp [h]
  · simp only [Nat.not_le.mpr h, decide_false, Bool.and_false]

theorem waitMet_of_none_covered {t : Team} {f n : Nat} (hf : flagCount t f ≤ n)
    (h : ∀ o, o ∈ t.ops → o.flag ≠ some f ∨ NMap.get 0 t.issued f < n + o.seq) : waitMet t f n = true := by
  have ha : t.ops.any (waitCovers t f n) = false := List.any_eq_false.mpr fun o ho => by simp [waitCovers_eq_false (h o ho)]
  simp [waitMet, hf, ha]

theorem waitMet_of_count {t : Team} {f n : Nat} (hf : n < flagCount t f) : waitMet t f n = false := by
  simp [waitMet, hf]

/-! ## A team's end (R121, R132) -/

/-- The register queues hold at most what they held, and neither the current team nor memory changed. -/
structure Drained (s u : State) : Prop where
  cur : u.cur = s.cur
  mem : u.mem = s.mem
  regq : ∀ k q, q ∈ (cellOf u k).regq → q ∈ (cellOf s k).regq

theorem Drained.rfl {s : State} : Drained s s := ⟨.refl _, .refl _, fun _ _ h => h⟩

theorem Drained.trans {s u v : State} (h : Drained s u) (g : Drained u v) : Drained s v :=
  ⟨g.cur.trans h.cur, g.mem.trans h.mem, fun k q hq => h.regq k q (g.regq k q hq)⟩

theorem regq_modCell {s : State} {k n : Nat} {p : Nat × Nat → Bool} :
    (cellOf (modCell s k (fun c => { c with regq := c.regq.filter p })) n).regq
      = if n = k then (cellOf s k).regq.filter p else (cellOf s n).regq := by
  unfold cellOf modCell
  rw [NMap.get_modify]
  split <;> rfl

/-- Filtering one register queue drains. -/
theorem drained_filter (s : State) (k : Nat) (p : Nat × Nat → Bool) :
    Drained s (modCell s k (fun c => { c with regq := c.regq.filter p })) := by
  refine ⟨rfl, rfl, fun n q hq => ?_⟩
  rw [regq_modCell] at hq
  split at hq
  · subst n; exact (List.mem_filter.mp hq).1
  · exact hq

/-- Steps that drain, drain together. -/
theorem drained_foldl {β : Type} {f : State → β → State} {s : State} : (l : List β) → (u : State) → Drained s u →
    (∀ b ∈ l, ∀ v, Drained s v → Drained v (f v b)) → Drained s (l.foldl f u)
  | [], _, hu, _ => hu
  | b :: l, u, hu, h => drained_foldl l (f u b) (hu.trans (h b List.mem_cons_self u hu)) fun b' hb' => h b' (List.mem_cons_of_mem b hb')

theorem drained_leaveRegq (s : State) (t : Team) : Drained s (leaveRegq s t) :=
  drained_foldl _ s .rfl fun _ _ v _ => drained_filter v _ _

/-- A team that left the register queues stands in none of its cells. -/
theorem not_mem_of_leaveRegq (t : Team) : (cs : List Nat) → (s : State) → ∀ c ∈ cs, ∀ q ∈ (cellOf (cs.foldl (fun s c =>
    modCell s (ckey t.die c) (fun k => { k with regq := k.regq.filter (fun q => q.1 != t.tid) })) s) (ckey t.die c)).regq, q.1 ≠ t.tid
  | [], _, _, hc => nomatch hc
  | b :: cs, s, c, hc => by
    rw [List.foldl_cons]
    obtain rfl | hc := List.mem_cons.mp hc
    · intro q hq
      have hq := (drained_foldl cs _ .rfl fun _ _ v _ => drained_filter v _ _).regq _ _ hq
      rw [regq_modCell, if_pos rfl] at hq
      simpa using (List.mem_filter.mp hq).2
    · exact not_mem_of_leaveRegq t cs _ c hc

/-- A grant to another team than the current one. -/
theorem drained_grantReg {s : State} {ck : Nat} (h : ∀ q ∈ (cellOf s ck).regq, q.1 ≠ s.cur.tid) : Drained s (grantReg s ck) := by
  unfold grantReg
  split
  · exact .rfl
  case h_2 tid n rest hq =>
    have hne : s.cur.tid ≠ tid := fun e => h (tid, n) (hq ▸ List.mem_cons_self) e.symm
    split
    · exact drained_filter s ck _
    case h_2 t ht =>
      split
      · obtain ⟨hcur, hmem, hregq⟩ := drained_leaveRegq s t
        refine ⟨?_, hmem, hregq⟩
        simp only [modTeam, hcur, beq_iff_eq, hne, if_false]
      · exact .rfl

/-- Granules are offered to other teams where the current one stands in no queue of theirs. -/
theorem drained_offerGranules {s : State} {die : Nat} {cs : List Nat}
    (h : ∀ c ∈ cs, ∀ q ∈ (cellOf s (ckey die c)).regq, q.1 ≠ s.cur.tid) : Drained s (offerGranules s die cs) :=
  drained_foldl _ s .rfl fun _ _ u hu => drained_foldl cs u .rfl fun c hc v hv =>
    drained_grantReg fun q hq => by
      have hv := hu.trans hv
      rw [hv.cur]
      exact h c hc q (hv.regq _ q hq)

/-- The team after its end. -/
def endedTeam (t : Team) : Team :=
  { freeBlocks t 0 with
    status := .ended, treeEnded := true, saveobs := none, clause := none, stalled := false, r := {}, sh := t.sh.map (fun _ => {}), ops := [], deferred := [],
    handler := none, stop := none, rays := [], absent := [], savebad := [], walks := [] }

/-- Team t's end goes up the panel tree, once (R357). -/
def endRaised (t : Team) (s : State) : State :=
  if t.treeEnded then s else { s with fabric := { s.fabric with msgs := s.fabric.msgs ++ [.treeEnd (gridKey s t) t.tid] } }

/-- `endTeam` in its steps: the queues are left, the end goes up the tree, the team is over, and its granules are offered. -/
theorem endTeam_eq (s : State) : endTeam s
    = offerGranules (modCur (endRaised s.cur (leaveRegq s s.cur)) endedTeam) s.cur.die (cellsOf s.cur) := rfl

theorem drained_endRaised (t : Team) (s : State) : Drained s (endRaised t s) := by
  unfold endRaised
  split
  · exact .rfl
  · exact ⟨rfl, rfl, fun _ _ h => h⟩

theorem endTeam_cur_mem (s : State) : (endTeam s).cur = endedTeam s.cur ∧ (endTeam s).mem = s.mem := by
  have hr := drained_endRaised s.cur (leaveRegq s s.cur)
  have hl := (drained_leaveRegq s s.cur).trans hr
  have ho : Drained (modCur (endRaised s.cur (leaveRegq s s.cur)) endedTeam) (endTeam s) := by
    refine drained_offerGranules fun c hc q hq => ?_
    rw [modCur_cur, hl.cur]
    exact not_mem_of_leaveRegq s.cur _ s c hc q (hr.regq _ q hq)
  exact ⟨by rw [ho.cur, modCur_cur, hl.cur], by rw [ho.mem, modCur_mem, hl.mem]⟩

theorem exit_completes {f : BR} {s : State} {c : Clause} (hi : Issues (.exit f) s c) (ho : s.cur.ops = []) (hf : s.cur.flags = [])
    (hd : s.cur.deferred = []) :
    Completes (.exit f) s (fun t => t.cur.status = .ended ∧ t.cur.tid = s.cur.tid ∧ t.cur.xblk = 0 ∧ t.cur.r = {} ∧ t.cur.clause = none
      ∧ SameBytes s t) := by
  have hx : exec (.exit f) s = ok (issue (.exit f) s _) := rfl
  have hq : quiet s.cur = true := by simp [quiet, ho, hf]
  obtain ⟨hcur, hmem⟩ := endTeam_cur_mem s
  refine ⟨endTeam s, ?_, ?_⟩
  · rw [hx, issue_of_issues hi]
    simp only [hq, if_true, observe_of_no_fault hd, finish_leave]
  · simp only [hcur]
    exact ⟨rfl, rfl, rfl, rfl, rfl, sameBytes_of_mem hmem⟩

/-- Settles O8: each instruction changes what its rule names and nothing else; a team that ends stands in no queue that is then offered its granules. -/
theorem plainControl : Obligations.PlainControl := by
  refine ⟨fun s c hd => ⟨fun f hi => completes_of_nothing hi hd rfl rfl, fun f hi => completes_of_nothing hi hd rfl rfl, fun f hi => ?_,
    fun f hi => ?_, fun f hi => pmark_completes hi hd⟩, fun s c => ⟨fun f hi => ⟨fun hf hdef hd hops => ?_, fun hf => ?_⟩, fun f hi =>
    ⟨exit_completes hi, fun ho => completes_of_stall hi rfl ?_⟩⟩⟩
  · obtain ⟨t, ht, hcur, hb, hgo, ho⟩ :=
      completes_of_team (g := fun t => { t with compact := true, force := .compacted }) hi hd rfl rfl rfl rfl rfl
    exact ⟨t, ht, by rw [hcur, advance_compact], by rw [hcur, advance_force], hb, hgo, ho⟩
  · obtain ⟨t, ht, hcur, hb, hgo, ho⟩ :=
      completes_of_team (g := fun t => { t with compact := false, force := .identity }) hi hd rfl rfl rfl rfl rfl
    exact ⟨t, ht, by rw [hcur, advance_compact], by rw [hcur, advance_force], hb, hgo, ho⟩
  · exact completes_of_nothing hi hd rfl ((if_pos (waitMet_of_none_covered hf hops)).trans (observe_of_no_fault hdef))
  · exact completes_of_stall hi rfl (if_neg (Bool.eq_false_iff.mp (waitMet_of_count hf)))
  · simp [quiet, ho]

end Sys2Proof.Proofs.PlainControl

/-! # A clause begins and continues (R73, R74, R77, R301) -/

namespace Sys2Proof.Proofs.Clauses

open Sys2Proof Sys2Proof.Machine Sys2Proof.Claims Sys2Proof.Proofs.Issuing Sys2Proof.Proofs.Moves Sys2Proof.Proofs.PlainControl

/-! ## The fields of a header word (R73) -/

theorem field_eq {n : Nat} (x : BitVec n) (h l : Nat) : field x h l = x.toNat / 2 ^ l % 2 ^ (h + 1 - l) := by
  rw [field, Nat.shiftRight_eq_div_pow]

theorem hdrCheck_eq (h : DWord) : hdrCheck h = hCheck h := by
  rw [hdrCheck, field_eq, hCheck]
  have := h.isLt
  omega

@[simp] theorem hdrClass_eq (h : DWord) : hdrClass h = hClass h := field_eq h 59 57
@[simp] theorem hdrCount_eq (h : DWord) : hdrCount h = hCount h + 1 := congrArg (· + 1) (field_eq h 56 53)
@[simp] theorem hdrSeta_eq (h : DWord) : hdrSeta h = hSeta h := field_eq h 40 37
@[simp] theorem hdrSetb_eq (h : DWord) : hdrSetb h = hSetb h := field_eq h 36 33
@[simp] theorem hdrSyn_eq (h : DWord) : hdrSyn h = hS h := BitVec.testBit_toNat h |>.symm

theorem testBit_hdrWait (h : DWord) {f : Nat} (hf : f < 12) : (hdrWait h).testBit f = hWait h f := by
  rw [hdrWait, field, hWait, Nat.testBit_mod_two_pow, Nat.testBit_shiftRight]
  simp [hf]

theorem headerFault_eq (h : DWord) : headerFault h = headerDetail h := by
  have hlow : (h.extractLsb' 0 32 ≠ 0) ↔ h.toNat % 2 ^ 32 ≠ 0 := by
    rw [ne_eq, ← BitVec.toNat_inj]
    simp
  simp only [headerFault, headerDetail, hdrCheck_eq, hdrClass_eq, hlow]

theorem terminator_eq (i : Instr) : terminator i = terminates i := by cases i <;> rfl

theorem misplaced_eq (ws : List DWord) : misplaced ws = misplacedWord ws := by
  have : isTerm = fun w => match decode w with | some i => terminates i | none => false := by
    funext w
    unfold isTerm
    cases decode w with
    | none => rfl
    | some i => exact terminator_eq i
  exact congrArg (ws.dropLast.find? ·) this

/-! ## A clause begins (R74, R77) -/

/-- A team that may begin a clause fetches it. -/
theorem exec_clauseBegin {s : State} (h : MayBegin s) : exec (.clauseBegin s.cur.tid) s = .next (beginClause (modCur s savedDone)) := by
  obtain ⟨hst, hdead, hredo, hc, hstop, hrun, hsyn, hdef⟩ := h
  have hx : exec (.clauseBegin s.cur.tid) s = execClauseBegin s.cur.tid s := rfl
  have hf : focus s s.cur.tid = s := focus_cur (by simp [hst])
  have hops : (modCur s savedDone).cur.ops = s.cur.ops := by
    simp only [modCur_cur, savedDone]; split <;> rfl
  have hsf : savedFault s.cur = none := by simp [savedFault, firstDeferred, hdef]
  rw [hx]
  unfold execClauseBegin
  simp only [hf, hst, hdead, hredo, hc, hstop, hrun, hsf, hsyn, firstDeferred, hdef]
  simp

@[simp] theorem savedDone_pc (t : Team) : (savedDone t).pc = t.pc := by unfold savedDone; split <;> rfl

theorem beginClause_of_headerDetail {s u : State} {h : DWord} {d : Nat} (hw : fetchWord s s.cur.pc = (.word h, u)) (hd : headerDetail h = some d) :
    beginClause s = takeTrap u u.cur.pc { cause := 2, detail := d, addr := h.toNat } .clause := by
  unfold beginClause
  simp only [hw, headerFault_eq, hd, illegalClause]

theorem beginClause_of_misplaced {s u v : State} {h w : DWord} {ws : List DWord} (hw : fetchWord s s.cur.pc = (.word h, u))
    (hd : headerDetail h = none) (hws : fetchWords (hCount h + 1) u ((s.cur.pc + 8) % 2 ^ 64) [] = (.inl ws, v)) (hm : misplacedWord ws = some w) :
    beginClause s = takeTrap v v.cur.pc { cause := 2, detail := 4, addr := w.toNat } .clause := by
  unfold beginClause
  simp only [hw, headerFault_eq, hd, hdrCount_eq, hws, misplaced_eq, hm, illegalClause]

theorem beginClause_of_words {s u v : State} {h : DWord} {ws : List DWord} (hw : fetchWord s s.cur.pc = (.word h, u))
    (hd : headerDetail h = none) (hws : fetchWords (hCount h + 1) u ((s.cur.pc + 8) % 2 ^ 64) [] = (.inl ws, v)) (hm : misplacedWord ws = none) :
    beginClause s = beginFetched v h ws := by
  unfold beginClause
  simp only [hw, headerFault_eq, hd, hdrCount_eq, hws, misplaced_eq, hm]

/-- The team begins clause c. -/
def inClause (c : Clause) (t : Team) : Team := { clearWait t with clause := some c }

theorem beginFetched_of_ready {v : State} {h : DWord} {ws : List DWord} {p : Pipe} (hwait : ∀ f, f < 12 → hWait h f = true → flagCount v.cur f = 0)
    (hdef : v.cur.deferred = []) (hmem : hClass h = 1 → memoryPipeHeld v v.cur = false) (hp : freePipe v v.cur (hClass h) = some p) :
    beginFetched v h ws = modCur v (inClause ⟨v.cur.pc, hClass h, ws, 0, hSeta h, hSetb h, hS h, some p⟩) := by
  have hw : ((List.range 12).filter (fun f => (hdrWait h).testBit f)).any (fun f => flagCount v.cur f != 0) = false := by
    refine List.any_eq_false.mpr fun f hf => ?_
    obtain ⟨hlt, hb⟩ := List.mem_filter.mp hf
    have hlt := List.mem_range.mp hlt
    simp [hwait f hlt (by rw [← testBit_hdrWait h hlt, hb])]
  have hm : ¬(hClass h = 1 ∧ memoryPipeHeld v v.cur = true) := fun ⟨h1, h2⟩ => by simp [hmem h1] at h2
  unfold beginFetched
  simp only [hw, firstDeferred, hdef, List.filter_nil, List.foldl_nil, hdrClass_eq, hm, hp, if_false, Bool.false_eq_true, hdrSeta_eq, hdrSetb_eq, hdrSyn_eq]
  rfl

/-! ## A clause goes on (R301) -/

/-- The team goes on in clause c with pipe p. -/
def repiped (c : Clause) (p : Pipe) (t : Team) : Team :=
  { savedDone t with stalled := false, slotwait := false, clause := some { c with pipe := some p } }

/-- A team in a clause without a pipe, with nothing saved and nothing to reissue, goes on where the cause has cleared and a pipe is free. -/
theorem exec_clauseContinue {s : State} {c : Clause} (hr : running s = some c) (hp : c.pipe = none) (hs : s.cur.saveobs = none)
    (hre : s.cur.redo = none) :
    exec (.clauseContinue s.cur.tid) s
      = .next (if causeStands s then s else (freePipe s s.cur c.cls).elim s (fun p => modCur s (repiped c p))) := by
  obtain ⟨hst, hc⟩ := running_eq hr
  have hdead : allDead s.cur = false := (Option.ite_none_right_eq_some.mp hr).1.2
  have hx : exec (.clauseContinue s.cur.tid) s = execClauseContinue s.cur.tid s := rfl
  have hf : focus s s.cur.tid = s := focus_cur (by simp [hst])
  have hsf : savedFault s.cur = none := by simp [savedFault, hs]
  have hturn : (s.cur.tid != s.cur.tid || s.cur.status != .running || c.pipe.isSome || allDead s.cur) = false := by
    simp [hst, hdead, hp]
  rw [hx]
  unfold execClauseContinue
  simp only [hf, hc, hturn, hre, hsf, Option.isSome_none, Bool.false_eq_true, if_false]
  cases freePipe s s.cur c.cls <;> rfl

theorem causeStands_of_waitf {s : State} {c : Clause} {f : SR} (hc : s.cur.clause = some c) (hs : s.cur.stalled = true)
    (hd : decode (c.words.getD c.idx 0) = some (.waitf f)) (hf : f.imm.toNat / 2 ^ 8 % 64 < flagCount s.cur (f.imm.toNat % 16)) :
    causeStands s = true := by
  have hi : currentInstr s.cur = some (.waitf f) := by rw [currentInstr, hc, Option.bind_some, hd]
  have hw : waitsOn s (.waitf f) = true := by
    show (!waitMet s.cur (f.imm.toNat % 16) (f.imm.toNat / 2 ^ 8 % 64)) = true
    rw [waitMet_of_count hf]; rfl
  simp [causeStands, hs, hi, hw]

theorem causeStands_of_cleared {s : State} {c : Clause} (hc : s.cur.clause = some c) (h : CauseCleared s c) : causeStands s = false := by
  rcases h with h | ⟨hslot, hq, hing, hops, hflags, f, hd⟩
  · simp [causeStands, h]
  · have hi : currentInstr s.cur = some (.waitf f) := by rw [currentInstr, hc, Option.bind_some, hd]
    have h0 (k : Nat) : flagCount s.cur k = 0 := by rw [flagCount, hflags]; rfl
    have hw : waitsOn s (.waitf f) = false := by
      simp [waitsOn, waitMet, h0, hops]
    have hl : interlocked s.cur (.waitf f) = false := by simp [interlocked, hops]
    have hwalk : walkPending s s.cur = false := by simp [walkPending, hq, hing]
    simp [causeStands, hslot, hwalk, hi, hw, hl, h0]
    cases (chk (curLaunch s).d.stage (.waitf f)).fs <;> simp

/-- Settles O17: the header's checks are those of the model's fetch, and a clause takes its pipe at its beginning or where the cause has cleared. -/
theorem clausesBegin : Obligations.ClausesBegin := by
  refine ⟨fun s h u hb hw => ?_, fun s h u ws v p hb hw hd hws hm hwait hdef hmem hp => ?_, fun s c p hr hp hs hre hcl hfree => ?_,
    fun s c f hr hp hs hre hst hd hf => ?_⟩
  · have hw : fetchWord (modCur s savedDone) (modCur s savedDone).cur.pc = (.word h, u) := by rw [modCur_cur, savedDone_pc, hw]
    refine ⟨fun d hd => ?_, fun hd ws v w hws hm => ?_⟩
    · rw [exec_clauseBegin hb, beginClause_of_headerDetail hw hd]
    · rw [exec_clauseBegin hb, beginClause_of_misplaced hw hd (by rwa [modCur_cur, savedDone_pc]) hm]
  · have hw : fetchWord (modCur s savedDone) (modCur s savedDone).cur.pc = (.word h, u) := by rw [modCur_cur, savedDone_pc, hw]
    refine ⟨_, (exec_clauseBegin hb).trans (congrArg _ ((beginClause_of_words hw hd (by rwa [modCur_cur, savedDone_pc]) hm).trans
      (beginFetched_of_ready hwait hdef hmem hp))), rfl, rfl, fun _ => rfl, fun _ => rfl, rfl⟩
  · have hsd : savedDone s.cur = s.cur := by simp [savedDone, hs]
    refine ⟨modCur s (repiped c p), ?_, rfl, rfl, ?_, ?_, ?_, rfl⟩
    · rw [exec_clauseContinue hr hp hs hre, causeStands_of_cleared (running_eq hr).2 hcl, hfree]; rfl
    all_goals simp only [modCur_cur, repiped, hsd]
  · rw [exec_clauseContinue hr hp hs hre, causeStands_of_waitf (running_eq hr).2 hst hd hf, if_pos rfl]

end Sys2Proof.Proofs.Clauses

/-! # The checks of an instruction word (R75, R85, R99, R101, R245) -/

namespace Sys2Proof.Proofs.WordChecks

open Sys2Proof Sys2Proof.Machine Sys2Proof.Proofs.Encoding Sys2Proof.Proofs.Moves
open Sys2Proof.Claims hiding groupOf

/-! ## What an opcode says -/

theorem groupOf_eq (w : DWord) : Claims.groupOf w = opcode w / 64 := by
  rw [Claims.groupOf, bits, opcode_eq]
  omega

theorem functionOf_eq (w : DWord) : functionOf w = opcode w % 64 := by
  rw [functionOf, bits, opcode_eq]
  omega

/-- `onlyIn` of an opcode. -/
def classOf (op : Nat) : Option Nat :=
  if op / 64 = 0x07 ∧ (op % 64 = 0x0E ∨ op % 64 = 0x0F) then some 0
  else if op / 64 ≤ 0x07 then none
  else if op / 64 ≤ 0x13 ∨ 0x3C ≤ op / 64 then some 0
  else if op / 64 ≤ 0x1C then some 1
  else if op / 64 = 0x27 ∧ op % 64 ≤ 0x02 then none
  else some 2

theorem onlyIn_eq (w : DWord) : onlyIn w = classOf (opcode w) := by
  unfold onlyIn classOf
  rw [groupOf_eq, functionOf_eq]

/-- `needsPriv` of an opcode. -/
def privOf (op : Nat) : Bool := op / 64 == 0x27 && decide (0x08 ≤ op % 64)

theorem needsPriv_eq (w : DWord) : needsPriv w = privOf (opcode w) := by
  rw [needsPriv, groupOf_eq, functionOf_eq, privOf]

/-- The entries that check their fields alike: the arms of `fieldChecks`. -/
inductive Family where
  | alu | unary | immediate | branch (f : Nat) | mask | wait | vector (sat : Bool) | access (vault store : Bool) | atomic (op : Nat) | copy

def familyOf (op : Nat) : Option Family :=
  let g := op / 64
  let f := op % 64
  if g = 0x01 ∨ (g = 0x02 ∧ (f ≤ 0x06 ∨ f = 0x0C ∨ f = 0x0D)) ∨ (g = 0x03 ∧ f ≤ 0x09) ∨ (g = 0x04 ∧ f ≤ 0x0B) then some .alu
  else if g = 0x02 ∧ (f = 0x08 ∨ f = 0x0E ∨ f = 0x0F ∨ f = 0x10) then some .unary
  else if g = 0x02 then some .immediate
  else if g = 0x06 then some (.branch f)
  else if g = 0x07 ∧ (0x08 ≤ f ∧ f ≤ 0x0B) then some .mask
  else if g = 0x07 ∧ f = 0x01 then some .wait
  else if g = 0x08 ∧ f ≤ 0x06 ∨ g = 0x09 then some (.vector (g == 0x08 && decide (f ≤ 0x02)))
  else if g = 0x14 ∧ f ≤ 0x07 ∨ g = 0x18 ∧ f ≤ 0x07 then some (.access (g == 0x18) (decide (4 ≤ f)))
  else if g = 0x1A then some (.atomic (f / 4))
  else if g = 0x21 ∧ f = 0 then some .copy
  else none

/-- What `fieldChecks` says of a family's words. -/
def Family.onWord (w : DWord) : Family → Checks345 :=
  let is (h l : Nat) : Bool := bits w h l != 0
  fun
  | .alu => ⟨w.toNat.testBit 32 || (if w.toNat.testBit 39 then is 38 33 else is 31 0), false, false⟩
  | .unary => ⟨is 38 32 || is 31 0, w.toNat.testBit 39, false⟩
  | .immediate => ⟨is 45 40 || is 38 32, !w.toNat.testBit 39, false⟩
  | .branch f => match f with
    | 0x00 => ⟨is 51 46 || is 45 44, false, false⟩
    | 0x01 | 0x02 => ⟨false, decide (2 ≤ bits w 45 44), false⟩
    | 0x03 | 0x04 => ⟨false, decide (2 ≤ bits w 45 44) || is 51 49, false⟩
    | 0x05 | 0x07 => ⟨is 45 44, false, false⟩
    | 0x06 => ⟨is 45 44 || is 43 0, false, false⟩
    | 0x10 | 0x14 => ⟨is 45 44, is 51 49, false⟩
    | 0x11 | 0x13 => ⟨is 51 46 || is 45 44, false, false⟩
    | _ => ⟨is 51 46 || is 45 44 || is 43 0, false, false⟩
  | .mask => ⟨w.toNat.testBit 32 || is 31 0, w.toNat.testBit 39 || is 51 49 || is 45 43 || is 38 36, false⟩
  | .wait => ⟨is 51 40 || is 38 32, !w.toNat.testBit 39 || decide (12 ≤ bits w 3 0) || is 7 4 || is 31 14, false⟩
  | .vector sat =>
    let ty := bits w 51 49
    let w64 := ty == 4 || ty == 5
    ⟨w.toNat.testBit 9 || w.toNat.testBit 7 || (w.toNat.testBit 8 && !sat),
      !(ty == 0 || ty == 1 || w64) || is 3 0 || badSource w64 w 26 || badSource w64 w 10,
      w64 && (oddSource w 26 || oddSource w 10 || w.toNat.testBit 42)⟩
  | .access vault store =>
    let n := bits w 51 49
    ⟨!w.toNat.testBit 53 && is 35 29,
      n == 7 || (store && decide (5 ≤ n)) || decide (6 ≤ bits w 24 22) || (vault && (decide (4 ≤ bits w 24 22) || is 21 20)),
      (n == 3 && w.toNat.testBit 42) || (n == 4 && is 43 42)⟩
  | .atomic op =>
    let n := bits w 51 49
    let wide := n == 3 || n == 6 || n == 1
    ⟨!w.toNat.testBit 53 && is 35 29,
      decide (6 ≤ bits w 24 22) || !(if op = 8 then n == 0 || n == 1 else n == 2 || n == 3 || (decide (op ≤ 2) && (n == 5 || n == 6))),
      if op = 7 then (if wide then is 43 42 else w.toNat.testBit 42) else wide && w.toNat.testBit 42⟩
  | .copy => ⟨is 15 0, decide (3 ≤ bits w 19 16) || decide (6 ≤ bits w 23 21), false⟩

theorem fieldChecks_eq (w : DWord) : fieldChecks w = (familyOf (opcode w)).map (·.onWord w) := by
  unfold fieldChecks familyOf
  simp only [groupOf_eq, functionOf_eq, apply_ite (Option.map fun a => Family.onWord w a), Option.map_some, Option.map_none]
  rfl

/-- What the model's table of checks says of a family's words. -/
def Family.chk (w : DWord) : Family → Chk :=
  let sr := unpackSR (w.extractLsb' 0 52)
  let br := unpackBR (w.extractLsb' 0 52)
  let vr := unpackVR (w.extractLsb' 0 52)
  let mem := unpackMEM (w.extractLsb' 0 54)
  let eng := unpackENG (w.extractLsb' 0 52)
  fun
  | .alu => chkSR2 sr
  | .unary => { rsv := sr.sb != 0 || sr.rsv || sr.imm != 0, ill := sr.i }
  | .immediate => { rsv := sr.sa != 0 || sr.sb != 0 || sr.rsv, ill := !sr.i }
  | .branch f => match f with
    | 0x00 => { rsv := br.creg != 0 || br.ckind != 0 }
    | 0x01 | 0x02 => { ill := decide (2 ≤ br.ckind.toNat) }
    | 0x03 | 0x04 => { ill := decide (2 ≤ br.ckind.toNat) || maskIll br.creg.toNat }
    | 0x05 | 0x07 => { rsv := br.ckind != 0 }
    | 0x06 => { rsv := br.ckind != 0 || br.off != 0 }
    | 0x10 | 0x14 => { rsv := br.ckind != 0, ill := maskIll br.creg.toNat }
    | 0x11 | 0x13 => { rsv := br.creg != 0 || br.ckind != 0 }
    | _ => { rsv := br.creg != 0 || br.ckind != 0 || br.off != 0 }
  | .mask => chkMask sr true
  | .wait => { rsv := sr.sd != 0 || sr.sa != 0 || sr.sb != 0 || sr.rsv
               ill := !sr.i || sr.imm.toNat / 16 % 16 != 0 || decide (16384 ≤ sr.imm.toNat) || decide (12 ≤ sr.imm.toNat % 16) }
  | .vector sat => chkVR vr tysInt true sat false (vr.mod != 0)
  | .access vault store => chkLdSt mem (if store then 4 else 6) vault (!store)
  | .atomic op => chkAtomic mem (if op = 8 then [0, 1] else if op ≤ 2 then [2, 3, 5, 6] else [2, 3]) (op == 7)
  | .copy => chkCopy eng (decide (3 ≤ eng.mod.toNat)) true false

/-! ## The tables' rows under their opcodes -/

/-- The class set that an opcode's class stands for. -/
def setOf : Option Nat → ClassSet
  | some 0 => .v
  | some 1 => .l
  | some 2 => .x
  | _ => .any

/-- Instruction i is issued and checked as opcode op and word w say. -/
structure Reads (i : Instr) (op : Nat) (w : DWord) : Prop where
  cls : classSet i = setOf (classOf op)
  priv : privileged i = privOf op
  issues : ∃ eff, ∀ s, exec i s = ok (issue i s eff)
  checks : ∀ stage, (familyOf op).map (·.chk w) = (familyOf op).map (fun _ => Machine.chk stage i)

theorem srOps_reads : ∀ e ∈ srOps, ∀ w, Reads (e.2 (unpackSR (w.extractLsb' 0 52))) e.1 w := by
  simp only [srOps, srOps0, srOps1, srOps2, srOps3, srOps4, srOps5, List.cons_append, List.nil_append, List.forall_mem_cons,
    List.not_mem_nil, false_implies, implies_true, and_true]
  repeat' apply And.intro
  all_goals exact fun _ => ⟨rfl, rfl, ⟨_, fun _ => rfl⟩, fun _ => rfl⟩

theorem brOps_reads : ∀ e ∈ brOps, ∀ w, Reads (e.2 (unpackBR (w.extractLsb' 0 52))) e.1 w := by
  simp only [brOps, brOps0, brOps1, List.cons_append, List.nil_append, List.forall_mem_cons, List.not_mem_nil,
    false_implies, implies_true, and_true]
  repeat' apply And.intro
  all_goals exact fun _ => ⟨rfl, rfl, ⟨_, fun _ => rfl⟩, fun _ => rfl⟩

theorem vrOps_reads : ∀ e ∈ vrOps, ∀ w, Reads (e.2 (unpackVR (w.extractLsb' 0 52))) e.1 w := by
  simp only [vrOps, vrOps0, vrOps1, vrOps2, vrOps3, vrOps4, List.cons_append, List.nil_append, List.forall_mem_cons, List.not_mem_nil,
    false_implies, implies_true, and_true]
  repeat' apply And.intro
  all_goals exact fun _ => ⟨rfl, rfl, ⟨_, fun _ => rfl⟩, fun _ => rfl⟩

theorem mxOps_reads : ∀ e ∈ mxOps, ∀ f w, Reads (e.2 f) e.1 w := by
  simp only [mxOps, mxOps0, mxOps1, List.cons_append, List.nil_append, List.forall_mem_cons, List.not_mem_nil,
    false_implies, implies_true, and_true]
  repeat' apply And.intro
  all_goals exact fun _ _ => ⟨rfl, rfl, ⟨_, fun _ => rfl⟩, fun _ => rfl⟩

theorem engOps_reads : ∀ e ∈ engOps, ∀ w, Reads (e.2 (unpackENG (w.extractLsb' 0 52))) e.1 w := by
  simp only [engOps, engOps0, List.forall_mem_cons, List.not_mem_nil, false_implies, implies_true, and_true]
  repeat' apply And.intro
  all_goals exact fun _ => ⟨rfl, rfl, ⟨_, fun _ => rfl⟩, fun _ => rfl⟩

theorem sysOps_reads : ∀ e ∈ sysOps, ∀ f w, Reads (e.2 f) e.1 w := by
  simp only [sysOps, sysOps0, sysOps1, List.cons_append, List.nil_append, List.forall_mem_cons, List.not_mem_nil,
    false_implies, implies_true, and_true]
  repeat' apply And.intro
  all_goals exact fun _ _ => ⟨rfl, rfl, ⟨_, fun _ => rfl⟩, fun _ => rfl⟩

/-- A MEM row stands under four opcodes, by OX and FS (R95). -/
theorem memOps_reads : ∀ e ∈ memOps, ∀ r ∈ [0, 1, 2, 3], ∀ w, Reads (e.2 (unpackMEM (w.extractLsb' 0 54))) (4 * e.1 + r) w := by
  simp only [memOps, memOps0, memOps1, memOps2, List.cons_append, List.nil_append, List.forall_mem_cons, List.not_mem_nil,
    false_implies, implies_true, and_true]
  repeat' apply And.intro
  all_goals exact fun _ => ⟨rfl, rfl, ⟨_, fun _ => rfl⟩, fun _ => rfl⟩

/-! ## The fields of a word as numbers -/

theorem toNat_extractLsb'_low (w : DWord) {n l k : Nat} (h : l + k ≤ n) :
    ((w.extractLsb' 0 n).extractLsb' l k).toNat = w.toNat / 2 ^ l % 2 ^ k := by
  rw [BitVec.extractLsb'_extractLsb'_of_le (by omega), BitVec.extractLsb'_toNat, Nat.shiftRight_eq_div_pow]

theorem getLsbD_extractLsb'_low (w : DWord) {n l : Nat} (h : l < n) : (w.extractLsb' 0 n).getLsbD l = w.toNat.testBit l := by
  rw [BitVec.getLsbD_extractLsb', Nat.zero_add, BitVec.testBit_toNat]
  simp [h]

theorem bne_zero {n : Nat} (x : BitVec n) : (x != 0) = (x.toNat != 0) := by
  rw [Bool.eq_iff_iff, bne_iff_ne, bne_iff_ne, ne_eq, ← BitVec.toNat_inj]
  simp

/-- What the table of checks and the word say is the same; alignment counts where no field is excluded (R99). -/
structure Agrees (k : Chk) (x : Checks345) : Prop where
  rsv : k.rsv = x.reserved
  ill : k.ill = x.excluded
  mis : x.excluded = false → k.mis = x.misaligned

/-! ## Each family's two sides (log 12) -/

theorem agrees_alu (w : DWord) : Agrees (Family.alu.chk w) (Family.alu.onWord w) := by
  refine ⟨?_, rfl, fun _ => rfl⟩
  simp (disch := decide) only [Family.chk, Family.onWord, chkSR2, unpackSR, bne_zero, toNat_extractLsb'_low, getLsbD_extractLsb'_low, bits]

theorem agrees_unary (w : DWord) : Agrees (Family.unary.chk w) (Family.unary.onWord w) := by
  refine ⟨?_, getLsbD_extractLsb'_low w (by decide), fun _ => rfl⟩
  simp (disch := decide) only [Family.chk, Family.onWord, unpackSR, bne_zero, toNat_extractLsb'_low, getLsbD_extractLsb'_low, bits]
  rw [Bool.eq_iff_iff]
  simp only [Nat.testBit_eq_decide_div_mod_eq, Bool.or_eq_true, bne_iff_ne, decide_eq_true_eq]
  omega

theorem agrees_immediate (w : DWord) : Agrees (Family.immediate.chk w) (Family.immediate.onWord w) := by
  refine ⟨?_, congrArg (!·) (getLsbD_extractLsb'_low w (n := 52) (by decide)), fun _ => rfl⟩
  simp (disch := decide) only [Family.chk, Family.onWord, unpackSR, bne_zero, toNat_extractLsb'_low, getLsbD_extractLsb'_low, bits]
  rw [Bool.eq_iff_iff]
  simp only [Nat.testBit_eq_decide_div_mod_eq, Bool.or_eq_true, bne_iff_ne, decide_eq_true_eq]
  omega

theorem agrees_mask (w : DWord) : Agrees (Family.mask.chk w) (Family.mask.onWord w) := by
  refine ⟨?_, ?_, fun _ => rfl⟩
  · simp (disch := decide) only [Family.chk, Family.onWord, chkMask, unpackSR, bne_zero, toNat_extractLsb'_low, getLsbD_extractLsb'_low, bits]
    simp
  · simp (disch := decide) only [Family.chk, Family.onWord, chkMask, maskIll, unpackSR, toNat_extractLsb'_low, getLsbD_extractLsb'_low, bits]
    rw [Bool.eq_iff_iff]
    simp only [Nat.testBit_eq_decide_div_mod_eq, Bool.or_eq_true, bne_iff_ne, decide_eq_true_eq, Bool.true_and]
    omega

theorem agrees_wait (w : DWord) : Agrees (Family.wait.chk w) (Family.wait.onWord w) := by
  refine ⟨?_, ?_, fun _ => rfl⟩
  · simp (disch := decide) only [Family.chk, Family.onWord, unpackSR, bne_zero, toNat_extractLsb'_low, getLsbD_extractLsb'_low, bits]
    rw [Bool.eq_iff_iff]
    simp only [Nat.testBit_eq_decide_div_mod_eq, Bool.or_eq_true, bne_iff_ne, decide_eq_true_eq]
    omega
  · simp (disch := decide) only [Family.chk, Family.onWord, unpackSR, toNat_extractLsb'_low, getLsbD_extractLsb'_low, bits]
    rw [Bool.eq_iff_iff]
    simp only [Nat.testBit_eq_decide_div_mod_eq, Bool.or_eq_true, bne_iff_ne, decide_eq_true_eq, Bool.not_eq_true', decide_eq_false_iff_not,
      Nat.pow_zero, Nat.div_one]
    omega

theorem agrees_copy (w : DWord) : Agrees (Family.copy.chk w) (Family.copy.onWord w) := by
  refine ⟨?_, ?_, fun _ => rfl⟩
  · simp (disch := decide) only [Family.chk, Family.onWord, chkCopy, unpackENG, bne_zero, toNat_extractLsb'_low, getLsbD_extractLsb'_low, bits]
    simp
  · simp (disch := decide) only [Family.chk, Family.onWord, chkCopy, unpackENG, toNat_extractLsb'_low, bits, Bool.or_false]
    rfl

/-- A mask number's upper bits (R85). -/
theorem maskIll_bits (w : DWord) : maskIll (bits w 51 46) = (bits w 51 49 != 0) := by
  have h : w.toNat / 2 ^ 49 = w.toNat / 2 ^ 46 / 8 := (Nat.div_div_eq_div_mul _ (2 ^ 46) 8).symm
  have e : bits w 51 49 = bits w 51 46 / 8 := by
    unfold bits
    rw [h]
    omega
  rw [e, Bool.eq_iff_iff]
  simp only [maskIll, bne_iff_ne, decide_eq_true_eq]
  omega

theorem agrees_branch (f : Nat) (w : DWord) : Agrees ((Family.branch f).chk w) ((Family.branch f).onWord w) := by
  have hk : (unpackBR (w.extractLsb' 0 52)).ckind.toNat = bits w 45 44 := toNat_extractLsb'_low w (by decide)
  have hc : (unpackBR (w.extractLsb' 0 52)).creg.toNat = bits w 51 46 := toNat_extractLsb'_low w (by decide)
  have ho : (unpackBR (w.extractLsb' 0 52)).off.toNat = bits w 43 0 := toNat_extractLsb'_low w (by decide)
  constructor
  all_goals
    unfold Family.chk Family.onWord
    dsimp only
    split
  all_goals simp only [bne_zero, hk, hc, ho, maskIll_bits, implies_true]

/-! The 16 bits of a source field stand at bit l of the word (R86, R87). -/

/-- The source field at bit l. -/
def sourceAt (w : DWord) (l : Nat) : Src := unpackSrc ((w.extractLsb' 0 52).extractLsb' l 16)

theorem extractLsb'_sourceAt (w : DWord) {l j n : Nat} (h : l + 16 ≤ 52) (hj : j + n ≤ 16) :
    ((w.extractLsb' 0 52).extractLsb' l 16).extractLsb' j n = w.extractLsb' (l + j) n := by
  ext k hk
  simp only [BitVec.getElem_extractLsb', BitVec.getLsbD_extractLsb', Nat.zero_add]
  simp only [show j + k < 16 by omega, show l + (j + k) < 52 by omega, decide_true, Bool.true_and, Nat.add_assoc]

theorem bits_eq_extractLsb' (w : DWord) {l n h : Nat} (hn : h + 1 - l = n) : (w.extractLsb' l n).toNat = bits w h l := by
  rw [BitVec.extractLsb'_toNat, Nat.shiftRight_eq_div_pow, bits, hn]

theorem sourceAt_toNat (w : DWord) {l : Nat} (h : l + 16 ≤ 52) : (sourceAt w l).reg.toNat = bits w (l + 15) (l + 9)
    ∧ (sourceAt w l).pat.toNat = bits w (l + 8) (l + 6) ∧ (sourceAt w l).k.toNat = bits w (l + 5) l := by
  unfold sourceAt unpackSrc
  simp only [extractLsb'_sourceAt w h (j := 9) (n := 7) (by decide), extractLsb'_sourceAt w h (j := 6) (n := 3) (by decide),
    extractLsb'_sourceAt w h (j := 0) (n := 6) (by decide)]
  exact ⟨bits_eq_extractLsb' w (by omega), bits_eq_extractLsb' w (by omega), bits_eq_extractLsb' w (by omega)⟩

/-- REG[6] of a source field (R89). -/
theorem testBit_sourceAt (w : DWord) (l : Nat) : decide (64 ≤ bits w (l + 15) (l + 9)) = w.toNat.testBit (l + 15) := by
  have hl : l + 15 + 1 - (l + 9) = 7 := by omega
  have hd : w.toNat / 2 ^ (l + 15) = w.toNat / 2 ^ (l + 9) / 64 := by
    rw [Nat.div_div_eq_div_mul, Nat.pow_add 2 l 15, Nat.pow_add 2 l 9, Nat.mul_assoc]
  rw [Nat.testBit_eq_decide_div_mod_eq, hd, bits, hl]
  generalize w.toNat / 2 ^ (l + 9) = x
  rw [decide_eq_decide]
  omega

theorem srcIll_sourceAt (w64 : Bool) (w : DWord) {l : Nat} (h : l + 16 ≤ 52) :
    srcIll w64 (sourceAt w l).reg.toNat (sourceAt w l).pat.toNat (sourceAt w l).k.toNat = badSource w64 w l := by
  obtain ⟨hr, hp, hk⟩ := sourceAt_toNat w h
  rw [hr, hp, hk]
  unfold srcIll badSource
  rw [testBit_sourceAt]
  dsimp only
  generalize bits w (l + 8) (l + 6) = p
  by_cases h0 : p = 0
  · subst h0; rfl
  by_cases h4 : p = 4
  · subst h4; rfl
  by_cases h7 : p = 7
  · subst h7; rfl
  · simp [h0, h4, h7]

theorem srcMis_sourceAt (w64 : Bool) (w : DWord) {l : Nat} (h : l + 16 ≤ 52) :
    srcMis w64 (sourceAt w l).reg.toNat (sourceAt w l).pat.toNat = (w64 && oddSource w l) := by
  obtain ⟨hr, hp, -⟩ := sourceAt_toNat w h
  rw [srcMis, oddSource, hr, hp, patReg, Bool.and_assoc]

/-- The lowest bit of VD (R28). -/
theorem odd_bits (w : DWord) : (bits w 48 42 % 2 == 1) = w.toNat.testBit 42 := by
  rw [Nat.testBit_eq_decide_div_mod_eq, Bool.eq_iff_iff, bits]
  simp only [beq_iff_eq, decide_eq_true_eq]
  omega

/-- A 64-bit type is one of three, of which the integer instructions take two (R90). -/
theorem ty64_eq {ty : Nat} (h : ty ≠ 3) : ty64 ty = (ty == 4 || ty == 5) := by
  simp only [ty64, beq_eq_false_iff_ne.mpr h, Bool.false_or]

theorem agrees_vector (sat : Bool) (w : DWord) : Agrees ((Family.vector sat).chk w) ((Family.vector sat).onWord w) := by
  have hty : (unpackVR (w.extractLsb' 0 52)).ty.toNat = bits w 51 49 := toNat_extractLsb'_low w (by decide)
  have hvd : (unpackVR (w.extractLsb' 0 52)).vd.toNat = bits w 48 42 := toNat_extractLsb'_low w (by decide)
  have hmod : ((unpackVR (w.extractLsb' 0 52)).mod != 0) = (bits w 3 0 != 0) := by
    rw [bne_zero]
    exact congrArg (· != 0) (toNat_extractLsb'_low w (by decide))
  have ha : (unpackVR (w.extractLsb' 0 52)).a = sourceAt w 26 := rfl
  have hb : (unpackVR (w.extractLsb' 0 52)).b = sourceAt w 10 := rfl
  have hfs : (unpackVR (w.extractLsb' 0 52)).fs = w.toNat.testBit 9 := getLsbD_extractLsb'_low w (by decide)
  have hsat : (unpackVR (w.extractLsb' 0 52)).satna = w.toNat.testBit 8 := getLsbD_extractLsb'_low w (by decide)
  have hnb : (unpackVR (w.extractLsb' 0 52)).nb = w.toNat.testBit 7 := getLsbD_extractLsb'_low w (by decide)
  have hin (ty : Nat) : tysInt.contains ty = (ty == 0 || ty == 1 || (ty == 4 || ty == 5)) := by
    simp only [tysInt, List.contains_cons, List.contains_nil, Bool.or_false, Bool.or_assoc]
  refine ⟨?_, ?_, fun he => ?_⟩
  · simp only [Family.chk, Family.onWord, chkVR, hfs, hsat, hnb, Bool.not_true, Bool.not_false, Bool.true_and, Bool.false_and, Bool.or_false]
    rw [Bool.or_right_comm, Bool.and_comm]
  · simp only [Family.chk, Family.onWord, chkVR, hty, hmod, ha, hb, hin, srcIll_sourceAt _ w (l := 26) (by decide),
      srcIll_sourceAt _ w (l := 10) (by decide), Bool.true_and, Bool.false_and, Bool.or_false]
    by_cases h3 : bits w 51 49 = 3
    · simp [h3]
    · rw [ty64_eq h3]
  · have h3 : bits w 51 49 ≠ 3 := by
      rintro h3
      simp [Family.onWord, h3] at he
    simp only [Family.chk, Family.onWord, chkVR, hty, hvd, ha, hb, ty64_eq h3, srcMis_sourceAt _ w (l := 26) (by decide),
      srcMis_sourceAt _ w (l := 10) (by decide), odd_bits, Bool.true_and, Bool.not_false, Bool.and_or_distrib_left]

theorem mem_bits (w : DWord) : (unpackMEM (w.extractLsb' 0 54)).width.toNat = bits w 51 49 ∧ (unpackMEM (w.extractLsb' 0 54)).vd.toNat = bits w 48 42
    ∧ (unpackMEM (w.extractLsb' 0 54)).scope.toNat = bits w 24 22 ∧ (unpackMEM (w.extractLsb' 0 54)).fs = w.toNat.testBit 52
    ∧ voffRsv (unpackMEM (w.extractLsb' 0 54)) = (!w.toNat.testBit 53 && bits w 35 29 != 0)
    ∧ ((unpackMEM (w.extractLsb' 0 54)).policy != 0) = (bits w 21 20 != 0) := by
  refine ⟨toNat_extractLsb'_low w (by decide), toNat_extractLsb'_low w (by decide), toNat_extractLsb'_low w (by decide),
    getLsbD_extractLsb'_low w (by decide), ?_, ?_⟩
  · simp (disch := decide) only [voffRsv, unpackMEM, bne_zero, toNat_extractLsb'_low, getLsbD_extractLsb'_low, bits]
  · rw [bne_zero]
    exact congrArg (· != 0) (toNat_extractLsb'_low w (by decide))

/-- VD in quadruples (R28). -/
theorem quad_bits (w : DWord) : (bits w 48 42 % 4 != 0) = (bits w 43 42 != 0) := by
  rw [Bool.eq_iff_iff]
  simp only [bits, bne_iff_ne]
  omega

theorem agrees_access (vault store : Bool) (w : DWord) :
    Agrees ((Family.access vault store).chk w) ((Family.access vault store).onWord w) := by
  obtain ⟨hn, hvd, hsc, -, hox, hpol⟩ := mem_bits w
  have hlt : bits w 51 49 < 8 := Nat.mod_lt _ (by decide)
  have hwidth : decide ((if store then 4 else 6) < bits w 51 49) = (bits w 51 49 == 7 || (store && decide (5 ≤ bits w 51 49))) := by
    rw [Bool.eq_iff_iff]
    cases store <;> simp <;> omega
  refine ⟨hox, ?_, fun _ => ?_⟩
  · simp only [Family.chk, Family.onWord, chkLdSt, hn, hsc, hpol]
    rw [hwidth]
  · simp only [Family.chk, Family.onWord, chkLdSt, memMis, hn, hvd, odd_bits, quad_bits]

theorem agrees_atomic (op : Nat) (w : DWord) : Agrees ((Family.atomic op).chk w) ((Family.atomic op).onWord w) := by
  obtain ⟨hn, hvd, hsc, -, hox, -⟩ := mem_bits w
  refine ⟨hox, ?_, fun _ => ?_⟩
  · have hin : (if op = 8 then [0, 1] else if op ≤ 2 then [2, 3, 5, 6] else [2, 3]).contains (bits w 51 49)
        = (if op = 8 then bits w 51 49 == 0 || bits w 51 49 == 1
           else bits w 51 49 == 2 || bits w 51 49 == 3 || (decide (op ≤ 2) && (bits w 51 49 == 5 || bits w 51 49 == 6))) := by
      split_ifs with h8 h2
      · simp only [List.contains_cons, List.contains_nil, Bool.or_false]
      · simp only [h2, List.contains_cons, List.contains_nil, Bool.or_false, Bool.or_assoc, decide_true, Bool.true_and]
      · simp only [h2, List.contains_cons, List.contains_nil, Bool.or_false, decide_false, Bool.false_and]
    simp only [Family.chk, Family.onWord, chkAtomic, hn, hsc, hin]
    exact Bool.or_comm ..
  · have hodd : (bits w 48 42 % 2 != 0) = w.toNat.testBit 42 := by
      rw [← odd_bits, Bool.eq_iff_iff, bne_iff_ne, beq_iff_eq]
      omega
    simp only [Family.chk, Family.onWord, chkAtomic, hn, hvd, odd_bits, quad_bits, hodd, beq_iff_eq]

/-- The two sides of every family. -/
theorem agrees (fam : Family) (w : DWord) : Agrees (fam.chk w) (fam.onWord w) := by
  cases fam with
  | alu => exact agrees_alu w
  | unary => exact agrees_unary w
  | immediate => exact agrees_immediate w
  | branch f => exact agrees_branch f w
  | mask => exact agrees_mask w
  | wait => exact agrees_wait w
  | vector sat => exact agrees_vector sat w
  | access vault store => exact agrees_access vault store w
  | atomic op => exact agrees_atomic op w
  | copy => exact agrees_copy w

/-! ## Flag select (R79, R80) -/

/-- The families of loads and atomics list a destination. -/
def Family.lists : Family → Bool
  | .access _ store => !store
  | .atomic _ => true
  | _ => false

theorem listsDestination_eq {w : DWord} {fam : Family} (h : familyOf (opcode w) = some fam) : listsDestination w = fam.lists := by
  unfold listsDestination
  rw [groupOf_eq, functionOf_eq]
  unfold familyOf at h
  dsimp only at h
  rw [Bool.eq_iff_iff]
  simp only [Bool.or_eq_true, Bool.and_eq_true, beq_iff_eq, decide_eq_true_eq]
  split_ifs at h <;> cases h <;>
    simp only [Family.lists, Bool.not_eq_true', decide_eq_false_iff_not, Bool.false_eq_true, iff_false, iff_true] <;> omega

theorem dest_chk (fam : Family) (w : DWord) : (fam.chk w).dest = fam.lists := by
  cases fam with
  | branch f => unfold Family.chk; dsimp only; split <;> rfl
  | _ => rfl

theorem fs_chk {fam : Family} (w : DWord) (h : fam.lists = true) : (fam.chk w).fs = some (w.toNat.testBit 52) := by
  have hfs : (unpackMEM (w.extractLsb' 0 54)).fs = w.toNat.testBit 52 := getLsbD_extractLsb'_low w (by decide)
  cases fam with
  | access | atomic => exact congrArg some hfs
  | _ => cases h

/-! ## The trap (R99) -/

theorem sysWrite_reads (f : SR) (w : DWord) : Reads (sysWrite f) 0x141 w := by
  unfold sysWrite
  split_ifs
  all_goals exact ⟨rfl, rfl, ⟨_, fun _ => rfl⟩, fun _ => rfl⟩

theorem debugAccess_reads (f : SYS) (w : DWord) : Reads (debugAccess f) 0x9CB w := by
  unfold debugAccess
  split_ifs
  all_goals exact ⟨rfl, rfl, ⟨_, fun _ => rfl⟩, fun _ => rfl⟩

/-- Every opcode of the VF format is of class V and not under `fieldChecks` (R75, R92). -/
theorem vfOps_reads {op : Nat} (hop : 0xF00 ≤ op) : ∀ e ∈ vfOps, ∀ f w, Reads (e.2 f) op w := by
  have hc : classOf op = some 0 := by
    unfold classOf
    rw [if_neg (by omega), if_neg (by omega), if_pos (by omega)]
  have hp : privOf op = false := by
    simp only [privOf, Bool.and_eq_false_iff, beq_eq_false_iff_ne]
    omega
  have hf : familyOf op = none := by
    unfold familyOf
    dsimp only
    rw [if_neg (by omega), if_neg (by omega), if_neg (by omega), if_neg (by omega), if_neg (by omega), if_neg (by omega), if_neg (by omega),
      if_neg (by omega), if_neg (by omega), if_neg (by omega)]
  simp only [vfOps, vfOps0, List.forall_mem_cons, List.not_mem_nil, false_implies, implies_true, and_true]
  repeat' apply And.intro
  all_goals exact fun _ _ => ⟨by rw [hc]; rfl, by rw [hp]; rfl, ⟨_, fun _ => rfl⟩, fun _ => by rw [hf]; rfl⟩

theorem reads_of_wordOf {i : Instr} {w : DWord} (h : WordOf i w) : Reads i (opcode w) w := by
  cases h with
  | @sr n g hg f =>
    obtain ⟨hn, -, -⟩ : n < 4096 ∧ formatOf n = .sr ∧ n ≠ 0x141 := srOps_format _ (mem_of_rowOf hg)
    have hr := srOps_reads (n, g) (mem_of_rowOf hg) (BitVec.ofNat 12 n ++ packSR f)
    rw [fields_append, unpackSR_packSR] at hr
    rwa [opcode_append hn]
  | sysWrite f =>
    rw [show opcode (0x141#12 ++ packSR f) = 0x141 from opcode_append (by decide) _]
    exact sysWrite_reads f _
  | @br n g hg f =>
    obtain ⟨hn, -⟩ : n < 4096 ∧ formatOf n = .br := brOps_format _ (mem_of_rowOf hg)
    have hr := brOps_reads (n, g) (mem_of_rowOf hg) (BitVec.ofNat 12 n ++ packBR f)
    rw [fields_append, unpackBR_packBR] at hr
    rwa [opcode_append hn]
  | @vr n g hg f =>
    obtain ⟨hn, -⟩ : n < 4096 ∧ formatOf n = .vr := vrOps_format _ (mem_of_rowOf hg)
    have hr := vrOps_reads (n, g) (mem_of_rowOf hg) (BitVec.ofNat 12 n ++ packVR f)
    rw [fields_append, unpackVR_packVR] at hr
    rwa [opcode_append hn]
  | @vf n g hg f =>
    have hn : n < 16 := vfOps_key _ (mem_of_rowOf hg)
    have ho := opcode_vfWord hn (packVF f)
    exact vfOps_reads (by omega) (n, g) (mem_of_rowOf hg) f _
  | @mem n g hg f hox =>
    obtain ⟨hlo, hhi⟩ : 0x140 ≤ n ∧ n < 0x1D0 := memOps_key _ (mem_of_rowOf hg)
    have ho := opcode_memWord (n := n) (by omega) (packMEM f)
    have hop : opcode (BitVec.ofNat 10 n ++ packMEM f) = 4 * n + opcode (BitVec.ofNat 10 n ++ packMEM f) % 4 := by omega
    have hmod : opcode (BitVec.ofNat 10 n ++ packMEM f) % 4 ∈ [0, 1, 2, 3] := by
      simp only [List.mem_cons, List.not_mem_nil, or_false]
      omega
    have hr := memOps_reads (n, g) (mem_of_rowOf hg) _ hmod (BitVec.ofNat 10 n ++ packMEM f)
    rw [memFields, unpackMEM_packMEM] at hr
    exact hop ▸ hr
  | @mx n g hg f =>
    obtain ⟨hn, -⟩ : n < 4096 ∧ formatOf n = .mx := mxOps_format _ (mem_of_rowOf hg)
    rw [opcode_append hn]
    exact mxOps_reads (n, g) (mem_of_rowOf hg) f _
  | @eng n g hg f =>
    obtain ⟨hn, -⟩ : n < 4096 ∧ formatOf n = .eng := engOps_format _ (mem_of_rowOf hg)
    have hr := engOps_reads (n, g) (mem_of_rowOf hg) (BitVec.ofNat 12 n ++ packENG f)
    rw [fields_append, unpackENG_packENG] at hr
    rwa [opcode_append hn]
  | @sys n g hg f =>
    obtain ⟨hn, -, -⟩ : n < 4096 ∧ formatOf n = .sys ∧ n ≠ 0x9CB := sysOps_format _ (mem_of_rowOf hg)
    rw [opcode_append hn]
    exact sysOps_reads (n, g) (mem_of_rowOf hg) f _
  | debugAccess f =>
    rw [show opcode (0x9CB#12 ++ packSYS f) = 0x9CB from opcode_append (by decide) _]
    exact debugAccess_reads f _

theorem reads_of_encode {i : Instr} {w : DWord} (h : encode i = some w) : Reads i (opcode w) w := reads_of_wordOf (wordOf_of_encode h)

theorem admits_eq {i : Instr} {w : DWord} (h : Reads i (opcode w) w) (c : Nat) : admits c i = admitted c w := by
  have hc := h.cls
  unfold admits admitted
  rw [onlyIn_eq, hc]
  unfold classOf
  split_ifs <;> rfl

/-- A failing check of the word is a trap that holds the word (R99). -/
theorem exec_of_issueIllegal {i : Instr} {s : State} {c : Clause} {w : DWord} {d : Nat} (hr : running s = some c)
    (hd : issueIllegal s i c = some d) (hw : encode i = some w) :
    exec i s = .next (takeTrap s (c.hdr + 8 * (c.idx + 1)) { cause := 1, detail := d, addr := w.toNat } .instr) := by
  obtain ⟨eff, hx⟩ := (reads_of_encode hw).issues
  rw [hx]
  unfold issue
  simp only [hr, hd, hw, Option.getD_some]
  rfl

theorem issueIllegal_of_class {i : Instr} {w : DWord} (h : Reads i (opcode w) w) (s : State) (c : Clause) (ha : admitted c.cls w = false) :
    issueIllegal s i c = some 3 := by
  simp only [issueIllegal, admits_eq h, ha, Bool.not_false, if_true]

theorem issueIllegal_of_priv {i : Instr} {w : DWord} (h : Reads i (opcode w) w) (s : State) (c : Clause) (ha : admitted c.cls w = true)
    (hp : needsPriv w = true) (hl : (curLaunch s).d.priv = false) : issueIllegal s i c = some 7 := by
  have hi : privileged i = true := by rw [h.priv, ← needsPriv_eq, hp]
  simp only [issueIllegal, admits_eq h, ha, hi, hl, Bool.not_true, Bool.not_false, Bool.and_self, Bool.false_eq_true, if_false, if_true]

theorem privOf_of_family {op : Nat} {fam : Family} (h : familyOf op = some fam) : privOf op = false := by
  simp only [privOf, Bool.and_eq_false_iff, beq_eq_false_iff_ne]
  left
  rintro h27
  simp [familyOf, h27] at h

/-- Checks 3 to 6 of a family's word, in their order. -/
theorem issueIllegal_of_family {i : Instr} {w : DWord} {fam : Family} (h : Reads i (opcode w) w) (hf : familyOf (opcode w) = some fam) (s : State)
    (c : Clause) (ha : admitted c.cls w = true) :
    issueIllegal s i c = if (fam.onWord w).reserved then some 2 else if (fam.onWord w).excluded then some 5
      else if (fam.onWord w).misaligned then some 4
      else if listsDestination w && decide (12 ≤ (if w.toNat.testBit 52 then c.setb else c.seta)) then some 6 else none := by
  have hk : Machine.chk (curLaunch s).d.stage i = fam.chk w := by
    have := h.checks (curLaunch s).d.stage
    rw [hf] at this
    exact (Option.some.inj this).symm
  have hp : privileged i = false := by rw [h.priv, privOf_of_family hf]
  obtain ⟨hrsv, hill, hmis⟩ := agrees fam w
  rw [listsDestination_eq hf]
  simp only [issueIllegal, staticFault, admits_eq h, ha, hp, hk, hrsv, hill, dest_chk, Bool.not_true, Bool.false_and, Bool.false_eq_true, if_false]
  by_cases hr : (fam.onWord w).reserved = true
  · simp only [hr, if_true]
  by_cases he : (fam.onWord w).excluded = true
  · simp only [hr, he, if_true, if_false, Bool.false_eq_true]
  rw [hmis (Bool.eq_false_iff.mpr he)]
  by_cases hm : (fam.onWord w).misaligned = true
  · simp only [hr, he, hm, if_true, if_false, Bool.false_eq_true]
  simp only [hr, he, hm, if_false, Bool.false_eq_true]
  by_cases hl : fam.lists = true
  · simp only [fs_chk w hl]
  · simp only [Bool.eq_false_iff.mpr hl, Bool.false_and, Bool.false_eq_true, if_false]
    split <;> rfl

theorem step_of_no_instruction {s : State} {c : Clause} (hr : running s = some c) (hp : c.pipe.isSome = true) (hs : s.sched = [])
    (hd : decode (c.words.getD c.idx 0) = none) :
    step s = .next (settle (takeTrap s (c.hdr + 8 * (c.idx + 1)) { cause := 1, detail := 1, addr := (c.words.getD c.idx 0).toNat } .instr)) := by
  obtain ⟨hst, hc⟩ := running_eq hr
  have hn : nextMove s = .next (takeTrap s (instrPc c) { cause := 1, detail := 1, addr := (c.words.getD c.idx 0).toNat } .instr) := by
    have hnp : c.pipe.isNone = false := by simpa using hp
    unfold nextMove defaultMove teamTurn
    simp only [hs, midClause_of_pipe hst hc hp, hc, hnp, hd, hr, Option.isSome_some, if_true, if_false, Bool.false_eq_true]
  unfold step
  rw [hn]
  rfl

/-- Settles O14: an instruction is checked as its word says, family by family, and a check that fails is a trap that holds the word. -/
theorem illegalInstructionTraps : Obligations.IllegalInstructionTraps := by
  refine ⟨fun s c hr hp hs hd => step_of_no_instruction hr hp hs hd, fun i s c w hr hw => ?_,
    fun i s c d w hr hd hw => exec_of_issueIllegal hr hd hw⟩
  have h := reads_of_encode hw
  refine ⟨fun ha => exec_of_issueIllegal hr (issueIllegal_of_class h s c ha) hw,
    fun ha hp hl => exec_of_issueIllegal hr (issueIllegal_of_priv h s c ha hp hl) hw, fun k hk ha => ?_⟩
  rw [fieldChecks_eq] at hk
  obtain ⟨fam, hf, rfl⟩ := Option.map_eq_some_iff.mp hk
  have hi := issueIllegal_of_family h hf s c ha
  refine ⟨fun h1 => exec_of_issueIllegal hr (hi.trans ?_) hw, fun h1 h2 => exec_of_issueIllegal hr (hi.trans ?_) hw,
    fun h1 h2 h3 => exec_of_issueIllegal hr (hi.trans ?_) hw, fun h1 h2 h3 h4 h5 => exec_of_issueIllegal hr (hi.trans ?_) hw,
    fun h1 h2 h3 h4 => hi.trans ?_⟩
  · simp only [h1, if_true]
  · simp only [h1, h2, if_true, if_false, Bool.false_eq_true]
  · simp only [h1, h2, h3, if_true, if_false, Bool.false_eq_true]
  · simp only [h1, h2, h3, h4, h5, decide_true, Bool.and_self, if_true, if_false, Bool.false_eq_true]
  · simp only [h1, h2, h3, h4, Bool.false_and, if_false, Bool.false_eq_true]

end Sys2Proof.Proofs.WordChecks

/-! # Addresses checked as an access issues (R161, R162) -/

namespace Sys2Proof.Proofs.AddressChecks

open Sys2Proof Sys2Proof.Machine Sys2Proof.Claims

theorem permFault_eq_denied (l : Leaf) (w : Want) (priv : Bool) : permFault l w priv = denied l w priv := by
  unfold permFault denied
  cases w with
  | read => cases l.r <;> simp
  | write => cases l.w <;> simp
  | atomic => cases l.r <;> cases l.w <;> simp
  | fetch => cases l.x <;> simp; split_ifs <;> rfl

/-- What a fault and a place make of an address's check: the fault first, then the place, else a walk is due. -/
def verdict (fault : Option TrapInfo) (place : Option (Nat × Nat)) : AddrRes :=
  match fault with
  | some x => .bad x
  | none => match place with
    | some p => .good p.1 p.2
    | none => .miss

theorem checkGlobal_eq (s : State) (ck : Nat) (w : Want) (n : Nat) (cached lane : Option Nat) (va : Nat) :
    checkGlobal s ck w n cached lane va = verdict (globalFault s ck w n cached lane va) (globalPlace s ck va) := by
  unfold checkGlobal globalFault globalPlace
  by_cases h56 : 2 ^ 56 ≤ va
  · simp only [h56, if_true, verdict]
  by_cases hn : va % n = 0
  · simp only [h56, hn, if_false, ne_eq, not_true]
    cases transl s ck va with
    | miss => rfl
    | fail => rfl
    | hit l =>
      simp only [permFault_eq_denied]
      cases denied l w (curLaunch s).d.priv with
      | some d => rfl
      | none =>
        cases cached with
        | none => rfl
        | some d =>
          by_cases hm : l.mt = 0
          · simp only [hm, not_true, if_false, if_true, verdict]; rfl
          · simp only [hm, not_false_iff, if_false, if_true, verdict]
  · simp only [h56, hn, if_false, if_true, ne_eq, not_false_iff, verdict]

theorem checkVault_eq (key : Option Nat) (n : Nat) (lane : Option Nat) (va : Nat) :
    checkVault key n lane va = verdict (if va % n ≠ 0 then some { cause := 7, addr := va, lane := lane }
      else if key = none then some { cause := 8, addr := va, lane := lane } else none) (key.map (·, vaultMt)) := by
  unfold checkVault
  by_cases hn : va % n = 0
  · cases key <;> simp [hn, verdict]
  · simp [hn, verdict]

end Sys2Proof.Proofs.AddressChecks

/-! # s.ld and s.st (R78, R79, R115, R116, R301, R372) -/

namespace Sys2Proof.Proofs.ScalarAccesses

open Sys2Proof Sys2Proof.Machine Sys2Proof.Claims Sys2Proof.Proofs.Issuing Sys2Proof.Proofs.PlainControl Sys2Proof.Proofs.AddressChecks
open Sys2Proof.Proofs.Moves

/-! ## Bytes as numbers (R3) -/

theorem valBytes_eq (n x : Nat) : valBytes n x = (List.range n).map (fun j => BitVec.ofNat 8 (x / 2 ^ (8 * j))) := by
  induction n generalizing x with
  | zero => rfl
  | succ n ih =>
    rw [valBytes, ih, List.range_succ_eq_map, List.map_cons, List.map_map]
    refine congrArg₂ List.cons (by simp) (List.map_congr_left fun j _ => congrArg _ ?_)
    rw [Nat.div_div_eq_div_mul, show 256 = 2 ^ 8 from rfl, ← Nat.pow_add]
    congr 2
    simp only [Nat.succ_eq_add_one]
    omega

theorem testBit_bytesVal (d : List Byte) (j : Nat) : (bytesVal d).testBit j = (d.getD (j / 8) 0).getLsbD (j % 8) := by
  induction d generalizing j with
  | nil => simp [bytesVal]
  | cons b d ih =>
    rw [bytesVal, show 256 = 2 ^ 8 from rfl, Nat.add_comm, Nat.testBit_two_pow_mul_add _ b.isLt]
    split_ifs with h
    · rw [Nat.div_eq_of_lt h, Nat.mod_eq_of_lt h]; rfl
    · obtain ⟨k, rfl⟩ := Nat.exists_eq_add_of_le (Nat.not_lt.mp h)
      rw [Nat.add_sub_cancel_left, ih, Nat.add_mod_left, Nat.add_div_left k (by decide : 0 < 8)]; rfl

/-! ## Issue -/

theorem scalarAddr_eq (f : SR) (n : Nat) (w : Want) (s : State) : scalarAddr f n w s = (scalarPlace s.cur f,
    verdict ((globalFault s (ckey s.cur.die s.cur.cell) w n none none (scalarPlace s.cur f)).map replayable)
      (globalPlace s (ckey s.cur.die s.cur.cell) (scalarPlace s.cur f))) := by
  have ha : (sreg s.cur f.sa.toNat + (if f.i then f.imm.signExtend 64 else sreg s.cur f.sb.toNat)).toNat = scalarPlace s.cur f := rfl
  unfold scalarAddr
  simp only [ha, checkGlobal_eq]
  cases globalFault s (ckey s.cur.die s.cur.cell) w n none none (scalarPlace s.cur f) with
  | some x => rfl
  | none => cases globalPlace s (ckey s.cur.die s.cur.cell) (scalarPlace s.cur f) <;> rfl

/-- The bytes with which a scalar access goes out: zeros to be filled by a load, the register's by a store. -/
def goesOut (t : Team) (f : SR) (n : Nat) (w : Want) : List Byte :=
  if w = .read then List.replicate n 0 else (List.range n).map (fun j => BitVec.ofNat 8 ((sreg t f.sd.toNat).toNat / 2 ^ (8 * j)))

theorem exec_scalar {i : Instr} {f : SR} {n : Nat} {w : Want}
    (h : (∃ k, i = .sLd k f ∧ n = loadSize k ∧ w = .read) ∨ (∃ k, i = .sSt k f ∧ n = storeSize k ∧ w = .write)) (s : State) :
    exec i s = ok (issue i s (fun s => scalarAccess i f n w (goesOut s.cur f n w) s)) := by
  rcases h with ⟨k, rfl, rfl, rfl⟩ | ⟨k, rfl, rfl, rfl⟩
  · cases k <;> rfl
  · have hb (t : Team) : goesOut t f (storeSize k) .write = valBytes (stBytes k) (sreg t f.sd.toNat).toNat := by
      rw [valBytes_eq]; cases k <;> rfl
    simp only [hb]
    cases k <;> rfl

theorem beyondOps_advance (t : Team) : beyondOps (advance t) = beyondOps t := by rw [beyondOps, beyondPlace_advance, beyondOps]

/-- A scalar access whose address fails its checks takes their trap, for replay (R115). -/
theorem trap_of_scalar {i : Instr} {f : SR} {n : Nat} {w : Want} {s : State} {c : Clause} {x : TrapInfo} (hi : Issues i s c)
    (hx : exec i s = ok (issue i s (fun s => scalarAccess i f n w (goesOut s.cur f n w) s)))
    (hf : globalFault s (ckey s.cur.die s.cur.cell) w n none none (scalarPlace s.cur f) = some x) :
    exec i s = .next (takeTrap s (c.hdr + 8 * (c.idx + 1)) (replayable x) .instr) :=
  exec_eq_takeTrap hi hx (by simp only [scalarAccess, scalarAddr_eq, hf, Option.map_some, verdict])

/-- The operation that a scalar access leaves to come (R115, R116). -/
def scalarOp (i : Instr) (t : Team) (c : Clause) (stream va pa mt : Nat) (d : List Byte) : Op :=
  { i := i, id := t.nextOp, pc := instrPc c, hdr := c.hdr, stream := stream, scope := 4, arg := [0], acc := [{ va := va, pa := pa, mt := mt, data := d }] }

/-- A scalar access whose address passes its checks joins the list. -/
theorem completes_of_scalar {i : Instr} {f : SR} {n : Nat} {w : Want} {s : State} {c : Clause} {pa mt : Nat} (hi : Issues i s c)
    (hx : exec i s = ok (issue i s (fun s => scalarAccess i f n w (goesOut s.cur f n w) s)))
    (hf : globalFault s (ckey s.cur.die s.cur.cell) w n none none (scalarPlace s.cur f) = none)
    (hp : globalPlace s (ckey s.cur.die s.cur.cell) (scalarPlace s.cur f) = some (pa, mt)) (hd : s.cur.dying = []) :
    Completes i s (fun t => t.cur.ops = s.cur.ops ++ [scalarOp i s.cur c (curLaunch s).d.stream (scalarPlace s.cur f) pa mt (goesOut s.cur f n w)]
      ∧ t.cur.flags = s.cur.flags ∧ GoesOn c s.cur t.cur ∧ beyondOps t.cur = beyondOps s.cur ∧ others t = others s) := by
  have hc : s.cur.clause.getD {} = c := by rw [hi.clause]; rfl
  refine completes_of_done hi hx (s' := addAccess s (scalarOpOf i (scalarPlace s.cur f) pa mt (goesOut s.cur f n w) s))
    (by simp only [scalarAccess, scalarAddr_eq, hf, hp, Option.map_none, verdict]) hd ⟨?_, ?_, goesOn_advance hi.clause rfl, ?_, rfl⟩
  · rw [modCur_cur, advance_ops, ← hc]; rfl
  · rw [modCur_cur, advance_flags]; rfl
  · rw [modCur_cur, beyondOps_advance]; rfl

/-! ## Completion of a team's own operation -/

/-- An order holds nothing back where nothing stands before the access (R250, R252, R253). -/
theorem ordersOf_of_nothingBefore {s : State} {o : Op} (h : NothingBefore s o.id o.stream) : ordersOf s.cur o = [] := by
  refine List.filterMap_eq_nil_iff.mpr fun e he => ?_
  split_ifs with hid
  · obtain ⟨hstream, hkind⟩ := h.2 e he hid
    have hf : fenceOf e = none := by
      unfold fenceOf
      split
      case h_1 f k ss r hi _ => exact absurd hi (hkind f (unpackENG 0)).1
      case h_2 f k ss r hi _ => exact absurd hi (hkind f (unpackENG 0)).2.1
      case h_3 f k ss r hi _ => exact absurd hi (hkind f (unpackENG 0)).2.2.1
      case h_4 a g hi => exact absurd hi (hkind (unpackMEM 0) g).2.2.2
      case h_5 => rfl
    have hs : (e.stream == o.stream) = false := by simpa using hstream
    have ho : orderScope e o = none := by
      unfold orderScope
      simp only [hf, hs, Bool.and_false, Bool.false_and, Bool.false_eq_true, if_false]
      split <;> rfl
    rw [ho]; rfl
  · rfl

theorem gateOpen_of_unheld {s : State} {o : Op} (h : Unheld s o) : gateOpen s o = true := by
  rcases h with h | h
  · have hu : unobserved s o = true := List.all_eq_true.mpr fun t ht => by simp [h.1 t ht]
    simp [gateOpen, hu, ordersOf_of_nothingBefore h]
  · exact h

/-- An operation is found by its number where no two have one. -/
theorem find_of_nodup {id : Nat} {o : Op} : {l : List Op} → (l.map (·.id)).Nodup → o ∈ l → o.id = id → l.find? (fun p => p.id == id) = some o
  | p :: l, hn, ho, hid => by
    obtain ⟨hp, hl⟩ := List.nodup_cons.mp hn
    obtain rfl | ho := List.mem_cons.mp ho
    · simp [hid]
    · have hne : p.id ≠ id := fun e => hp (List.mem_map.mpr ⟨o, ho, hid.trans e.symm⟩)
      rw [List.find?_cons_of_neg (by simpa using hne)]
      exact find_of_nodup hl ho hid

theorem exec_longLatencyCompletion {s u : State} {id : Nat} (hs : s.cur.status ≠ .absent) (h : completeOp s id = some u)
    (htid : u.cur.tid = s.cur.tid) (hu : u.cur.status ≠ .absent) : exec (.longLatencyCompletion s.cur.tid id) s = .next u := by
  have hx : exec (.longLatencyCompletion s.cur.tid id) s = ok (inTeam s s.cur.tid (fun s => completeOp s id)) := rfl
  have hf : focus u s.cur.tid = u := htid ▸ focus_cur hu
  rw [hx]
  unfold inTeam
  simp [focus_cur hs, hs, h, hf]

/-- An operation all of whose accesses are done completes with its result. -/
theorem completeMem_of_done {s : State} {o : Op} (hf : s.cur.ops.find? (fun p => p.id == o.id) = some o) (hd : ∀ a ∈ o.acc, a.done = true) :
    completeMem s o = finishMem s o := by
  have hu : undone o = [] := List.filter_eq_nil_iff.mpr fun a ha => by simp [hd a ha]
  have hs : stepsOf o.i [] = [] := by
    unfold stepsOf
    split <;> rfl
  unfold completeMem
  simp only [hu, hs, List.foldl_nil, hf]

/-- The completion of a performed access that nothing holds back, which met no lost member and no poison. -/
theorem completeOp_of_done {s : State} {id : Nat} {o : Op} (h : Stands s id o) (hm : memOp o.i = true) (he : isEngine o.i = false)
    (hd : ∀ a ∈ o.acc, a.done = true) (hk : o.kills = []) (hka : o.killAll = false) (hdy : (writeResult s o).cur.dying = []) :
    completeOp s id = some (modCur (writeResult s o) (fun t => retireOp t o)) := by
  obtain ⟨-, hn, ho, rfl, -, -, -, hun⟩ := h
  have hf := find_of_nodup hn ho rfl
  unfold completeOp
  simp only [hf, he, hm, gateOpen_of_unheld hun, if_true, Bool.false_eq_true, if_false, completeMem_of_done hf hd, finishMem, hka, doomLost, hk,
    List.isEmpty_nil]
  rw [boundary_of_no_death (by exact hdy)]

theorem retireOp_of_no_flag {t : Team} {o : Op} (h : o.flag = none) : retireOp t o = { t with ops := t.ops.filter (fun p => p.id != o.id) } := by
  rw [retireOp, h]

/-! ### The value of s.ld -/

theorem getLsbD_zeroExtended {d : List Byte} {j : Nat} (hj : j < 64) :
    (BitVec.ofNat 64 (bytesVal d)).getLsbD j = loadedBit false d.length (fun i => d.getD i 0) j := by
  rw [BitVec.getLsbD_ofNat, testBit_bytesVal, loadedBit]
  split_ifs with h
  · simp [hj]
  · rw [List.getD_eq_default _ _ (by omega)]
    simp

theorem getLsbD_signExtended (d : List Byte) (n : Nat) {j : Nat} (hj : j < 64) :
    ((BitVec.ofNat (8 * (n + 1)) (bytesVal d)).signExtend 64).getLsbD j = loadedBit true (n + 1) (fun i => d.getD i 0) j := by
  rw [BitVec.getLsbD_signExtend, loadedBit, BitVec.msb_eq_getLsbD_last, BitVec.getLsbD_ofNat, BitVec.getLsbD_ofNat, testBit_bytesVal, testBit_bytesVal]
  have hlast : (8 * (n + 1) - 1) / 8 = n ∧ (8 * (n + 1) - 1) % 8 = 7 := by omega
  rw [hlast.1, hlast.2]
  split_ifs with h
  · simp [hj, h]
  · simp [hj]

theorem getLsbD_extendScalar (k : LdW) {d : List Byte} (hd : d.length = loadSize k) {j : Nat} (hj : j < 64) :
    (extendScalar k (bytesVal d)).getLsbD j = loadedBit (loadSigned k) (loadSize k) (fun i => d.getD i 0) j := by
  cases k with
  | i8 => exact getLsbD_signExtended d 0 hj
  | i16 => exact getLsbD_signExtended d 1 hj
  | i32 => exact getLsbD_signExtended d 3 hj
  | b8 | b16 | b32 | b64 => exact hd ▸ getLsbD_zeroExtended hj

theorem ld_completes {s : State} {id : Nat} {o : Op} {a : Acc} {k : LdW} {f : SR} (h : Stands s id o) (ha : o.acc = [a]) (hdone : a.done = true)
    (hk : o.kills = []) (hka : o.killAll = false) (hfl : o.flag = none) (hdy : s.cur.dying = []) (hi : o.i = .sLd k f) :
    exec (.longLatencyCompletion s.cur.tid id) s = .next (modCur s (fun t =>
      { deliverScalar f.sd.toNat (extendScalar k (bytesVal a.data)) t with ops := t.ops.filter (fun p => p.id != id) })) := by
  have hw : writeResult s o = modCur s (deliverScalar f.sd.toNat (extendScalar k (bytesVal a.data))) := by
    unfold writeResult
    rw [hi, ha]; rfl
  have hc := completeOp_of_done h (by rw [hi]; rfl) (by rw [hi]; rfl) (by simp [ha, hdone]) hk hka (by rw [hw]; exact hdy)
  rw [hw] at hc
  obtain ⟨hst, -, -, rfl, -⟩ := h
  simp only [retireOp_of_no_flag hfl] at hc
  exact exec_longLatencyCompletion hst hc rfl hst

theorem st_completes {s : State} {n : Nat} {o : Op} {a : Acc} {k : StW} {f : SR} (h : Stands s n o) (ha : o.acc = [a]) (hdone : a.done = true)
    (hk : o.kills = []) (hka : o.killAll = false) (hfl : o.flag = none) (hab : s.cur.absent = []) (hdy : s.cur.dying = [])
    (hi : o.i = .sSt k f) :
    exec (.longLatencyCompletion s.cur.tid n) s = .next (modCur s (fun t => { t with ops := t.ops.filter (fun p => p.id != n) })) := by
  have hgave : o.gave = [] := h.2.2.2.2.2.1
  have hput (l : List Acc) (r : Regs) : l.foldl (fun r a => if o.pois.contains a.lane then poisonRegs 0 0 a.lane (o.pown.contains a.lane) r
      else putRegs 0 0 a.lane (id (bytesVal a.data)) r) r = r := by
    induction l with
    | nil => rfl
    | cons a l ih => rw [List.foldl_cons]; split_ifs <;> exact ih
  have hw : writeResult s o = s := by
    have hd : memDest o.i = (0, 0, id) := by rw [hi]; rfl
    have : writeResult s o = deliverMem s o := by unfold writeResult; rw [hi]
    rw [this]
    unfold deliverMem
    simp only [hd, prepDest, hab, hgave, List.isEmpty_nil, if_true, hput]
    show modCur s (fun t => { t with r := t.r, sh := t.sh.map (fun r => r) }) = s
    simp only [Option.map_id']
    rfl
  have hc := completeOp_of_done h (by rw [hi]; rfl) (by rw [hi]; rfl) (by simp [ha, hdone]) hk hka (by rw [hw]; exact hdy)
  rw [hw] at hc
  obtain ⟨hst, -, -, rfl, -⟩ := h
  simp only [retireOp_of_no_flag hfl] at hc
  exact exec_longLatencyCompletion hst hc rfl hst

/-! ## The interlock (R78, R301) -/

/-- The instructions that the statement names, with the register that they wait for. -/
theorem interlocked_of_named {t : Team} {i : Instr} {o : Op} {k : LdW} {f : SR} (ho : o ∈ t.ops) (hi : o.i = .sLd k f) (h63 : f.sd ≠ 63)
    (h : f.sd.toNat ∈ scalarReads i ++ scalarWrites i) : interlocked t i = true := by
  refine List.any_eq_true.mpr ⟨o, ho, ?_⟩
  rw [hi, Bool.and_eq_true, bne_iff_ne, List.contains_iff_mem]
  exact ⟨h63, h⟩

theorem stalls_of_interlocked {i : Instr} {s : State} {c : Clause} {eff : State → Res} (hx : exec i s = ok (issue i s eff)) (hr : running s = some c)
    (hill : issueIllegal s i c = none) (hoth : issueOther s.cur (chk (curLaunch s).d.stage i) = none) (hl : interlocked s.cur i = true) :
    Completes i s (fun t => t.cur = stallTeam s.cur ∧ others t = others s) := by
  refine ⟨modCur s stallTeam, ?_, rfl, rfl⟩
  rw [hx]
  unfold issue
  simp only [hr, hill, hoth, hl, if_true]

/-- Settles O29: the address is checked at issue, the value comes with the access's completion, and the interlock stands until then. -/
theorem scalarLoadsAndStores : Obligations.ScalarLoadsAndStores := by
  refine ⟨fun i f n w s c hform hi => ?_, fun s id o a h ha hdone hk hp hka hfl hab hdy => ⟨fun k f hform hlen => ?_, fun k f hform => ?_⟩,
    fun i s c o k f hr hill hoth ho hform h63 hnames => ?_⟩
  · have hx := exec_scalar hform s
    refine ⟨fun x hf => trap_of_scalar hi hx hf, fun pa mt hf hp hd => ?_⟩
    obtain ⟨t, ht, hops, hflags, hgo, hb, ho⟩ := completes_of_scalar hi hx hf hp hd
    exact ⟨t, ht, ⟨_, hops, rfl, rfl, rfl, rfl, rfl, rfl, rfl⟩, hflags, hgo, hb, ho⟩
  · refine ⟨_, ld_completes h ha hdone hk hka hfl hdy hform, fun hsd j hj => ?_, fun r hr => ?_, fun n hn => ?_, ?_, rfl, rfl, rfl, rfl⟩
    · have hne : f.sd.toNat ≠ 63 := fun e => hsd (BitVec.eq_of_toNat_eq e)
      rw [← getLsbD_extendScalar k hlen hj]
      exact congrArg (·.getLsbD j) ((sreg_deliverScalar_same _ _ s.cur).trans (if_neg hne))
    · refine ⟨r.sset f.sd.toNat (extendScalar k (bytesVal a.data)), by simp [hr], ?_, fun n hn => sget_sset_of_ne r hn _⟩
      exact (sget_sset_same r _ _).trans (sreg_deliverScalar_same _ _ s.cur).symm
    · exact sreg_deliverScalar_of_ne _ _ s.cur hn
    · exact beyondScalars_deliverScalar _ _ s.cur
  · exact ⟨_, st_completes h ha hdone hk hka hfl hab hdy hform, rfl, rfl⟩
  · rcases hnames with ⟨g, rfl, hg⟩ | ⟨g, rfl, hg⟩ | ⟨g, rfl, hg⟩
    · refine stalls_of_interlocked rfl hr hill hoth (interlocked_of_named ho hform h63 ?_)
      rcases hg with hg | hg <;> simp [scalarReads, scalarWrites, hg]
    · refine stalls_of_interlocked rfl hr hill hoth (interlocked_of_named ho hform h63 ?_)
      rcases hg with hg | ⟨hgi, hg⟩ | hg
      · simp [scalarReads, hg]
      · simp [scalarReads, hgi, hg]
      · simp [scalarWrites, hg]
    · refine stalls_of_interlocked rfl hr hill hoth (interlocked_of_named ho hform h63 ?_)
      simp [scalarReads, hg]

end Sys2Proof.Proofs.ScalarAccesses

/-! # Words of an access that come one by one (R81, R181) -/

namespace Sys2Proof.Proofs.WordsOneByOne

open Sys2Proof Sys2Proof.Machine Sys2Proof.Claims Sys2Proof.Proofs.Moves

/-- An `sw.read` of lane 0 that holds two performed accesses: the model's `sw.read` has one. -/
def doubleRead : Op :=
  { i := .swRead (unpackMEM 0), mask := 1, acc := [{ lane := 0, data := [1], done := true }, { lane := 1, data := [], done := true }] }

/-- A team of its own with that operation alone. -/
def reader : State := { cur := { status := .running, ops := [doubleRead] } }

theorem stands_doubleRead : Stands reader 0 doubleRead :=
  ⟨by decide, by decide, List.mem_singleton.mpr rfl, rfl, by decide, rfl, rfl, .inr (by decide +kernel)⟩

theorem delivered_doubleRead : delivered reader doubleRead = some (0, 4, [(0, 1)]) := by decide +kernel

/-- The operation offers no word before it completes, so that no home request changes anything. -/
theorem exec_homeRequest_reader (n : Nat) : exec (.homeRequest 0 0 n) reader = .next reader := by
  have ho : openOp reader 0 = some doubleRead := by decide +kernel
  have hg : stepGroups reader doubleRead = [] := by decide
  have hw : readyWords reader doubleRead = [] := by decide
  have hf : focus reader 0 = reader := focus_cur (s := reader) (by decide)
  have hx : exec (.homeRequest 0 0 n) reader = execHomeRequest 0 0 n reader := rfl
  rw [hx]
  unfold execHomeRequest inTeam
  simp [hf, ho, hg, hw]

/-- Refutes O34: an `sw.read` with two performed accesses delivers nothing by a home request, but the statement asks for the word of its
first access. -/
theorem not_accessesComplete : ¬ Obligations.AccessesComplete := by
  intro h
  obtain ⟨n, t, ht, hv, -⟩ := (h reader 0 doubleRead 0 4 [(0, 1)] stands_doubleRead (by decide) rfl rfl rfl rfl rfl delivered_doubleRead
    (by decide)).1 0 1 0 (List.mem_singleton.mpr rfl) (by decide)
  have he : t = reader := by
    have := (exec_homeRequest_reader n).symm.trans ht
    cases this; rfl
  rw [he] at hv
  exact absurd hv (by decide)

end Sys2Proof.Proofs.WordsOneByOne

/-! # A prefetch through a page of a reserved memory type (R161, R162, R285) -/

namespace Sys2Proof.Proofs.ReservedMemoryType

open Sys2Proof Sys2Proof.Machine Sys2Proof.Claims

/-- `prf` for the team at address 0. -/
def prefetch : MEM := unpackMEM 0

def prefetchClause : Clause := { cls := 1, words := [(encode (.prf prefetch)).getD 0], pipe := some .l }

/-- A team that runs it, with every lane active; its cell's TLB maps address 0 to memory type 3, which no walk gives (R285). -/
def prefetcher : State :=
  { cur := { status := .running, clause := some prefetchClause, r := ({} : Regs).mset 32 0 (lanesBelow 32) }
    cells := [(0, { utlb := [{ mt := 3, r := true }] })] }

def prefetchAccess : Access := { f := prefetch, n := 1, team := true, drops := true, lines := true }

theorem issues_prefetch : Issues (.prf prefetch) prefetcher prefetchClause := by decide +kernel

theorem cleanVectors_prefetcher : CleanVectors prefetcher.cur := by decide +kernel

/-- The one access of the team passes its checks and has a place. -/
theorem placed_prefetch : ∀ l, l ∈ accessLanes prefetcher.cur prefetchAccess →
    (prefetchAccess.drops = true ∧ (accessFault prefetcher prefetchAccess l).isSome)
      ∨ (accessFault prefetcher prefetchAccess l = none ∧ (accessPlace prefetcher prefetchAccess l).isSome) := by decide +kernel

theorem accesses_prefetch : accesses prefetcher prefetchAccess ≠ [] := by decide +kernel

/-- The model takes memory type 3 for its own mark of an access that `prf` drops. -/
theorem exec_prefetch : ∀ t, exec (.prf prefetch) prefetcher = .next t → t.cur.ops.map (·.acc) = [[]] := by
  have hk : (match exec (.prf prefetch) prefetcher with | .next t => t.cur.ops.map (·.acc) | _ => []) = [[]] := by decide +kernel
  intro t ht
  rwa [ht] at hk

/-- Refutes O28: a `prf` at an address that a TLB maps with memory type 3 issues without its access. -/
theorem not_memoryAccessesIssue : ¬ Obligations.MemoryAccessesIssue := by
  intro h
  obtain ⟨t, ht, ⟨pre, o, post, hops, -, hacc, -⟩, -⟩ :=
    h.1 (.prf prefetch) prefetcher prefetchClause prefetchAccess issues_prefetch rfl cleanVectors_prefetcher rfl placed_prefetch
  have ho : o.acc ∈ t.cur.ops.map (·.acc) := List.mem_map_of_mem (by rw [hops]; simp)
  rw [exec_prefetch t ht, List.mem_singleton] at ho
  exact accesses_prefetch (hacc ▸ ho)

end Sys2Proof.Proofs.ReservedMemoryType

/-! # The scalar ALU, compares, moves and bit fields (R110 to R114) -/

namespace Sys2Proof.Proofs.ScalarUnit

open Sys2Proof Sys2Proof.Machine Sys2Proof.Claims Sys2Proof.Proofs.Issuing

/-! ## Results on signed and unsigned values, wrapped to 64 bits (R110 to R112) -/

theorem eq_wrap_toInt (x : DWord) : x = wrap 64 x.toInt := BitVec.ofInt_toInt.symm

theorem add_eq_wrap (a b : DWord) : a + b = wrap 64 (a.toInt + b.toInt) := by
  rw [wrap, BitVec.ofInt_add, BitVec.ofInt_toInt, BitVec.ofInt_toInt]

theorem sub_eq_wrap (a b : DWord) : a - b = wrap 64 (a.toInt - b.toInt) := by
  rw [wrap, Int.sub_eq_add_neg, BitVec.ofInt_add, BitVec.ofInt_neg, BitVec.ofInt_toInt, BitVec.ofInt_toInt, BitVec.sub_eq_add_neg]

theorem mul_eq_wrap (a b : DWord) : a * b = wrap 64 (a.toInt * b.toInt) := by
  rw [wrap, BitVec.ofInt_mul, BitVec.ofInt_toInt, BitVec.ofInt_toInt]

theorem eq_zero_iff_toInt (b : DWord) : b = 0 ↔ b.toInt = 0 := BitVec.toInt_inj.symm

theorem eq_zero_iff_toNat (b : DWord) : b = 0 ↔ b.toNat = 0 := BitVec.toNat_inj.symm

theorem divS_eq_wrap (a b : DWord) : divS a b = wrap 64 (if b.toInt = 0 then -1 else a.toInt.tdiv b.toInt) := by
  simp only [divS, eq_zero_iff_toInt]
  split <;> rfl

theorem remS_eq_wrap (a b : DWord) : remS a b = wrap 64 (if b.toInt = 0 then a.toInt else a.toInt.tmod b.toInt) := by
  simp only [remS, eq_zero_iff_toInt, Int.tmod_def]
  split
  · exact eq_wrap_toInt a
  · rfl

theorem divU_eq_wrap (a b : DWord) : divU a b = wrap 64 (if b.toNat = 0 then 2 ^ 64 - 1 else ((a.toNat / b.toNat : Nat) : Int)) := by
  simp only [divU, eq_zero_iff_toNat]
  split
  · rfl
  · exact (BitVec.ofInt_natCast _ _).symm

theorem eq_wrap_toNat (x : DWord) : x = wrap 64 (x.toNat : Int) := by
  rw [wrap, BitVec.ofInt_natCast, BitVec.ofNat_toNat, BitVec.setWidth_eq]

theorem remU_eq_wrap (a b : DWord) : remU a b = wrap 64 (if b.toNat = 0 then (a.toNat : Int) else ((a.toNat % b.toNat : Nat) : Int)) := by
  simp only [remU, eq_zero_iff_toNat]
  split
  · exact eq_wrap_toNat a
  · exact (BitVec.ofInt_natCast _ _).symm

/-- A choice between two words, by a test on what they stand for. -/
theorem select_eq_wrap {p : Bool} {q : Prop} [Decidable q] (h : p = true ↔ q) {a b : DWord} {x y : Int} (ha : a = wrap 64 x)
    (hb : b = wrap 64 y) : (if p then a else b) = wrap 64 (if q then x else y) := by
  simp only [h]
  split <;> assumption

theorem sMin_eq_wrap (a b : DWord) : (if b.slt a then b else a) = wrap 64 (min a.toInt b.toInt) := by
  rw [min_comm, min_def_lt]
  exact select_eq_wrap BitVec.slt_iff_toInt_lt (eq_wrap_toInt b) (eq_wrap_toInt a)

theorem sMax_eq_wrap (a b : DWord) : (if a.slt b then b else a) = wrap 64 (max a.toInt b.toInt) := by
  rw [max_def_lt]
  exact select_eq_wrap BitVec.slt_iff_toInt_lt (eq_wrap_toInt b) (eq_wrap_toInt a)

theorem uMin_eq_wrap (a b : DWord) : (if b.ult a then b else a) = wrap 64 ((min a.toNat b.toNat : Nat) : Int) := by
  rw [min_comm, min_def_lt, Nat.cast_ite]
  exact select_eq_wrap BitVec.ult_iff_toNat_lt (eq_wrap_toNat b) (eq_wrap_toNat a)

theorem uMax_eq_wrap (a b : DWord) : (if a.ult b then b else a) = wrap 64 ((max a.toNat b.toNat : Nat) : Int) := by
  rw [max_def_lt, Nat.cast_ite]
  exact select_eq_wrap BitVec.ult_iff_toNat_lt (eq_wrap_toNat b) (eq_wrap_toNat a)

theorem shl_eq_wrap (a : DWord) (k : Nat) : a <<< k = wrap 64 ((a.toNat * 2 ^ k : Nat) : Int) := by
  rw [wrap, BitVec.ofInt_natCast]
  exact BitVec.eq_of_toNat_eq (by simp [Nat.shiftLeft_eq])

theorem shr_eq_wrap (a : DWord) (k : Nat) : a >>> k = wrap 64 ((a.toNat / 2 ^ k : Nat) : Int) := by
  rw [← Nat.shiftRight_eq_div_pow, ← BitVec.toNat_ushiftRight]
  exact eq_wrap_toNat _

theorem sra_eq_wrap (a : DWord) (k : Nat) : a.sshiftRight k = wrap 64 (a.toInt / 2 ^ k) := by
  rw [BitVec.sshiftRight_eq, Int.shiftRight_eq_div_pow]
  push_cast
  rfl

/-- A comparison gives 1 where its condition holds, else 0 (R112). -/
theorem compare_eq_wrap {p : Bool} {q : Prop} [Decidable q] (h : p = true ↔ q) : (if p then 1 else 0 : DWord) = wrap 64 (truth q) :=
  select_eq_wrap h rfl rfl

theorem lih_eq (i : BitVec 32) (x : DWord) : i ++ x.extractLsb' 0 32 = BitVec.ofNat 64 (i.toNat * 2 ^ 32 + x.toNat % 2 ^ 32) := by
  apply BitVec.eq_of_toNat_eq
  rw [Encoding.toNat_append_eq, BitVec.extractLsb'_toNat, BitVec.toNat_ofNat]
  have := i.isLt
  omega

/-! ## Bit fields (R114) -/

theorem bfWidth_eq (c : DWord) : bfWidth c = fieldWidth c.toNat := by
  have hf : fieldWidth c.toNat = min (min (c.toNat / 256 % 128) 64) (64 - c.toNat % 64) := rfl
  rw [hf]
  unfold bfWidth bfOff
  dsimp only
  split <;> omega

theorem toNat_bfCtl (t : Team) (f : SR) : (bfCtl t f).toNat = controlValue (sreg t) f := by
  unfold bfCtl controlValue
  split
  · exact BitVec.toNat_setWidth_of_le (by decide)
  · rfl

theorem bfExtract_eq (a c : DWord) : bfExtract a c = wrap 64 (extracted a.toNat c.toNat) := by
  have hs : (c.getLsbD 15 && decide (0 < fieldWidth c.toNat)
      && decide (2 ^ (fieldWidth c.toNat - 1) ≤ a.toNat / 2 ^ fieldOffset c.toNat % 2 ^ fieldWidth c.toNat)) = true
      ↔ c.toNat.testBit 15 ∧ 0 < fieldWidth c.toNat
        ∧ 2 ^ (fieldWidth c.toNat - 1) ≤ a.toNat / 2 ^ fieldOffset c.toNat % 2 ^ fieldWidth c.toNat := by
    simp only [Bool.and_eq_true, decide_eq_true_eq, and_assoc]
    rfl
  unfold bfExtract extracted
  rw [bfWidth_eq]
  exact select_eq_wrap hs rfl (BitVec.ofInt_natCast _ _).symm

theorem sum_bits_lt (p : Nat → Bool) (n : Nat) : ((List.range n).map (fun i => if p i then 2 ^ i else 0)).sum < 2 ^ n := by
  induction n with
  | zero => simp
  | succ n ih =>
    rw [List.sum_range_succ, Nat.pow_succ]
    split <;> omega

/-- The number made of the powers of two of some places has those places' bits. -/
theorem testBit_sum_bits (p : Nat → Bool) (n j : Nat) :
    ((List.range n).map (fun i => if p i then 2 ^ i else 0)).sum.testBit j = (decide (j < n) && p j) := by
  induction n with
  | zero => simp
  | succ n ih =>
    have hn : (if p n then 2 ^ n else 0) = 2 ^ n * (p n).toNat := by cases p n <;> simp
    rw [List.sum_range_succ, hn, Nat.add_comm, Nat.testBit_two_pow_mul_add _ (sum_bits_lt p n), ih]
    rcases Nat.lt_trichotomy j n with h | rfl | h
    · simp [h, Nat.lt_succ_of_lt h]
    · cases p j <;> simp
    · have h1 : Nat.testBit 1 (j - n) = false :=
        Bool.eq_false_iff.mpr fun he => Nat.sub_ne_zero_of_lt h (Nat.testBit_one_eq_true_iff_self_eq_zero.mp he)
      cases p n <;> simp [h1, Nat.not_lt.mpr (Nat.le_of_lt h), Nat.not_lt.mpr (Nat.succ_le_of_lt h)]

theorem bfInsert_eq (d a c : DWord) : bfInsert d a c
    = BitVec.ofNat 64 ((List.range 64).map (fun i => if insertedBit d a c.toNat i then 2 ^ i else 0)).sum := by
  apply BitVec.eq_of_getLsbD_eq
  intro j hj
  rw [BitVec.getLsbD_ofNat, testBit_sum_bits]
  unfold bfInsert insertedBit
  rw [bfWidth_eq]
  have hm : ((2 ^ fieldWidth c.toNat - 1) * 2 ^ bfOff c).testBit j
      = decide (fieldOffset c.toNat ≤ j ∧ j < fieldOffset c.toNat + fieldWidth c.toNat) := by
    rw [Nat.testBit_mul_two_pow, Nat.testBit_two_pow_sub_one]
    rw [← Bool.decide_and, decide_eq_decide]
    unfold bfOff fieldOffset
    omega
  simp only [BitVec.getLsbD_or, BitVec.getLsbD_and, BitVec.getLsbD_not, BitVec.getLsbD_shiftLeft, BitVec.getLsbD_ofNat, hm, hj]
  by_cases h : fieldOffset c.toNat ≤ j ∧ j < fieldOffset c.toNat + fieldWidth c.toNat
  · have ho : ¬ j < bfOff c := Nat.not_lt.mpr h.1
    simp [h, ho]
    rfl
  · simp [h]

/-! ## Counts of bits (R114) -/

theorem length_takeWhile_range {p : Nat → Bool} {n k : Nat} (hk : k ≤ n) (hbelow : ∀ i, i < k → p i = true) (hend : k < n → p k = false) :
    ((List.range n).takeWhile p).length = k := by
  obtain ⟨m, rfl⟩ := Nat.exists_eq_add_of_le hk
  have hrest : ((List.range m).map (k + ·)).takeWhile p = [] := by
    cases m with
    | zero => rfl
    | succ m => simp [List.range_succ_eq_map, hend (by omega)]
  rw [List.range_add, List.takeWhile_append_of_pos (fun i hi => hbelow i (List.mem_range.mp hi)), hrest]
  simp

theorem clzBits_eq (x : DWord) : clzBits 64 x.toNat = leadingZeros x := by
  refine (length_takeWhile_range ?_ (fun i hi => ?_) fun hlt => ?_).symm
  · unfold clzBits; split <;> omega
  · unfold clzBits at hi
    split at hi
    case isTrue h0 => simp [BitVec.getLsbD, h0]
    case isFalse h0 =>
      have hb : x.toNat < 2 ^ (63 - i) := (Nat.log2_lt h0).mp (by omega)
      simp [BitVec.getLsbD, Nat.testBit_lt_two_pow hb]
  · unfold clzBits at hlt ⊢
    split at hlt
    case isTrue h0 => omega
    case isFalse h0 =>
      have hl : x.toNat.log2 < 64 := (Nat.log2_lt h0).mpr x.isLt
      have hk : 63 - (64 - 1 - x.toNat.log2) = x.toNat.log2 := by omega
      simp [BitVec.getLsbD, h0, hk, Nat.testBit_log2 h0]

theorem ctzBits_eq (x : DWord) : ctzBits 64 x.toNat = trailingZeros x := by
  unfold ctzBits
  cases h : (List.range 64).find? (fun i => x.toNat.testBit i) with
  | none =>
    refine (length_takeWhile_range (Nat.le_refl 64) (fun i hi => ?_) fun hlt => absurd hlt (Nat.lt_irrefl 64)).symm
    simpa [BitVec.getLsbD] using List.find?_eq_none.mp h i (List.mem_range.mpr hi)
  | some k =>
    obtain ⟨hk, hmem, hbelow⟩ := List.find?_range_eq_some.mp h
    refine (length_takeWhile_range (Nat.le_of_lt (List.mem_range.mp hmem)) hbelow fun _ => ?_).symm
    simpa [BitVec.getLsbD] using hk

theorem popBits_eq (x : DWord) : popBits 64 x.toNat = oneBits x := List.countP_eq_length_filter.symm

/-! ## What each instruction writes -/

/-- Instruction i writes, in each copy of the team, the value that its row gives for that copy's registers. -/
def WritesItsRow (i : Instr) : Prop :=
  ∃ d g, (∀ s, exec i s = ok (issue i s (putScalar d g))) ∧ ∀ t, scalarWrite (sreg t) i = some (d, g t)

/-- A row is met where its value is what the instruction computes. -/
theorem row_of_value {d : Nat} {x y : DWord} (h : y = x) : some (d, x) = some (d, y) := by rw [h]

/-- Every instruction that has a row writes it (R110 to R114). -/
theorem writes_of_row {S : Nat → DWord} {i : Instr} {w : Nat × DWord} (h : scalarWrite S i = some w) : WritesItsRow i := by
  cases i with
  | sMulh f | sAnd f | sOr f | sXor f | sAndn f | sMov f | sLi f | sSel f => exact ⟨_, _, fun _ => rfl, fun _ => rfl⟩
  | sAdd f => exact ⟨_, _, fun _ => rfl, fun _ => row_of_value (add_eq_wrap _ _)⟩
  | sSub f => exact ⟨_, _, fun _ => rfl, fun _ => row_of_value (sub_eq_wrap _ _)⟩
  | sMul f => exact ⟨_, _, fun _ => rfl, fun _ => row_of_value (mul_eq_wrap _ _)⟩
  | sMulhU f => exact ⟨_, _, fun _ => rfl, fun _ => row_of_value ((BitVec.ofInt_natCast _ _).symm)⟩
  | sDiv f => exact ⟨_, _, fun _ => rfl, fun _ => row_of_value (divS_eq_wrap _ _)⟩
  | sDivU f => exact ⟨_, _, fun _ => rfl, fun _ => row_of_value (divU_eq_wrap _ _)⟩
  | sRem f => exact ⟨_, _, fun _ => rfl, fun _ => row_of_value (remS_eq_wrap _ _)⟩
  | sRemU f => exact ⟨_, _, fun _ => rfl, fun _ => row_of_value (remU_eq_wrap _ _)⟩
  | sMin f => exact ⟨_, _, fun _ => rfl, fun _ => row_of_value (sMin_eq_wrap _ _)⟩
  | sMinU f => exact ⟨_, _, fun _ => rfl, fun _ => row_of_value (uMin_eq_wrap _ _)⟩
  | sMax f => exact ⟨_, _, fun _ => rfl, fun _ => row_of_value (sMax_eq_wrap _ _)⟩
  | sMaxU f => exact ⟨_, _, fun _ => rfl, fun _ => row_of_value (uMax_eq_wrap _ _)⟩
  | sShl f => exact ⟨_, _, fun _ => rfl, fun _ => row_of_value (shl_eq_wrap _ _)⟩
  | sShr f => exact ⟨_, _, fun _ => rfl, fun _ => row_of_value (shr_eq_wrap _ _)⟩
  | sSra f => exact ⟨_, _, fun _ => rfl, fun _ => row_of_value (sra_eq_wrap _ _)⟩
  | sLih f => exact ⟨_, _, fun _ => rfl, fun _ => row_of_value (lih_eq f.imm _)⟩
  | sBfe f => exact ⟨_, _, fun _ => rfl, fun t => row_of_value (by rw [bfExtract_eq, toNat_bfCtl])⟩
  | sBfi f => exact ⟨_, _, fun _ => rfl, fun t => row_of_value (by rw [bfInsert_eq, toNat_bfCtl])⟩
  | sClz f => exact ⟨_, _, fun _ => rfl, fun _ => row_of_value (congrArg _ (clzBits_eq _))⟩
  | sCtz f => exact ⟨_, _, fun _ => rfl, fun _ => row_of_value (congrArg _ (ctzBits_eq _))⟩
  | sPopc f => exact ⟨_, _, fun _ => rfl, fun _ => row_of_value (congrArg _ (popBits_eq _))⟩
  | sCmpEq f => exact ⟨_, _, fun _ => rfl, fun _ => row_of_value (compare_eq_wrap (beq_iff_eq.trans BitVec.toInt_inj.symm))⟩
  | sCmpNe f => exact ⟨_, _, fun _ => rfl, fun _ => row_of_value (compare_eq_wrap (bne_iff_ne.trans BitVec.toInt_inj.symm.not))⟩
  | sCmpLt f | sCmpGt f => exact ⟨_, _, fun _ => rfl, fun _ => row_of_value (compare_eq_wrap BitVec.slt_iff_toInt_lt)⟩
  | sCmpLe f | sCmpGe f => exact ⟨_, _, fun _ => rfl, fun _ => row_of_value (compare_eq_wrap BitVec.sle_iff_toInt_le)⟩
  | sCmpLtU f | sCmpGtU f => exact ⟨_, _, fun _ => rfl, fun _ => row_of_value (compare_eq_wrap BitVec.ult_iff_toNat_lt)⟩
  | sCmpLeU f | sCmpGeU f => exact ⟨_, _, fun _ => rfl, fun _ => row_of_value (compare_eq_wrap BitVec.ule_iff_toNat_le)⟩
  | _ => cases h

/-- The team with S(d) of each copy written from that copy's registers. -/
def scalarWritten (d : Nat) (g : Team → DWord) (t : Team) : Team :=
  { t with r := t.r.sset d (g t), sh := t.sh.map (fun h => h.sset d (g { t with r := h, sh := none })) }

theorem beyondScalars_scalarWritten (d : Nat) (g : Team → DWord) (t : Team) :
    beyondScalars (scalarWritten d g t) = beyondScalars t := by
  simp only [beyondScalars, scalarWritten, clearWait, sset_beyond_scalars, Option.map_map, Function.comp_def]

theorem completes_of_putScalar {i : Instr} {s : State} {c : Clause} {d : Nat} {g : Team → DWord} {P : State → Prop} (hi : Issues i s c)
    (hd : s.cur.dying = []) (hx : exec i s = ok (issue i s (putScalar d g)))
    (hP : P (modCur s (fun t => advance (scalarWritten d g t)))) : Completes i s P :=
  ⟨_, by rw [hx, issue_of_issues hi, finish_putScalar d g hd]; rfl, hP⟩

/-- Settles O1: each instruction writes the value of its row from each copy's own registers, and goes on. -/
theorem scalarResults : Obligations.ScalarResults := by
  intro i s c d x hi hd hrow
  obtain ⟨d', g, hx, hg⟩ := writes_of_row hrow
  obtain ⟨rfl, rfl⟩ : d' = d ∧ g s.cur = x := by simpa [hg] using hrow
  refine completes_of_putScalar hi hd (hx s) ⟨?_, fun k hk => ?_, goesOn_advance hi.clause rfl, fun h hh => ?_, ?_, others_modCur s _,
    sameBytes_modCur s _⟩
  · exact (sreg_advance _ _).trans (sget_sset_same s.cur.r d' _)
  · exact (sreg_advance _ _).trans (sget_sset_of_ne s.cur.r hk _)
  · refine ⟨h.sset d' (g { s.cur with r := h, sh := none }), _, ?_, hg { s.cur with r := h, sh := none }, sget_sset_same h d' _,
      fun k hk => sget_sset_of_ne h hk _⟩
    simp [scalarWritten, hh]
  · exact (beyondScalars_advance _).trans (beyondScalars_scalarWritten d' g s.cur)

end Sys2Proof.Proofs.ScalarUnit

/-! # Branches, calls, jumps, and the traps that control instructions take (R119, R120, R122, R123) -/

namespace Sys2Proof.Proofs.Branches

open Sys2Proof Sys2Proof.Machine Sys2Proof.Claims Sys2Proof.Proofs.Issuing Sys2Proof.Proofs.TrapReturn

/-! ## Addresses (R108) -/

theorem branchTarget_eq (c : Clause) (off : BitVec 44) : branchTarget c off = target c off := FloatConversions.toNat_wrap _ _

theorem nextHdr_eq (c : Clause) : nextHdr c = nextHeader c := by
  unfold nextHdr nextHeader
  omega

/-! ## Lanes that a test reads (R45, R119) -/

theorem getLsbD_activeM (t : Team) (m : Mask) (l : Nat) : (activeM t m).getLsbD l = activeIn t m l := by
  unfold activeM activeIn
  by_cases hl : l < 1024
  · rw [BitVec.getLsbD_and, BitVec.getLsbD_and, getLsbD_lanesBelow _ hl, BitVec.getLsbD_not, decide_eq_true hl, Bool.true_and,
      Bool.and_comm (m.getLsbD l)]
  · simp [hl, BitVec.getLsbD_of_ge m l (Nat.not_lt.mp hl)]

theorem getLsbD_testLanes (f : BR) (t : Team) (l : Nat) : (testLanes f t).getLsbD l = tested t f l := by
  unfold testLanes tested
  split
  · unfold liveM
    by_cases hl : l < 1024
    · simp only [BitVec.getLsbD_and, getLsbD_lanesBelow _ hl, BitVec.getLsbD_not, lt_min_iff, hl, and_true, decide_true, Bool.true_and]
    · simp [hl]
  · exact getLsbD_activeM t (mreg t 0) l

theorem lt_width_of_activeIn {t : Team} {m : Mask} {l : Nat} (h : activeIn t m l = true) : l < t.width := by
  simp only [activeIn, Bool.and_eq_true, decide_eq_true_eq] at h
  obtain ⟨⟨hw, -⟩, -⟩ := h
  exact hw

theorem lt_width_of_tested {t : Team} {f : BR} {l : Nat} (h : tested t f l = true) : l < t.width := by
  unfold tested at h
  split at h
  · simp only [Bool.and_eq_true, decide_eq_true_eq] at h
    omega
  · exact lt_width_of_activeIn h

/-- A mask is empty where no lane below a bound on its lanes stands in it. -/
theorem mask_beq_zero {x : Mask} {w : Nat} (hw : ∀ l, x.getLsbD l = true → l < w) :
    (x == 0) = (List.range w).all (fun l => !x.getLsbD l) := by
  rw [Bool.eq_iff_iff, beq_iff_eq, List.all_eq_true]
  constructor
  · rintro rfl l -
    simp
  · intro h
    refine BitVec.eq_of_getLsbD_eq fun l _ => ?_
    refine (Bool.eq_false_iff.mpr fun hx => ?_).trans BitVec.getLsbD_zero.symm
    simpa [hx] using h l (List.mem_range.mpr (hw l hx))

theorem noneActive_eq (t : Team) (m : Mask) : noneActive t m = (activeM t m == 0) := by
  rw [mask_beq_zero (w := t.width) fun l hl => lt_width_of_activeIn (by rwa [getLsbD_activeM] at hl)]
  simp only [getLsbD_activeM]
  rfl

theorem bany_eq (f : BR) (t : Team) : (testLanes f t &&& mreg t (f.creg.toNat % 8) != 0)
    = (List.range t.width).any (fun l => tested t f l && (mreg t (f.creg.toNat % 8)).getLsbD l) := by
  rw [bne, mask_beq_zero (w := t.width), List.not_all_eq_any_not]
  · simp only [BitVec.getLsbD_and, getLsbD_testLanes, Bool.not_not]
  · intro l hl
    rw [BitVec.getLsbD_and, getLsbD_testLanes, Bool.and_eq_true] at hl
    exact lt_width_of_tested hl.1

theorem ball_eq (f : BR) (t : Team) : (testLanes f t &&& ~~~ mreg t (f.creg.toNat % 8) == 0)
    = (List.range t.width).all (fun l => !tested t f l || (mreg t (f.creg.toNat % 8)).getLsbD l) := by
  have hbit (l : Nat) : (testLanes f t &&& ~~~ mreg t (f.creg.toNat % 8)).getLsbD l
      = (tested t f l && !(mreg t (f.creg.toNat % 8)).getLsbD l) := by
    rw [BitVec.getLsbD_and, BitVec.getLsbD_not, ← getLsbD_testLanes]
    by_cases hl : l < 1024
    · simp [hl]
    · simp [BitVec.getLsbD_of_ge _ l (Nat.not_lt.mp hl)]
  rw [mask_beq_zero (w := t.width)]
  · simp only [hbit, Bool.not_and, Bool.not_not]
  · intro l hl
    rw [hbit, Bool.and_eq_true] at hl
    exact lt_width_of_tested hl.1

theorem zeroTest_eq (f : BR) (t : Team) : zeroTest f t = true
    ↔ (if f.ckind = 1 then (sreg t f.creg.toNat).toNat % 2 ^ 32 else (sreg t f.creg.toNat).toNat) = 0 := by
  unfold zeroTest
  dsimp only
  split
  · rw [beq_iff_eq, ← BitVec.toNat_inj, BitVec.extractLsb'_toNat]
    rfl
  · rw [beq_iff_eq, ← BitVec.toNat_inj]
    rfl

/-! ## The end of a clause by a jump -/

/-- An instruction that issues and jumps completes in its effect's state, its team at the header that it names. -/
theorem completes_of_goto {i : Instr} {s s' : State} {c : Clause} {x : Nat} {eff : State → Res} {P : State → Prop} (hi : Issues i s c)
    (hx : exec i s = ok (issue i s eff)) (he : eff s = .goto s' x) (hd : s'.cur.dying = []) (hP : P (modCur s' (fun t => jumpTo t x))) :
    Completes i s P :=
  ⟨_, by rw [hx, issue_of_issues hi, he, finish_goto hd], hP⟩

/-! ## Where a branch goes (R119, R120) -/

/-- A copy of the registers with `next` linked in a register, if one is named. -/
def linkRegs (c : Clause) : Option Nat → Regs → Regs
  | some n, r => r.sset n (BitVec.ofNat 64 (nextHeader c))
  | none, r => r

theorem sget_linkRegs (c : Clause) (n : Option Nat) (r : Regs) (k : Nat) :
    (linkRegs c n r).sget k = if n = some k then reads k (BitVec.ofNat 64 (nextHeader c)) else r.sget k := by
  cases n with
  | none => rfl
  | some n =>
    by_cases hk : k = n
    · rw [if_pos (congrArg some hk.symm), hk]
      exact sget_sset_same r n _
    · rw [if_neg fun e => hk (Option.some.inj e).symm]
      exact sget_sset_of_ne r hk _

theorem linkRegs_beyond_scalars (c : Clause) (n : Option Nat) (r : Regs) :
    ({ linkRegs c n r with sr := [], sbad := [] } : Regs) = { r with sr := [], sbad := [] } := by
  cases n with
  | none => rfl
  | some n => exact sset_beyond_scalars r n _

/-- The team with what a branch links, in both copies. -/
def linked (c : Clause) (i : Instr) : Team → Team := deliverRegs (linkRegs c (linksTo i))

theorem linked_of_none {c : Clause} {i : Instr} (h : linksTo i = none) (t : Team) : linked c i t = t := by
  rw [linked, h]
  show { t with r := t.r, sh := t.sh.map fun r => r } = t
  rw [Option.map_id']

theorem beyondScalars_linked (c : Clause) (i : Instr) (t : Team) : beyondScalars (linked c i t) = beyondScalars t := by
  simp only [beyondScalars, linked, deliverRegs, clearWait, linkRegs_beyond_scalars, Option.map_map, Function.comp_def]

/-- Instruction i jumps to x, its register linked, and changes nothing else. -/
def JumpsWithLink (s : State) (c : Clause) (i : Instr) (x : Nat) : Prop :=
  ∃ eff, exec i s = ok (issue i s eff) ∧ eff s = .goto (modCur s (linked c i)) x

section
variable {s : State} {c : Clause} {i : Instr} {x : Nat}

theorem jumps_of_branch {f : BR} {p : Team → Bool} (hc : clauseOf s = c) (hx : exec i s = ok (issue i s (branch f p)))
    (hl : linksTo i = none) (hp : (if p s.cur then target c f.off else nextHeader c) = x) : JumpsWithLink s c i x := by
  refine ⟨_, hx, ?_⟩
  simp only [branch, hc, branchTarget_eq, nextHdr_eq, hp, modCur, linked_of_none hl]

/-- An indirect jump goes through check(x) with its address (R120). -/
theorem effect_of_jump (h : jumpsTo s.cur i = some x) : ∃ eff, exec i s = ok (issue i s eff) ∧ eff s = jumpChecked x s := by
  cases i with
  | ret f => cases h; exact ⟨_, rfl, rfl⟩
  | jmpi f => cases h; exact ⟨_, rfl, congrArg (jumpChecked · s) (FloatConversions.toNat_wrap _ _)⟩
  | _ => cases h

theorem jumpChecked_passes (h : x < 2 ^ 56) (h8 : x % 8 = 0) (s : State) : jumpChecked x s = .goto s x := by
  rw [jumpChecked, if_neg (Nat.not_le.mpr h), if_neg (not_not.mpr h8)]

theorem jumpChecked_high (h : 2 ^ 56 ≤ x) (s : State) : jumpChecked x s = .trap s { cause := 9, detail := 1, addr := x } := by
  rw [jumpChecked, if_pos h]

theorem jumpChecked_misaligned (h : x < 2 ^ 56) (h8 : x % 8 ≠ 0) (s : State) : jumpChecked x s = .trap s { cause := 7, addr := x } := by
  rw [jumpChecked, if_neg (Nat.not_le.mpr h), if_pos h8]

theorem jumps_of_passing {y : Nat} (hj : jumpsTo s.cur i = some y) (hl : linksTo i = none)
    (h : (if y < 2 ^ 56 ∧ y % 8 = 0 then some y else none) = some x) : JumpsWithLink s c i x := by
  obtain ⟨eff, hx, he⟩ := effect_of_jump hj
  split at h
  · cases h
    rename_i hy
    refine ⟨eff, hx, ?_⟩
    rw [he, jumpChecked_passes hy.1 hy.2]
    simp only [modCur, linked_of_none hl]
  · cases h

theorem jumps_of_branchGoes (hc : clauseOf s = c) (h : branchGoes s.cur c i = some x) : JumpsWithLink s c i x := by
  cases i with
  | br f => exact jumps_of_branch hc rfl rfl (Option.some.inj h)
  | brz f => exact jumps_of_branch hc rfl rfl (by simpa only [zeroTest_eq] using Option.some.inj h)
  | brnz f =>
    refine jumps_of_branch hc rfl rfl ?_
    simpa only [Bool.not_eq_true', Bool.eq_false_iff, ne_eq, zeroTest_eq, ite_not] using Option.some.inj h
  | bany f => exact jumps_of_branch hc rfl rfl (by simpa only [bany_eq] using Option.some.inj h)
  | ball f => exact jumps_of_branch hc rfl rfl (by simpa only [ball_eq] using Option.some.inj h)
  | call f =>
    cases h
    refine ⟨_, rfl, ?_⟩
    have hb (x : DWord) : (bothCopies fun t => setSreg t f.creg.toNat x) = deliverScalar f.creg.toNat x :=
      funext (bothCopies_setSreg f.creg.toNat fun _ => x)
    simp only [hc, nextHdr_eq, branchTarget_eq, hb]
    rfl
  | ret f => exact jumps_of_passing rfl rfl h
  | jmpi f => exact jumps_of_passing rfl rfl h
  | _ => cases h

end

/-- Settles O2: the condition read over the lanes, check(x) passed, the register linked in both copies. -/
theorem branchesGo : Obligations.BranchesGo := by
  intro i s c x hi hd hgo
  obtain ⟨eff, hx, he⟩ := jumps_of_branchGoes (clauseOf_of_issues hi) hgo
  refine completes_of_goto hi hx he hd ⟨rfl, rfl, beyondScalars_linked c i s.cur, sget_linkRegs c (linksTo i) s.cur.r, fun h hh => ?_, rfl,
    sameBytes_modCur s (fun t => jumpTo (linked c i t) x)⟩
  exact ⟨linkRegs c (linksTo i) h, congrArg (Option.map _) hh, sget_linkRegs c (linksTo i) h⟩

/-! ## Traps (R120, R122, R123) -/

/-- Where an instruction needs a top entry of a kind, what it does with the entry does not come about (R123). -/
theorem requireTop_traps {s : State} {i : Instr} {k : DivKind} {d : Nat} (hp : pushes i = false) (hk : needsTop i = some k)
    (h : depthDetail s.cur i = some d) (go : DivEntry → Res) : requireTop s k go = .trap s { cause := 6, detail := d } := by
  unfold depthDetail at h
  rw [if_neg (by simp [hp]), hk] at h
  unfold requireTop depthTrap
  cases hs : s.cur.r.stack with
  | nil =>
    rw [hs] at h
    cases h
    rfl
  | cons e rest =>
    rw [hs] at h
    dsimp only at h ⊢
    split at h
    · cases h
    · rename_i hne
      cases h
      rw [if_neg hne]

/-- A push traps exactly on a full stack (R123). -/
theorem full_of_depthDetail {t : Team} {i : Instr} {d : Nat} (hk : needsTop i = none) (h : depthDetail t i = some d) :
    32 ≤ t.r.stack.length ∧ d = 1 := by
  unfold depthDetail at h
  rw [hk] at h
  split at h
  · rename_i hf
    cases h
    exact ⟨hf.2, rfl⟩
  · cases h

/-- An instruction that finds the stack full, empty, or with another entry on top traps (R123). -/
theorem effect_of_depthDetail {s : State} {i : Instr} {d : Nat} (h : depthDetail s.cur i = some d) :
    ∃ eff, exec i s = ok (issue i s eff) ∧ eff s = .trap s { cause := 6, detail := d } := by
  cases i with
  | bdiv f | bloop f =>
    obtain ⟨hf, rfl⟩ := full_of_depthDetail rfl h
    exact ⟨_, rfl, if_pos hf⟩
  | belse f | bjoin f | bbrk f => exact ⟨_, rfl, requireTop_traps rfl rfl h _⟩
  | _ => cases h

/-- Settles O3: check(x), the depth of the stack and its top entry, and the two instructions that only trap. -/
theorem controlTraps : Obligations.ControlTraps := by
  refine ⟨fun i s c x hi hj => ?jump, fun i s c d hi hdep => ?depth,
    fun f s c => ⟨fun hi => exec_eq_takeTrap hi rfl rfl, fun hi => exec_eq_takeTrap hi rfl rfl⟩⟩
  case jump =>
    obtain ⟨eff, hx, he⟩ := effect_of_jump hj
    exact ⟨fun h => exec_eq_takeTrap hi hx (he.trans (jumpChecked_high h s)),
      fun h h8 => exec_eq_takeTrap hi hx (he.trans (jumpChecked_misaligned h h8 s))⟩
  case depth =>
    obtain ⟨eff, hx, he⟩ := effect_of_depthDetail hdep
    exact exec_eq_takeTrap hi hx he

end Sys2Proof.Proofs.Branches

/-! # Divergence (R24, R124, R126) -/

namespace Sys2Proof.Proofs.Divergence

open Sys2Proof Sys2Proof.Machine Sys2Proof.Claims Sys2Proof.Proofs.Issuing Sys2Proof.Proofs.TrapReturn Sys2Proof.Proofs.Branches

/-! ## What a divergence instruction makes of one copy of the registers -/

/-- A copy of the registers beside its masks and its stack. -/
def besideDivergence (r : Regs) : Regs := { r with msk := [], sbad := [], stack := [] }

/-- g leaves every copy's other registers, and makes of r one with m0 equal to m below w and with the stack st. -/
structure Turns (g : Regs → Regs) (w : Nat) (r : Regs) (m : Mask) (st : List DivEntry) : Prop where
  beside : ∀ q, besideDivergence (g q) = besideDivergence q
  masks  : sameMasks r.mget (g r).mget
  m0     : ∀ l, l < w → l < 1024 → ((g r).mget 0).getLsbD l = m.getLsbD l
  stack  : (g r).stack = st

theorem turns_of_mset {g : Regs → Regs} {w : Nat} {r : Regs} {m : Mask} {st : List DivEntry}
    (hb : ∀ q, besideDivergence (g q) = besideDivergence q) (hg : g r = { r.mset w 0 m with stack := st }) : Turns g w r m st where
  beside := hb
  masks k hk := by
    rw [hg]
    exact (Regs.mget_mset r w 0 k m).trans (if_neg hk)
  m0 l hw hl := by
    have h0 : (g r).mget 0 = m &&& lanesBelow w := by
      rw [hg]
      exact (Regs.mget_mset r w 0 0 m).trans (if_pos rfl)
    rw [h0, BitVec.getLsbD_and, getLsbD_lanesBelow w hl, decide_eq_true hw, Bool.and_true]
  stack := by rw [hg]

theorem besideDivergence_popSaved (w : Nat) (r : Regs) : besideDivergence (r.popSaved w) = besideDivergence r := by
  unfold Regs.popSaved
  split <;> rfl

theorem besideDivergence_takePending (w : Nat) (r : Regs) : besideDivergence (r.takePending w) = besideDivergence r := by
  unfold Regs.takePending
  split <;> rfl

theorem besideDivergence_bdivRegs (k : Nat) (b : Bool) (w : Nat) (r : Regs) : besideDivergence (bdivRegs k b w r) = besideDivergence r := by
  unfold bdivRegs
  cases b <;> rfl

section
variable {w : Nat} {r : Regs} {e : DivEntry} {rest : List DivEntry}

theorem turns_popSaved (hs : r.stack = e :: rest) : Turns (·.popSaved w) w r e.saved rest :=
  turns_of_mset (besideDivergence_popSaved w) (by simp only [Regs.popSaved, hs])

theorem turns_takePending (hs : r.stack = e :: rest) : Turns (·.takePending w) w r e.pending ({ e with pending := 0 } :: rest) :=
  turns_of_mset (besideDivergence_takePending w) (by simp only [Regs.takePending, hs])

/-- `bdiv` where no lane takes the then path: the others go on alone. -/
theorem turns_bdivRegs_other (k : Nat) : Turns (bdivRegs k true w) w r (r.mget 0 &&& ~~~ r.mget k) (⟨.div, r.mget 0, 0⟩ :: r.stack) :=
  turns_of_mset (besideDivergence_bdivRegs k true w) rfl

/-- `bdiv` into the then path, the other lanes pending. -/
theorem turns_bdivRegs_then (k : Nat) :
    Turns (bdivRegs k false w) w r (r.mget 0 &&& r.mget k) (⟨.div, r.mget 0, r.mget 0 &&& ~~~ r.mget k⟩ :: r.stack) :=
  turns_of_mset (besideDivergence_bdivRegs k false w) rfl

theorem turns_pushDiv (k : DivKind) : Turns (·.pushDiv k 0) w r (r.mget 0) (⟨k, r.mget 0, 0⟩ :: r.stack) where
  beside _ := rfl
  masks _ _ := rfl
  m0 _ _ _ := rfl
  stack := rfl

/-- `bbrk` that leaves lanes in the loop. -/
theorem turns_without (k : Nat) : Turns (fun q => q.mset w 0 (q.mget 0 &&& ~~~ q.mget k)) w r (r.mget 0 &&& ~~~ r.mget k) r.stack :=
  turns_of_mset (fun _ => rfl) rfl

end

/-! ## The team, and its layout (R24) -/

/-- Both copies of the team turned, and its layout b. -/
def turned (g : Nat → Regs → Regs) (b : Bool) (t : Team) : Team :=
  { t with r := g t.width t.r, sh := t.sh.map (g t.width), compact := b }

/-- Where a force is in effect the layout stays (R24). -/
theorem diverge_eq (s : State) (g : Nat → Regs → Regs) :
    ∃ b n, diverge s g = { s with cur := turned g b s.cur, free := n } ∧ (s.cur.force ≠ .free → b = s.cur.compact) := by
  unfold diverge chooseLayout
  by_cases hf : s.cur.force = .free
  · exact ⟨_, _, if_pos hf, fun h => absurd hf h⟩
  · exact ⟨s.cur.compact, s.free, if_neg hf, fun _ => rfl⟩

theorem beyondDivergence_turned {g : Nat → Regs → Regs} {t : Team} (hg : ∀ q, besideDivergence (g t.width q) = besideDivergence q) (b : Bool) :
    beyondDivergence (turned g b t) = beyondDivergence t := by
  have hr (q : Regs) : ({ g t.width q with msk := [], sbad := [], stack := [] } : Regs) = { q with msk := [], sbad := [], stack := [] } := hg q
  simp only [beyondDivergence, beyondMasks, turned, clearWait, hr, Option.map_map, Function.comp_def]

/-- Instruction i turns its team to m0 equal to m and the stack st, and jumps to x; only a free layout may change, and not by `bbrk`. -/
def Diverges (s : State) (i : Instr) (m : Mask) (st : List DivEntry) (x : Nat) : Prop :=
  ∃ eff g b n, exec i s = ok (issue i s eff) ∧ eff s = .goto { s with cur := turned g b s.cur, free := n } x
    ∧ Turns (g s.cur.width) s.cur.width s.cur.r m st
    ∧ (s.cur.force ≠ .free → b = s.cur.compact) ∧ ((∃ f, i = .bbrk f) → b = s.cur.compact)

section
variable {s : State} {c : Clause} {i : Instr} {m : Mask} {st : List DivEntry} {x : Nat}

theorem diverges_of_diverge {eff : State → Res} {g : Nat → Regs → Regs} (hx : exec i s = ok (issue i s eff))
    (he : eff s = .goto (diverge s g) x) (ht : Turns (g s.cur.width) s.cur.width s.cur.r m st) (hi : ∀ f, i ≠ .bbrk f) :
    Diverges s i m st x := by
  obtain ⟨b, n, hs, hb⟩ := diverge_eq s g
  exact ⟨eff, g, b, n, hx, by rw [he, hs], ht, hb, fun ⟨f, hf⟩ => absurd hf (hi f)⟩

theorem requireTop_of_top {k : DivKind} {e : DivEntry} {rest : List DivEntry} (hs : s.cur.r.stack = e :: rest) (hk : e.kind = k)
    (go : DivEntry → Res) : requireTop s k go = go e := by
  unfold requireTop
  rw [hs]
  exact if_pos hk

theorem diverges_of_bdiv {f : BR} (hc : clauseOf s = c) (h : diverged s.cur c (.bdiv f) = some (m, st, x)) : Diverges s (.bdiv f) m st x := by
  dsimp only [diverged] at h
  rw [noneActive_eq] at h
  split_ifs at h with hd ho
  · cases h
    refine diverges_of_diverge (g := bdivRegs (f.creg.toNat % 8) true) rfl ?_ (turns_bdivRegs_other _) nofun
    simp only [if_neg hd, ho, if_true, hc, branchTarget_eq]
  · cases h
    refine diverges_of_diverge (g := bdivRegs (f.creg.toNat % 8) false) rfl ?_ (turns_bdivRegs_then _) nofun
    simp only [if_neg hd, ho, Bool.false_eq_true, if_false, hc, nextHdr_eq]

theorem diverges_of_belse {f : BR} (hc : clauseOf s = c) (h : diverged s.cur c (.belse f) = some (m, st, x)) : Diverges s (.belse f) m st x := by
  dsimp only [diverged] at h
  split at h
  case h_2 => cases h
  rename_i sv p rest hs
  rw [noneActive_eq] at h
  split_ifs at h with ho
  · cases h
    refine diverges_of_diverge (g := fun w r => r.popSaved w) rfl ?_ (turns_popSaved hs) nofun
    rw [requireTop_of_top hs rfl]
    simp only [bne, ho, Bool.not_true, Bool.false_eq_true, if_false, hc, branchTarget_eq]
  · cases h
    refine diverges_of_diverge (g := fun w r => r.takePending w) rfl ?_ (turns_takePending hs) nofun
    rw [requireTop_of_top hs rfl]
    simp only [bne, ho, Bool.not_false, if_true, hc, nextHdr_eq]

theorem diverges_of_bjoin {f : BR} (hc : clauseOf s = c) (h : diverged s.cur c (.bjoin f) = some (m, st, x)) : Diverges s (.bjoin f) m st x := by
  dsimp only [diverged] at h
  split at h
  case h_2 => cases h
  rename_i sv p rest hs
  cases h
  refine diverges_of_diverge (g := fun w r => r.popSaved w) rfl ?_ (turns_popSaved hs) nofun
  rw [requireTop_of_top hs rfl, hc, nextHdr_eq]

theorem diverges_of_bloop {f : BR} (hc : clauseOf s = c) (h : diverged s.cur c (.bloop f) = some (m, st, x)) : Diverges s (.bloop f) m st x := by
  dsimp only [diverged] at h
  split_ifs at h with hd
  cases h
  refine diverges_of_diverge (g := fun _ r => r.pushDiv .loop 0) rfl ?_ (turns_pushDiv .loop) nofun
  simp only [if_neg hd, hc, branchTarget_eq]

theorem diverges_of_bbrk {f : BR} (hc : clauseOf s = c) (h : diverged s.cur c (.bbrk f) = some (m, st, x)) : Diverges s (.bbrk f) m st x := by
  dsimp only [diverged] at h
  split at h
  case h_2 => cases h
  rename_i sv p rest hs
  rw [noneActive_eq] at h
  split_ifs at h with ho
  · cases h
    refine ⟨_, fun w r => r.popSaved w, s.cur.compact, s.free, rfl, ?_, turns_popSaved hs, fun _ => rfl, fun _ => rfl⟩
    rw [requireTop_of_top hs rfl]
    simp only [ho, if_true, hc, branchTarget_eq]
    rfl
  · cases h
    refine ⟨_, fun w q => q.mset w 0 (q.mget 0 &&& ~~~ q.mget (f.creg.toNat % 8)), s.cur.compact, s.free, rfl, ?_, hs ▸ turns_without _,
      fun _ => rfl, fun _ => rfl⟩
    rw [requireTop_of_top hs rfl]
    simp only [ho, Bool.false_eq_true, if_false, hc, nextHdr_eq]
    rfl

theorem diverges_of_diverged (hc : clauseOf s = c) (h : diverged s.cur c i = some (m, st, x)) : Diverges s i m st x := by
  cases i with
  | bdiv f => exact diverges_of_bdiv hc h
  | belse f => exact diverges_of_belse hc h
  | bjoin f => exact diverges_of_bjoin hc h
  | bloop f => exact diverges_of_bloop hc h
  | bbrk f => exact diverges_of_bbrk hc h
  | _ => cases h

end

/-- Settles O4: m0, the stack and pc of each divergence instruction, and the layout where it is not free to change. -/
theorem divergenceResults : Obligations.DivergenceResults := by
  intro i s c m st x hi hd hdiv
  obtain ⟨eff, g, b, n, hx, he, ht, hforce, hbrk⟩ := diverges_of_diverged (clauseOf_of_issues hi) hdiv
  exact completes_of_goto hi hx he hd ⟨fun l hw hl => ht.m0 l hw hl, ht.masks, ht.stack, rfl, rfl, beyondDivergence_turned ht.beside b,
    hforce, hbrk, rfl, fun _ => ⟨rfl, rfl⟩⟩

end Sys2Proof.Proofs.Divergence

/-! # s.ldk (R117) -/

namespace Sys2Proof.Proofs.LaunchConstants

open Sys2Proof Sys2Proof.Machine Sys2Proof.Claims Sys2Proof.Proofs.Issuing

theorem exec_sLdk (w : LdkW) (f : SR) (s : State) : exec (.sLdk w f) s = ok (issue (.sLdk w f) s (loadConst f (constSize w))) := by
  cases w <;> rfl

section
variable {f : SR} {n : Nat} {s : State}

theorem loadConst_misaligned (h : (constOffset s f).toNat % n ≠ 0) :
    loadConst f n s = .trap s { cause := 7, addr := (constOffset s f).toNat } := if_pos h

/-- Where the offset is not negative its sign makes no difference to the end of the load. -/
theorem outside_iff {o : DWord} {k : Nat} : (o.toInt < 0 ∨ k < o.toNat + n) ↔ (o.toInt < 0 ∨ (k : Int) < o.toInt + n) := by
  have := BitVec.toInt_eq_toNat_cond o
  have := o.isLt
  omega

theorem loadConst_outside (ha : (constOffset s f).toNat % n = 0)
    (h : (constOffset s f).toInt < 0 ∨ ((8 * (curLaunch s).d.kwords : Nat) : Int) < (constOffset s f).toInt + n) :
    loadConst f n s = .trap s { cause := 3, detail := 1, addr := (constOffset s f).toNat } :=
  (if_neg (not_not.mpr ha)).trans (if_pos (outside_iff.mpr h))

/-- The bytes of the launch constants that a load reads. -/
def constBytes (s : State) (o n : Nat) : List Byte := ((curLaunch s).consts.drop o).take n

theorem loadConst_inside (ha : (constOffset s f).toNat % n = 0) (h0 : 0 ≤ (constOffset s f).toInt)
    (h : (constOffset s f).toInt + n ≤ ((8 * (curLaunch s).d.kwords : Nat) : Int)) (hb : (curLaunch s).cbad = []) :
    loadConst f n s
      = .done (modCur s (deliverScalar f.sd.toNat (BitVec.ofNat 64 (bytesVal (constBytes s (constOffset s f).toNat n))))) := by
  have hin : ¬ ((constOffset s f).toInt < 0 ∨ ((8 * (curLaunch s).d.kwords : Nat) : Int) < (constOffset s f).toInt + n) := by omega
  refine (if_neg (not_not.mpr ha)).trans ((if_neg fun e => hin (outside_iff.mp e)).trans (if_neg ?_))
  simp [hb]

/-- Bit j of the value: of the constants' bytes from the offset, and 0 past the load's size. -/
theorem getLsbD_constBytes (s : State) (o n : Nat) {j : Nat} (hj : j < 64) :
    (BitVec.ofNat 64 (bytesVal (constBytes s o n))).getLsbD j
      = (decide (j < 8 * n) && ((curLaunch s).consts.getD (o + j / 8) 0).getLsbD (j % 8)) := by
  rw [BitVec.getLsbD_ofNat, ScalarAccesses.testBit_bytesVal, decide_eq_true hj, Bool.true_and]
  unfold constBytes
  by_cases hn : j < 8 * n
  · have hd : j / 8 < n := by omega
    simp [hn, hd]
  · have hd : ¬ j / 8 < n := by omega
    simp [hn, hd]

end

/-- Settles O10: the two traps by the offset, and the bytes that the load delivers. -/
theorem launchConstantLoads : Obligations.LaunchConstantLoads := by
  intro w f s c hi
  refine ⟨fun h => exec_eq_takeTrap hi (exec_sLdk w f s) (loadConst_misaligned h),
    fun ha h => exec_eq_takeTrap hi (exec_sLdk w f s) (loadConst_outside ha h), fun ha h0 h hb hd => ?_⟩
  refine completes_of_done hi (exec_sLdk w f s) (loadConst_inside ha h0 h hb) hd ⟨fun hsd j hj => ?_, fun k hk => ?_, ?_,
    goesOn_advance hi.clause rfl, rfl, fun _ => ⟨rfl, rfl⟩⟩
  · have h63 : f.sd.toNat ≠ 63 := fun e => hsd (BitVec.eq_of_toNat_eq e)
    rw [← getLsbD_constBytes s (constOffset s f).toNat (constSize w) hj]
    exact congrArg (·.getLsbD j) ((sreg_advance _ _).trans ((sreg_deliverScalar_same _ _ s.cur).trans (if_neg h63)))
  · exact (sreg_advance _ _).trans (sreg_deliverScalar_of_ne _ _ s.cur hk)
  · exact (beyondScalars_advance _).trans (beyondScalars_deliverScalar _ _ s.cur)

end Sys2Proof.Proofs.LaunchConstants
